-- ==== Sys2Proof/Word.lean ====
section
/-! DEFINITION. Word types: a 32-bit lane or uniform word, a 64-bit pair or register, a byte (R5, R210). -/

namespace Sys2Proof

/-- A 32-bit lane, uniform register or instruction word. -/
abbrev Word := BitVec 32

/-- A 64-bit pair, address or control register. -/
abbrev DWord := BitVec 64

/-- A byte of memory. -/
abbrev Byte := BitVec 8

end Sys2Proof
end

