-- ==== Sys2Proof/Machine/Fp.lean ====
section
/-! DEFINITION. Number formats and floating-point arithmetic (R164 to R183): every operation computes an exact value
and rounds once. -/

namespace Sys2Proof.Machine

/-- Floating-point formats (R164). -/
inductive Fmt where
  | f32
  | bf16
  | f16
  | e5m2
  | e4m3
  | e2m1
  deriving DecidableEq, Repr

/-- Exponent bits. -/
def Fmt.ew : Fmt → Nat
  | .f32 | .bf16 => 8
  | .f16 | .e5m2 => 5
  | .e4m3 => 4
  | .e2m1 => 2

/-- Fraction bits. -/
def Fmt.fw : Fmt → Nat
  | .f32 => 23
  | .bf16 => 7
  | .f16 => 10
  | .e5m2 => 2
  | .e4m3 => 3
  | .e2m1 => 1

/-- Width in bits. -/
def Fmt.width (f : Fmt) : Nat := 1 + f.ew + f.fw

/-- Exponent bias. -/
def Fmt.bias (f : Fmt) : Nat := 2 ^ (f.ew - 1) - 1

/-- Exponent of the smallest normal. -/
def Fmt.emin (f : Fmt) : Int := 1 - f.bias

/-- Significand and quantum exponent of the largest finite value. -/
def Fmt.top (f : Fmt) : Nat × Int :=
  match f with
  | .e4m3 => (14, 5)
  | .e2m1 => (3, 1)
  | _ => (2 ^ (f.fw + 1) - 1, (f.bias : Int) - f.fw)

/-- The format has infinities. -/
def Fmt.hasInf : Fmt → Bool
  | .e4m3 | .e2m1 => false
  | _ => true

/-- Bits of the largest finite value. -/
def Fmt.topBits (f : Fmt) : Nat :=
  match f with
  | .e4m3 => 0x7E
  | .e2m1 => 7
  | _ => (2 ^ f.ew - 1) * 2 ^ f.fw - 1

/-- Bits of +∞. -/
def Fmt.infBits (f : Fmt) : Nat := (2 ^ f.ew - 1) * 2 ^ f.fw

/-- The sign bit's weight. -/
def Fmt.signBit (f : Fmt) : Nat := 2 ^ (f.width - 1)

/-- The default NaN (R172). -/
def Fmt.defaultNaN (f : Fmt) : Nat :=
  match f with
  | .e4m3 => 0x7F
  | .e2m1 => 0
  | _ => f.infBits + 2 ^ (f.fw - 1)

/-- A decoded value: NaN and whether it signals, infinity, or (−1)^neg · m · 2^e. -/
inductive Fv where
  | nan (signalling : Bool)
  | inf (neg : Bool)
  | fin (neg : Bool) (m : Nat) (e : Int)
  deriving DecidableEq, Repr

/-- The value of a bit pattern (R164). -/
def Fmt.decode (f : Fmt) (x : Nat) : Fv :=
  let neg := x / f.signBit % 2 == 1
  let e := x / 2 ^ f.fw % 2 ^ f.ew
  let m := x % 2 ^ f.fw
  if f.hasInf && e == 2 ^ f.ew - 1 then
    if m == 0 then .inf neg else .nan (m / 2 ^ (f.fw - 1) == 0)
  else if f == .e4m3 && e == 15 && m == 7 then .nan false
  else if e == 0 then .fin neg m (f.emin - f.fw)
  else .fin neg (2 ^ f.fw + m) ((e : Int) - f.bias - f.fw)

/-- A subnormal pattern. -/
def Fmt.isSub (f : Fmt) (x : Nat) : Bool := x / 2 ^ f.fw % 2 ^ f.ew == 0 && x % 2 ^ f.fw != 0

/-- The value of an operand, with subnormals read as zero of their sign under FTZ (R170). -/
def Fmt.operand (f : Fmt) (ftz : Bool) (x : Nat) : Fv :=
  if ftz && f.isSub x then .fin (x / f.signBit % 2 == 1) 0 0 else f.decode x

/-! ## Events (R173) -/

/-- Events in the bits of FLAGS: NV, DZ, OF, UF, NX, SA, NI. -/
abbrev Ev := BitVec 7

/-- Invalid. -/
def evNV : Ev := 1
/-- Exact infinite result from a finite operand. -/
def evDZ : Ev := 2
/-- Overflow. -/
def evOF : Ev := 4
/-- Underflow. -/
def evUF : Ev := 8
/-- Inexact. -/
def evNX : Ev := 16
/-- Clamped. -/
def evSA : Ev := 32
/-- A NaN operand was met. -/
def evNI : Ev := 64

/-- What an operation consults: RND, FTZ and saturation (R168, R232, R233). -/
structure Ctl where
  rnd : Nat
  ftz : Bool
  sat : Bool
  deriving DecidableEq, Repr

/-- Nearest, subnormals kept, no saturation: the MXE and reductions (R169, R170). -/
def Ctl.home : Ctl := ⟨0, false, false⟩

/-! ## Rounding (R169 to R171) -/

/-- A magnitude below one more quantum: the value is m · 2^e, or above it and below (m + 1) · 2^e where `sticky`. -/
structure Ex where
  neg : Bool
  m : Nat
  e : Int
  sticky : Bool
  deriving DecidableEq, Repr

/-- Bits of a number. -/
def bitLen (m : Nat) : Nat := if m = 0 then 0 else Nat.log2 m + 1

/-- Rounds m · 2^e (and above, where sticky) to a multiple of 2^q: the multiple, and whether it is inexact. -/
def roundAt (rnd : Nat) (x : Ex) (q : Int) : Nat × Bool :=
  if q ≤ x.e then (x.m * 2 ^ (x.e - q).toNat + (if x.sticky && ((rnd == 3 && !x.neg) || (rnd == 2 && x.neg)) then 1 else 0), x.sticky)
  else
    let d := (q - x.e).toNat
    let far := bitLen x.m + 1 < d
    let n := if far then 0 else x.m / 2 ^ d
    let r := if far then 1 else x.m % 2 ^ d
    let half := if far then 2 else 2 ^ (d - 1)
    let inexact := x.sticky || (if far then x.m != 0 else r != 0)
    let up :=
      match rnd with
      | 0 => half < r || (r == half && (x.sticky || n % 2 == 1))
      | 1 => false
      | 2 => x.neg && inexact
      | _ => !x.neg && inexact
    (if up then n + 1 else n, inexact)

/-- Bits of a sign. -/
def Fmt.sign (f : Fmt) (neg : Bool) : Nat := if neg then f.signBit else 0

/-- What an overflow delivers (R171). -/
def Fmt.overflow (f : Fmt) (c : Ctl) (neg : Bool) : Nat × Ev :=
  let s := f.sign neg
  if c.sat || f == .e2m1 then (s + f.topBits, evOF ||| evNX ||| evSA)
  else if f == .e4m3 then (s + 0x7F, evOF ||| evNX)
  else
    let toInf := c.rnd == 0 || (c.rnd == 2 && neg) || (c.rnd == 3 && !neg)
    (s + (if toInf then f.infBits else f.topBits), evOF ||| evNX)

/-- Rounds an exact value to a format: the bits and the events (R169 to R171). -/
def Fmt.round (f : Fmt) (c : Ctl) (x : Ex) : Nat × Ev :=
  if x.m = 0 && !x.sticky then (f.sign x.neg, 0)
  else
    let x := if x.m = 0 then { x with m := 1, e := x.e - 64 } else x
    let top := x.e + bitLen x.m - 1
    let (n0, _) := roundAt c.rnd x (top - f.fw)
    let tiny := top < f.emin && !(top = f.emin - 1 && n0 = 2 ^ (f.fw + 1))
    if c.ftz && tiny then (f.sign x.neg, evUF ||| evNX)
    else
      let q := max (top - f.fw) (f.emin - f.fw)
      let (n, inexact) := roundAt c.rnd x q
      let (n, q) := if n = 2 ^ (f.fw + 1) then (2 ^ f.fw, q + 1) else (n, q)
      if f.top.2 < q || (q = f.top.2 && f.top.1 < n) then f.overflow c x.neg
      else
        let bits := if n < 2 ^ f.fw then n else (q + f.fw + f.bias).toNat * 2 ^ f.fw + (n - 2 ^ f.fw)
        (f.sign x.neg + bits, (if inexact then evNX else 0) ||| (if tiny && inexact then evUF else 0))

/-- Rounds to an integer (R176, R246): the magnitude and whether it is inexact. -/
def roundInt (rnd : Nat) (neg : Bool) (m : Nat) (e : Int) : Nat × Bool := roundAt rnd ⟨neg, m, e, false⟩ 0

/-! ## NaN (R172) -/

/-- A NaN pattern with its quiet bit set. -/
def Fmt.quiet (f : Fmt) (x : Nat) : Nat :=
  if f == .e4m3 then x else if x / 2 ^ (f.fw - 1) % 2 == 1 then x else x + 2 ^ (f.fw - 1)

/-- Is NaN; is a signalling NaN. -/
def Fmt.isNaN (f : Fmt) (x : Nat) : Bool := match f.decode x with | .nan _ => true | _ => false
/-- Is a signalling NaN. -/
def Fmt.isSNaN (f : Fmt) (x : Nat) : Bool := match f.decode x with | .nan s => s | _ => false

/-- The events of NaN operands: NI for any, NV for a signalling one. -/
def Fmt.nanEvents (f : Fmt) (xs : List Nat) : Ev :=
  (if xs.any f.isNaN then evNI else 0) ||| (if xs.any f.isSNaN then evNV else 0)

/-- The first NaN operand, quieted. -/
def Fmt.firstNaN (f : Fmt) (xs : List Nat) : Option Nat := (xs.find? f.isNaN).map f.quiet

/-- A NaN of `f` widened to .f32: sign kept, quiet, payload in the high fraction bits. -/
def Fmt.widenNaN (f : Fmt) (x : Nat) : Nat :=
  let neg := x / f.signBit % 2 == 1
  Fmt.f32.quiet (Fmt.f32.sign neg + Fmt.f32.infBits + x % 2 ^ f.fw * 2 ^ (23 - f.fw))

/-- A .f32 NaN narrowed to `f`. -/
def Fmt.narrowNaN (f : Fmt) (x : Nat) : Nat :=
  let s := f.sign (x / 2 ^ 31 % 2 == 1)
  match f with
  | .e4m3 => s + 0x7F
  | .e2m1 => 0
  | _ => s + f.quiet (f.infBits + x % 2 ^ 23 / 2 ^ (23 - f.fw))

/-! ## Exact sums and the arithmetic operations (R236 to R241) -/

/-- A signed term m · 2^e. -/
abbrev Term := Bool × Nat × Int

/-- The exact sum of terms. A zero sum has the sign that all terms share, or the sign of RND (R236). -/
def sumTerms (rnd : Nat) (ts : List Term) : Ex :=
  let e := (ts.map (·.2.2)).foldl min ((ts.map (·.2.2)).headD 0)
  let v : Int := ts.foldl (fun a t =>
    if t.2.1 = 0 then a
    else let w : Int := t.2.1 * 2 ^ (t.2.2 - e).toNat; if t.1 then a - w else a + w) 0
  if v = 0 then
    ⟨if ts.all (·.1) then true else if ts.any (·.1) then rnd == 2 else false, 0, 0, false⟩
  else ⟨decide (v < 0), v.natAbs, e, false⟩

/-- A term whose exponent is only kept where it counts: zeros take exponent 0 so that no sum grows with them. -/
def term (neg : Bool) (m : Nat) (e : Int) (near : Int) : Term := if m = 0 then (neg, 0, near) else (neg, m, e)

/-- The sum of values that may be infinite, or none for ∞ − ∞ or NaN: an infinity, or the exact sum. -/
def sumValues (rnd : Nat) (vs : List Fv) : Option (Sum Bool Ex) :=
  let infs := vs.filterMap fun v => match v with | .inf n => some n | _ => none
  if vs.any (fun v => match v with | .nan _ => true | _ => false) then none
  else if infs.isEmpty then
    let near := (vs.filterMap fun v => match v with | .fin _ m e => if m = 0 then none else some e | _ => none).headD 0
    some (.inr (sumTerms rnd (vs.filterMap fun v => match v with | .fin n m e => some (term n m e near) | _ => none)))
  else if infs.all (· == true) then some (.inl true)
  else if infs.all (· == false) then some (.inl false)
  else none

/-- The product of two values; NaN for 0 × ∞. -/
def mulValue (x y : Fv) : Fv :=
  match x, y with
  | .nan s, _ => .nan s
  | _, .nan s => .nan s
  | .inf a, .inf b => .inf (a != b)
  | .inf a, .fin b m _ => if m = 0 then .nan false else .inf (a != b)
  | .fin a m _, .inf b => if m = 0 then .nan false else .inf (a != b)
  | .fin a m e, .fin b n g => .fin (a != b) (m * n) (e + g)

/-- Rounds the sum of values whose operands are no NaN; an invalid sum gives the default NaN with NV. -/
def Fmt.finish (f : Fmt) (c : Ctl) (vs : List Fv) : Nat × Ev :=
  match sumValues c.rnd vs with
  | none => (f.defaultNaN, evNV)
  | some (.inl neg) => (f.sign neg + f.infBits, 0)
  | some (.inr x) => f.round c x

/-- In a format without infinities nothing is infinite. Addition (R236). -/
def Fmt.add (f : Fmt) (c : Ctl) (a b : Nat) : Nat × Ev :=
  match f.firstNaN [a, b] with
  | some x => (x, f.nanEvents [a, b])
  | none => f.finish c [f.operand c.ftz a, f.operand c.ftz b]

/-- Inverts the sign. -/
def Fmt.negate (f : Fmt) (x : Nat) : Nat := if x / f.signBit % 2 == 1 then x - f.signBit else x + f.signBit

/-- Subtraction (R236). -/
def Fmt.sub (f : Fmt) (c : Ctl) (a b : Nat) : Nat × Ev :=
  match f.firstNaN [a, b] with
  | some x => (x, f.nanEvents [a, b])
  | none => f.add c a (f.negate b)

/-- Multiplication (R236). -/
def Fmt.mul (f : Fmt) (c : Ctl) (a b : Nat) : Nat × Ev :=
  match f.firstNaN [a, b] with
  | some x => (x, f.nanEvents [a, b])
  | none => f.finish c [mulValue (f.operand c.ftz a) (f.operand c.ftz b)]

/-- 0 × ∞ of two operands. -/
def Fmt.zeroInf (f : Fmt) (ftz : Bool) (a b : Nat) : Bool :=
  match f.operand ftz a, f.operand ftz b with
  | .inf _, .fin _ m _ => m == 0
  | .fin _ m _, .inf _ => m == 0
  | _, _ => false

/-- Fused multiply-add (R241): NaN operand order a, b, c; 0 × ∞ sets NV whatever c is. -/
def Fmt.fma (f : Fmt) (c : Ctl) (a b d : Nat) : Nat × Ev :=
  let bad : Ev := if f.zeroInf c.ftz a b then evNV else 0
  match f.firstNaN [a, b, d] with
  | some x => (x, f.nanEvents [a, b, d] ||| bad)
  | none =>
    let r := f.finish c [mulValue (f.operand c.ftz a) (f.operand c.ftz b), f.operand c.ftz d]
    (r.1, r.2 ||| bad)

/-- VDOT2 and VDOT2A (R240): .bf16 products summed with an optional .f32 addend. A NaN operand beside a product 0 × ∞ is
log entry 112. -/
def dot2 (c : Ctl) (alo ahi blo bhi : Nat) (d : Option Nat) : Nat × Ev :=
  let hs := [alo, ahi, blo, bhi]
  let ev := Fmt.bf16.nanEvents hs ||| Fmt.f32.nanEvents d.toList
  let bad : Ev := if Fmt.bf16.zeroInf c.ftz alo blo || Fmt.bf16.zeroInf c.ftz ahi bhi then evNV else 0
  match hs.find? Fmt.bf16.isNaN, d.toList.find? Fmt.f32.isNaN with
  | some x, _ => (Fmt.bf16.widenNaN x, ev ||| bad)
  | none, some x => (Fmt.f32.quiet x, ev ||| bad)
  | none, none =>
    let v := Fmt.bf16.operand c.ftz
    Fmt.f32.finish c ([mulValue (v alo) (v blo), mulValue (v ahi) (v bhi)] ++ d.toList.map (Fmt.f32.operand c.ftz))

/-- Order of two .f32 values that are no NaN, as integers; −0 and +0 are equal. -/
def Fmt.key (f : Fmt) (x : Nat) : Int := if x / f.signBit % 2 == 1 then -(x % f.signBit : Nat) else (x % f.signBit : Nat)

/-- An operand as FTZ makes it. -/
def Fmt.flush (f : Fmt) (ftz : Bool) (x : Nat) : Nat := if ftz && f.isSub x then x / f.signBit * f.signBit else x

/-- The lesser (or greater), with −0 below +0 (R237). -/
def Fmt.pickOf (f : Fmt) (greater : Bool) (a b : Nat) : Nat :=
  let le := f.key a < f.key b || (f.key a == f.key b && f.signBit ≤ a)
  if greater then (if le then b else a) else (if le then a else b)

/-- VFMIN and VFMAX (R237). -/
def Fmt.minmax (f : Fmt) (greater : Bool) (c : Ctl) (a b : Nat) : Nat × Ev :=
  let ev := f.nanEvents [a, b]
  let a' := f.flush c.ftz a
  let b' := f.flush c.ftz b
  if f.isNaN a && f.isNaN b then (f.quiet a, ev)
  else if f.isNaN a then (b', ev)
  else if f.isNaN b then (a', ev)
  else (f.pickOf greater a' b', ev)

/-- VFSCALE (R238): a · 2^b. -/
def fscale (c : Ctl) (a : Nat) (b : Int) : Nat × Ev :=
  match Fmt.f32.operand c.ftz a with
  | .nan s => (Fmt.f32.quiet a, evNI ||| (if s then evNV else 0))
  | .inf neg => (Fmt.f32.sign neg + Fmt.f32.infBits, 0)
  | .fin neg m e => if m = 0 then (Fmt.f32.sign neg, 0) else Fmt.f32.round c ⟨neg, m, e + b, false⟩

/-- Comparisons of VCMP fn 6 to 10 (R258): the truth and the events. -/
def fcmp (fn : Nat) (ftz : Bool) (a b : Nat) : Bool × Ev :=
  let f := Fmt.f32
  let nan := f.isNaN a || f.isNaN b
  let ka := f.key (f.flush ftz a)
  let kb := f.key (f.flush ftz b)
  let quietEv := f.nanEvents [a, b]
  let loudEv : Ev := if nan then evNI ||| evNV else 0
  match fn with
  | 6 => (!nan && ka == kb, quietEv)
  | 7 => (nan || ka != kb, quietEv)
  | 8 => (!nan && ka < kb, loudEv)
  | 9 => (!nan && ka ≤ kb, loudEv)
  | _ => (nan, quietEv)

/-- Rounding to an integral .f32 (R246). -/
def frint (rnd : Nat) (ftz : Bool) (a : Nat) : Nat × Ev :=
  match Fmt.f32.operand ftz a with
  | .nan s => (Fmt.f32.quiet a, evNI ||| (if s then evNV else 0))
  | .inf _ => (a, 0)
  | .fin neg m e =>
    if m == 0 then (Fmt.f32.sign neg, 0)
    else if 0 ≤ e then (a, 0)
    else ((Fmt.f32.round ⟨0, false, false⟩ ⟨neg, (roundInt rnd neg m e).1, 0, false⟩).1, 0)

/-! ## Conversions (R176, R247 to R250) -/

/-- Integer to .f32. -/
def ofInt (c : Ctl) (v : Int) : Nat × Ev := Fmt.f32.round { c with ftz := false, sat := false } ⟨decide (v < 0), v.natAbs, 0, false⟩

/-- .f32 to .i32 or .n32 (R172, R176). -/
def toInt32 (signed : Bool) (rnd : Nat) (ftz : Bool) (a : Nat) : Nat × Ev :=
  let lo : Int := if signed then -2 ^ 31 else 0
  let hi : Int := if signed then 2 ^ 31 - 1 else 2 ^ 32 - 1
  let put : Int → Nat := fun v => (v % 2 ^ 32).toNat
  match Fmt.f32.operand ftz a with
  | .nan _ => (0, evNV ||| evNI)
  | .inf neg => (put (if neg then lo else hi), evNV)
  | .fin neg m e =>
    let (n, inexact) := roundInt rnd neg m e
    let v : Int := if neg then -(n : Int) else n
    if v < lo then (put lo, evNV)
    else if hi < v then (put hi, evNV)
    else (put v, if inexact then evNX else 0)

/-- Widens one element to .f32 exactly (R248). -/
def Fmt.widen (f : Fmt) (ftz : Bool) (x : Nat) : Nat × Ev :=
  match f.operand (ftz && f == .bf16) x with
  | .nan s => (f.widenNaN x, evNI ||| (if s then evNV else 0))
  | .inf neg => (Fmt.f32.sign neg + Fmt.f32.infBits, 0)
  | .fin neg m e => ((Fmt.f32.round Ctl.home ⟨neg, m, e, false⟩).1, 0)

/-- Narrows a .f32 (R176, R249); `x` is its value where it is not the word's own (R177). -/
def Fmt.narrowValue (f : Fmt) (c : Ctl) (a : Nat) (x : Fv) : Nat × Ev :=
  match x with
  | .nan s =>
    if f == .e2m1 then (0, evNV ||| evNI) else (f.narrowNaN a, evNI ||| (if s then evNV else 0))
  | .inf neg =>
    if c.sat || f == .e2m1 then (f.sign neg + f.topBits, evSA)
    else if f == .e4m3 then (0x7F, evNV)
    else (f.sign neg + f.infBits, 0)
  | .fin neg m e => f.round { c with ftz := c.ftz && (f == .bf16 || f == .f16) } ⟨neg, m, e, false⟩

/-- Narrows a .f32 under MODE. -/
def Fmt.narrow (f : Fmt) (c : Ctl) (a : Nat) : Nat × Ev := f.narrowValue c a (Fmt.f32.operand c.ftz a)

/-- VUNPACK (R250): an element times its .e8m0 scale; the events of scale 0xFF are log entry 113. -/
def Fmt.unpack (f : Fmt) (c : Ctl) (x s : Nat) : Nat × Ev :=
  if s == 0xFF then (Fmt.f32.defaultNaN, evNV)
  else match f.decode x with
    | .nan sg => (f.widenNaN x, evNI ||| (if sg then evNV else 0))
    | .inf neg => if c.sat then (Fmt.f32.sign neg + Fmt.f32.topBits, evSA) else (Fmt.f32.sign neg + Fmt.f32.infBits, 0)
    | .fin neg m e => Fmt.f32.round c ⟨neg, m, e + s - 127, false⟩

/-- VFCLASS (R245): the bit of the class. -/
def Fmt.classify (f : Fmt) (x : Nat) : Nat :=
  match f.decode x with
  | .nan true => 2 ^ 8
  | .nan false => 2 ^ 9
  | .inf true => 1
  | .inf false => 2 ^ 7
  | .fin neg m _ =>
    if m = 0 then (if neg then 2 ^ 3 else 2 ^ 4)
    else if f.isSub x then (if neg then 2 ^ 2 else 2 ^ 5)
    else (if neg then 2 else 2 ^ 6)

/-! ## Special functions (R181, R244) -/

/-- Fraction bits of the fixed-point work (log entry 20). -/
def fixW : Nat := 640

/-- One in fixed point. -/
def fixOne : Nat := 2 ^ fixW

/-- Σ z^k / k! over fixed-point z, by terms. -/
def expSeries (z : Nat) : Nat → Nat → Nat → Nat
  | 0, _, _ => 0
  | f + 1, k, t => t + expSeries z f (k + 1) (t * z / fixOne / (k + 1))

/-- Σ z^(2k+1) / (2k+1), z2 = z². -/
def atanhSeries (z2 : Nat) : Nat → Nat → Nat → Nat
  | 0, _, _ => 0
  | f + 1, k, t => t / (2 * k + 1) + atanhSeries z2 f (k + 1) (t * z2 / fixOne)

/-- Σ (−1)^k z^(2k+1) / (2k+1) for z = 1 / d. -/
def atanSeries (d : Nat) : Nat → Nat → Nat → Int
  | 0, _, _ => 0
  | f + 1, k, t => (if k % 2 = 0 then (1 : Int) else -1) * ((t / (2 * k + 1) : Nat) : Int) + atanSeries d f (k + 1) (t / (d * d))

/-- ln 2. -/
def fixLn2 : Nat := 2 * atanhSeries (fixOne / 9) 220 0 (fixOne / 3)

/-- π, by Machin's formula. -/
def fixPi : Nat := (16 * atanSeries 5 150 0 (fixOne / 5) - 4 * atanSeries 239 50 0 (fixOne / 239)).toNat

/-- Σ (−1)^k z^(2k+s) / (2k+s)!: sine (s = 1) or cosine (s = 0). -/
def sincosSeries (z2 : Nat) : Nat → Nat → Nat → Int
  | 0, _, _ => 0
  | f + 1, n, t => (t : Int) - sincosSeries z2 f (n + 2) (t * z2 / fixOne / ((n + 1) * (n + 2)))

/-- sin(π r) and cos(π r) for fixed-point r in [0, 1/2]. -/
def fixSin (r : Nat) : Nat := let z := r * fixPi / fixOne; (sincosSeries (z * z / fixOne) 80 1 z).toNat
/-- cos(π r). -/
def fixCos (r : Nat) : Nat := let z := r * fixPi / fixOne; (sincosSeries (z * z / fixOne) 80 0 fixOne).toNat

/-- 2^r for fixed-point r in [0, 1). -/
def fixExp2 (r : Nat) : Nat := expSeries (r * fixLn2 / fixOne) 160 0 fixOne

/-- log2 of fixed-point x in [1, 2). -/
def fixLog2 (x : Nat) : Nat :=
  let z := (x - fixOne) * fixOne / (x + fixOne)
  2 * atanhSeries (z * z / fixOne) 220 0 z * fixOne / fixLn2

/-- A fixed-point result that is not exact, without its last bits. -/
def ofFix (neg : Bool) (v : Nat) (e : Int) : Ex := ⟨neg, v / 2 ^ 32, e - fixW + 32, true⟩

/-- m · 2^e as fixed point, for e ≥ −fixW. -/
def toFix (m : Nat) (e : Int) : Nat := if 0 ≤ e then m * 2 ^ e.toNat * fixOne else m * 2 ^ (fixW + e).toNat

/-- The special functions. -/
inductive Sfn where
  | rcp
  | rsq
  | sqrt
  | exp2
  | log2
  | sinpi
  | cospi
  | tanh
  deriving DecidableEq, Repr

/-- ±1. -/
def exOne (neg : Bool) : Ex := ⟨neg, 1, 0, false⟩

/-- sin(π x) or cos(π x) of a positive non-integer, non-half x = m · 2^e with e < 0, by octant: the sign and value. -/
def trigPi (cosine : Bool) (m : Nat) (e : Int) : Ex :=
  let x := toFix m e % (2 * fixOne)
  let h := fixOne / 2
  let q := x / h
  let r := x % h
  let useCos := (q % 2 == 1) != cosine
  let neg := if cosine then q == 1 || q == 2 else 2 ≤ q
  ofFix neg (if useCos then fixCos r else fixSin r) 0

/-- 2^x for x = ±m · 2^e, not an integer. -/
def exp2Ex (neg : Bool) (m : Nat) (e : Int) : Ex :=
  if 0 < e + bitLen m && 12 < e + bitLen m then ⟨false, 1, if neg then -5000 else 5000, true⟩
  else
    let v := toFix m e
    let n := v / fixOne
    let r := v % fixOne
    if neg then ofFix false (fixExp2 (fixOne - r)) (-(n : Int) - 1) else ofFix false (fixExp2 r) n

/-- tanh of x = m · 2^e > 0. -/
def tanhEx (m : Nat) (e : Int) : Ex :=
  if 5 < e + bitLen m then ⟨false, fixOne - 1, -(fixW : Int), true⟩
  else
    let t := 2 * toFix m e * fixOne / fixLn2
    let u := fixExp2 (fixOne - t % fixOne) / 2 ^ (t / fixOne + 1)
    ofFix false ((fixOne - u) * fixOne / (fixOne + u)) 0

/-- A special function of a finite value other than its table's cases (R181): the exact value. -/
def Sfn.exact (g : Sfn) (neg : Bool) (m : Nat) (e : Int) : Ex :=
  match g with
  | .rcp => let n := 2 ^ (bitLen m + 64); ⟨neg, n / m, -(bitLen m + 64 : Nat) - e, n % m != 0⟩
  | .sqrt =>
    let k : Nat := 64 + (if (e + 64) % 2 = 0 then 0 else 1)
    let n := m * 2 ^ k
    let r := Nat.sqrt n
    ⟨false, r, (e - k) / 2, r * r != n⟩
  | .rsq =>
    let odd := e % 2 != 0
    let k : Nat := 2 * (bitLen m + 64)
    let n := 2 ^ (if odd then k + 1 else k)
    let r := Nat.sqrt (n / m)
    ⟨false, r, -(bitLen m + 64 : Nat) - (if odd then (e + 1) / 2 else e / 2), r * r * m != n⟩
  | .exp2 =>
    let whole := 0 ≤ e || m % 2 ^ (-e).toNat == 0
    if whole && e + bitLen m ≤ 12 then
      let n := if 0 ≤ e then m * 2 ^ e.toNat else m / 2 ^ (-e).toNat
      ⟨false, 1, if neg then -(n : Int) else n, false⟩
    else exp2Ex neg m e
  | .log2 =>
    let l := bitLen m - 1
    let n : Int := e + l
    if m == 2 ^ l then ⟨decide (n < 0), n.natAbs, 0, false⟩
    else
      let f := fixLog2 (m * fixOne / 2 ^ l)
      if 0 ≤ n then ofFix false (n.toNat * fixOne + f) 0 else ofFix true (n.natAbs * fixOne - f) 0
  | .sinpi =>
    if 0 ≤ e then ⟨neg, 0, 0, false⟩
    else
      let d := 2 ^ (-e).toNat
      if m % d == 0 then ⟨neg, 0, 0, false⟩
      else if 2 * m % d == 0 then exOne (neg != (2 * m / d % 4 == 3))
      else let x := trigPi false m e; { x with neg := x.neg != neg }
  | .cospi =>
    if 0 ≤ e then exOne (m * 2 ^ e.toNat % 2 == 1)
    else
      let d := 2 ^ (-e).toNat
      if m % d == 0 then exOne (m / d % 2 == 1)
      else if 2 * m % d == 0 then ⟨false, 0, 0, false⟩
      else trigPi true m e
  | .tanh => { tanhEx m e with neg := neg }

/-- A special function of a .f32 (R181): special cases, then the exact result rounded once. -/
def Sfn.apply (g : Sfn) (c : Ctl) (a : Nat) : Nat × Ev :=
  let f := Fmt.f32
  let inf := fun neg : Bool => f.sign neg + f.infBits
  match f.operand c.ftz a with
  | .nan s => (f.quiet a, evNI ||| (if s then evNV else 0))
  | .inf neg =>
    match g with
    | .rcp => (f.sign neg, 0)
    | .rsq => if neg then (f.defaultNaN, evNV) else (0, 0)
    | .sqrt | .log2 => if neg then (f.defaultNaN, evNV) else (inf false, 0)
    | .exp2 => if neg then (0, 0) else (inf false, 0)
    | .sinpi | .cospi => (f.defaultNaN, evNV)
    | .tanh => (f.sign neg + 0x3F800000, 0)
  | .fin neg m e =>
    if m = 0 then
      match g with
      | .rcp | .rsq => (inf neg, evDZ)
      | .sqrt | .sinpi | .tanh => (f.sign neg, 0)
      | .exp2 | .cospi => (0x3F800000, 0)
      | .log2 => (inf true, evDZ)
    else if neg && (g == .rsq || g == .sqrt || g == .log2) then (f.defaultNaN, evNV)
    else f.round c (g.exact neg m e)

/-! ## Reductions at a home (R183) -/

/-- A sequence-indexed or atomic add: one rounding to nearest, default NaN. -/
def Fmt.homeAdd (f : Fmt) (a b : Nat) : Nat :=
  if f.isNaN a || f.isNaN b then f.defaultNaN else (f.add Ctl.home a b).1

/-- A windowed minimum or maximum: NaN contributions are ignored. -/
def Fmt.homePick (f : Fmt) (greater : Bool) (a b : Nat) : Nat :=
  if f.isNaN a && f.isNaN b then f.defaultNaN
  else if f.isNaN a then b
  else if f.isNaN b then a
  else f.pickOf greater a b

/-! ## Shared block scales (R177) -/

/-- The exponent at which a format's largest binade starts. -/
def Fmt.emax : Fmt → Int
  | .e2m1 => 2
  | .e4m3 => 8
  | _ => 15

/-- The shared scale of a block of .f32 elements. -/
def Fmt.blockScale (f : Fmt) (xs : List Nat) : Nat :=
  let vs := xs.map Fmt.f32.decode
  if vs.any fun v => match v with | .fin _ _ _ => false | _ => true then 0xFF
  else
    let tops := vs.filterMap fun v => match v with
      | .fin _ m e => if m = 0 then none else some (e + bitLen m - 1)
      | _ => none
    match tops with
    | [] => 0x7F
    | t :: r => (max 0 (min 254 (r.foldl max t - f.emax + 127))).toNat

/-- One element of a block converted with the block's scale, with saturation. -/
def Fmt.blockElem (f : Fmt) (rnd : Nat) (scale a : Nat) : Nat × Ev :=
  let v := match Fmt.f32.decode a with
    | .fin n m e => .fin n m (e - scale + 127)
    | v => v
  f.narrowValue ⟨rnd, false, true⟩ a v

end Sys2Proof.Machine
end

