-- ==== Sys2Proof/Syntax.lean ====
section
/-! DEFINITION. The instructions and operations of the Caeryen 7100: one constructor per row of
spec/opcode_table.json, those with operand fields first, as the entries print them (R210 to R227). An operation of
one of the device's other agents has no operand field of its own: what it acts on stands in State.arg (structure
Arg). -/

namespace Sys2Proof

/-- What firmware puts in place at boot: the units fenced (R20), the module's identity (R33), the dump region
(R208) and the BAR2 size (R50). -/
structure BootImage where
  /-- in-service mask of the 64 quads of each die, CD0 first (R23) -/
  quads : List (BitVec 64)
  /-- in-service mask of the 16 ports of each die, CD0 first (R23) -/
  ports : List (BitVec 16)
  /-- channels in service per stack (R20) -/
  channels : Nat
  /-- product revision code (R22) -/
  modrev : BitVec 8
  /-- module number (R33) -/
  modnum : BitVec 8
  /-- the module is the domain's tick master (R33) -/
  master : Bool
  /-- device physical address and size of the dump region (R208) -/
  dumpBase : Nat
  dumpSize : Nat
  /-- BAR2 size in effect, in bytes (R47, R50) -/
  bar2Size : Nat
  /-- XOFF and XON of the virtual channels, where they are not 128 and 64 (R29) -/
  xoff : List (Nat × Nat)
  xon : List (Nat × Nat)
  /-- flits of receive buffer given to the virtual channels, where not 256 (R29) -/
  sizes : List (Nat × Nat)
  /-- boot values of windows, WINBASE and WINCTL, and of DBAR (R46) -/
  windows : List (Nat × BitVec 64 × BitVec 64)
  dbars : List (Nat × BitVec 64)
  deriving DecidableEq, Repr

/-- A message of the Twiette fabric (R35): header fields and the data bytes in address order. For RED and REDB
`idx` holds the sequence indices and `data` the elements one after the other (R36). -/
structure Msg where
  op : BitVec 8
  dmod : BitVec 8
  smod : BitVec 8
  sdie : BitVec 2
  /-- data bytes, 1 to 256 -/
  bytes : Nat
  status : BitVec 4
  tag : BitVec 24
  aop : BitVec 8
  addr : BitVec 56
  idx : List (BitVec 20)
  data : List (BitVec 8)
  deriving DecidableEq, Repr

/-- No message. -/
def Msg.none : Msg where
  op := 0
  dmod := 0
  smod := 0
  sdie := 0
  bytes := 0
  status := 0
  tag := 0
  aop := 0
  addr := 0
  idx := []
  data := []

/-- What the operation of another agent acts on: numbers (a port, queue, window, context, grid, gang, workgroup,
strand or operation), a register value, bytes, a list of numbers, a message, a yes or no. The meaning of each
operation says which of them it reads. -/
structure Arg where
  a : Nat := 0
  b : Nat := 0
  c : Nat := 0
  v : BitVec 64 := 0
  bytes : List (BitVec 8) := []
  nats : List Nat := []
  msg : Msg := Msg.none
  ok : Bool := false
  deriving DecidableEq, Repr

/-- One constructor per row of spec/opcode_table.json. -/
inductive Instr where
  | vadd (vd va vb : BitVec 6) (ra rb : BitVec 2)
  | vsub (vd va vb : BitVec 6) (ra rb : BitVec 2)
  | vmul (vd va vb : BitVec 6) (ra rb : BitVec 2)
  | vmulhI32 (vd va vb : BitVec 6) (ra rb : BitVec 2)
  | vmulhN32 (vd va vb : BitVec 6) (ra rb : BitVec 2)
  | vminI32 (vd va vb : BitVec 6) (ra rb : BitVec 2)
  | vminN32 (vd va vb : BitVec 6) (ra rb : BitVec 2)
  | vmaxI32 (vd va vb : BitVec 6) (ra rb : BitVec 2)
  | vmaxN32 (vd va vb : BitVec 6) (ra rb : BitVec 2)
  | vand (vd va vb : BitVec 6) (ra rb : BitVec 2)
  | vor (vd va vb : BitVec 6) (ra rb : BitVec 2)
  | vxor (vd va vb : BitVec 6) (ra rb : BitVec 2)
  | vandn (vd va vb : BitVec 6) (ra rb : BitVec 2)
  | vshl (vd va vb : BitVec 6) (ra rb : BitVec 2)
  | vshr (vd va vb : BitVec 6) (ra rb : BitVec 2)
  | vsar (vd va vb : BitVec 6) (ra rb : BitVec 2)
  | vrotl (vd va vb : BitVec 6) (ra rb : BitVec 2)
  | vaddsI32 (vd va vb : BitVec 6) (ra rb : BitVec 2)
  | vsubsI32 (vd va vb : BitVec 6) (ra rb : BitVec 2)
  | vabsdN32 (vd va vb : BitVec 6) (ra rb : BitVec 2)
  | vmov (vd va : BitVec 6) (ra : BitVec 2)
  | vfaddF32 (vd va vb : BitVec 6) (ra rb : BitVec 2)
  | vfsubF32 (vd va vb : BitVec 6) (ra rb : BitVec 2)
  | vfmulF32 (vd va vb : BitVec 6) (ra rb : BitVec 2)
  | vfminF32 (vd va vb : BitVec 6) (ra rb : BitVec 2)
  | vfmaxF32 (vd va vb : BitVec 6) (ra rb : BitVec 2)
  | vfscaleF32 (vd va vb : BitVec 6) (ra rb : BitVec 2)
  | vfaddBf16x2 (vd va vb : BitVec 6) (ra rb : BitVec 2)
  | vfmulBf16x2 (vd va vb : BitVec 6) (ra rb : BitVec 2)
  | vfaddF16x2 (vd va vb : BitVec 6) (ra rb : BitVec 2)
  | vfmulF16x2 (vd va vb : BitVec 6) (ra rb : BitVec 2)
  | vfaddE4m3x4 (vd va vb : BitVec 6) (ra rb : BitVec 2)
  | vfmulE4m3x4 (vd va vb : BitVec 6) (ra rb : BitVec 2)
  | vfaddE5m2x4 (vd va vb : BitVec 6) (ra rb : BitVec 2)
  | vfmulE5m2x4 (vd va vb : BitVec 6) (ra rb : BitVec 2)
  | vdot4I8 (vd va vb : BitVec 6) (ra rb : BitVec 2)
  | vdot2Bf16 (vd va vb : BitVec 6) (ra rb : BitVec 2)
  | vshflIdx (x : BitVec 22)
  | vshflUp (x : BitVec 22)
  | vshflDn (x : BitVec 22)
  | vshflXor (x : BitVec 22)
  | vaddi (vd va : BitVec 6) (ra : BitVec 2) (imm : BitVec 10)
  | vsubri (vd va : BitVec 6) (ra : BitVec 2) (imm : BitVec 10)
  | vmuli (vd va : BitVec 6) (ra : BitVec 2) (imm : BitVec 10)
  | vandi (vd va : BitVec 6) (ra : BitVec 2) (imm : BitVec 10)
  | vori (vd va : BitVec 6) (ra : BitVec 2) (imm : BitVec 10)
  | vxori (vd va : BitVec 6) (ra : BitVec 2) (imm : BitVec 10)
  | vshli (vd va : BitVec 6) (ra : BitVec 2) (imm : BitVec 10)
  | vshri (vd va : BitVec 6) (ra : BitVec 2) (imm : BitVec 10)
  | vsari (vd va : BitVec 6) (ra : BitVec 2) (imm : BitVec 10)
  | vminiI32 (vd va : BitVec 6) (ra : BitVec 2) (imm : BitVec 10)
  | vmaxiI32 (vd va : BitVec 6) (ra : BitVec 2) (imm : BitVec 10)
  | vmovi (vd : BitVec 6) (imm : BitVec 10)
  | vmad (vd va vb vc : BitVec 5) (ra rb : BitVec 2) (rc : BitVec 1)
  | vfmaF32 (vd va vb vc : BitVec 5) (ra rb : BitVec 2) (rc : BitVec 1)
  | vfmaBf16x2 (vd va vb vc : BitVec 5) (ra rb : BitVec 2) (rc : BitVec 1)
  | vfmaF16x2 (vd va vb vc : BitVec 5) (ra rb : BitVec 2) (rc : BitVec 1)
  | vdot4aI8 (vd va vb vc : BitVec 5) (ra rb : BitVec 2) (rc : BitVec 1)
  | vdot2aBf16 (vd va vb vc : BitVec 5) (ra rb : BitVec 2) (rc : BitVec 1)
  | vbfi (vd va vb vc : BitVec 5) (ra rb : BitVec 2) (rc : BitVec 1)
  | vld (vd va : BitVec 6) (k sz : BitVec 3) (off : BitVec 6)
  | vst (vs va : BitVec 6) (k sz : BitVec 3) (off : BitVec 6)
  | vldc (vd va : BitVec 6) (k sz : BitVec 3) (off : BitVec 6)
  | vpref (hint va : BitVec 6) (k : BitVec 3) (off : BitVec 6)
  | vcmp (d a b : BitVec 6) (fn : BitVec 4)
  | vsel (d a b : BitVec 6) (k : BitVec 3)
  | vvote (d a : BitVec 6) (fn : BitVec 4)
  | vscan (d a : BitVec 6) (fn : BitVec 4)
  | vred (d a : BitVec 6) (fn : BitVec 4)
  | vmatch (d a : BitVec 6) (fn : BitVec 4)
  | vcompact (d a b : BitVec 6) (fn : BitVec 4)
  | vform (d a : BitVec 6) (fn : BitVec 4)
  | vstride (d a : BitVec 6)
  | vindex (d : BitVec 6) (fn : BitVec 4)
  | vpopc (d a : BitVec 6)
  | vclz (d a : BitVec 6)
  | vbrev (d a : BitVec 6)
  | vbfe (d a b : BitVec 6) (sgn : BitVec 1)
  | vfrcpF32 (d a : BitVec 6)
  | vfrsqF32 (d a : BitVec 6)
  | vfsqrtF32 (d a : BitVec 6)
  | vfexp2F32 (d a : BitVec 6)
  | vflog2F32 (d a : BitVec 6)
  | vfsinpiF32 (d a : BitVec 6)
  | vfcospiF32 (d a : BitVec 6)
  | vftanhF32 (d a : BitVec 6)
  | vfclass (d a : BitVec 6) (fn : BitVec 4)
  | vunary (d a : BitVec 6) (fn : BitVec 4)
  | vcvt (d a : BitVec 6) (fn : BitVec 4)
  | vcvtb (d a : BitVec 6) (fn : BitVec 4)
  | vpack (d a b : BitVec 6) (fn : BitVec 4)
  | vunpack (d a b : BitVec 6) (fn : BitVec 4)
  | vkmov (d a b : BitVec 6) (fn : BitVec 4)
  | vbr (k tag : BitVec 3) (off : BitVec 18)
  | vbrn (k tag : BitVec 3) (off : BitVec 18)
  | vjoin (tag : BitVec 3) (live : BitVec 8)
  | vreform (tag : BitVec 3) (live : BitVec 8)
  | vcall (off : BitVec 18)
  | vcallr (va : BitVec 6)
  | vswitch (tag : BitVec 3) (va : BitVec 6) (cases : List (BitVec 32))
  | vmovl (vd : BitVec 6) (imm : BitVec 32)
  | vatom (vd va vb : BitVec 6) (aop : BitVec 5) (w nr : BitVec 1) (vc : BitVec 6) (disp : BitVec 16)
  | vcopy (vd va vb : BitVec 6) (logsz : BitVec 3)
  | vldg (vd va vb : BitVec 6) (sz : BitVec 3) (scale : BitVec 2) (ahead : BitVec 1) (tag : BitVec 3) (win : BitVec 4) (disp : BitVec 16)
  | sadd (sd sa sb : BitVec 6)
  | ssub (sd sa sb : BitVec 6)
  | smul (sd sa sb : BitVec 6)
  | smulhI32 (sd sa sb : BitVec 6)
  | smulhN32 (sd sa sb : BitVec 6)
  | sminI32 (sd sa sb : BitVec 6)
  | sminN32 (sd sa sb : BitVec 6)
  | smaxI32 (sd sa sb : BitVec 6)
  | smaxN32 (sd sa sb : BitVec 6)
  | sand (sd sa sb : BitVec 6)
  | sor (sd sa sb : BitVec 6)
  | sxor (sd sa sb : BitVec 6)
  | sshl (sd sa sb : BitVec 6)
  | sshr (sd sa sb : BitVec 6)
  | ssar (sd sa sb : BitVec 6)
  | scmp (sd sa sb : BitVec 6) (fn : BitVec 4)
  | ssel (sd sa sb : BitVec 6)
  | smov (sd sa : BitVec 6)
  | spopc (sd sa : BitVec 6)
  | sclz (sd sa : BitVec 6)
  | sdivN32 (sd sa sb : BitVec 6)
  | sremN32 (sd sa sb : BitVec 6)
  | sdivI32 (sd sa sb : BitVec 6)
  | sremI32 (sd sa sb : BitVec 6)
  | sfadd (sd sa sb : BitVec 6)
  | sfmul (sd sa sb : BitVec 6)
  | sffma (sd sa sb : BitVec 6)
  | sfcmp (sd sa sb : BitVec 6) (fn : BitVec 4)
  | scvt (sd sa sb : BitVec 6) (fn : BitVec 4)
  | sadd64 (sd sa sb : BitVec 6)
  | ssub64 (sd sa sb : BitVec 6)
  | smulw (sd sa sb : BitVec 6)
  | saddi (sd sa : BitVec 6) (imm : BitVec 12)
  | smuli (sd sa : BitVec 6) (imm : BitVec 12)
  | sandi (sd sa : BitVec 6) (imm : BitVec 12)
  | sori (sd sa : BitVec 6) (imm : BitVec 12)
  | sxori (sd sa : BitVec 6) (imm : BitVec 12)
  | sshli (sd sa : BitVec 6) (imm : BitVec 12)
  | sshri (sd sa : BitVec 6) (imm : BitVec 12)
  | ssari (sd sa : BitVec 6) (imm : BitVec 12)
  | sltiI32 (sd sa : BitVec 6) (imm : BitVec 12)
  | sltiN32 (sd sa : BitVec 6) (imm : BitVec 12)
  | seqi (sd sa : BitVec 6) (imm : BitVec 12)
  | sadd64i (sd sa : BitVec 6) (imm : BitVec 12)
  | smovi (sd : BitVec 6) (imm : BitVec 18)
  | shii (sd : BitVec 6) (imm : BitVec 18)
  | saddpc (sd : BitVec 6) (imm : BitVec 18)
  | route (sd : BitVec 6) (slot kind : BitVec 2) (fill dyn : BitVec 1) (param : BitVec 6)
  | part (tile : BitVec 3)
  | mode (mask value : BitVec 8)
  | acq (sd : BitVec 6) (wait : BitVec 1) (m : BitVec 4)
  | rel (m : BitVec 4)
  | sld (sd sa : BitVec 6) (sz : BitVec 3) (off : BitVec 9)
  | sst (ss sa : BitVec 6) (sz : BitVec 3) (off : BitVec 9)
  | sldc (sd sa : BitVec 6) (sz : BitVec 3) (off : BitVec 9)
  | jmp (off : BitVec 24)
  | brz (sa : BitVec 6) (off : BitVec 18)
  | brnz (sa : BitVec 6) (off : BitVec 18)
  | call (off : BitVec 24)
  | callr (sa : BitVec 6)
  | nop (code : BitVec 16)
  | trap (code : BitVec 16)
  | brk (code : BitVec 16)
  | tcopy (sa sb sc : BitVec 6)
  | tcopyx (sa sb sc : BitVec 6) (e1 e0 ss1 e2 row0 ss2 : BitVec 16) (m2 m1 m0 : BitVec 10)
  | mcopy (sa sb sc : BitVec 6)
  | bcopy (sa sb sc : BitVec 6) (nkey rowb : BitVec 16) (creg nreg : BitVec 6)
  | chain (sa sb sc : BitVec 6) (ops : BitVec 32) (kb : BitVec 6) (ot it : BitVec 2)
  | bseal (t : BitVec 3)
  | bwait (t : BitVec 3)
  | awinit (sa sb : BitVec 6)
  | await (sa sb sc : BitVec 6)
  | obres (sa sb sc : BitVec 6) (h : BitVec 4) (kind : BitVec 2) (fmt : BitVec 3) (lb : BitVec 2) (split layout : BitVec 1) (ns : BitVec 2)
  | obrel (sa : BitVec 6)
  | crew (sa : BitVec 6)
  | mma (sa : BitVec 6) (ha hb hc : BitVec 4)
  | mmaRs (sa sb sc : BitVec 6) (ha hb hc : BitVec 4) (sel : BitVec 1) (rsel : BitVec 8)
  | mmaSs (sa sb sc : BitVec 6) (ha hb hc : BitVec 4)
  | mmas (sa sb : BitVec 6) (ha hb hc : BitVec 4)
  | mman (sa sb sc : BitVec 6) (form : BitVec 1) (ha hb hc : BitVec 4) (sel : BitVec 1) (rsel : BitVec 8)
  | salient (sa : BitVec 6) (ha hb hc : BitVec 4)
  | accrd (sa sb sc : BitVec 6)
  | accz (sa : BitVec 6)
  | capb (sa sb sc : BitVec 6)
  | satom (sa sb sc : BitVec 6) (aop : BitVec 5) (w nr : BitVec 1) (cmp : BitVec 6) (disp : BitVec 16)
  | redw (sa sb sc : BitVec 6) (ty : BitVec 4) (op : BitVec 3) (x : BitVec 1)
  | poolp (sa sb sc : BitVec 6)
  | poold (sa sb sc : BitVec 6)
  | launch (sa sc : BitVec 6)
  | bara (level : BitVec 3) (b : BitVec 4)
  | barw (level : BitVec 3) (b : BitVec 4)
  | bars (level : BitVec 3) (b : BitVec 4)
  | fence (kind : BitVec 2) (scope : BitVec 3)
  | csrr (sd : BitVec 6) (num : BitVec 12)
  | csrw (sa : BitVec 6) (num : BitVec 12)
  | tick (sd : BitVec 6)
  | sleep (sa : BitVec 6)
  | tmarm (sa : BitVec 6)
  | trace (sa sb : BitVec 6) (code : BitVec 10)
  | moduleReset
  | firmwareBoot
  | throttleEvaluation
  | thermalTrip
  | moduleFatalEvent
  | patrolScrub
  | tickAlignment
  | ticksyncPeriod
  | ticksync
  | stoptickWrite
  | stopOnTick
  | flitTransmit
  | flitReceive
  | ackStallTimeout
  | linkRetrainComplete
  | portBringUp
  | read
  | write
  | atomic
  | respdata
  | respack
  | resperr
  | red
  | redb
  | retry
  | retryResend
  | barrier
  | remoteTimeout
  | windowTimeout
  | winbaseWrite
  | winctlWrite
  | dbarWrite
  | bar0RegisterWrite
  | createContext
  | destroyContext
  | bindQueue
  | attestationReport
  | readDumpDescriptor
  | firmwareUpdate
  | reclaimCodeHeap
  | mailboxCommandComplete
  | mailboxDataWrite
  | barwinWrite
  | bar2Access
  | qctlWrite
  | qprodWrite
  | launchRecord
  | signal
  | signalCompletion
  | isync
  | isyncInvalidate
  | vorxusTranslation
  | translationCommit
  | gangPlacement
  | headWaitExpiry
  | gangHalt
  | saveComplete
  | gangRestore
  | overflowStrandExchange
  | workgroupDrainComplete
  | expansionCursorAdvance
  | joinWaitTimeout
  | faultReplay
  | pageWalkComplete
  | translationOverflowReplay
  | pageRequestResponse
  | fsrdoneWrite
  | faultServiceTimeout
  | homeWriteApply
  | writeVisibility
  | memoryOperationComplete
  | vcopyCompletion
  | copyRowCompletion
  | awaitDeadline
  | waitTimeout
  | emulationCommit
  | timerExpiry
  | sleepExpiry
  | chunkCommit
  | replayIndexWrite
  | clauseFetch
  | acqGrant
  | acqWaitTimeout
  | runAheadSplit
  | mxeRequestAccept
  | mxePassGrant
  | mxePassComplete
  | assayInstall
  | vexpand
  | vret
  | vexit
  | ret
  | exit
  | yield
  | eret
  | capeStep
  | capeEnd
  | succ
  | waitpred
  | stallAccountClock
  | fsrconsWrite
  | atsTranslationCompletion
  | rejectedRecord
  | unknownOp
  | railOutOfRegulation
  deriving DecidableEq, Repr

/-- An operation of another agent that is to act, with what it acts on. -/
structure Event where
  op : Instr
  arg : Arg
  deriving DecidableEq, Repr

end Sys2Proof
end

