-- ==== Sys2Proof/WellFormed.lean ====
section
/-! DEFINITION. The operand limits that decode checks beyond the fixed bits of a word: register alignment (R213,
R214), field values an entry does not list, immediates outside an entry's range (R225). An instruction that breaks
one raises illegal instruction (R188 item 2). -/

namespace Sys2Proof

/-- An even register: the low half of a pair (R213). -/
def evenReg (r : BitVec 6) : Bool := r.toNat % 2 == 0

/-- A mask register that is written: k1 to k7 (R257). -/
def kDst (r : BitVec 6) : Bool := r.toNat != 0 && r.toNat < 8

/-- A mask register that is read: k0 to k7 (R257). -/
def kSrc (r : BitVec 6) : Bool := r.toNat < 8

/-- The destination alignment of a sized load (R213): b64 even, b128 a multiple of 4, size code 7 reserved. -/
def sizedReg (sz : BitVec 3) (r : BitVec 6) : Bool :=
  match sz.toNat with
  | 5 => r.toNat % 2 == 0
  | 6 => r.toNat % 4 == 0
  | 7 => false
  | _ => true

/-- Size codes a store accepts (R282, R337). -/
def storeSize (sz : BitVec 3) : Bool := sz != 1 && sz != 3 && sz != 7

/-- A substitution marker of TCOPYX (R297): valid with field 0 to 5, or all zero. -/
def markerOk (m : BitVec 10) : Bool :=
  if m.getLsbD 9 then (m.extractLsb' 6 3).toNat < 6 else m == 0

/-- Two markers that name one field (R297). -/
def markersClash (m n : BitVec 10) : Bool :=
  m.getLsbD 9 && n.getLsbD 9 && m.extractLsb' 6 3 == n.extractLsb' 6 3

/-- Operation code of step `j` of a CHAIN word (R300). -/
def chainCode (ops : BitVec 32) (j : Nat) : Nat := ops.toNat / 16 ^ j % 16

/-- The CHAIN operation word (R300): codes 0 to 11, only zeros after END, constants within s0 to s63. -/
def chainOk (ops : BitVec 32) (kb : BitVec 6) : Bool :=
  (List.range 8).all fun j =>
    let c := chainCode ops j
    c < 12 && (c == 0 || (List.range j).all fun i => chainCode ops i != 0) &&
      (!(1 ≤ c && c ≤ 4) || kb.toNat + j ≤ 63)

/-- The inline word of OBRES (R313). -/
def obresOk (sc : BitVec 6) (kind : BitVec 2) (fmt : BitVec 3) (lb : BitVec 2) (split layout : BitVec 1)
    (ns : BitVec 2) : Bool :=
  let c := kind == 2
  let scaled := fmt.toNat < 3
  ((fmt.toNat ≥ 6) == c) && (lb == 0 || (scaled && !c)) && (split == 0 || kind == 1) &&
    (layout == 0 || c) && (ns == 0 || kind == 3) && ns != 3 && (sc == 0 || (scaled && !c))

/-- Atomic operation limits (R288). -/
def atomOk (aop : BitVec 5) (w : BitVec 1) : Bool :=
  aop.toNat ≤ 12 && (w == 0 || aop.toNat ≤ 9)

/-- The control-register numbers of the map of R350. -/
def csrMapped (n : Nat) : Bool :=
  n ≤ 3 || (8 ≤ n && n ≤ 0xE) || (0x11 ≤ n && n ≤ 0x13) || (0x20 ≤ n && n ≤ 0x24) ||
  (0x33 ≤ n && n ≤ 0x37) || (0x3B ≤ n && n ≤ 0x3F) || (0x40 ≤ n && n ≤ 0x42) ||
  (0x80 ≤ n && n ≤ 0x82) || (0x84 ≤ n && n ≤ 0x8B) || n == 0x90 || (0x98 ≤ n && n ≤ 0xAF) ||
  (0xC0 ≤ n && n ≤ 0xCF) || (0x100 ≤ n && n ≤ 0x13F) || (0x200 ≤ n && n ≤ 0x27F) ||
  (0x400 ≤ n && n ≤ 0x7FF)

/-- The limits on an instruction's operands. -/
def Instr.wf : Instr → Bool
  | .vshli _ _ _ i | .vshri _ _ _ i | .vsari _ _ _ i => i.toNat < 32
  | .vld vd va _ sz _ | .vldc vd va _ sz _ => evenReg va && sizedReg sz vd
  | .vst vs va _ sz _ => evenReg va && storeSize sz && sizedReg sz vs
  | .vpref h va _ _ => h.toNat ≤ 2 && evenReg va
  | .vcmp d _ _ f => kDst d && f.toNat ≤ 10
  | .vvote d a f => kDst d && f.toNat ≤ 2 && (f == 2 || kSrc a)
  | .vscan _ _ f => f.toNat ≤ 12
  | .vred _ _ f => f.toNat ≤ 10
  | .vmatch d _ f => f == 0 || (f == 1 && kDst d)
  | .vcompact _ _ b f => kSrc b && f.toNat ≤ 1
  | .vform _ a f => f.toNat ≤ 3 && (f == 0 || a == 0)
  | .vindex _ f => f.toNat ≤ 3
  | .vfclass _ _ f => f.toNat ≤ 4
  | .vunary _ _ f => f.toNat ≤ 8
  | .vcvt _ _ f => f.toNat ≤ 5
  | .vpack _ _ _ f => f.toNat % 8 ≤ 4
  | .vkmov d a b f =>
    match f.toNat with
    | 0 => kSrc a && b == 0
    | 1 => kDst d && b == 0
    | 2 | 3 | 4 | 5 => kDst d && kSrc a && kSrc b
    | 6 | 7 => kDst d && kSrc a && b == 0
    | _ => false
  | .vcallr va => evenReg va
  | .vswitch _ _ cs => 1 ≤ cs.length && cs.length ≤ 16
  | .vatom vd va vb aop w nr vc _ =>
    evenReg va && atomOk aop w && (nr == 0 || vd == 0) && (aop == 9 || vc == 0) &&
      (w == 0 || (evenReg vd && evenReg vb && evenReg vc))
  | .vcopy vd va _ l => evenReg vd && evenReg va && l.toNat ≤ 5
  | .vldg vd va _ sz _ ah tag win _ =>
    evenReg va && sizedReg sz vd && (if ah == 0 then tag == 0 && win == 0 else win != 0)
  | .scmp _ _ _ f => f.toNat ≤ 5
  | .sfcmp _ _ _ f => f.toNat ≤ 4
  | .scvt _ _ sb f => sb == 0 && f.toNat ≤ 5
  | .sadd64 sd sa sb | .ssub64 sd sa sb => evenReg sd && evenReg sa && evenReg sb
  | .smulw sd _ _ => evenReg sd
  | .sshli _ _ i | .sshri _ _ i | .ssari _ _ i => i.toNat < 32
  | .sadd64i sd sa _ => evenReg sd && evenReg sa
  | .saddpc sd _ => evenReg sd
  | .route sd slot kind _ dyn param =>
    slot != 0 && (if dyn == 0 then sd == 0 else param == 0 && kind != 3) && (kind == 3 || param.toNat < 32)
  | .part t => 1 ≤ t.toNat && t.toNat ≤ 5
  | .mode m _ => !m.getLsbD 3
  | .acq _ _ m => 1 ≤ m.toNat && m.toNat ≤ 8
  | .rel m => 1 ≤ m.toNat && m.toNat ≤ 8
  | .sld sd sa sz _ | .sldc sd sa sz _ => evenReg sa && sizedReg sz sd
  | .sst ss sa sz _ => evenReg sa && storeSize sz && sizedReg sz ss
  | .callr sa => evenReg sa
  | .nop c => c == 0 || (0x1001 ≤ c.toNat && c.toNat ≤ 0x1007)
  | .tcopy sa sb sc => evenReg sa && sb.toNat ≤ 61 && sc.toNat ≤ 58
  | .tcopyx sa sb _ _ _ _ _ _ _ m2 m1 m0 =>
    evenReg sa && sb.toNat ≤ 61 && markerOk m2 && markerOk m1 && markerOk m0 &&
      !markersClash m2 m1 && !markersClash m2 m0 && !markersClash m1 m0
  | .mcopy sa _ sc => evenReg sa && sc.toNat ≤ 61
  | .bcopy sa sb sc nkey rowb creg _ =>
    evenReg sa && evenReg sb && evenReg sc && evenReg creg && rowb.toNat % 4 == 0 && 4 ≤ rowb.toNat &&
      rowb.toNat ≤ 4096 && 1 ≤ nkey.toNat && nkey.toNat ≤ 4096
  | .chain sa sb sc ops kb ot it =>
    evenReg sa && evenReg sb && evenReg sc && it.toNat ≤ 1 && ot.toNat ≤ 1 && chainOk ops kb
  | .awinit sa _ => evenReg sa
  | .await sa _ _ => evenReg sa
  | .obres _ _ sc _ kind fmt lb split layout ns => obresOk sc kind fmt lb split layout ns
  | .crew sa => evenReg sa
  | .mmaRs _ sb sc _ _ _ _ _ => sb.toNat ≤ 60 && sc.toNat ≤ 60
  | .mmaSs _ sb _ _ _ _ => evenReg sb
  | .mmas _ sb _ _ _ => evenReg sb
  | .mman _ sb sc form _ _ _ sel rsel =>
    if form == 0 then sb == 0 && sc == 0 && sel == 0 && rsel == 0 else sb.toNat ≤ 60 && sc.toNat ≤ 60
  | .accrd _ _ sc => sc.toNat % 8 == 0
  | .capb sa sb sc => evenReg sa && evenReg sb && evenReg sc
  | .satom sa sb sc aop w nr cmp _ =>
    evenReg sa && atomOk aop w && (nr == 0 || sc == 0) && (aop == 9 || cmp == 0) &&
      (w == 0 || (evenReg sb && evenReg sc && evenReg cmp))
  | .redw sa sb sc ty op x =>
    evenReg sa && ty.toNat ≤ 4 && op.toNat ≤ 5 && (op.toNat < 3 || 2 ≤ ty.toNat) && (x == 1 || sc == 0) &&
      (ty.toNat != 4 || evenReg sb)
  | .poolp sa sb _ | .poold sa sb _ => evenReg sa && sb.toNat % 8 == 0
  | .launch sa _ => evenReg sa
  | .bara l _ | .barw l _ | .bars l _ => l.toNat ≤ 5
  | .fence k sc => k != 0 && sc.toNat ≤ 6
  | .csrr sd n => evenReg sd && csrMapped n.toNat
  | .csrw sa n => evenReg sa && csrMapped n.toNat
  | .tick sd => evenReg sd
  | .trace sa sb _ => evenReg sa && evenReg sb
  | _ => true

end Sys2Proof
end

