-- ==== Sys2Proof/Decode.lean ====
section
/-! DEFINITION. The decoder (R210 to R214, R220 to R224), total on any words and any bytes, and the encoder, both
written from the format pictures and the opcode map. A word that is no instruction decodes to none, which raises
illegal instruction (R225); operand limits beyond the fixed bits are Instr.wf's. -/

namespace Sys2Proof

/-- The LR class (R211, R214, R223, R224): bits 31:28 are 0. -/
def decodeLR (w : Word) : Option Instr :=
  match (w.extractLsb' 22 6).toNat with
  | 0 =>
    some (.vadd (w.extractLsb' 16 6) (w.extractLsb' 10 6) (w.extractLsb' 4 6) (w.extractLsb' 2 2)
      (w.extractLsb' 0 2))
  | 1 =>
    some (.vsub (w.extractLsb' 16 6) (w.extractLsb' 10 6) (w.extractLsb' 4 6) (w.extractLsb' 2 2)
      (w.extractLsb' 0 2))
  | 2 =>
    some (.vmul (w.extractLsb' 16 6) (w.extractLsb' 10 6) (w.extractLsb' 4 6) (w.extractLsb' 2 2)
      (w.extractLsb' 0 2))
  | 3 =>
    some (.vmulhI32 (w.extractLsb' 16 6) (w.extractLsb' 10 6) (w.extractLsb' 4 6) (w.extractLsb' 2 2)
      (w.extractLsb' 0 2))
  | 4 =>
    some (.vmulhN32 (w.extractLsb' 16 6) (w.extractLsb' 10 6) (w.extractLsb' 4 6) (w.extractLsb' 2 2)
      (w.extractLsb' 0 2))
  | 5 =>
    some (.vminI32 (w.extractLsb' 16 6) (w.extractLsb' 10 6) (w.extractLsb' 4 6) (w.extractLsb' 2 2)
      (w.extractLsb' 0 2))
  | 6 =>
    some (.vminN32 (w.extractLsb' 16 6) (w.extractLsb' 10 6) (w.extractLsb' 4 6) (w.extractLsb' 2 2)
      (w.extractLsb' 0 2))
  | 7 =>
    some (.vmaxI32 (w.extractLsb' 16 6) (w.extractLsb' 10 6) (w.extractLsb' 4 6) (w.extractLsb' 2 2)
      (w.extractLsb' 0 2))
  | 8 =>
    some (.vmaxN32 (w.extractLsb' 16 6) (w.extractLsb' 10 6) (w.extractLsb' 4 6) (w.extractLsb' 2 2)
      (w.extractLsb' 0 2))
  | 9 =>
    some (.vand (w.extractLsb' 16 6) (w.extractLsb' 10 6) (w.extractLsb' 4 6) (w.extractLsb' 2 2)
      (w.extractLsb' 0 2))
  | 10 =>
    some (.vor (w.extractLsb' 16 6) (w.extractLsb' 10 6) (w.extractLsb' 4 6) (w.extractLsb' 2 2) (w.extractLsb'
      0 2))
  | 11 =>
    some (.vxor (w.extractLsb' 16 6) (w.extractLsb' 10 6) (w.extractLsb' 4 6) (w.extractLsb' 2 2)
      (w.extractLsb' 0 2))
  | 12 =>
    some (.vandn (w.extractLsb' 16 6) (w.extractLsb' 10 6) (w.extractLsb' 4 6) (w.extractLsb' 2 2)
      (w.extractLsb' 0 2))
  | 13 =>
    some (.vshl (w.extractLsb' 16 6) (w.extractLsb' 10 6) (w.extractLsb' 4 6) (w.extractLsb' 2 2)
      (w.extractLsb' 0 2))
  | 14 =>
    some (.vshr (w.extractLsb' 16 6) (w.extractLsb' 10 6) (w.extractLsb' 4 6) (w.extractLsb' 2 2)
      (w.extractLsb' 0 2))
  | 15 =>
    some (.vsar (w.extractLsb' 16 6) (w.extractLsb' 10 6) (w.extractLsb' 4 6) (w.extractLsb' 2 2)
      (w.extractLsb' 0 2))
  | 16 =>
    some (.vrotl (w.extractLsb' 16 6) (w.extractLsb' 10 6) (w.extractLsb' 4 6) (w.extractLsb' 2 2)
      (w.extractLsb' 0 2))
  | 17 =>
    some (.vaddsI32 (w.extractLsb' 16 6) (w.extractLsb' 10 6) (w.extractLsb' 4 6) (w.extractLsb' 2 2)
      (w.extractLsb' 0 2))
  | 18 =>
    some (.vsubsI32 (w.extractLsb' 16 6) (w.extractLsb' 10 6) (w.extractLsb' 4 6) (w.extractLsb' 2 2)
      (w.extractLsb' 0 2))
  | 19 =>
    some (.vabsdN32 (w.extractLsb' 16 6) (w.extractLsb' 10 6) (w.extractLsb' 4 6) (w.extractLsb' 2 2)
      (w.extractLsb' 0 2))
  | 20 =>
    if w.extractLsb' 4 6 = 0 ∧ w.extractLsb' 0 2 = 0 then some (.vmov (w.extractLsb' 16 6) (w.extractLsb' 10 6)
      (w.extractLsb' 2 2)) else none
  | 21 =>
    some (.vfaddF32 (w.extractLsb' 16 6) (w.extractLsb' 10 6) (w.extractLsb' 4 6) (w.extractLsb' 2 2)
      (w.extractLsb' 0 2))
  | 22 =>
    some (.vfsubF32 (w.extractLsb' 16 6) (w.extractLsb' 10 6) (w.extractLsb' 4 6) (w.extractLsb' 2 2)
      (w.extractLsb' 0 2))
  | 23 =>
    some (.vfmulF32 (w.extractLsb' 16 6) (w.extractLsb' 10 6) (w.extractLsb' 4 6) (w.extractLsb' 2 2)
      (w.extractLsb' 0 2))
  | 24 =>
    some (.vfminF32 (w.extractLsb' 16 6) (w.extractLsb' 10 6) (w.extractLsb' 4 6) (w.extractLsb' 2 2)
      (w.extractLsb' 0 2))
  | 25 =>
    some (.vfmaxF32 (w.extractLsb' 16 6) (w.extractLsb' 10 6) (w.extractLsb' 4 6) (w.extractLsb' 2 2)
      (w.extractLsb' 0 2))
  | 26 =>
    some (.vfscaleF32 (w.extractLsb' 16 6) (w.extractLsb' 10 6) (w.extractLsb' 4 6) (w.extractLsb' 2 2)
      (w.extractLsb' 0 2))
  | 27 =>
    some (.vfaddBf16x2 (w.extractLsb' 16 6) (w.extractLsb' 10 6) (w.extractLsb' 4 6) (w.extractLsb' 2 2)
      (w.extractLsb' 0 2))
  | 28 =>
    some (.vfmulBf16x2 (w.extractLsb' 16 6) (w.extractLsb' 10 6) (w.extractLsb' 4 6) (w.extractLsb' 2 2)
      (w.extractLsb' 0 2))
  | 29 =>
    some (.vfaddF16x2 (w.extractLsb' 16 6) (w.extractLsb' 10 6) (w.extractLsb' 4 6) (w.extractLsb' 2 2)
      (w.extractLsb' 0 2))
  | 30 =>
    some (.vfmulF16x2 (w.extractLsb' 16 6) (w.extractLsb' 10 6) (w.extractLsb' 4 6) (w.extractLsb' 2 2)
      (w.extractLsb' 0 2))
  | 31 =>
    some (.vfaddE4m3x4 (w.extractLsb' 16 6) (w.extractLsb' 10 6) (w.extractLsb' 4 6) (w.extractLsb' 2 2)
      (w.extractLsb' 0 2))
  | 32 =>
    some (.vfmulE4m3x4 (w.extractLsb' 16 6) (w.extractLsb' 10 6) (w.extractLsb' 4 6) (w.extractLsb' 2 2)
      (w.extractLsb' 0 2))
  | 33 =>
    some (.vfaddE5m2x4 (w.extractLsb' 16 6) (w.extractLsb' 10 6) (w.extractLsb' 4 6) (w.extractLsb' 2 2)
      (w.extractLsb' 0 2))
  | 34 =>
    some (.vfmulE5m2x4 (w.extractLsb' 16 6) (w.extractLsb' 10 6) (w.extractLsb' 4 6) (w.extractLsb' 2 2)
      (w.extractLsb' 0 2))
  | 35 =>
    some (.vdot4I8 (w.extractLsb' 16 6) (w.extractLsb' 10 6) (w.extractLsb' 4 6) (w.extractLsb' 2 2)
      (w.extractLsb' 0 2))
  | 36 =>
    some (.vdot2Bf16 (w.extractLsb' 16 6) (w.extractLsb' 10 6) (w.extractLsb' 4 6) (w.extractLsb' 2 2)
      (w.extractLsb' 0 2))
  | 48 =>
    some (.vshflIdx (w.extractLsb' 0 22))
  | 49 =>
    some (.vshflUp (w.extractLsb' 0 22))
  | 50 =>
    some (.vshflDn (w.extractLsb' 0 22))
  | 51 =>
    some (.vshflXor (w.extractLsb' 0 22))
  | _ => none

/-- The LI class (R211, R214, R223, R224): bits 31:28 are 1. -/
def decodeLI (w : Word) : Option Instr :=
  match (w.extractLsb' 24 4).toNat with
  | 0 =>
    some (.vaddi (w.extractLsb' 18 6) (w.extractLsb' 12 6) (w.extractLsb' 10 2) (w.extractLsb' 0 10))
  | 1 =>
    some (.vsubri (w.extractLsb' 18 6) (w.extractLsb' 12 6) (w.extractLsb' 10 2) (w.extractLsb' 0 10))
  | 2 =>
    some (.vmuli (w.extractLsb' 18 6) (w.extractLsb' 12 6) (w.extractLsb' 10 2) (w.extractLsb' 0 10))
  | 3 =>
    some (.vandi (w.extractLsb' 18 6) (w.extractLsb' 12 6) (w.extractLsb' 10 2) (w.extractLsb' 0 10))
  | 4 =>
    some (.vori (w.extractLsb' 18 6) (w.extractLsb' 12 6) (w.extractLsb' 10 2) (w.extractLsb' 0 10))
  | 5 =>
    some (.vxori (w.extractLsb' 18 6) (w.extractLsb' 12 6) (w.extractLsb' 10 2) (w.extractLsb' 0 10))
  | 6 =>
    some (.vshli (w.extractLsb' 18 6) (w.extractLsb' 12 6) (w.extractLsb' 10 2) (w.extractLsb' 0 10))
  | 7 =>
    some (.vshri (w.extractLsb' 18 6) (w.extractLsb' 12 6) (w.extractLsb' 10 2) (w.extractLsb' 0 10))
  | 8 =>
    some (.vsari (w.extractLsb' 18 6) (w.extractLsb' 12 6) (w.extractLsb' 10 2) (w.extractLsb' 0 10))
  | 9 =>
    some (.vminiI32 (w.extractLsb' 18 6) (w.extractLsb' 12 6) (w.extractLsb' 10 2) (w.extractLsb' 0 10))
  | 10 =>
    some (.vmaxiI32 (w.extractLsb' 18 6) (w.extractLsb' 12 6) (w.extractLsb' 10 2) (w.extractLsb' 0 10))
  | 11 =>
    if w.extractLsb' 12 6 = 0 ∧ w.extractLsb' 10 2 = 0 then some (.vmovi (w.extractLsb' 18 6) (w.extractLsb' 0
      10)) else none
  | _ => none

/-- The LT class (R211, R214, R223, R224): bits 31:28 are 2. -/
def decodeLT (w : Word) : Option Instr :=
  match (w.extractLsb' 25 3).toNat with
  | 0 =>
    some (.vmad (w.extractLsb' 20 5) (w.extractLsb' 15 5) (w.extractLsb' 10 5) (w.extractLsb' 5 5)
      (w.extractLsb' 3 2) (w.extractLsb' 1 2) (w.extractLsb' 0 1))
  | 1 =>
    some (.vfmaF32 (w.extractLsb' 20 5) (w.extractLsb' 15 5) (w.extractLsb' 10 5) (w.extractLsb' 5 5)
      (w.extractLsb' 3 2) (w.extractLsb' 1 2) (w.extractLsb' 0 1))
  | 2 =>
    some (.vfmaBf16x2 (w.extractLsb' 20 5) (w.extractLsb' 15 5) (w.extractLsb' 10 5) (w.extractLsb' 5 5)
      (w.extractLsb' 3 2) (w.extractLsb' 1 2) (w.extractLsb' 0 1))
  | 3 =>
    some (.vfmaF16x2 (w.extractLsb' 20 5) (w.extractLsb' 15 5) (w.extractLsb' 10 5) (w.extractLsb' 5 5)
      (w.extractLsb' 3 2) (w.extractLsb' 1 2) (w.extractLsb' 0 1))
  | 4 =>
    some (.vdot4aI8 (w.extractLsb' 20 5) (w.extractLsb' 15 5) (w.extractLsb' 10 5) (w.extractLsb' 5 5)
      (w.extractLsb' 3 2) (w.extractLsb' 1 2) (w.extractLsb' 0 1))
  | 5 =>
    some (.vdot2aBf16 (w.extractLsb' 20 5) (w.extractLsb' 15 5) (w.extractLsb' 10 5) (w.extractLsb' 5 5)
      (w.extractLsb' 3 2) (w.extractLsb' 1 2) (w.extractLsb' 0 1))
  | 6 =>
    some (.vbfi (w.extractLsb' 20 5) (w.extractLsb' 15 5) (w.extractLsb' 10 5) (w.extractLsb' 5 5)
      (w.extractLsb' 3 2) (w.extractLsb' 1 2) (w.extractLsb' 0 1))
  | _ => none

/-- The LM class (R211, R214, R223, R224): bits 31:28 are 3. -/
def decodeLM (w : Word) : Option Instr :=
  match (w.extractLsb' 24 4).toNat with
  | 0 =>
    some (.vld (w.extractLsb' 18 6) (w.extractLsb' 12 6) (w.extractLsb' 9 3) (w.extractLsb' 6 3) (w.extractLsb'
      0 6))
  | 1 =>
    some (.vst (w.extractLsb' 18 6) (w.extractLsb' 12 6) (w.extractLsb' 9 3) (w.extractLsb' 6 3) (w.extractLsb'
      0 6))
  | 2 =>
    some (.vldc (w.extractLsb' 18 6) (w.extractLsb' 12 6) (w.extractLsb' 9 3) (w.extractLsb' 6 3)
      (w.extractLsb' 0 6))
  | 3 =>
    if w.extractLsb' 6 3 = 4 then some (.vpref (w.extractLsb' 18 6) (w.extractLsb' 12 6) (w.extractLsb' 9 3)
      (w.extractLsb' 0 6)) else none
  | _ => none

/-- The LX class (R211, R214, R223, R224): bits 31:28 are 4. -/
def decodeLX (w : Word) : Option Instr :=
  match (w.extractLsb' 22 6).toNat with
  | 0 =>
    some (.vcmp (w.extractLsb' 16 6) (w.extractLsb' 10 6) (w.extractLsb' 4 6) (w.extractLsb' 0 4))
  | 1 =>
    if w.extractLsb' 3 1 = 0 then some (.vsel (w.extractLsb' 16 6) (w.extractLsb' 10 6) (w.extractLsb' 4 6)
      (w.extractLsb' 0 3)) else none
  | 2 =>
    if w.extractLsb' 4 6 = 0 then some (.vvote (w.extractLsb' 16 6) (w.extractLsb' 10 6) (w.extractLsb' 0 4))
      else none
  | 3 =>
    if w.extractLsb' 4 6 = 0 then some (.vscan (w.extractLsb' 16 6) (w.extractLsb' 10 6) (w.extractLsb' 0 4))
      else none
  | 4 =>
    if w.extractLsb' 4 6 = 0 then some (.vred (w.extractLsb' 16 6) (w.extractLsb' 10 6) (w.extractLsb' 0 4))
      else none
  | 5 =>
    if w.extractLsb' 4 6 = 0 then some (.vmatch (w.extractLsb' 16 6) (w.extractLsb' 10 6) (w.extractLsb' 0 4))
      else none
  | 6 =>
    some (.vcompact (w.extractLsb' 16 6) (w.extractLsb' 10 6) (w.extractLsb' 4 6) (w.extractLsb' 0 4))
  | 7 =>
    if w.extractLsb' 4 6 = 0 then some (.vform (w.extractLsb' 16 6) (w.extractLsb' 10 6) (w.extractLsb' 0 4))
      else none
  | 8 =>
    if w.extractLsb' 4 6 = 0 ∧ w.extractLsb' 0 4 = 0 then some (.vstride (w.extractLsb' 16 6) (w.extractLsb' 10
      6)) else none
  | 9 =>
    if w.extractLsb' 16 6 = 0 ∧ w.extractLsb' 10 6 = 0 ∧ w.extractLsb' 4 6 = 0 ∧ w.extractLsb' 0 4 = 0 then
      some (.vexpand) else none
  | 10 =>
    if w.extractLsb' 10 6 = 0 ∧ w.extractLsb' 4 6 = 0 then some (.vindex (w.extractLsb' 16 6) (w.extractLsb' 0
      4)) else none
  | 11 =>
    if w.extractLsb' 4 6 = 0 ∧ w.extractLsb' 0 4 = 0 then some (.vpopc (w.extractLsb' 16 6) (w.extractLsb' 10
      6)) else none
  | 12 =>
    if w.extractLsb' 4 6 = 0 ∧ w.extractLsb' 0 4 = 0 then some (.vclz (w.extractLsb' 16 6) (w.extractLsb' 10
      6)) else none
  | 13 =>
    if w.extractLsb' 4 6 = 0 ∧ w.extractLsb' 0 4 = 0 then some (.vbrev (w.extractLsb' 16 6) (w.extractLsb' 10
      6)) else none
  | 14 =>
    if w.extractLsb' 1 3 = 0 then some (.vbfe (w.extractLsb' 16 6) (w.extractLsb' 10 6) (w.extractLsb' 4 6)
      (w.extractLsb' 0 1)) else none
  | 15 =>
    if w.extractLsb' 4 6 = 0 ∧ w.extractLsb' 0 4 = 0 then some (.vfrcpF32 (w.extractLsb' 16 6) (w.extractLsb'
      10 6)) else none
  | 16 =>
    if w.extractLsb' 4 6 = 0 ∧ w.extractLsb' 0 4 = 0 then some (.vfrsqF32 (w.extractLsb' 16 6) (w.extractLsb'
      10 6)) else none
  | 17 =>
    if w.extractLsb' 4 6 = 0 ∧ w.extractLsb' 0 4 = 0 then some (.vfsqrtF32 (w.extractLsb' 16 6) (w.extractLsb'
      10 6)) else none
  | 18 =>
    if w.extractLsb' 4 6 = 0 ∧ w.extractLsb' 0 4 = 0 then some (.vfexp2F32 (w.extractLsb' 16 6) (w.extractLsb'
      10 6)) else none
  | 19 =>
    if w.extractLsb' 4 6 = 0 ∧ w.extractLsb' 0 4 = 0 then some (.vflog2F32 (w.extractLsb' 16 6) (w.extractLsb'
      10 6)) else none
  | 20 =>
    if w.extractLsb' 4 6 = 0 ∧ w.extractLsb' 0 4 = 0 then some (.vfsinpiF32 (w.extractLsb' 16 6) (w.extractLsb'
      10 6)) else none
  | 21 =>
    if w.extractLsb' 4 6 = 0 ∧ w.extractLsb' 0 4 = 0 then some (.vfcospiF32 (w.extractLsb' 16 6) (w.extractLsb'
      10 6)) else none
  | 22 =>
    if w.extractLsb' 4 6 = 0 ∧ w.extractLsb' 0 4 = 0 then some (.vftanhF32 (w.extractLsb' 16 6) (w.extractLsb'
      10 6)) else none
  | 23 =>
    if w.extractLsb' 4 6 = 0 then some (.vfclass (w.extractLsb' 16 6) (w.extractLsb' 10 6) (w.extractLsb' 0 4))
      else none
  | 24 =>
    if w.extractLsb' 4 6 = 0 then some (.vunary (w.extractLsb' 16 6) (w.extractLsb' 10 6) (w.extractLsb' 0 4))
      else none
  | 25 =>
    if w.extractLsb' 4 6 = 0 then some (.vcvt (w.extractLsb' 16 6) (w.extractLsb' 10 6) (w.extractLsb' 0 4))
      else none
  | 26 =>
    if w.extractLsb' 4 6 = 0 then some (.vcvtb (w.extractLsb' 16 6) (w.extractLsb' 10 6) (w.extractLsb' 0 4))
      else none
  | 27 =>
    some (.vpack (w.extractLsb' 16 6) (w.extractLsb' 10 6) (w.extractLsb' 4 6) (w.extractLsb' 0 4))
  | 28 =>
    some (.vunpack (w.extractLsb' 16 6) (w.extractLsb' 10 6) (w.extractLsb' 4 6) (w.extractLsb' 0 4))
  | 29 =>
    some (.vkmov (w.extractLsb' 16 6) (w.extractLsb' 10 6) (w.extractLsb' 4 6) (w.extractLsb' 0 4))
  | _ => none

/-- The LB class (R211, R214, R223, R224): bits 31:28 are 5. -/
def decodeLB (w : Word) (inl : List Word) : Option Instr :=
  match (w.extractLsb' 24 4).toNat with
  | 0 =>
    some (.vbr (w.extractLsb' 21 3) (w.extractLsb' 18 3) (w.extractLsb' 0 18))
  | 1 =>
    some (.vbrn (w.extractLsb' 21 3) (w.extractLsb' 18 3) (w.extractLsb' 0 18))
  | 2 =>
    if w.extractLsb' 0 13 = 0 then some (.vjoin (w.extractLsb' 21 3) (w.extractLsb' 13 8)) else none
  | 3 =>
    if w.extractLsb' 0 13 = 0 then some (.vreform (w.extractLsb' 21 3) (w.extractLsb' 13 8)) else none
  | 4 =>
    if w.extractLsb' 18 6 = 0 then some (.vcall (w.extractLsb' 0 18)) else none
  | 5 =>
    if w.extractLsb' 0 18 = 0 then some (.vcallr (w.extractLsb' 18 6)) else none
  | 6 =>
    if w.extractLsb' 0 24 = 0 then some (.vret) else none
  | 7 =>
    if w.extractLsb' 0 24 = 0 then some (.vexit) else none
  | 8 =>
    let n := (w.extractLsb' 8 4).toNat + 1
    if w.extractLsb' 18 3 = 0 ∧ w.extractLsb' 0 8 = 0 ∧ n ≤ inl.length then
      some (.vswitch (w.extractLsb' 21 3) (w.extractLsb' 12 6) (inl.take n))
    else none
  | _ => none

/-- The LE class (R211, R214, R223, R224): bits 31:28 are 6. -/
def decodeLE (w : Word) (inl : List Word) : Option Instr :=
  match (w.extractLsb' 22 6).toNat with
  | 0 =>
    match inl with
    | x0 :: _ =>
      if w.extractLsb' 10 6 = 0 ∧ w.extractLsb' 4 6 = 0 ∧ w.extractLsb' 0 4 = 1 then some (.vmovl
        (w.extractLsb' 16 6) x0) else none
    | _ => none
  | 1 =>
    match inl with
    | x0 :: _ =>
      if w.extractLsb' 0 4 = 1 ∧ x0.extractLsb' 22 3 = 0 then some (.vatom (w.extractLsb' 16 6) (w.extractLsb'
        10 6) (w.extractLsb' 4 6) (x0.extractLsb' 27 5) (x0.extractLsb' 26 1) (x0.extractLsb' 25 1)
        (x0.extractLsb' 16 6) (x0.extractLsb' 0 16)) else none
    | _ => none
  | 2 =>
    match inl with
    | x0 :: _ =>
      if w.extractLsb' 0 4 = 1 ∧ x0.extractLsb' 3 29 = 0 then some (.vcopy (w.extractLsb' 16 6) (w.extractLsb'
        10 6) (w.extractLsb' 4 6) (x0.extractLsb' 0 3)) else none
    | _ => none
  | 3 =>
    match inl with
    | x0 :: _ =>
      if w.extractLsb' 0 4 = 1 ∧ x0.extractLsb' 29 3 = 0 then some (.vldg (w.extractLsb' 16 6) (w.extractLsb'
        10 6) (w.extractLsb' 4 6) (x0.extractLsb' 26 3) (x0.extractLsb' 24 2) (x0.extractLsb' 23 1)
        (x0.extractLsb' 20 3) (x0.extractLsb' 16 4) (x0.extractLsb' 0 16)) else none
    | _ => none
  | _ => none

/-- The UR class (R211, R214, R223, R224): bits 31:28 are 8. -/
def decodeUR (w : Word) : Option Instr :=
  match (w.extractLsb' 22 6).toNat with
  | 0 =>
    if w.extractLsb' 0 4 = 0 then some (.sadd (w.extractLsb' 16 6) (w.extractLsb' 10 6) (w.extractLsb' 4 6))
      else none
  | 1 =>
    if w.extractLsb' 0 4 = 0 then some (.ssub (w.extractLsb' 16 6) (w.extractLsb' 10 6) (w.extractLsb' 4 6))
      else none
  | 2 =>
    if w.extractLsb' 0 4 = 0 then some (.smul (w.extractLsb' 16 6) (w.extractLsb' 10 6) (w.extractLsb' 4 6))
      else none
  | 3 =>
    if w.extractLsb' 0 4 = 0 then some (.smulhI32 (w.extractLsb' 16 6) (w.extractLsb' 10 6) (w.extractLsb' 4
      6)) else none
  | 4 =>
    if w.extractLsb' 0 4 = 0 then some (.smulhN32 (w.extractLsb' 16 6) (w.extractLsb' 10 6) (w.extractLsb' 4
      6)) else none
  | 5 =>
    if w.extractLsb' 0 4 = 0 then some (.sminI32 (w.extractLsb' 16 6) (w.extractLsb' 10 6) (w.extractLsb' 4 6))
      else none
  | 6 =>
    if w.extractLsb' 0 4 = 0 then some (.sminN32 (w.extractLsb' 16 6) (w.extractLsb' 10 6) (w.extractLsb' 4 6))
      else none
  | 7 =>
    if w.extractLsb' 0 4 = 0 then some (.smaxI32 (w.extractLsb' 16 6) (w.extractLsb' 10 6) (w.extractLsb' 4 6))
      else none
  | 8 =>
    if w.extractLsb' 0 4 = 0 then some (.smaxN32 (w.extractLsb' 16 6) (w.extractLsb' 10 6) (w.extractLsb' 4 6))
      else none
  | 9 =>
    if w.extractLsb' 0 4 = 0 then some (.sand (w.extractLsb' 16 6) (w.extractLsb' 10 6) (w.extractLsb' 4 6))
      else none
  | 10 =>
    if w.extractLsb' 0 4 = 0 then some (.sor (w.extractLsb' 16 6) (w.extractLsb' 10 6) (w.extractLsb' 4 6))
      else none
  | 11 =>
    if w.extractLsb' 0 4 = 0 then some (.sxor (w.extractLsb' 16 6) (w.extractLsb' 10 6) (w.extractLsb' 4 6))
      else none
  | 12 =>
    if w.extractLsb' 0 4 = 0 then some (.sshl (w.extractLsb' 16 6) (w.extractLsb' 10 6) (w.extractLsb' 4 6))
      else none
  | 13 =>
    if w.extractLsb' 0 4 = 0 then some (.sshr (w.extractLsb' 16 6) (w.extractLsb' 10 6) (w.extractLsb' 4 6))
      else none
  | 14 =>
    if w.extractLsb' 0 4 = 0 then some (.ssar (w.extractLsb' 16 6) (w.extractLsb' 10 6) (w.extractLsb' 4 6))
      else none
  | 15 =>
    some (.scmp (w.extractLsb' 16 6) (w.extractLsb' 10 6) (w.extractLsb' 4 6) (w.extractLsb' 0 4))
  | 16 =>
    if w.extractLsb' 0 4 = 0 then some (.ssel (w.extractLsb' 16 6) (w.extractLsb' 10 6) (w.extractLsb' 4 6))
      else none
  | 17 =>
    if w.extractLsb' 4 6 = 0 ∧ w.extractLsb' 0 4 = 0 then some (.smov (w.extractLsb' 16 6) (w.extractLsb' 10
      6)) else none
  | 18 =>
    if w.extractLsb' 4 6 = 0 ∧ w.extractLsb' 0 4 = 0 then some (.spopc (w.extractLsb' 16 6) (w.extractLsb' 10
      6)) else none
  | 19 =>
    if w.extractLsb' 4 6 = 0 ∧ w.extractLsb' 0 4 = 0 then some (.sclz (w.extractLsb' 16 6) (w.extractLsb' 10
      6)) else none
  | 20 =>
    if w.extractLsb' 0 4 = 0 then some (.sdivN32 (w.extractLsb' 16 6) (w.extractLsb' 10 6) (w.extractLsb' 4 6))
      else none
  | 21 =>
    if w.extractLsb' 0 4 = 0 then some (.sremN32 (w.extractLsb' 16 6) (w.extractLsb' 10 6) (w.extractLsb' 4 6))
      else none
  | 22 =>
    if w.extractLsb' 0 4 = 0 then some (.sdivI32 (w.extractLsb' 16 6) (w.extractLsb' 10 6) (w.extractLsb' 4 6))
      else none
  | 23 =>
    if w.extractLsb' 0 4 = 0 then some (.sremI32 (w.extractLsb' 16 6) (w.extractLsb' 10 6) (w.extractLsb' 4 6))
      else none
  | 24 =>
    if w.extractLsb' 0 4 = 0 then some (.sfadd (w.extractLsb' 16 6) (w.extractLsb' 10 6) (w.extractLsb' 4 6))
      else none
  | 25 =>
    if w.extractLsb' 0 4 = 0 then some (.sfmul (w.extractLsb' 16 6) (w.extractLsb' 10 6) (w.extractLsb' 4 6))
      else none
  | 26 =>
    if w.extractLsb' 0 4 = 0 then some (.sffma (w.extractLsb' 16 6) (w.extractLsb' 10 6) (w.extractLsb' 4 6))
      else none
  | 27 =>
    some (.sfcmp (w.extractLsb' 16 6) (w.extractLsb' 10 6) (w.extractLsb' 4 6) (w.extractLsb' 0 4))
  | 28 =>
    some (.scvt (w.extractLsb' 16 6) (w.extractLsb' 10 6) (w.extractLsb' 4 6) (w.extractLsb' 0 4))
  | 29 =>
    if w.extractLsb' 0 4 = 0 then some (.sadd64 (w.extractLsb' 16 6) (w.extractLsb' 10 6) (w.extractLsb' 4 6))
      else none
  | 30 =>
    if w.extractLsb' 0 4 = 0 then some (.ssub64 (w.extractLsb' 16 6) (w.extractLsb' 10 6) (w.extractLsb' 4 6))
      else none
  | 31 =>
    if w.extractLsb' 0 4 = 0 then some (.smulw (w.extractLsb' 16 6) (w.extractLsb' 10 6) (w.extractLsb' 4 6))
      else none
  | _ => none

/-- The UI class (R211, R214, R223, R224): bits 31:28 are 9. -/
def decodeUI (w : Word) : Option Instr :=
  match (w.extractLsb' 24 4).toNat with
  | 0 =>
    some (.saddi (w.extractLsb' 18 6) (w.extractLsb' 12 6) (w.extractLsb' 0 12))
  | 1 =>
    some (.smuli (w.extractLsb' 18 6) (w.extractLsb' 12 6) (w.extractLsb' 0 12))
  | 2 =>
    some (.sandi (w.extractLsb' 18 6) (w.extractLsb' 12 6) (w.extractLsb' 0 12))
  | 3 =>
    some (.sori (w.extractLsb' 18 6) (w.extractLsb' 12 6) (w.extractLsb' 0 12))
  | 4 =>
    some (.sxori (w.extractLsb' 18 6) (w.extractLsb' 12 6) (w.extractLsb' 0 12))
  | 5 =>
    some (.sshli (w.extractLsb' 18 6) (w.extractLsb' 12 6) (w.extractLsb' 0 12))
  | 6 =>
    some (.sshri (w.extractLsb' 18 6) (w.extractLsb' 12 6) (w.extractLsb' 0 12))
  | 7 =>
    some (.ssari (w.extractLsb' 18 6) (w.extractLsb' 12 6) (w.extractLsb' 0 12))
  | 8 =>
    some (.sltiI32 (w.extractLsb' 18 6) (w.extractLsb' 12 6) (w.extractLsb' 0 12))
  | 9 =>
    some (.sltiN32 (w.extractLsb' 18 6) (w.extractLsb' 12 6) (w.extractLsb' 0 12))
  | 10 =>
    some (.seqi (w.extractLsb' 18 6) (w.extractLsb' 12 6) (w.extractLsb' 0 12))
  | 11 =>
    some (.sadd64i (w.extractLsb' 18 6) (w.extractLsb' 12 6) (w.extractLsb' 0 12))
  | _ => none

/-- The UK class (R211, R214, R223, R224): bits 31:28 are 10. -/
def decodeUK (w : Word) : Option Instr :=
  match (w.extractLsb' 24 4).toNat with
  | 0 =>
    some (.smovi (w.extractLsb' 18 6) (w.extractLsb' 0 18))
  | 1 =>
    some (.shii (w.extractLsb' 18 6) (w.extractLsb' 0 18))
  | 2 =>
    some (.saddpc (w.extractLsb' 18 6) (w.extractLsb' 0 18))
  | 3 =>
    if w.extractLsb' 6 6 = 0 then some (.route (w.extractLsb' 18 6) (w.extractLsb' 16 2) (w.extractLsb' 14 2)
      (w.extractLsb' 13 1) (w.extractLsb' 12 1) (w.extractLsb' 0 6)) else none
  | 4 =>
    if w.extractLsb' 3 21 = 0 then some (.part (w.extractLsb' 0 3)) else none
  | 5 =>
    if w.extractLsb' 16 8 = 0 then some (.mode (w.extractLsb' 8 8) (w.extractLsb' 0 8)) else none
  | 6 =>
    if w.extractLsb' 17 1 = 0 ∧ w.extractLsb' 4 12 = 0 then some (.acq (w.extractLsb' 18 6) (w.extractLsb' 16
      1) (w.extractLsb' 0 4)) else none
  | 7 =>
    if w.extractLsb' 4 20 = 0 then some (.rel (w.extractLsb' 0 4)) else none
  | _ => none

/-- The UM class (R211, R214, R223, R224): bits 31:28 are 11. -/
def decodeUM (w : Word) : Option Instr :=
  match (w.extractLsb' 24 4).toNat with
  | 0 =>
    some (.sld (w.extractLsb' 18 6) (w.extractLsb' 12 6) (w.extractLsb' 9 3) (w.extractLsb' 0 9))
  | 1 =>
    some (.sst (w.extractLsb' 18 6) (w.extractLsb' 12 6) (w.extractLsb' 9 3) (w.extractLsb' 0 9))
  | 2 =>
    some (.sldc (w.extractLsb' 18 6) (w.extractLsb' 12 6) (w.extractLsb' 9 3) (w.extractLsb' 0 9))
  | _ => none

/-- The UB class (R211, R214, R223, R224): bits 31:28 are 12. -/
def decodeUB (w : Word) : Option Instr :=
  match (w.extractLsb' 24 4).toNat with
  | 0 =>
    some (.jmp (w.extractLsb' 0 24))
  | 1 =>
    some (.brz (w.extractLsb' 18 6) (w.extractLsb' 0 18))
  | 2 =>
    some (.brnz (w.extractLsb' 18 6) (w.extractLsb' 0 18))
  | 3 =>
    some (.call (w.extractLsb' 0 24))
  | 4 =>
    if w.extractLsb' 0 18 = 0 then some (.callr (w.extractLsb' 18 6)) else none
  | 5 =>
    if w.extractLsb' 0 24 = 0 then some (.ret) else none
  | 6 =>
    if w.extractLsb' 0 24 = 0 then some (.exit) else none
  | 7 =>
    if w.extractLsb' 0 24 = 0 then some (.yield) else none
  | 8 =>
    if w.extractLsb' 16 8 = 0 then some (.nop (w.extractLsb' 0 16)) else none
  | 9 =>
    if w.extractLsb' 16 8 = 0 then some (.trap (w.extractLsb' 0 16)) else none
  | 10 =>
    if w.extractLsb' 0 24 = 0 then some (.eret) else none
  | 11 =>
    if w.extractLsb' 16 8 = 0 then some (.brk (w.extractLsb' 0 16)) else none
  | _ => none

/-- The UE class (R211, R214, R223, R224): bits 31:28 are 13. -/
def decodeUE (w : Word) (inl : List Word) : Option Instr :=
  match (w.extractLsb' 22 6).toNat with
  | 0 =>
    if w.extractLsb' 0 4 = 0 then some (.tcopy (w.extractLsb' 16 6) (w.extractLsb' 10 6) (w.extractLsb' 4 6))
      else none
  | 1 =>
    match inl with
    | x0 :: x1 :: x2 :: x3 :: _ =>
      if w.extractLsb' 0 4 = 4 ∧ x3.extractLsb' 30 2 = 0 then some (.tcopyx (w.extractLsb' 16 6) (w.extractLsb'
        10 6) (w.extractLsb' 4 6) (x0.extractLsb' 16 16) (x0.extractLsb' 0 16) (x1.extractLsb' 16 16)
        (x1.extractLsb' 0 16) (x2.extractLsb' 16 16) (x2.extractLsb' 0 16) (x3.extractLsb' 20 10)
        (x3.extractLsb' 10 10) (x3.extractLsb' 0 10)) else none
    | _ => none
  | 2 =>
    if w.extractLsb' 0 4 = 0 then some (.mcopy (w.extractLsb' 16 6) (w.extractLsb' 10 6) (w.extractLsb' 4 6))
      else none
  | 3 =>
    match inl with
    | x0 :: x1 :: _ =>
      if w.extractLsb' 0 4 = 2 ∧ x1.extractLsb' 12 20 = 0 then some (.bcopy (w.extractLsb' 16 6) (w.extractLsb'
        10 6) (w.extractLsb' 4 6) (x0.extractLsb' 16 16) (x0.extractLsb' 0 16) (x1.extractLsb' 6 6)
        (x1.extractLsb' 0 6)) else none
    | _ => none
  | 4 =>
    match inl with
    | x0 :: x1 :: _ =>
      if w.extractLsb' 0 4 = 2 ∧ x1.extractLsb' 10 22 = 0 then some (.chain (w.extractLsb' 16 6) (w.extractLsb'
        10 6) (w.extractLsb' 4 6) x0 (x1.extractLsb' 4 6) (x1.extractLsb' 2 2) (x1.extractLsb' 0 2)) else none
    | _ => none
  | 5 =>
    if w.extractLsb' 19 3 = 0 ∧ w.extractLsb' 0 16 = 0 then some (.bseal (w.extractLsb' 16 3)) else none
  | 6 =>
    if w.extractLsb' 19 3 = 0 ∧ w.extractLsb' 0 16 = 0 then some (.bwait (w.extractLsb' 16 3)) else none
  | 7 =>
    if w.extractLsb' 4 6 = 0 ∧ w.extractLsb' 0 4 = 0 then some (.awinit (w.extractLsb' 16 6) (w.extractLsb' 10
      6)) else none
  | 8 =>
    if w.extractLsb' 0 4 = 0 then some (.await (w.extractLsb' 16 6) (w.extractLsb' 10 6) (w.extractLsb' 4 6))
      else none
  | 9 =>
    match inl with
    | x0 :: _ =>
      if w.extractLsb' 0 4 = 1 ∧ x0.extractLsb' 0 17 = 0 then some (.obres (w.extractLsb' 16 6) (w.extractLsb'
        10 6) (w.extractLsb' 4 6) (x0.extractLsb' 28 4) (x0.extractLsb' 26 2) (x0.extractLsb' 23 3)
        (x0.extractLsb' 21 2) (x0.extractLsb' 20 1) (x0.extractLsb' 19 1) (x0.extractLsb' 17 2)) else none
    | _ => none
  | 10 =>
    if w.extractLsb' 10 6 = 0 ∧ w.extractLsb' 4 6 = 0 ∧ w.extractLsb' 0 4 = 0 then some (.obrel (w.extractLsb'
      16 6)) else none
  | 11 =>
    if w.extractLsb' 10 6 = 0 ∧ w.extractLsb' 4 6 = 0 ∧ w.extractLsb' 0 4 = 0 then some (.crew (w.extractLsb'
      16 6)) else none
  | 12 =>
    match inl with
    | x0 :: _ =>
      if w.extractLsb' 10 6 = 0 ∧ w.extractLsb' 4 6 = 0 ∧ w.extractLsb' 0 4 = 1 ∧ x0.extractLsb' 30 2 = 0 ∧
        x0.extractLsb' 0 18 = 0 then some (.mma (w.extractLsb' 16 6) (x0.extractLsb' 26 4) (x0.extractLsb' 22
        4) (x0.extractLsb' 18 4))
      else if w.extractLsb' 0 4 = 1 ∧ x0.extractLsb' 30 2 = 1 ∧ x0.extractLsb' 9 9 = 0 then some (.mmaRs
        (w.extractLsb' 16 6) (w.extractLsb' 10 6) (w.extractLsb' 4 6) (x0.extractLsb' 26 4) (x0.extractLsb' 22
        4) (x0.extractLsb' 18 4) (x0.extractLsb' 8 1) (x0.extractLsb' 0 8))
      else if w.extractLsb' 0 4 = 1 ∧ x0.extractLsb' 30 2 = 2 ∧ x0.extractLsb' 0 18 = 0 then some (.mmaSs
        (w.extractLsb' 16 6) (w.extractLsb' 10 6) (w.extractLsb' 4 6) (x0.extractLsb' 26 4) (x0.extractLsb' 22
        4) (x0.extractLsb' 18 4)) else none
    | _ => none
  | 13 =>
    match inl with
    | x0 :: _ =>
      if w.extractLsb' 4 6 = 0 ∧ w.extractLsb' 0 4 = 1 ∧ x0.extractLsb' 30 2 = 0 ∧ x0.extractLsb' 0 18 = 0 then
        some (.mmas (w.extractLsb' 16 6) (w.extractLsb' 10 6) (x0.extractLsb' 26 4) (x0.extractLsb' 22 4)
        (x0.extractLsb' 18 4)) else none
    | _ => none
  | 14 =>
    match inl with
    | x0 :: _ =>
      if w.extractLsb' 0 4 = 1 ∧ x0.extractLsb' 31 1 = 0 ∧ x0.extractLsb' 9 9 = 0 then some (.mman
        (w.extractLsb' 16 6) (w.extractLsb' 10 6) (w.extractLsb' 4 6) (x0.extractLsb' 30 1) (x0.extractLsb' 26
        4) (x0.extractLsb' 22 4) (x0.extractLsb' 18 4) (x0.extractLsb' 8 1) (x0.extractLsb' 0 8)) else none
    | _ => none
  | 15 =>
    match inl with
    | x0 :: _ =>
      if w.extractLsb' 10 6 = 0 ∧ w.extractLsb' 4 6 = 0 ∧ w.extractLsb' 0 4 = 1 ∧ x0.extractLsb' 30 2 = 0 ∧
        x0.extractLsb' 0 18 = 0 then some (.salient (w.extractLsb' 16 6) (x0.extractLsb' 26 4) (x0.extractLsb'
        22 4) (x0.extractLsb' 18 4)) else none
    | _ => none
  | 16 =>
    if w.extractLsb' 0 4 = 0 then some (.accrd (w.extractLsb' 16 6) (w.extractLsb' 10 6) (w.extractLsb' 4 6))
      else none
  | 17 =>
    if w.extractLsb' 10 6 = 0 ∧ w.extractLsb' 4 6 = 0 ∧ w.extractLsb' 0 4 = 0 then some (.accz (w.extractLsb'
      16 6)) else none
  | 18 =>
    if w.extractLsb' 0 4 = 0 then some (.capb (w.extractLsb' 16 6) (w.extractLsb' 10 6) (w.extractLsb' 4 6))
      else none
  | 19 =>
    if w.extractLsb' 0 22 = 0 then some (.capeStep)
    else if w.extractLsb' 16 6 = 0 ∧ w.extractLsb' 10 6 = 1 ∧ w.extractLsb' 0 10 = 0 then some (.capeEnd) else
      none
  | 20 =>
    match inl with
    | x0 :: _ =>
      if w.extractLsb' 0 4 = 1 ∧ x0.extractLsb' 22 3 = 0 then some (.satom (w.extractLsb' 16 6) (w.extractLsb'
        10 6) (w.extractLsb' 4 6) (x0.extractLsb' 27 5) (x0.extractLsb' 26 1) (x0.extractLsb' 25 1)
        (x0.extractLsb' 16 6) (x0.extractLsb' 0 16)) else none
    | _ => none
  | 21 =>
    match inl with
    | x0 :: _ =>
      if w.extractLsb' 0 4 = 1 ∧ x0.extractLsb' 0 24 = 0 then some (.redw (w.extractLsb' 16 6) (w.extractLsb'
        10 6) (w.extractLsb' 4 6) (x0.extractLsb' 28 4) (x0.extractLsb' 25 3) (x0.extractLsb' 24 1)) else none
    | _ => none
  | 22 =>
    if w.extractLsb' 0 4 = 0 then some (.poolp (w.extractLsb' 16 6) (w.extractLsb' 10 6) (w.extractLsb' 4 6))
      else none
  | 23 =>
    if w.extractLsb' 0 4 = 0 then some (.poold (w.extractLsb' 16 6) (w.extractLsb' 10 6) (w.extractLsb' 4 6))
      else none
  | 24 =>
    if w.extractLsb' 10 6 = 0 ∧ w.extractLsb' 0 4 = 0 then some (.launch (w.extractLsb' 16 6) (w.extractLsb' 4
      6)) else none
  | 25 =>
    if w.extractLsb' 16 6 = 0 ∧ w.extractLsb' 10 6 = 0 ∧ w.extractLsb' 4 6 = 0 ∧ w.extractLsb' 0 4 = 0 then
      some (.succ) else none
  | 26 =>
    if w.extractLsb' 16 6 = 0 ∧ w.extractLsb' 10 6 = 0 ∧ w.extractLsb' 4 6 = 0 ∧ w.extractLsb' 0 4 = 0 then
      some (.waitpred) else none
  | _ => none

/-- The US class (R211, R214, R223, R224): bits 31:28 are 14. -/
def decodeUS (w : Word) : Option Instr :=
  match (w.extractLsb' 22 6).toNat with
  | 0 =>
    if w.extractLsb' 0 15 = 0 then some (.bara (w.extractLsb' 19 3) (w.extractLsb' 15 4)) else none
  | 1 =>
    if w.extractLsb' 0 15 = 0 then some (.barw (w.extractLsb' 19 3) (w.extractLsb' 15 4)) else none
  | 2 =>
    if w.extractLsb' 0 15 = 0 then some (.bars (w.extractLsb' 19 3) (w.extractLsb' 15 4)) else none
  | 3 =>
    if w.extractLsb' 0 17 = 0 then some (.fence (w.extractLsb' 20 2) (w.extractLsb' 17 3)) else none
  | 4 =>
    if w.extractLsb' 0 4 = 0 then some (.csrr (w.extractLsb' 16 6) (w.extractLsb' 4 12)) else none
  | 5 =>
    if w.extractLsb' 0 4 = 0 then some (.csrw (w.extractLsb' 16 6) (w.extractLsb' 4 12)) else none
  | 6 =>
    if w.extractLsb' 0 16 = 0 then some (.tick (w.extractLsb' 16 6)) else none
  | 7 =>
    if w.extractLsb' 0 16 = 0 then some (.sleep (w.extractLsb' 16 6)) else none
  | 8 =>
    if w.extractLsb' 0 16 = 0 then some (.tmarm (w.extractLsb' 16 6)) else none
  | 9 =>
    some (.trace (w.extractLsb' 16 6) (w.extractLsb' 10 6) (w.extractLsb' 0 10))
  | _ => none

/-- The instruction that starts with word `w`, whose clause goes on with the words `inl`. Class 7 is reserved
(R223) and class 15 is the clause header, which is no instruction (R215, R216). -/
def decodeWords (ws : List Word) : Option Instr :=
  match ws with
  | [] => none
  | w :: inl =>
    match (w.extractLsb' 28 4).toNat with
    | 0 => decodeLR w
    | 1 => decodeLI w
    | 2 => decodeLT w
    | 3 => decodeLM w
    | 4 => decodeLX w
    | 5 => decodeLB w inl
    | 6 => decodeLE w inl
    | 8 => decodeUR w
    | 9 => decodeUI w
    | 10 => decodeUK w
    | 11 => decodeUM w
    | 12 => decodeUB w
    | 13 => decodeUE w inl
    | 14 => decodeUS w
    | _ => none

/-- How many inline words follow the instruction word (R223, R224). -/
def Instr.inlineCount : Instr → Nat
  | .tcopyx .. => 4
  | .bcopy .. | .chain .. => 2
  | .vmovl .. | .vatom .. | .vcopy .. | .vldg .. | .obres .. | .mma .. | .mmaRs .. | .mmaSs .. | .mmas .. | .mman ..
  | .salient .. | .satom .. | .redw .. => 1
  | .vswitch _ _ cs => cs.length
  | _ => 0

/-- A little-endian word (R3, R210). -/
def wordOfBytes (b0 b1 b2 b3 : Byte) : Word := b3 ++ b2 ++ b1 ++ b0

/-- The words of a run of bytes; bytes after the last whole word are dropped. -/
def wordsOfBytes : List Byte → List Word
  | b0 :: b1 :: b2 :: b3 :: r => wordOfBytes b0 b1 b2 b3 :: wordsOfBytes r
  | _ => []

/-- The four bytes of a word, lowest address first. -/
def bytesOfWord (w : Word) : List Byte :=
  [w.extractLsb' 0 8, w.extractLsb' 8 8, w.extractLsb' 16 8, w.extractLsb' 24 8]

/-- The decoder on the bytes of a clause from an instruction word on. -/
def decode (bs : List Byte) : Option Instr := decodeWords (wordsOfBytes bs)

/-- The words of an instruction; an operation of another agent has none. -/
def encode : Instr → List Word
  | .vadd vd va vb ra rb => [((0 : BitVec 4) ++ (0 : BitVec 6) ++ vd ++ va ++ vb ++ ra ++ rb : BitVec 32)]
  | .vsub vd va vb ra rb => [((0 : BitVec 4) ++ (1 : BitVec 6) ++ vd ++ va ++ vb ++ ra ++ rb : BitVec 32)]
  | .vmul vd va vb ra rb => [((0 : BitVec 4) ++ (2 : BitVec 6) ++ vd ++ va ++ vb ++ ra ++ rb : BitVec 32)]
  | .vmulhI32 vd va vb ra rb => [((0 : BitVec 4) ++ (3 : BitVec 6) ++ vd ++ va ++ vb ++ ra ++ rb : BitVec 32)]
  | .vmulhN32 vd va vb ra rb => [((0 : BitVec 4) ++ (4 : BitVec 6) ++ vd ++ va ++ vb ++ ra ++ rb : BitVec 32)]
  | .vminI32 vd va vb ra rb => [((0 : BitVec 4) ++ (5 : BitVec 6) ++ vd ++ va ++ vb ++ ra ++ rb : BitVec 32)]
  | .vminN32 vd va vb ra rb => [((0 : BitVec 4) ++ (6 : BitVec 6) ++ vd ++ va ++ vb ++ ra ++ rb : BitVec 32)]
  | .vmaxI32 vd va vb ra rb => [((0 : BitVec 4) ++ (7 : BitVec 6) ++ vd ++ va ++ vb ++ ra ++ rb : BitVec 32)]
  | .vmaxN32 vd va vb ra rb => [((0 : BitVec 4) ++ (8 : BitVec 6) ++ vd ++ va ++ vb ++ ra ++ rb : BitVec 32)]
  | .vand vd va vb ra rb => [((0 : BitVec 4) ++ (9 : BitVec 6) ++ vd ++ va ++ vb ++ ra ++ rb : BitVec 32)]
  | .vor vd va vb ra rb => [((0 : BitVec 4) ++ (10 : BitVec 6) ++ vd ++ va ++ vb ++ ra ++ rb : BitVec 32)]
  | .vxor vd va vb ra rb => [((0 : BitVec 4) ++ (11 : BitVec 6) ++ vd ++ va ++ vb ++ ra ++ rb : BitVec 32)]
  | .vandn vd va vb ra rb => [((0 : BitVec 4) ++ (12 : BitVec 6) ++ vd ++ va ++ vb ++ ra ++ rb : BitVec 32)]
  | .vshl vd va vb ra rb => [((0 : BitVec 4) ++ (13 : BitVec 6) ++ vd ++ va ++ vb ++ ra ++ rb : BitVec 32)]
  | .vshr vd va vb ra rb => [((0 : BitVec 4) ++ (14 : BitVec 6) ++ vd ++ va ++ vb ++ ra ++ rb : BitVec 32)]
  | .vsar vd va vb ra rb => [((0 : BitVec 4) ++ (15 : BitVec 6) ++ vd ++ va ++ vb ++ ra ++ rb : BitVec 32)]
  | .vrotl vd va vb ra rb => [((0 : BitVec 4) ++ (16 : BitVec 6) ++ vd ++ va ++ vb ++ ra ++ rb : BitVec 32)]
  | .vaddsI32 vd va vb ra rb => [((0 : BitVec 4) ++ (17 : BitVec 6) ++ vd ++ va ++ vb ++ ra ++ rb : BitVec 32)]
  | .vsubsI32 vd va vb ra rb => [((0 : BitVec 4) ++ (18 : BitVec 6) ++ vd ++ va ++ vb ++ ra ++ rb : BitVec 32)]
  | .vabsdN32 vd va vb ra rb => [((0 : BitVec 4) ++ (19 : BitVec 6) ++ vd ++ va ++ vb ++ ra ++ rb : BitVec 32)]
  | .vmov vd va ra => [((0 : BitVec 4) ++ (20 : BitVec 6) ++ vd ++ va ++ (0 : BitVec 6) ++ ra ++ (0 : BitVec 2)
    : BitVec 32)]
  | .vfaddF32 vd va vb ra rb => [((0 : BitVec 4) ++ (21 : BitVec 6) ++ vd ++ va ++ vb ++ ra ++ rb : BitVec 32)]
  | .vfsubF32 vd va vb ra rb => [((0 : BitVec 4) ++ (22 : BitVec 6) ++ vd ++ va ++ vb ++ ra ++ rb : BitVec 32)]
  | .vfmulF32 vd va vb ra rb => [((0 : BitVec 4) ++ (23 : BitVec 6) ++ vd ++ va ++ vb ++ ra ++ rb : BitVec 32)]
  | .vfminF32 vd va vb ra rb => [((0 : BitVec 4) ++ (24 : BitVec 6) ++ vd ++ va ++ vb ++ ra ++ rb : BitVec 32)]
  | .vfmaxF32 vd va vb ra rb => [((0 : BitVec 4) ++ (25 : BitVec 6) ++ vd ++ va ++ vb ++ ra ++ rb : BitVec 32)]
  | .vfscaleF32 vd va vb ra rb => [((0 : BitVec 4) ++ (26 : BitVec 6) ++ vd ++ va ++ vb ++ ra ++ rb : BitVec
    32)]
  | .vfaddBf16x2 vd va vb ra rb => [((0 : BitVec 4) ++ (27 : BitVec 6) ++ vd ++ va ++ vb ++ ra ++ rb : BitVec
    32)]
  | .vfmulBf16x2 vd va vb ra rb => [((0 : BitVec 4) ++ (28 : BitVec 6) ++ vd ++ va ++ vb ++ ra ++ rb : BitVec
    32)]
  | .vfaddF16x2 vd va vb ra rb => [((0 : BitVec 4) ++ (29 : BitVec 6) ++ vd ++ va ++ vb ++ ra ++ rb : BitVec
    32)]
  | .vfmulF16x2 vd va vb ra rb => [((0 : BitVec 4) ++ (30 : BitVec 6) ++ vd ++ va ++ vb ++ ra ++ rb : BitVec
    32)]
  | .vfaddE4m3x4 vd va vb ra rb => [((0 : BitVec 4) ++ (31 : BitVec 6) ++ vd ++ va ++ vb ++ ra ++ rb : BitVec
    32)]
  | .vfmulE4m3x4 vd va vb ra rb => [((0 : BitVec 4) ++ (32 : BitVec 6) ++ vd ++ va ++ vb ++ ra ++ rb : BitVec
    32)]
  | .vfaddE5m2x4 vd va vb ra rb => [((0 : BitVec 4) ++ (33 : BitVec 6) ++ vd ++ va ++ vb ++ ra ++ rb : BitVec
    32)]
  | .vfmulE5m2x4 vd va vb ra rb => [((0 : BitVec 4) ++ (34 : BitVec 6) ++ vd ++ va ++ vb ++ ra ++ rb : BitVec
    32)]
  | .vdot4I8 vd va vb ra rb => [((0 : BitVec 4) ++ (35 : BitVec 6) ++ vd ++ va ++ vb ++ ra ++ rb : BitVec 32)]
  | .vdot2Bf16 vd va vb ra rb => [((0 : BitVec 4) ++ (36 : BitVec 6) ++ vd ++ va ++ vb ++ ra ++ rb : BitVec
    32)]
  | .vshflIdx x => [((0 : BitVec 4) ++ (48 : BitVec 6) ++ x : BitVec 32)]
  | .vshflUp x => [((0 : BitVec 4) ++ (49 : BitVec 6) ++ x : BitVec 32)]
  | .vshflDn x => [((0 : BitVec 4) ++ (50 : BitVec 6) ++ x : BitVec 32)]
  | .vshflXor x => [((0 : BitVec 4) ++ (51 : BitVec 6) ++ x : BitVec 32)]
  | .vaddi vd va ra imm => [((1 : BitVec 4) ++ (0 : BitVec 4) ++ vd ++ va ++ ra ++ imm : BitVec 32)]
  | .vsubri vd va ra imm => [((1 : BitVec 4) ++ (1 : BitVec 4) ++ vd ++ va ++ ra ++ imm : BitVec 32)]
  | .vmuli vd va ra imm => [((1 : BitVec 4) ++ (2 : BitVec 4) ++ vd ++ va ++ ra ++ imm : BitVec 32)]
  | .vandi vd va ra imm => [((1 : BitVec 4) ++ (3 : BitVec 4) ++ vd ++ va ++ ra ++ imm : BitVec 32)]
  | .vori vd va ra imm => [((1 : BitVec 4) ++ (4 : BitVec 4) ++ vd ++ va ++ ra ++ imm : BitVec 32)]
  | .vxori vd va ra imm => [((1 : BitVec 4) ++ (5 : BitVec 4) ++ vd ++ va ++ ra ++ imm : BitVec 32)]
  | .vshli vd va ra imm => [((1 : BitVec 4) ++ (6 : BitVec 4) ++ vd ++ va ++ ra ++ imm : BitVec 32)]
  | .vshri vd va ra imm => [((1 : BitVec 4) ++ (7 : BitVec 4) ++ vd ++ va ++ ra ++ imm : BitVec 32)]
  | .vsari vd va ra imm => [((1 : BitVec 4) ++ (8 : BitVec 4) ++ vd ++ va ++ ra ++ imm : BitVec 32)]
  | .vminiI32 vd va ra imm => [((1 : BitVec 4) ++ (9 : BitVec 4) ++ vd ++ va ++ ra ++ imm : BitVec 32)]
  | .vmaxiI32 vd va ra imm => [((1 : BitVec 4) ++ (10 : BitVec 4) ++ vd ++ va ++ ra ++ imm : BitVec 32)]
  | .vmovi vd imm => [((1 : BitVec 4) ++ (11 : BitVec 4) ++ vd ++ (0 : BitVec 6) ++ (0 : BitVec 2) ++ imm :
    BitVec 32)]
  | .vmad vd va vb vc ra rb rc => [((2 : BitVec 4) ++ (0 : BitVec 3) ++ vd ++ va ++ vb ++ vc ++ ra ++ rb ++ rc
    : BitVec 32)]
  | .vfmaF32 vd va vb vc ra rb rc => [((2 : BitVec 4) ++ (1 : BitVec 3) ++ vd ++ va ++ vb ++ vc ++ ra ++ rb ++
    rc : BitVec 32)]
  | .vfmaBf16x2 vd va vb vc ra rb rc => [((2 : BitVec 4) ++ (2 : BitVec 3) ++ vd ++ va ++ vb ++ vc ++ ra ++ rb
    ++ rc : BitVec 32)]
  | .vfmaF16x2 vd va vb vc ra rb rc => [((2 : BitVec 4) ++ (3 : BitVec 3) ++ vd ++ va ++ vb ++ vc ++ ra ++ rb
    ++ rc : BitVec 32)]
  | .vdot4aI8 vd va vb vc ra rb rc => [((2 : BitVec 4) ++ (4 : BitVec 3) ++ vd ++ va ++ vb ++ vc ++ ra ++ rb ++
    rc : BitVec 32)]
  | .vdot2aBf16 vd va vb vc ra rb rc => [((2 : BitVec 4) ++ (5 : BitVec 3) ++ vd ++ va ++ vb ++ vc ++ ra ++ rb
    ++ rc : BitVec 32)]
  | .vbfi vd va vb vc ra rb rc => [((2 : BitVec 4) ++ (6 : BitVec 3) ++ vd ++ va ++ vb ++ vc ++ ra ++ rb ++ rc
    : BitVec 32)]
  | .vld vd va k sz off => [((3 : BitVec 4) ++ (0 : BitVec 4) ++ vd ++ va ++ k ++ sz ++ off : BitVec 32)]
  | .vst vs va k sz off => [((3 : BitVec 4) ++ (1 : BitVec 4) ++ vs ++ va ++ k ++ sz ++ off : BitVec 32)]
  | .vldc vd va k sz off => [((3 : BitVec 4) ++ (2 : BitVec 4) ++ vd ++ va ++ k ++ sz ++ off : BitVec 32)]
  | .vpref hint va k off => [((3 : BitVec 4) ++ (3 : BitVec 4) ++ hint ++ va ++ k ++ (4 : BitVec 3) ++ off :
    BitVec 32)]
  | .vcmp d a b fn => [((4 : BitVec 4) ++ (0 : BitVec 6) ++ d ++ a ++ b ++ fn : BitVec 32)]
  | .vsel d a b k => [((4 : BitVec 4) ++ (1 : BitVec 6) ++ d ++ a ++ b ++ (0 : BitVec 1) ++ k : BitVec 32)]
  | .vvote d a fn => [((4 : BitVec 4) ++ (2 : BitVec 6) ++ d ++ a ++ (0 : BitVec 6) ++ fn : BitVec 32)]
  | .vscan d a fn => [((4 : BitVec 4) ++ (3 : BitVec 6) ++ d ++ a ++ (0 : BitVec 6) ++ fn : BitVec 32)]
  | .vred d a fn => [((4 : BitVec 4) ++ (4 : BitVec 6) ++ d ++ a ++ (0 : BitVec 6) ++ fn : BitVec 32)]
  | .vmatch d a fn => [((4 : BitVec 4) ++ (5 : BitVec 6) ++ d ++ a ++ (0 : BitVec 6) ++ fn : BitVec 32)]
  | .vcompact d a b fn => [((4 : BitVec 4) ++ (6 : BitVec 6) ++ d ++ a ++ b ++ fn : BitVec 32)]
  | .vform d a fn => [((4 : BitVec 4) ++ (7 : BitVec 6) ++ d ++ a ++ (0 : BitVec 6) ++ fn : BitVec 32)]
  | .vstride d a => [((4 : BitVec 4) ++ (8 : BitVec 6) ++ d ++ a ++ (0 : BitVec 6) ++ (0 : BitVec 4) : BitVec
    32)]
  | .vindex d fn => [((4 : BitVec 4) ++ (10 : BitVec 6) ++ d ++ (0 : BitVec 6) ++ (0 : BitVec 6) ++ fn : BitVec
    32)]
  | .vpopc d a => [((4 : BitVec 4) ++ (11 : BitVec 6) ++ d ++ a ++ (0 : BitVec 6) ++ (0 : BitVec 4) : BitVec
    32)]
  | .vclz d a => [((4 : BitVec 4) ++ (12 : BitVec 6) ++ d ++ a ++ (0 : BitVec 6) ++ (0 : BitVec 4) : BitVec
    32)]
  | .vbrev d a => [((4 : BitVec 4) ++ (13 : BitVec 6) ++ d ++ a ++ (0 : BitVec 6) ++ (0 : BitVec 4) : BitVec
    32)]
  | .vbfe d a b sgn => [((4 : BitVec 4) ++ (14 : BitVec 6) ++ d ++ a ++ b ++ (0 : BitVec 3) ++ sgn : BitVec
    32)]
  | .vfrcpF32 d a => [((4 : BitVec 4) ++ (15 : BitVec 6) ++ d ++ a ++ (0 : BitVec 6) ++ (0 : BitVec 4) : BitVec
    32)]
  | .vfrsqF32 d a => [((4 : BitVec 4) ++ (16 : BitVec 6) ++ d ++ a ++ (0 : BitVec 6) ++ (0 : BitVec 4) : BitVec
    32)]
  | .vfsqrtF32 d a => [((4 : BitVec 4) ++ (17 : BitVec 6) ++ d ++ a ++ (0 : BitVec 6) ++ (0 : BitVec 4) :
    BitVec 32)]
  | .vfexp2F32 d a => [((4 : BitVec 4) ++ (18 : BitVec 6) ++ d ++ a ++ (0 : BitVec 6) ++ (0 : BitVec 4) :
    BitVec 32)]
  | .vflog2F32 d a => [((4 : BitVec 4) ++ (19 : BitVec 6) ++ d ++ a ++ (0 : BitVec 6) ++ (0 : BitVec 4) :
    BitVec 32)]
  | .vfsinpiF32 d a => [((4 : BitVec 4) ++ (20 : BitVec 6) ++ d ++ a ++ (0 : BitVec 6) ++ (0 : BitVec 4) :
    BitVec 32)]
  | .vfcospiF32 d a => [((4 : BitVec 4) ++ (21 : BitVec 6) ++ d ++ a ++ (0 : BitVec 6) ++ (0 : BitVec 4) :
    BitVec 32)]
  | .vftanhF32 d a => [((4 : BitVec 4) ++ (22 : BitVec 6) ++ d ++ a ++ (0 : BitVec 6) ++ (0 : BitVec 4) :
    BitVec 32)]
  | .vfclass d a fn => [((4 : BitVec 4) ++ (23 : BitVec 6) ++ d ++ a ++ (0 : BitVec 6) ++ fn : BitVec 32)]
  | .vunary d a fn => [((4 : BitVec 4) ++ (24 : BitVec 6) ++ d ++ a ++ (0 : BitVec 6) ++ fn : BitVec 32)]
  | .vcvt d a fn => [((4 : BitVec 4) ++ (25 : BitVec 6) ++ d ++ a ++ (0 : BitVec 6) ++ fn : BitVec 32)]
  | .vcvtb d a fn => [((4 : BitVec 4) ++ (26 : BitVec 6) ++ d ++ a ++ (0 : BitVec 6) ++ fn : BitVec 32)]
  | .vpack d a b fn => [((4 : BitVec 4) ++ (27 : BitVec 6) ++ d ++ a ++ b ++ fn : BitVec 32)]
  | .vunpack d a b fn => [((4 : BitVec 4) ++ (28 : BitVec 6) ++ d ++ a ++ b ++ fn : BitVec 32)]
  | .vkmov d a b fn => [((4 : BitVec 4) ++ (29 : BitVec 6) ++ d ++ a ++ b ++ fn : BitVec 32)]
  | .vbr k tag off => [((5 : BitVec 4) ++ (0 : BitVec 4) ++ k ++ tag ++ off : BitVec 32)]
  | .vbrn k tag off => [((5 : BitVec 4) ++ (1 : BitVec 4) ++ k ++ tag ++ off : BitVec 32)]
  | .vjoin tag live => [((5 : BitVec 4) ++ (2 : BitVec 4) ++ tag ++ live ++ (0 : BitVec 13) : BitVec 32)]
  | .vreform tag live => [((5 : BitVec 4) ++ (3 : BitVec 4) ++ tag ++ live ++ (0 : BitVec 13) : BitVec 32)]
  | .vcall off => [((5 : BitVec 4) ++ (4 : BitVec 4) ++ (0 : BitVec 6) ++ off : BitVec 32)]
  | .vcallr va => [((5 : BitVec 4) ++ (5 : BitVec 4) ++ va ++ (0 : BitVec 18) : BitVec 32)]
  | .vmovl vd imm => [((6 : BitVec 4) ++ (0 : BitVec 6) ++ vd ++ (0 : BitVec 6) ++ (0 : BitVec 6) ++ (1 :
    BitVec 4) : BitVec 32), imm]
  | .vatom vd va vb aop w nr vc disp => [((6 : BitVec 4) ++ (1 : BitVec 6) ++ vd ++ va ++ vb ++ (1 : BitVec 4)
    : BitVec 32), (aop ++ w ++ nr ++ (0 : BitVec 3) ++ vc ++ disp : BitVec 32)]
  | .vcopy vd va vb logsz => [((6 : BitVec 4) ++ (2 : BitVec 6) ++ vd ++ va ++ vb ++ (1 : BitVec 4) : BitVec
    32), ((0 : BitVec 29) ++ logsz : BitVec 32)]
  | .vldg vd va vb sz scale ahead tag win disp => [((6 : BitVec 4) ++ (3 : BitVec 6) ++ vd ++ va ++ vb ++ (1 :
    BitVec 4) : BitVec 32), ((0 : BitVec 3) ++ sz ++ scale ++ ahead ++ tag ++ win ++ disp : BitVec 32)]
  | .sadd sd sa sb => [((8 : BitVec 4) ++ (0 : BitVec 6) ++ sd ++ sa ++ sb ++ (0 : BitVec 4) : BitVec 32)]
  | .ssub sd sa sb => [((8 : BitVec 4) ++ (1 : BitVec 6) ++ sd ++ sa ++ sb ++ (0 : BitVec 4) : BitVec 32)]
  | .smul sd sa sb => [((8 : BitVec 4) ++ (2 : BitVec 6) ++ sd ++ sa ++ sb ++ (0 : BitVec 4) : BitVec 32)]
  | .smulhI32 sd sa sb => [((8 : BitVec 4) ++ (3 : BitVec 6) ++ sd ++ sa ++ sb ++ (0 : BitVec 4) : BitVec 32)]
  | .smulhN32 sd sa sb => [((8 : BitVec 4) ++ (4 : BitVec 6) ++ sd ++ sa ++ sb ++ (0 : BitVec 4) : BitVec 32)]
  | .sminI32 sd sa sb => [((8 : BitVec 4) ++ (5 : BitVec 6) ++ sd ++ sa ++ sb ++ (0 : BitVec 4) : BitVec 32)]
  | .sminN32 sd sa sb => [((8 : BitVec 4) ++ (6 : BitVec 6) ++ sd ++ sa ++ sb ++ (0 : BitVec 4) : BitVec 32)]
  | .smaxI32 sd sa sb => [((8 : BitVec 4) ++ (7 : BitVec 6) ++ sd ++ sa ++ sb ++ (0 : BitVec 4) : BitVec 32)]
  | .smaxN32 sd sa sb => [((8 : BitVec 4) ++ (8 : BitVec 6) ++ sd ++ sa ++ sb ++ (0 : BitVec 4) : BitVec 32)]
  | .sand sd sa sb => [((8 : BitVec 4) ++ (9 : BitVec 6) ++ sd ++ sa ++ sb ++ (0 : BitVec 4) : BitVec 32)]
  | .sor sd sa sb => [((8 : BitVec 4) ++ (10 : BitVec 6) ++ sd ++ sa ++ sb ++ (0 : BitVec 4) : BitVec 32)]
  | .sxor sd sa sb => [((8 : BitVec 4) ++ (11 : BitVec 6) ++ sd ++ sa ++ sb ++ (0 : BitVec 4) : BitVec 32)]
  | .sshl sd sa sb => [((8 : BitVec 4) ++ (12 : BitVec 6) ++ sd ++ sa ++ sb ++ (0 : BitVec 4) : BitVec 32)]
  | .sshr sd sa sb => [((8 : BitVec 4) ++ (13 : BitVec 6) ++ sd ++ sa ++ sb ++ (0 : BitVec 4) : BitVec 32)]
  | .ssar sd sa sb => [((8 : BitVec 4) ++ (14 : BitVec 6) ++ sd ++ sa ++ sb ++ (0 : BitVec 4) : BitVec 32)]
  | .scmp sd sa sb fn => [((8 : BitVec 4) ++ (15 : BitVec 6) ++ sd ++ sa ++ sb ++ fn : BitVec 32)]
  | .ssel sd sa sb => [((8 : BitVec 4) ++ (16 : BitVec 6) ++ sd ++ sa ++ sb ++ (0 : BitVec 4) : BitVec 32)]
  | .smov sd sa => [((8 : BitVec 4) ++ (17 : BitVec 6) ++ sd ++ sa ++ (0 : BitVec 6) ++ (0 : BitVec 4) : BitVec
    32)]
  | .spopc sd sa => [((8 : BitVec 4) ++ (18 : BitVec 6) ++ sd ++ sa ++ (0 : BitVec 6) ++ (0 : BitVec 4) :
    BitVec 32)]
  | .sclz sd sa => [((8 : BitVec 4) ++ (19 : BitVec 6) ++ sd ++ sa ++ (0 : BitVec 6) ++ (0 : BitVec 4) : BitVec
    32)]
  | .sdivN32 sd sa sb => [((8 : BitVec 4) ++ (20 : BitVec 6) ++ sd ++ sa ++ sb ++ (0 : BitVec 4) : BitVec 32)]
  | .sremN32 sd sa sb => [((8 : BitVec 4) ++ (21 : BitVec 6) ++ sd ++ sa ++ sb ++ (0 : BitVec 4) : BitVec 32)]
  | .sdivI32 sd sa sb => [((8 : BitVec 4) ++ (22 : BitVec 6) ++ sd ++ sa ++ sb ++ (0 : BitVec 4) : BitVec 32)]
  | .sremI32 sd sa sb => [((8 : BitVec 4) ++ (23 : BitVec 6) ++ sd ++ sa ++ sb ++ (0 : BitVec 4) : BitVec 32)]
  | .sfadd sd sa sb => [((8 : BitVec 4) ++ (24 : BitVec 6) ++ sd ++ sa ++ sb ++ (0 : BitVec 4) : BitVec 32)]
  | .sfmul sd sa sb => [((8 : BitVec 4) ++ (25 : BitVec 6) ++ sd ++ sa ++ sb ++ (0 : BitVec 4) : BitVec 32)]
  | .sffma sd sa sb => [((8 : BitVec 4) ++ (26 : BitVec 6) ++ sd ++ sa ++ sb ++ (0 : BitVec 4) : BitVec 32)]
  | .sfcmp sd sa sb fn => [((8 : BitVec 4) ++ (27 : BitVec 6) ++ sd ++ sa ++ sb ++ fn : BitVec 32)]
  | .scvt sd sa sb fn => [((8 : BitVec 4) ++ (28 : BitVec 6) ++ sd ++ sa ++ sb ++ fn : BitVec 32)]
  | .sadd64 sd sa sb => [((8 : BitVec 4) ++ (29 : BitVec 6) ++ sd ++ sa ++ sb ++ (0 : BitVec 4) : BitVec 32)]
  | .ssub64 sd sa sb => [((8 : BitVec 4) ++ (30 : BitVec 6) ++ sd ++ sa ++ sb ++ (0 : BitVec 4) : BitVec 32)]
  | .smulw sd sa sb => [((8 : BitVec 4) ++ (31 : BitVec 6) ++ sd ++ sa ++ sb ++ (0 : BitVec 4) : BitVec 32)]
  | .saddi sd sa imm => [((9 : BitVec 4) ++ (0 : BitVec 4) ++ sd ++ sa ++ imm : BitVec 32)]
  | .smuli sd sa imm => [((9 : BitVec 4) ++ (1 : BitVec 4) ++ sd ++ sa ++ imm : BitVec 32)]
  | .sandi sd sa imm => [((9 : BitVec 4) ++ (2 : BitVec 4) ++ sd ++ sa ++ imm : BitVec 32)]
  | .sori sd sa imm => [((9 : BitVec 4) ++ (3 : BitVec 4) ++ sd ++ sa ++ imm : BitVec 32)]
  | .sxori sd sa imm => [((9 : BitVec 4) ++ (4 : BitVec 4) ++ sd ++ sa ++ imm : BitVec 32)]
  | .sshli sd sa imm => [((9 : BitVec 4) ++ (5 : BitVec 4) ++ sd ++ sa ++ imm : BitVec 32)]
  | .sshri sd sa imm => [((9 : BitVec 4) ++ (6 : BitVec 4) ++ sd ++ sa ++ imm : BitVec 32)]
  | .ssari sd sa imm => [((9 : BitVec 4) ++ (7 : BitVec 4) ++ sd ++ sa ++ imm : BitVec 32)]
  | .sltiI32 sd sa imm => [((9 : BitVec 4) ++ (8 : BitVec 4) ++ sd ++ sa ++ imm : BitVec 32)]
  | .sltiN32 sd sa imm => [((9 : BitVec 4) ++ (9 : BitVec 4) ++ sd ++ sa ++ imm : BitVec 32)]
  | .seqi sd sa imm => [((9 : BitVec 4) ++ (10 : BitVec 4) ++ sd ++ sa ++ imm : BitVec 32)]
  | .sadd64i sd sa imm => [((9 : BitVec 4) ++ (11 : BitVec 4) ++ sd ++ sa ++ imm : BitVec 32)]
  | .smovi sd imm => [((10 : BitVec 4) ++ (0 : BitVec 4) ++ sd ++ imm : BitVec 32)]
  | .shii sd imm => [((10 : BitVec 4) ++ (1 : BitVec 4) ++ sd ++ imm : BitVec 32)]
  | .saddpc sd imm => [((10 : BitVec 4) ++ (2 : BitVec 4) ++ sd ++ imm : BitVec 32)]
  | .route sd slot kind fill dyn param => [((10 : BitVec 4) ++ (3 : BitVec 4) ++ sd ++ slot ++ kind ++ fill ++
    dyn ++ (0 : BitVec 6) ++ param : BitVec 32)]
  | .part tile => [((10 : BitVec 4) ++ (4 : BitVec 4) ++ (0 : BitVec 21) ++ tile : BitVec 32)]
  | .mode mask value => [((10 : BitVec 4) ++ (5 : BitVec 4) ++ (0 : BitVec 8) ++ mask ++ value : BitVec 32)]
  | .acq sd wait m => [((10 : BitVec 4) ++ (6 : BitVec 4) ++ sd ++ (0 : BitVec 1) ++ wait ++ (0 : BitVec 12) ++
    m : BitVec 32)]
  | .rel m => [((10 : BitVec 4) ++ (7 : BitVec 4) ++ (0 : BitVec 20) ++ m : BitVec 32)]
  | .sld sd sa sz off => [((11 : BitVec 4) ++ (0 : BitVec 4) ++ sd ++ sa ++ sz ++ off : BitVec 32)]
  | .sst ss sa sz off => [((11 : BitVec 4) ++ (1 : BitVec 4) ++ ss ++ sa ++ sz ++ off : BitVec 32)]
  | .sldc sd sa sz off => [((11 : BitVec 4) ++ (2 : BitVec 4) ++ sd ++ sa ++ sz ++ off : BitVec 32)]
  | .jmp off => [((12 : BitVec 4) ++ (0 : BitVec 4) ++ off : BitVec 32)]
  | .brz sa off => [((12 : BitVec 4) ++ (1 : BitVec 4) ++ sa ++ off : BitVec 32)]
  | .brnz sa off => [((12 : BitVec 4) ++ (2 : BitVec 4) ++ sa ++ off : BitVec 32)]
  | .call off => [((12 : BitVec 4) ++ (3 : BitVec 4) ++ off : BitVec 32)]
  | .callr sa => [((12 : BitVec 4) ++ (4 : BitVec 4) ++ sa ++ (0 : BitVec 18) : BitVec 32)]
  | .nop code => [((12 : BitVec 4) ++ (8 : BitVec 4) ++ (0 : BitVec 8) ++ code : BitVec 32)]
  | .trap code => [((12 : BitVec 4) ++ (9 : BitVec 4) ++ (0 : BitVec 8) ++ code : BitVec 32)]
  | .brk code => [((12 : BitVec 4) ++ (11 : BitVec 4) ++ (0 : BitVec 8) ++ code : BitVec 32)]
  | .tcopy sa sb sc => [((13 : BitVec 4) ++ (0 : BitVec 6) ++ sa ++ sb ++ sc ++ (0 : BitVec 4) : BitVec 32)]
  | .tcopyx sa sb sc e1 e0 ss1 e2 row0 ss2 m2 m1 m0 => [((13 : BitVec 4) ++ (1 : BitVec 6) ++ sa ++ sb ++ sc ++
    (4 : BitVec 4) : BitVec 32), (e1 ++ e0 : BitVec 32), (ss1 ++ e2 : BitVec 32), (row0 ++ ss2 : BitVec 32),
    ((0 : BitVec 2) ++ m2 ++ m1 ++ m0 : BitVec 32)]
  | .mcopy sa sb sc => [((13 : BitVec 4) ++ (2 : BitVec 6) ++ sa ++ sb ++ sc ++ (0 : BitVec 4) : BitVec 32)]
  | .bcopy sa sb sc nkey rowb creg nreg => [((13 : BitVec 4) ++ (3 : BitVec 6) ++ sa ++ sb ++ sc ++ (2 : BitVec
    4) : BitVec 32), (nkey ++ rowb : BitVec 32), ((0 : BitVec 20) ++ creg ++ nreg : BitVec 32)]
  | .chain sa sb sc ops kb ot it => [((13 : BitVec 4) ++ (4 : BitVec 6) ++ sa ++ sb ++ sc ++ (2 : BitVec 4) :
    BitVec 32), ops, ((0 : BitVec 22) ++ kb ++ ot ++ it : BitVec 32)]
  | .bseal t => [((13 : BitVec 4) ++ (5 : BitVec 6) ++ (0 : BitVec 3) ++ t ++ (0 : BitVec 16) : BitVec 32)]
  | .bwait t => [((13 : BitVec 4) ++ (6 : BitVec 6) ++ (0 : BitVec 3) ++ t ++ (0 : BitVec 16) : BitVec 32)]
  | .awinit sa sb => [((13 : BitVec 4) ++ (7 : BitVec 6) ++ sa ++ sb ++ (0 : BitVec 6) ++ (0 : BitVec 4) :
    BitVec 32)]
  | .await sa sb sc => [((13 : BitVec 4) ++ (8 : BitVec 6) ++ sa ++ sb ++ sc ++ (0 : BitVec 4) : BitVec 32)]
  | .obres sa sb sc h kind fmt lb split layout ns => [((13 : BitVec 4) ++ (9 : BitVec 6) ++ sa ++ sb ++ sc ++
    (1 : BitVec 4) : BitVec 32), (h ++ kind ++ fmt ++ lb ++ split ++ layout ++ ns ++ (0 : BitVec 17) : BitVec
    32)]
  | .obrel sa => [((13 : BitVec 4) ++ (10 : BitVec 6) ++ sa ++ (0 : BitVec 6) ++ (0 : BitVec 6) ++ (0 : BitVec
    4) : BitVec 32)]
  | .crew sa => [((13 : BitVec 4) ++ (11 : BitVec 6) ++ sa ++ (0 : BitVec 6) ++ (0 : BitVec 6) ++ (0 : BitVec
    4) : BitVec 32)]
  | .mma sa ha hb hc => [((13 : BitVec 4) ++ (12 : BitVec 6) ++ sa ++ (0 : BitVec 6) ++ (0 : BitVec 6) ++ (1 :
    BitVec 4) : BitVec 32), ((0 : BitVec 2) ++ ha ++ hb ++ hc ++ (0 : BitVec 18) : BitVec 32)]
  | .mmaRs sa sb sc ha hb hc sel rsel => [((13 : BitVec 4) ++ (12 : BitVec 6) ++ sa ++ sb ++ sc ++ (1 : BitVec
    4) : BitVec 32), ((1 : BitVec 2) ++ ha ++ hb ++ hc ++ (0 : BitVec 9) ++ sel ++ rsel : BitVec 32)]
  | .mmaSs sa sb sc ha hb hc => [((13 : BitVec 4) ++ (12 : BitVec 6) ++ sa ++ sb ++ sc ++ (1 : BitVec 4) :
    BitVec 32), ((2 : BitVec 2) ++ ha ++ hb ++ hc ++ (0 : BitVec 18) : BitVec 32)]
  | .mmas sa sb ha hb hc => [((13 : BitVec 4) ++ (13 : BitVec 6) ++ sa ++ sb ++ (0 : BitVec 6) ++ (1 : BitVec
    4) : BitVec 32), ((0 : BitVec 2) ++ ha ++ hb ++ hc ++ (0 : BitVec 18) : BitVec 32)]
  | .mman sa sb sc form ha hb hc sel rsel => [((13 : BitVec 4) ++ (14 : BitVec 6) ++ sa ++ sb ++ sc ++ (1 :
    BitVec 4) : BitVec 32), ((0 : BitVec 1) ++ form ++ ha ++ hb ++ hc ++ (0 : BitVec 9) ++ sel ++ rsel : BitVec
    32)]
  | .salient sa ha hb hc => [((13 : BitVec 4) ++ (15 : BitVec 6) ++ sa ++ (0 : BitVec 6) ++ (0 : BitVec 6) ++
    (1 : BitVec 4) : BitVec 32), ((0 : BitVec 2) ++ ha ++ hb ++ hc ++ (0 : BitVec 18) : BitVec 32)]
  | .accrd sa sb sc => [((13 : BitVec 4) ++ (16 : BitVec 6) ++ sa ++ sb ++ sc ++ (0 : BitVec 4) : BitVec 32)]
  | .accz sa => [((13 : BitVec 4) ++ (17 : BitVec 6) ++ sa ++ (0 : BitVec 6) ++ (0 : BitVec 6) ++ (0 : BitVec
    4) : BitVec 32)]
  | .capb sa sb sc => [((13 : BitVec 4) ++ (18 : BitVec 6) ++ sa ++ sb ++ sc ++ (0 : BitVec 4) : BitVec 32)]
  | .satom sa sb sc aop w nr cmp disp => [((13 : BitVec 4) ++ (20 : BitVec 6) ++ sa ++ sb ++ sc ++ (1 : BitVec
    4) : BitVec 32), (aop ++ w ++ nr ++ (0 : BitVec 3) ++ cmp ++ disp : BitVec 32)]
  | .redw sa sb sc ty op x => [((13 : BitVec 4) ++ (21 : BitVec 6) ++ sa ++ sb ++ sc ++ (1 : BitVec 4) : BitVec
    32), (ty ++ op ++ x ++ (0 : BitVec 24) : BitVec 32)]
  | .poolp sa sb sc => [((13 : BitVec 4) ++ (22 : BitVec 6) ++ sa ++ sb ++ sc ++ (0 : BitVec 4) : BitVec 32)]
  | .poold sa sb sc => [((13 : BitVec 4) ++ (23 : BitVec 6) ++ sa ++ sb ++ sc ++ (0 : BitVec 4) : BitVec 32)]
  | .launch sa sc => [((13 : BitVec 4) ++ (24 : BitVec 6) ++ sa ++ (0 : BitVec 6) ++ sc ++ (0 : BitVec 4) :
    BitVec 32)]
  | .bara level b => [((14 : BitVec 4) ++ (0 : BitVec 6) ++ level ++ b ++ (0 : BitVec 15) : BitVec 32)]
  | .barw level b => [((14 : BitVec 4) ++ (1 : BitVec 6) ++ level ++ b ++ (0 : BitVec 15) : BitVec 32)]
  | .bars level b => [((14 : BitVec 4) ++ (2 : BitVec 6) ++ level ++ b ++ (0 : BitVec 15) : BitVec 32)]
  | .fence kind scope => [((14 : BitVec 4) ++ (3 : BitVec 6) ++ kind ++ scope ++ (0 : BitVec 17) : BitVec 32)]
  | .csrr sd num => [((14 : BitVec 4) ++ (4 : BitVec 6) ++ sd ++ num ++ (0 : BitVec 4) : BitVec 32)]
  | .csrw sa num => [((14 : BitVec 4) ++ (5 : BitVec 6) ++ sa ++ num ++ (0 : BitVec 4) : BitVec 32)]
  | .tick sd => [((14 : BitVec 4) ++ (6 : BitVec 6) ++ sd ++ (0 : BitVec 16) : BitVec 32)]
  | .sleep sa => [((14 : BitVec 4) ++ (7 : BitVec 6) ++ sa ++ (0 : BitVec 16) : BitVec 32)]
  | .tmarm sa => [((14 : BitVec 4) ++ (8 : BitVec 6) ++ sa ++ (0 : BitVec 16) : BitVec 32)]
  | .trace sa sb code => [((14 : BitVec 4) ++ (9 : BitVec 6) ++ sa ++ sb ++ code : BitVec 32)]
  | .vexpand => [((4 : BitVec 4) ++ (9 : BitVec 6) ++ (0 : BitVec 6) ++ (0 : BitVec 6) ++ (0 : BitVec 6) ++ (0
    : BitVec 4) : BitVec 32)]
  | .vret => [((5 : BitVec 4) ++ (6 : BitVec 4) ++ (0 : BitVec 24) : BitVec 32)]
  | .vexit => [((5 : BitVec 4) ++ (7 : BitVec 4) ++ (0 : BitVec 24) : BitVec 32)]
  | .ret => [((12 : BitVec 4) ++ (5 : BitVec 4) ++ (0 : BitVec 24) : BitVec 32)]
  | .exit => [((12 : BitVec 4) ++ (6 : BitVec 4) ++ (0 : BitVec 24) : BitVec 32)]
  | .yield => [((12 : BitVec 4) ++ (7 : BitVec 4) ++ (0 : BitVec 24) : BitVec 32)]
  | .eret => [((12 : BitVec 4) ++ (10 : BitVec 4) ++ (0 : BitVec 24) : BitVec 32)]
  | .capeStep => [((13 : BitVec 4) ++ (19 : BitVec 6) ++ (0 : BitVec 22) : BitVec 32)]
  | .capeEnd => [((13 : BitVec 4) ++ (19 : BitVec 6) ++ (0 : BitVec 6) ++ (1 : BitVec 6) ++ (0 : BitVec 10) :
    BitVec 32)]
  | .succ => [((13 : BitVec 4) ++ (25 : BitVec 6) ++ (0 : BitVec 6) ++ (0 : BitVec 6) ++ (0 : BitVec 6) ++ (0 :
    BitVec 4) : BitVec 32)]
  | .waitpred => [((13 : BitVec 4) ++ (26 : BitVec 6) ++ (0 : BitVec 6) ++ (0 : BitVec 6) ++ (0 : BitVec 6) ++
    (0 : BitVec 4) : BitVec 32)]
  | .vswitch tag va cases => ((5 : BitVec 4) ++ (8 : BitVec 4) ++ tag ++ (0 : BitVec 3) ++ va ++ BitVec.ofNat 4
    (cases.length - 1) ++ (0 : BitVec 8) : BitVec 32) :: cases
  | _ => []

/-- The longest instruction, in words: a VSWITCH with 16 cases. -/
def maxWords : Nat := 17

/-- The words of a number whose bit 0 is bit 0 of the first word (spec/opcode_table.json). -/
def tableWords (w : Nat) : List Word := (List.range maxWords).map fun i => BitVec.ofNat 32 (w / 2 ^ (32 * i))

/-- The instruction the decoder reads from a table word, its bits above `nbits` zero. -/
def decodeTableWord (nbits w : Nat) : Option Instr :=
  decode ((tableWords (w % 2 ^ nbits)).flatMap bytesOfWord)

end Sys2Proof
end

