-- ==== Sys2Proof/Config.lean ====
section
/-! DEFINITION. What the manual leaves open: the free values. Each is an opaque constant with no body, so no
proof can see its value and a claim holds whatever it is. -/

namespace Sys2Proof

/-- SM3 digest (R66): a standard the manual names and does not give. Free value. -/
opaque Config.sm3 : List Byte → BitVec 256

/-- Digest of the firmware image that a module comes with (R66). Free value. -/
opaque Config.firmwareDigest : BitVec 256

/-- SM2 signature by the device identity key (R66). Free value. -/
opaque Config.sm2Sign : List Byte → BitVec 512

/-- Whether the SM2 signature of a firmware image verifies, and its version (R49). Free value. -/
opaque Config.sm2Verify : List Byte → Option (BitVec 32)

/-- SM4-XTS ciphertext byte of context, granule, plain granule bytes and offset (R63). Free value. -/
opaque Config.sm4Byte : Nat → Nat → List Byte → Nat → Byte

/-- The plain byte that a context's key makes of the 64 ciphertext bytes of a granule (R63): context, granule, bytes,
offset. Free value. -/
opaque Config.sm4Open : Nat → Nat → List Byte → Nat → Byte

/-- The two parity bytes of the 62 data bytes of one Reed-Solomon codeword (R26 gives no generator). Free value. -/
opaque Config.rsParity : List Byte → Byte × Byte

/-- Module number of the peer on a port's link (R39, R45: the domain's cabling is not the module's). Free value. -/
opaque Config.peerOf : Nat → Nat

/-- The hash that chooses a port (R34), of home module and domain address bits 47:8. Free value. -/
opaque Config.portHash : Nat → Nat → Nat

/-- Whether every field of a retired word is one that the 6000 series defined (R198). Free value. -/
opaque Config.emulDefined : Word → Bool

/-- Result of a retired opcode in one lane: the word, the lane, the active mask, the 32 lanes of its two vector
operands (R8, R196: the 6000-series manual defines it). Free value. -/
opaque Config.emulResult : Word → Nat → BitVec 32 → List Word → List Word → Word

/-- MODE after the emulation of a retired opcode (R196 item 3, MODE-visible state). Free value. -/
opaque Config.emulMode : Word → BitVec 8 → BitVec 8

/-- A 64-byte version 1 kernel header in the layout of version 2 (R55: the 6000 series defines it). Free value. -/
opaque Config.header6000 : List Byte → List Byte

/-- Code that the translator produces for one Vorxus function, or none for an invalid module (R58, R59: the
encoding of a region's operations is Vorxus's own). Free value. -/
opaque Config.vorxusCode : List Byte → Option (List Byte)

/-- The 32 bytes of a stub's trampoline clause (R60). Free value. -/
opaque Config.vorxusTrampoline : DWord → BitVec 256

/-- Whether a confidential context has registered a page when a fault-service entry for it is answered (R209 gives no
operation that registers one): context, page, serial of the entry. Free value. -/
opaque Config.registered : Nat → Nat → Nat → Bool

/-- The 32 bytes of the branch to staged code that replace a trampoline (R60). Free value. -/
opaque Config.vorxusBranch : DWord → DWord → BitVec 256

end Sys2Proof
end

