-- ==== Sys2Proof/Machine/State.lean ====
section
/-! DEFINITION. The state of the Caeryen 7100: everything the manual gives the machine, as plain data, and the
machine right after reset. -/

namespace Sys2Proof.Machine

/-! ## Strands (R105) -/

/-- A form (R107): base and stride. -/
structure Form where
  base : Word
  stride : Word
  deriving DecidableEq, Repr

/-- What holds threads (R105): a range of logical indices, the active lanes of a warp, or the timer handler, a
uniform-only strand (R199). -/
inductive SKind where
  | range (lo n : Nat)
  | lane (warp : Nat) (mask : BitVec 32)
  | handler
  deriving DecidableEq, Repr

/-- A fetched clause (R215, R219): the header's address and fields, the words after it, whether its first instruction has
issued, and the destinations of the set-A operations that it has started: file (1 v, 2 s) and number (R218). -/
structure Clause where
  base : DWord
  words : List Word
  wait : BitVec 12
  setA : BitVec 4
  setB : BitVec 4
  yield : Bool
  started : Bool
  dst : List (Nat × Nat)
  deriving DecidableEq, Repr

/-- A divergence-stack entry (R117): KIND 0 GROUP, 1 DEFER, 2 CALLJOIN, and beside its 128 bits what the strand that
resumes from it needs: the clause around PC, whether its lanes resume a barrier instruction that acts as BARW
(R385), and for CALLJOIN the return depth, the blocks that the parent held, and 1 plus the lowest lane of the target
(R62, R127). -/
structure DivEntry where
  maskB : BitVec 32
  maskA : BitVec 32
  kind : BitVec 2
  tag : BitVec 4
  pc : BitVec 48
  clause : Option Clause
  barw : Bool
  depth : Nat
  live : BitVec 8
  part : Nat := 0
  /-- of a DEFER entry, the return stack of the lanes that it holds, on chip and in frames (R126) -/
  ret : List DWord := []
  frames : List DWord := []
  deriving DecidableEq, Repr

/-- A barrier of one owner (R302): level 0 warp, 1 workgroup, 2 gang, 3 cluster, 4 grid, 5 domain; the owner's
numbers; the barrier number. -/
structure BarKey where
  level : Nat
  owner : Nat
  sub : Nat
  b : Nat
  deriving DecidableEq, Repr

/-- An arrival record (R303): the barrier, the generation, and on a lane strand the lanes that have arrived. -/
structure ArrRec where
  key : BarKey
  gen : Nat
  lanes : BitVec 32
  deriving DecidableEq, Repr

/-- Why a strand is not eligible (R80), with what its release needs. -/
inductive Block where
  | none
  /-- waits at a join (R119): group number, none for the root group; tag; live blocks; clock of arrival -/
  | join (group : Option (BitVec 32)) (tag : BitVec 4) (live : BitVec 8) (reform : Bool) (since : Nat)
  /-- waits for barrier generations to change (R303); `done`: the instruction completes at release -/
  | barrier (keys : List (BarKey × Nat)) (done : Bool)
  /-- arrived at the crew latch of a value of CREW (R317) -/
  | crew (v : DWord)
  /-- a request that waits for acceptance (R307) -/
  | accept
  /-- AWAIT (R293): memory key of the word, generation, deadline tick, destination register -/
  | await (key : Nat) (gen : Word) (deadline : Option Nat) (sc : BitVec 6)
  /-- BWAIT (R291) -/
  | bwait (t : BitVec 3)
  /-- WAITPRED (R348) -/
  | waitpred
  /-- SLEEP (R352) -/
  | sleep (till : Nat)
  /-- ACQ (R278): blocks asked for, destination register, tick of issue -/
  | acq (m : Nat) (sd : BitVec 6) (since : Nat)
  /-- behind the expansion cursor (R123) -/
  | expand
  /-- a split, an expansion or a merge waits for set-A flags (R116) -/
  | flags
  /-- OBRES or OBREL waits for requests (R313) -/
  | requests
  /-- answers of other modules are awaited (R37) -/
  | remote
  /-- a host translation is awaited (R138) -/
  | ats (page : Nat)
  /-- CAPB on a record another token holds (R342): memory key of the record -/
  | capsule (key : Nat)
  /-- a displaced holder waits for its reply (R343) -/
  | reply
  /-- threads that wait at a VCALLR for a free target slot (R62) -/
  | target
  /-- parked on a fault of kind P (R184): class, context, faulting address and FLAGS of its record -/
  | parked (cls : BitVec 8) (ctx addr flags : Nat)
  /-- parked on a trap of kind G; never runs again (R191) -/
  | ended
  /-- a retired opcode waits for the foreman (R196): the lanes it acts on, and results staged for each lane -/
  | emulate (word : Word) (vd : BitVec 6) (act : BitVec 32) (staged : List Word)
  /-- parked at a trampoline (R60) -/
  | translate (stub : DWord)
  deriving DecidableEq, Repr

/-- A capsule that a strand is inside of (R340 to R343). -/
structure Caps where
  record : DWord
  loc : Nat
  reply : DWord
  exit : DWord
  adopter : Bool
  token : BitVec 48
  /-- steps the strand has seen committed -/
  steps : Nat
  icount : Nat
  wcount : Nat
  /-- held stores of the current step, in program order -/
  held : List (Nat × List Byte)
  /-- token of the first holder, whose reply block `reply` is (R340) -/
  htoken : BitVec 48
  /-- an adopter whose end commit was accepted has yet to write the reply (R343) -/
  replying : Bool
  /-- an adopter's own c0 to c7, the address of its CAPB, and the clause around it -/
  savedC : List Word
  savedPc : DWord
  savedClause : Option Clause
  deriving DecidableEq, Repr

/-- What an asynchronous fault is reported at (R190). -/
inductive WaitOn where
  | flag (f : BitVec 4)
  | batch (t : BitVec 3)
  | word (key : Nat)
  deriving DecidableEq, Repr

/-- A command's fault, kept until a strand that holds its flag waits (R190, R331): what the wait is on, the command, the
strand that the record names, and whether the record has been written. -/
structure AsyncFault where
  waitOn : List WaitOn
  id : Nat
  by_ : Nat
  quiet : Bool
  cls : BitVec 8
  pc : DWord
  addr : DWord
  first : Nat
  sufn : Nat
  write : Bool
  /-- the threads of copies that have failed: only a wait of one of them covers the fault (R149) -/
  threads : List Nat := []
  deriving DecidableEq, Repr

/-- What a strand parked on faults of kind P keeps for its records: the address of the trapping word, the threads named,
and class, lane and address of every parked element (R189, R195). -/
structure Park where
  pc : DWord
  who : Option (Nat × Nat)
  elems : List (Nat × Nat × Nat)
  deriving DecidableEq, Repr

/-- A strand (R105). -/
structure Strand where
  wg : Nat
  core : Nat
  slot : Nat
  /-- the slot is borrowed (R71) -/
  borrowed : Bool
  /-- the slot is one of the 32 split slots (R70) -/
  split : Bool
  /-- held in the image, not in a slot (R89, R92) -/
  parkedOut : Bool
  kind : SKind
  forms : Tab Form
  /-- run predicates k1 to k7 of a range strand (R111): lengths and values of maximal runs -/
  runs : Tab (List (Nat × Bool))
  /-- lane masks k1 to k7 of a lane strand -/
  masks : Tab (BitVec 32)
  s : Tab Word
  pc : DWord
  clause : Option Clause
  div : List DivEntry
  /-- on-chip return stack, newest first (R126) -/
  ret : List DWord
  /-- addresses of return-stack frames, newest first (R126) -/
  frames : List DWord
  /-- route slots ro1 to ro3 (R253) -/
  route : Tab (BitVec 16)
  tile : BitVec 3
  mode : BitVec 8
  sticky : BitVec 7
  arrivals : List ArrRec
  /-- barrier generations in which the strand has given way (R385) -/
  gaveWay : List (BarKey × Nat)
  /-- lanes or elements that have completed the instruction at which the strand stands (R129) -/
  doneLanes : BitVec 32
  doneCount : Nat
  /-- the barrier instruction at PC acts as BARW (R385) -/
  asBarw : Bool
  caps : Option Caps
  async : List AsyncFault
  park : Park
  block : Block
  /-- tick at which the wait began (R187) -/
  waitTick : Nat
  /-- clock until which the strand is not eligible (R80, R339) -/
  yieldUntil : Nat
  /-- clock and tick of the last issue (R81, R189), and tick of placement (R101) -/
  lastIssue : Nat
  issueTick : Nat
  placed : Nat
  deriving DecidableEq, Repr

/-- A warp (R124): blocks held, and lane j of v(r) at key 32 r + j. -/
structure Warp where
  blocks : Nat
  regs : Tab Word
  deriving DecidableEq, Repr

/-- A placed workgroup (R70, R89). -/
structure Wg where
  grid : Nat
  /-- linear workgroup index (R67) -/
  w : Nat
  core : Nat
  soff : Nat
  ooff : Nat
  satctl : BitVec 3
  crew : DWord
  tmvec : DWord
  trbase : DWord
  trctl : DWord
  /-- tick of the armed timer, 0 when disarmed (R89, R353) -/
  tmexp : Nat
  /-- d24 and d25 of the arming strand (R199) -/
  tmArgs : DWord × DWord
  /-- exited threads of each warp, and the sticky flags of strands that are gone (R173) -/
  exited : Tab (BitVec 32)
  sticky : BitVec 7
  warps : Tab Warp
  /-- next group number of a split (R114) -/
  group : BitVec 32
  /-- every thread has exited and everything it began is complete (R93) -/
  drained : Bool
  /-- arrival words in its scratchpad while it is out (R147, R87) -/
  words : List Nat
  /-- its image has been given up (R56) -/
  lost : Bool := false
  /-- bytes of scratchpad and operand buffer while it is out, as the placer keeps them (R87, R89), and whether its image in
  memory is behind -/
  kept : List Byte := []
  dirty : Bool := false
  deriving DecidableEq, Repr

/-! ## Operations in flight -/

/-- Run-ahead of a VLDG (R286, R287): its tag, its window, and the lanes that load. -/
structure Ahead where
  tag : BitVec 3
  win : Nat
  lanes : BitVec 32
  deriving DecidableEq, Repr

/-- What an ACCRD has yet to read (R324): the requests that it waits for, the key of the C entries, whether they lie by columns,
the row pair, the first destination register, and its lanes. -/
structure AccRead where
  reqs : List Nat
  key : Nat
  layout : Bool
  rp : Nat
  vd : Nat
  lanes : BitVec 32
  deriving DecidableEq, Repr

/-- A set-A or set-B operation in flight (R218): the flag is busy for every holder until it is removed. -/
structure Op where
  flag : BitVec 4
  setB : Bool
  holders : List Nat
  wg : Nat
  warp : Nat
  /-- destination registers, for the hazard trap (R186) -/
  dstV : List Nat
  dstS : List Nat
  /-- results not yet delivered: lane (32: every thread of a range strand), register, value -/
  res : List (Nat × Nat × Word)
  sres : List (Nat × Word)
  /-- the operation waits for an engine, the MXE or a home, not for memory alone -/
  external : Bool
  ahead : Option Ahead
  acc : Option AccRead := none
  deriving DecidableEq, Repr

/-- A per-thread copy (R290): open (no batch) or sealed; `inst` numbers the VCOPY that made it; a copy that has met a
fault of kind G keeps it until it is sealed (class, address, on a write). -/
structure VCp where
  wg : Nat
  uid : Nat
  thread : Nat
  batch : Option (BitVec 3)
  dst : Nat
  src : DWord
  size : Nat
  valid : Nat
  pc : DWord
  inst : Nat
  failed : Option (Nat × DWord × Bool)
  deriving DecidableEq, Repr

/-- A 16-byte unit an engine has read: its bytes and whether a granule of them is poisoned; none: the read failed. -/
abbrev Unit16 := Option (List Byte × Bool)

/-- What the stream unit does for one command (R294 to R301). A destination of TCOPY is a list of segments: first
offset, length, memory key of the first byte. -/
inductive EngKind where
  /-- source, destination segments, base offset, bytes per row and extents, strides of the destination in bytes and of
  the source, MODE (R295, R296) -/
  | tcopy (src : DWord) (segs : List (Nat × Nat × Nat)) (base e0 e1 e2 e3 ds1 ds2 ds3 : Nat) (ss1 ss2 ss3 : Int)
      (mode : Nat)
  /-- source, byte count, for each target its destination segments and arrival word, base offset, and the units once read
  (R298) -/
  | mcopy (src : DWord) (count : Nat) (targets : List (List (Nat × Nat × Nat) × Option Nat)) (base : Nat)
      (data : Option (List Unit16))
  /-- rows, keys, destination, counts, N, ROWB, NKEY (R299) -/
  | bcopy (rows keys dst counts : DWord) (n rowb nkey : Nat)
  /-- source, destination, elements per row, types, operation codes with constants, RND and FTZ (R300) -/
  | chain (src dst : DWord) (elems it ot : Nat) (ops : List (Nat × Word)) (rnd : Nat) (ftz : Bool)
  /-- address, value, type, operation, X, sequence index (R301) -/
  | redw (addr : DWord) (value : List Byte) (ty op : Nat) (x : Bool) (seqidx : Nat)
  deriving DecidableEq, Repr

/-- An engine command in progress. -/
structure Engine where
  op : Nat
  uid : Nat
  wg : Nat
  core : Nat
  flag : BitVec 4
  /-- FIRST and SUFN of the issuing strand (R190) -/
  names : Nat × Nat
  kind : EngKind
  /-- rows or targets done, and how many there are -/
  next : Nat
  total : Nat
  /-- arrival word (R148) -/
  arr : Option Nat
  pc : DWord
  /-- the first fault of kind G met: class, address, on a write -/
  failed : Option (Nat × DWord × Bool)
  /-- tick before which a contribution that was answered RETRY is not sent again (R42) -/
  after : Nat := 0
  /-- the 32-byte scratchpad granules that the command has read from, as it read them, by their numbers (R161) -/
  seen : Tab (List Byte) := []
  /-- the first half of a 4-byte word whose other half is in the next row: address, bytes, poison (R161, R300) -/
  tail : Option (DWord × List Byte × Bool) := none
  deriving DecidableEq, Repr

/-- A request of the MXE reservation table (R307, R330). -/
structure MxeReq where
  wg : Nat
  /-- the set-B operation whose flag it holds -/
  op : Nat
  word : Word
  inl : Word
  passw : Word
  done : Nat
  total : Nat
  addr : DWord
  sbytes : Nat
  leader : Nat
  uid : Nat
  /-- FIRST and SUFN of the leader strand at acceptance (R331) -/
  lead : Nat × Nat := (0, 1)
  pc : DWord
  acceptTick : Nat
  order : Nat
  lastGrant : Option Nat
  /-- MMAS after the dense fallback (R326): passes read the expanded range -/
  dense : Bool
  /-- MMAS on the assay path, chosen at acceptance (R326) -/
  assay : Bool := false
  /-- descriptor and bitmap of an MMAS as they were read (R325, R327); none: they are to be read again (R330) -/
  tile : Option (List Byte × List Byte) := none
  /-- scale blocks of an MMA.SS that have been read from its stream (R321) -/
  stream : Tab (List Byte) := []
  /-- a fault has ended it; the record stays for the image (R193) -/
  ended : Bool := false
  deriving DecidableEq, Repr

/-! ## Grids and contexts -/

/-- A gang's state (R76, R86, R89, R93). -/
inductive GangSt where
  | resident
  | halting
  | saving
  /-- out, awaiting restore -/
  | out
  /-- out and never restored (R191) -/
  | dead
  | retired
  deriving DecidableEq, Repr

/-- A gang that has been placed at least once. -/
structure Gang where
  st : GangSt
  quad : Nat
  /-- tick of the last placement, placeable tick, and tick of the pre-emption request -/
  placed : Nat
  since : Nat
  reqTick : Nat
  /-- workgroup keys of its members, by rank -/
  members : List Nat
  deriving DecidableEq, Repr

/-- Kernel header fields (R55). -/
structure Header where
  format : Nat
  gang : Nat
  entry : DWord
  scratch : Nat
  obuf : Nat
  vblk : Nat
  acqmax : Nat
  barwg : Nat
  bargang : Nat
  barclus : Nat
  bargrid : Nat
  mode : BitVec 8
  flags : BitVec 8
  callarea : Nat
  ctxarea : Nat
  parammin : Nat
  deriving DecidableEq, Repr

/-- A level word (R54). -/
structure Level where
  extent : Nat
  domain : Nat
  scope : Nat
  deriving DecidableEq, Repr

/-- How a grid stands (R54, R94, R191). -/
inductive GridSt where
  | live
  /-- ends with this completion STATUS once every gang is saved or drained -/
  | ending (status : Nat)
  | done (status : Nat)
  deriving DecidableEq, Repr

/-- A grid (R54). -/
structure Grid where
  ctx : Nat
  queue : Option Nat
  parent : Option Nat
  recNo : Nat
  prio : Nat
  nlev : Nat
  /-- levels 2 to NLEV - 1 -/
  levels : List Level
  param : DWord
  paramsz : Nat
  compaddr : DWord
  compval : DWord
  seq : BitVec 32
  irq : Option Nat
  hdr : Header
  /-- base of its run of workgroup areas (R56) -/
  area : Option DWord
  pred : Option Nat
  st : GridSt
  /-- placeable tick of the gangs not placed yet -/
  since : Nat
  /-- gangs below this index have been placed -/
  nextGang : Nat
  gangs : Tab Gang
  /-- workgroups that have executed SUCC (R98) -/
  signalled : List Nat
  deriving DecidableEq, Repr

/-- A fault record (R189). -/
structure FaultRec where
  tick : DWord
  cls : BitVec 8
  flags : BitVec 8
  pc : BitVec 48
  first : BitVec 32
  sufn : BitVec 32
  wg : BitVec 32
  core : BitVec 10
  slot : BitVec 10
  ctx : BitVec 8
  lcrd : List (BitVec 32)
  seq : BitVec 32
  addr : DWord
  deriving DecidableEq, Repr

/-- A stub of a Vorxus module (R58, R60): where its function's body lies and its name, how many regions the body has, where
its translation is staged, and whether the translation is committed. -/
structure Stub where
  body : DWord
  len : Nat
  regions : Nat
  name : DWord
  staged : Option DWord
  committed : Bool
  deriving DecidableEq, Repr

/-- A context (R48, R49). -/
structure Ctx where
  ptroot : Nat
  heapBase : DWord
  heapSize : Nat
  waitLim : Nat
  waPool : DWord
  waSize : Nat
  cflags : BitVec 16
  rpBase : DWord
  rpSize : Nat
  rpProd : DWord
  rpCons : DWord
  /-- a trap of kind C has ended it (R192) -/
  fatal : Bool
  /-- fault log, oldest first, at most 1,024, and how many were produced (R190) -/
  log : List FaultRec
  logged : Nat
  /-- runs of workgroup areas in use: grid, base, bytes (R56) -/
  runs : List (Nat × DWord × Nat)
  stubs : Tab Stub
  /-- next free byte of the code heap (R60) -/
  heapNext : Nat
  /-- SM3 digest of the code pages at the last ISYNC (R66) -/
  digest : BitVec 256
  deriving DecidableEq, Repr

/-! ## Host interface (R46 to R53, R194) -/

/-- What a queue remembers of the LAUNCH record before (R54 DEP). -/
inductive PrevLaunch where
  | none
  | rejected
  | grid (g : Nat)
  deriving DecidableEq, Repr

/-- A SIGNAL or ISYNC that waits (R53). -/
structure QWait where
  isync : Bool
  ctx : Nat
  grids : List Nat
  seq : BitVec 32
  compaddr : DWord
  compval : DWord
  irq : Option Nat
  deriving DecidableEq, Repr

/-- A launch queue (R51). -/
structure Queue where
  base : DWord
  en : Bool
  err : Bool
  host : Bool
  ctx : Nat
  logsz : Nat
  prioMax : Nat
  prod : BitVec 32
  cons : BitVec 32
  /-- index of the next record to read: records that were unread when EN was cleared lie before it (R52) -/
  next : BitVec 32
  wb : DWord
  prev : PrevLaunch
  waits : List QWait
  deriving DecidableEq, Repr

/-- A fault-service entry (R194). -/
structure FsEntry where
  serial : Nat
  ctx : Nat
  page : Nat
  kind : Nat
  tick : Nat
  deriving DecidableEq, Repr

/-- Who waits for an answer of another module or of a resolver of faults: a strand, an engine command or per-thread copy,
a request of the MXE, the image of a workgroup, the headframe at a queue's next record, or a write of the headframe. -/
inductive Asker where
  | strand (uid : Nat)
  | engine (id : Nat)
  | mxe (id : Nat)
  | image (wg : Nat)
  | head (queue : Nat)
  | headOut (id : Nat)
  deriving DecidableEq, Repr

/-- An element of an agent that is no strand, parked on a page (R190, R194): class 0x13 or 0x19, context, 64 KiB page,
and whether the answer was that the page will not be there. -/
structure Hold where
  asker : Asker
  cls : Nat
  ctx : Nat
  page : Nat
  failed : Bool
  deriving DecidableEq, Repr

/-- A mailbox command whose reply is not complete (R48). -/
structure MbPending where
  seq : BitVec 16
  err : Nat
  reply : List Byte
  /-- context that is being destroyed: its gangs must be gone first -/
  destroy : Option Nat
  deriving DecidableEq, Repr

/-- A write of the headframe that waits for a host translation or another module (R51, R54): KIND and SEQ of the canary
event should it fail, and the vector to raise after it. -/
structure HeadOut where
  id : Nat
  ctx : Nat
  queue : Option Nat
  addr : Nat
  bytes : List Byte
  kind : Nat
  seq : Nat
  irq : Option Nat
  deriving DecidableEq, Repr

/-- The host interface: mailbox, BARWIN, queues, fault-service ring, and the vectors raised. -/
structure HostIf where
  mbcmd : DWord
  mbstat : DWord
  mbdata : Tab Byte
  mbPending : Option MbPending
  barwin : DWord
  /-- reply to the last BAR2 read; none: Unsupported Request -/
  bar2Reply : Option (List Byte)
  queues : Tab Queue
  fsrBase : DWord
  fsrEn : Bool
  fsrLogsz : Nat
  fsrProd : Nat
  fsrCons : Nat
  fsrSerial : Nat
  /-- entries written and not answered; requests waiting for room -/
  fsrOpen : List FsEntry
  fsrWait : List FsEntry
  /-- BAR0 registers without a row of their own (R46) -/
  bar0 : Tab DWord
  /-- MSI-X vectors raised, newest first -/
  msix : List Nat
  /-- host translations by ATS (R138): enabled, page to address or not present, refused pages -/
  atsOn : Bool
  ats : Tab Nat
  hostRefused : List Nat
  /-- page requests sent and not answered: context, host page -/
  pageReqs : List (Nat × Nat)
  holds : List Hold
  /-- writes of the headframe that wait (R51, R54) -/
  headOut : List HeadOut
  /-- bytes of the BAR2 aperture, which the host resizes (R47) -/
  bar2Size : Nat
  deriving DecidableEq, Repr

/-! ## Fabric (R25 to R45) -/

/-- A payload flit kept for replay (R27): sequence number, virtual channel, beats, and the contexts that own a message
in it (R30). -/
structure Flit where
  seq : BitVec 12
  vc : BitVec 3
  beats : List DWord
  owners : List Nat
  deriving DecidableEq, Repr

/-- A Twiette port (R27 to R31). -/
structure Port where
  /-- 0 down, 1 training, 2 up, 3 fenced -/
  st : BitVec 4
  retrains : Nat
  replays : Nat
  feccor : Nat
  txSeq : BitVec 12
  rxSeq : BitVec 12
  /-- last sequence number the peer acknowledged is the one before the first of these -/
  unacked : List Flit
  /-- flits to resend before any new one -/
  resend : List Flit
  nakSent : Bool
  /-- a NAK is to be sent in the next header -/
  nakDue : Bool
  /-- channels the peer has paused, and channels this port pauses -/
  peerPause : BitVec 8
  pause : BitVec 8
  /-- received flits held per channel, oldest first: how many messages that end in the flit have not been acted on, and
  whether its last message goes on in a later flit; the buffer given to each channel, and the thresholds (R29) -/
  rxBuf : Tab (List (Nat × Bool))
  size : Tab Nat
  xoff : Tab Nat
  xon : Tab Nat
  /-- replays of the same flit in a row (R30) -/
  sameReplay : Nat
  lastAck : Nat
  retrainTicks : List Nat
  /-- messages to send, each with its channel; beats received of a message not complete, per channel -/
  txq : List (BitVec 3 × Msg)
  partials : Tab (List DWord)
  /-- beats that have been sent of the first message of a channel in `txq` -/
  txRest : Tab Nat
  /-- the flit that left last: the 64 bytes that each of the four lanes carried (R25) -/
  sent : List (List Byte)
  /-- measured round trip in ticks, and the tick at which the exchange under way began (R39) -/
  roundTrip : Option Nat
  syncSent : Option Nat
  deriving DecidableEq, Repr

/-- A request that has no answer yet (R38): `idx` is the element of the asker's operation, `vc` its channel, `port` the one
it left by, none while it has not left (R34). -/
structure Req where
  asker : Asker
  idx : Nat
  core : Nat
  msg : Msg
  tick : Nat
  vc : BitVec 3
  port : Option Nat
  /-- RETRY received: tick before which it is not resent (R42) -/
  retryAt : Option Nat
  deriving DecidableEq, Repr

/-- An answer received: asker, element, data, or the fault class (R37). -/
structure Answer where
  asker : Asker
  idx : Nat
  data : List Byte
  fault : Option (BitVec 8)
  deriving DecidableEq, Repr

/-- An element of a reduction window (R42): expected index, and the contributions held, in the order of their coming:
port, index, value, tick at which it was held. -/
structure Elem where
  e : Nat
  held : List (Nat × Nat × List Byte × Nat)
  deriving DecidableEq, Repr

/-- A reduction window (R40). -/
structure Window where
  base : DWord
  ctl : DWord
  failed : Bool
  elems : Tab Elem
  deriving DecidableEq, Repr

/-- The fabric. -/
structure Fabric where
  ports : Tab Port
  reqs : Tab Req
  nextTag : Nat
  answers : List Answer
  windows : Tab Window
  dbar : Tab DWord
  /-- domain barrier arrivals held at ROOT: barrier, generation bit, module (R305) -/
  arrived : List (Nat × Nat × Nat)
  /-- requests that wait for the restore of an allocation's owner (R145) -/
  held : List Event
  deriving DecidableEq, Repr

/-! ## Homes (R154 to R156) -/

/-- A write its home has not applied: the die, core, workgroup and threads that issued it, the memory key of its
first byte, its bytes, the die's release epoch, whether the issuing instruction covers its 64-byte granule whole,
and a number that the writes of one instruction share (R19). -/
structure PWrite where
  die : Nat
  core : Nat
  wg : Nat
  kind : SKind
  loc : Nat
  bytes : List Byte
  epoch : Nat
  covers : Bool
  grp : Nat
  deriving DecidableEq, Repr

/-- An applied write not yet visible at a die: the bytes that the die still reads. -/
structure Unseen where
  loc : Nat
  old : List Byte
  deriving DecidableEq, Repr

/-- An allocation of a slice (R143). -/
structure Alloc where
  core : Nat
  off : Nat
  len : Nat
  wg : Nat
  grid : Nat
  /-- linear workgroup index of the owner -/
  w : Nat
  level : BitVec 3
  deriving DecidableEq, Repr

/-- Memory's surroundings: poison, writes under way, allocations, caches. -/
structure Home where
  /-- poisoned granules: memory key div 64 (R19) -/
  poison : List Nat
  writes : Tab PWrite
  nextWrite : Nat
  unseen : Tab (List Unseen)
  epoch : Tab Nat
  allocs : List Alloc
  /-- translations cached: context, 64 KiB virtual page, entry, page bits (R136) -/
  tlb : List (Nat × Nat × DWord × Nat)
  /-- miss queue of each die: context, 64 KiB virtual page (R137) -/
  misses : Tab (List (Nat × Nat))
  /-- instruction cache: context, address, word (R57) -/
  icache : List (Nat × Nat × Word)
  /-- arrival words armed or awaited (R147) -/
  words : List Nat
  deriving DecidableEq, Repr

/-! ## Module -/

/-- A canary event (R206, R207). -/
structure Canary where
  tick : DWord
  src : BitVec 8
  ev : BitVec 8
  unit : BitVec 16
  data : BitVec 32
  deriving DecidableEq, Repr

/-- Module-wide registers and signals (R10 to R24, R190, R202, R208). -/
structure Module where
  clock : Nat
  phase : BitVec 2
  tick : DWord
  booted : Bool
  failedBoot : Bool
  fatal : Bool
  stopped : Bool
  stopTick : Option DWord
  pwrgood : Bool
  thermN : Bool
  pwrstat : DWord
  modcap : DWord
  qmask : Tab DWord
  pmask : Tab DWord
  twcfg : DWord
  corrected : Tab Nat
  image : BootImage
  /-- the firmware image that runs, none for the one the module came with, and one staged for the next reset (R48, R66) -/
  firmware : Option (List Byte)
  staged : Option (List Byte)
  canary : Tab (List Canary)
  /-- the last readings of the sensors: module watts, junction and inlet in degrees Celsius, input volts (R12) -/
  readings : List Nat
  dtick : DWord
  dbytes : Nat
  dflags : BitVec 32
  deriving DecidableEq, Repr

/-- A chunk of a core under recording or replay (R203): instructions executed, host and peer values read, memory as
it stood at the chunk's start, and whether the chunk has closed and waits for its commit. -/
structure Chunk where
  count : Nat
  beats : List DWord
  view : Memory
  closed : Bool
  deriving DecidableEq, Repr

/-- A core's registers that belong to no strand (R102, R199, R340). -/
structure Core where
  epoch : BitVec 21
  counting : Bool
  /-- the counts as they stand at clock `upto`: the clocks since then have no strand in a slot -/
  elig : Tab Nat
  stall : Tab Nat
  upto : Nat
  /-- the PC of each slot as a handler of a workgroup sampled it (R200) -/
  slotPc : Tab (Nat × DWord)
  /-- workgroups whose timer has expired and whose handler has not started -/
  expired : List Nat
  /-- open or closed chunks, and the slot that issued last in record mode, for each context (R203) -/
  chunks : Tab Chunk
  turn : Tab Nat
  deriving DecidableEq, Repr

/-- What a head waits for (R79). -/
inductive Target where
  | quad (q : Nat)
  | cluster (c : Nat)
  | whole
  deriving DecidableEq, Repr

/-- An assay program (R326): context, descriptor address, and the runs of bytes it was compiled from (R327): memory keys, or,
from 2^66, bytes of another module. -/
structure Assay where
  ctx : Nat
  desc : DWord
  runs : List (Nat × Nat)
  deriving DecidableEq, Repr

/-- The placers and the MXE arbiters. -/
structure Sched where
  /-- head: grid, gang, tick, target (R79) -/
  head : Option (Nat × Nat × Nat × Target)
  /-- tick before which a die's placer places nothing (R76) -/
  ready : Tab Nat
  /-- reservation tables and the pass that runs on each quad: request, end clock (R307, R308) -/
  mxe : Tab MxeReq
  running : Tab (Nat × Nat)
  /-- assay cache of each quad, most recently used first (R326) -/
  assay : Tab (List Assay)
  /-- programs being compiled, each with its quad -/
  assaying : List (Nat × Assay)
  deriving DecidableEq, Repr

/-- What the picker has chosen and the pipe now issues: the strand, the address of the instruction word, the
mask its predicate names (0: none), and how many words precede it in the same issue. -/
structure Issue where
  uid : Nat
  pc : DWord
  pred : BitVec 3
  deriving DecidableEq, Repr

/-- The machine. -/
structure State where
  mod : Module
  mem : Memory
  home : Home
  fab : Fabric
  host : HostIf
  ctxs : Tab Ctx
  grids : Tab Grid
  wgs : Tab Wg
  strands : Tab Strand
  ops : Tab Op
  copies : Tab VCp
  engines : Tab Engine
  bars : List (BarKey × Nat)
  sched : Sched
  cores : Tab Core
  /-- model fields: the issue under way, the strands picked in this clock, the operations of other agents that
  act next, what the one under way acts on, and the next unique number -/
  cur : Option Issue
  issueQ : List Nat
  events : List Event
  arg : Arg
  next : Nat
  deriving DecidableEq, Repr

/-- Why a step stops with a fault. -/
inductive Fault where
  /-- Raised by every instruction when no strand is issuing (State.cur names none): a state that no run reaches,
  since step names the issuing strand before it calls exec. Safe: no claim about a run follows from it. -/
  | noIssuer
  deriving DecidableEq, Repr

/-- Why a step has no meaning. -/
inductive Refusal where
  /-- Raised by Dispatch for an instruction without a meaning: its mnemonic. Safe. -/
  | notModelled (mnemonic : String)
  deriving DecidableEq, Repr

/-! ## Reset -/

/-- The firmware image of an undegraded module 0 (log entry 3). -/
def bootDefault : BootImage where
  quads := List.replicate 4 (BitVec.allOnes 64)
  ports := List.replicate 4 (BitVec.allOnes 16)
  channels := 96
  modrev := 0
  modnum := 0
  master := false
  dumpBase := 0
  dumpSize := 0x60000000
  bar2Size := 0x10000000
  xoff := []
  xon := []
  sizes := []
  windows := []
  dbars := []

/-- A port right after reset (R31: STATE 1; R29; log entry 7). -/
def portReset : Port where
  st := 1
  retrains := 0
  replays := 0
  feccor := 0
  txSeq := 0
  rxSeq := 0
  unacked := []
  resend := []
  nakSent := false
  nakDue := false
  peerPause := 0
  pause := 0
  rxBuf := []
  size := []
  xoff := []
  xon := []
  sameReplay := 0
  lastAck := 0
  retrainTicks := []
  txq := []
  partials := []
  txRest := []
  sent := []
  roundTrip := none
  syncSent := none

/-- A window right after reset (R40: TIMEOUT 0x4000). -/
def windowReset : Window where
  base := 0
  ctl := 0x4000
  failed := false
  elems := []

/-- A queue right after reset (R51: LOGSZ 4, PRIOMAX 7; log entry 8). -/
def queueReset : Queue where
  base := 0
  en := false
  err := false
  host := false
  ctx := 0
  logsz := 4
  prioMax := 7
  prod := 0
  cons := 0
  next := 0
  wb := 0
  prev := .none
  waits := []

/-- A core right after reset (R102: counting; log entry 9). -/
def coreReset : Core where
  epoch := 0
  counting := true
  elig := []
  stall := []
  upto := 0
  slotPc := []
  expired := []
  chunks := []
  turn := []

/-- The machine right after reset. Tables that list nothing read as the reset values above. -/
def State.reset : State where
  mod := {
    clock := 0
    phase := 0
    tick := 0
    booted := false
    failedBoot := false
    fatal := false
    stopped := false
    stopTick := none
    pwrgood := true
    thermN := true
    pwrstat := 0x2000
    modcap := 0x3001E000
    qmask := []
    pmask := []
    twcfg := 0
    corrected := []
    image := bootDefault
    firmware := none
    staged := none
    canary := []
    readings := [0, 0, 20, 48]
    dtick := 0
    dbytes := 0
    dflags := 0 }
  mem := []
  home := {
    poison := []
    writes := []
    nextWrite := 0
    unseen := []
    epoch := []
    allocs := []
    tlb := []
    misses := []
    icache := []
    words := [] }
  fab := {
    ports := []
    reqs := []
    nextTag := 0
    answers := []
    windows := []
    dbar := []
    arrived := []
    held := [] }
  host := {
    mbcmd := 0
    mbstat := 0
    mbdata := []
    mbPending := none
    barwin := 0
    bar2Reply := none
    queues := []
    fsrBase := 0
    fsrEn := false
    fsrLogsz := 6
    fsrProd := 0
    fsrCons := 0
    fsrSerial := 0
    fsrOpen := []
    fsrWait := []
    bar0 := []
    msix := []
    atsOn := false
    ats := []
    hostRefused := []
    pageReqs := []
    holds := []
    headOut := []
    bar2Size := 0x10000000 }
  ctxs := []
  grids := []
  wgs := []
  strands := []
  ops := []
  copies := []
  engines := []
  bars := []
  sched := {
    head := none
    ready := []
    mxe := []
    running := []
    assay := []
    assaying := [] }
  cores := []
  cur := none
  issueQ := []
  events := []
  arg := {}
  next := 0

end Sys2Proof.Machine
end

