-- ==== Sys2Proof/Machine/Mem.lean ====
section
/-! DEFINITION. Memory spaces (R16, R17, R32, R133 to R145), homes and visibility (R150 to R156). Memory is one
table of bytes keyed by a number: device physical addresses from 0, S-window offsets from 2^40, operand buffers
from 2^41, host memory from 2^64. -/

namespace Sys2Proof.Machine

/-! ## Defaults for dangling numbers (no run meets one) -/

/-- A kernel header of zeros. -/
def headerNone : Header where
  format := 0
  gang := 1
  entry := 0
  scratch := 0
  obuf := 0
  vblk := 0
  acqmax := 0
  barwg := 0
  bargang := 0
  barclus := 0
  bargrid := 0
  mode := 0
  flags := 0
  callarea := 0
  ctxarea := 0
  parammin := 0

/-- A grid that names nothing. -/
def gridNone : Grid where
  ctx := 0
  queue := none
  parent := none
  recNo := 0
  prio := 0
  nlev := 3
  levels := []
  param := 0
  paramsz := 0
  compaddr := 0
  compval := 0
  seq := 0
  irq := none
  hdr := headerNone
  area := none
  pred := none
  st := .done 0
  since := 0
  nextGang := 0
  gangs := []
  signalled := []

/-- A workgroup at its start, on a core at its offsets (R70, R89, R106, R232). -/
def wgStart (grid w core soff ooff : Nat) : Wg where
  grid := grid
  w := w
  core := core
  soff := soff
  ooff := ooff
  satctl := 0
  crew := 0
  tmvec := 0
  trbase := 0
  trctl := 0
  tmexp := 0
  tmArgs := (0, 0)
  exited := []
  sticky := 0
  warps := []
  group := 0
  drained := false
  words := []

/-- A context that names nothing. -/
def ctxNone : Ctx where
  ptroot := 0
  heapBase := 0
  heapSize := 0
  waitLim := 0
  waPool := 0
  waSize := 0
  cflags := 0
  rpBase := 0
  rpSize := 0
  rpProd := 0
  rpCons := 0
  fatal := false
  log := []
  logged := 0
  runs := []
  stubs := []
  heapNext := 0
  digest := 0

/-- The workgroup of a key. -/
def State.wgOf (s : State) (k : Nat) : Wg := tget s.wgs k (wgStart 0 0 0 0 0)

/-- The grid of a key. -/
def State.gridOf (s : State) (k : Nat) : Grid := tget s.grids k gridNone

/-- The context of a number. -/
def State.ctxOf (s : State) (k : Nat) : Ctx := tget s.ctxs k ctxNone

/-- A context is confidential (CFLAGS bit 0, R49, R63). -/
def Ctx.conf (c : Ctx) : Bool := c.cflags.getLsbD 0

/-! ## Places (R16, R17, R142, R311) -/

/-- Memory key of an S-window offset (R142). -/
def sKey (a : Nat) : Nat := 2 ^ 40 + a

/-- Memory key of a byte of a core's operand buffer (R311). -/
def obKey (core off : Nat) : Nat := 2 ^ 41 + core * 2 ^ 18 + off

/-- Memory key of a host address. -/
def hostKey (a : Nat) : Nat := 2 ^ 64 + a

/-- The stack of a device physical address (R17). -/
def stackOf (pa : Nat) : Nat := pa / 0x200000 % 12

/-- The address within the stack (R17). -/
def stackLocal (pa : Nat) : Nat := pa / 0x200000 / 12 * 0x200000 + pa % 0x200000

/-- The channel of a device physical address with `c` channels in service (R17). -/
def channelOf (c pa : Nat) : Nat := stackLocal pa / 4096 % c

/-- MODCAP.MEMCHUNKS (R22). -/
def State.memChunks (s : State) : Nat := (s.mod.modcap >>> 45).toNat

/-- MODCAP.CHANNELS (R22). -/
def State.channels (s : State) : Nat := (s.mod.modcap.extractLsb' 30 7).toNat

/-- Bytes of device memory in service (R22, R135). -/
def State.memTop (s : State) : Nat := s.memChunks * 0x200000

/-- TWCFG.MODNUM (R33). -/
def State.modnum (s : State) : Nat := (s.mod.twcfg.extractLsb' 16 8).toNat

/-- Quad of a core, quad number on all dies (R142). -/
def quadOf (core : Nat) : Nat := core / 4

/-- Hardware cluster of a core (R142). -/
def clusterOf (core : Nat) : Nat := core / 16

/-- Die of a core (R142). -/
def dieOf (core : Nat) : Nat := core / 256

/-- Quad `q` is in service (R21, R23). -/
def State.quadUp (s : State) (q : Nat) : Bool := (tget s.mod.qmask (q / 64) 0).getLsbD (q % 64)

/-- The die that is home to a memory key (R34, R154). -/
def homeDie (k : Nat) : Nat :=
  if k < 2 ^ 40 then stackOf k / 3
  else if k < 2 ^ 41 then (k - 2 ^ 40) / 2 ^ 28 % 4
  else if k < 2 ^ 64 then (k - 2 ^ 41) / 2 ^ 26 % 4
  else 0

/-- What an access does (R140). An atomic says whether PCI Express has it (R47). -/
inductive Acc where
  | read
  /-- a read of a copy engine: poison is copied, not a fault (R19) -/
  | copy
  | write
  | atomic (hostOk : Bool)
  | fetch
  deriving DecidableEq, Repr

/-- Stores and atomics. -/
def Acc.writes : Acc → Bool
  | .write | .atomic _ => true
  | _ => false

/-- Who accesses memory: the context, and for a program its workgroup. -/
structure Who where
  ctx : Nat
  wg : Option Nat
  deriving DecidableEq, Repr

/-- Where an access goes: a byte of this module or of the host, a byte of this module that another, confidential context
owns (R63), or a domain address of another module (R32). -/
inductive Place where
  | loc (key : Nat)
  | sealed (key owner : Nat)
  | peer (module addr : Nat)
  deriving DecidableEq, Repr

/-- How a check ends (R140): the class of R184, or a host translation to ask for (R138). -/
inductive Bad where
  | cls (c : Nat)
  | ats (page : Nat)
  deriving DecidableEq, Repr

/-! ## Translation (R134 to R138) -/

/-- V of an entry (R135). -/
def pteV (e : DWord) : Bool := e.getLsbD 63
/-- TARGET. -/
def pteTarget (e : DWord) : Nat := (e.extractLsb' 61 2).toNat
/-- MOD. -/
def pteMod (e : DWord) : Nat := (e.extractLsb' 53 8).toNat
/-- LEAF. -/
def pteLeaf (e : DWord) : Bool := e.getLsbD 52
/-- W. -/
def pteW (e : DWord) : Bool := e.getLsbD 51
/-- X. -/
def pteX (e : DWord) : Bool := e.getLsbD 50
/-- ENC. -/
def pteEnc (e : DWord) : Bool := e.getLsbD 49
/-- ADDR, with its low eight bits. -/
def pteAddr (e : DWord) : Nat := (e.extractLsb' 8 40).toNat * 256

/-- A level: number, lowest virtual bit indexed, index bits (R134). -/
def walkLevels : List (Nat × Nat × Nat) := [(4, 48, 9), (3, 39, 9), (2, 30, 9), (1, 21, 9), (0, 16, 5)]

/-- An entry of level `lvl`, whose page would have `bits` offset bits, breaks R135. -/
def pteBad (conf : Bool) (lvl bits : Nat) (e : DWord) : Bool :=
  e.getLsbD 48 || (e.extractLsb' 0 8 != 0) ||
  (if pteLeaf e then
    3 ≤ lvl || pteTarget e == 3 || pteAddr e % 2 ^ bits != 0 ||
      (pteTarget e != 2 && 2 ^ 40 ≤ pteAddr e) ||
      (if pteTarget e == 1 then 192 ≤ pteMod e else pteMod e != 0) || pteEnc e != conf
  else
    lvl == 0 || pteTarget e != 0 || pteMod e != 0 || pteW e || pteX e || pteEnc e || 2 ^ 40 ≤ pteAddr e ||
      pteAddr e % (if lvl == 1 then 256 else 4096) != 0)

/-- A table entry as device memory holds it (R135). -/
def pteRead (m : Memory) (table idx : Nat) : DWord := BitVec.ofNat 64 (leNat (mread m (table + 8 * idx) 8))

/-- An entry that is no leaf names no table (R135): the levels below it cannot be read. -/
def pteLost (lvl : Nat) (e : DWord) : Bool :=
  lvl == 0 || pteTarget e != 0 || pteMod e != 0 || 2 ^ 40 ≤ pteAddr e ||
    pteAddr e % (if lvl == 1 then 256 else 4096) != 0

/-- Walks the tables from one level down: the leaf and its page bits, or the class of the fault (R134, R140). V of every
level that can be read comes before the entry rules of any; `bad`: a level above breaks them. -/
def walkFrom (m : Memory) (conf : Bool) (va : Nat) : List (Nat × Nat × Nat) → Nat → Bool → Except Nat (DWord × Nat)
  | [], _, _ => .error 0x14
  | (lvl, sh, n) :: r, table, bad =>
    let e := pteRead m table (va / 2 ^ sh % 2 ^ n)
    if !pteV e then .error 0x13
    else if pteLeaf e then if bad || pteBad conf lvl sh e then .error 0x14 else .ok (e, sh)
    else if pteLost lvl e then .error 0x14
    else walkFrom m conf va r (pteAddr e) (bad || pteBad conf lvl sh e)

/-- A page walk (R134, R137). -/
def State.walk (s : State) (ctx va : Nat) : Except Nat (DWord × Nat) :=
  walkFrom s.mem (s.ctxOf ctx).conf va walkLevels (s.ctxOf ctx).ptroot false

/-- The cached translation of a virtual address (R136). -/
def State.cached (s : State) (ctx va : Nat) : Option (DWord × Nat) :=
  (s.home.tlb.find? fun t => t.1 == ctx && t.2.1 == va / 0x10000).map fun t => t.2.2

/-- The translation of a paged address on a die: cached, or by a walk where the miss queue has room (R137). -/
def State.translate (s : State) (die ctx va : Nat) : Except Nat (DWord × Nat) :=
  match s.cached ctx va with
  | some e => .ok e
  | none =>
    let q := tget s.home.misses die []
    if 4096 ≤ q.length && !q.contains (ctx, va / 0x10000) then .error 0x12 else s.walk ctx va

/-- Caches the translation of an access that a walk has just made (R136: only entries with V = 1). -/
def State.cacheWalk (s : State) (ctx va : Nat) : State :=
  if va / 2 ^ 56 != 0 && va / 2 ^ 56 != 255 then s
  else match s.cached ctx va, s.walk ctx va with
    | none, .ok (e, b) => { s with home := { s.home with tlb := (ctx, va / 0x10000, e, b) :: s.home.tlb } }
    | _, _ => s

/-- The virtual address that an access translates (R133): its own, or of a constant-space read the one in the parameter
block; none: the address is not translated. -/
def State.pagedVa (s : State) (who : Who) (addr : DWord) : Option Nat :=
  let a := addr.toNat
  if a / 2 ^ 56 == 0 || a / 2 ^ 56 == 0xFF then some a
  else if a / 2 ^ 56 == 2 then who.wg.map fun k => (s.gridOf (s.wgOf k).grid).param.toNat + a % 2 ^ 56
  else none

/-- A translation miss of an access waits in the queue of its die, once for each page (R137). -/
def State.noteMiss (s : State) (die : Nat) (who : Who) (addr : DWord) : State :=
  match s.pagedVa who addr with
  | none => s
  | some va =>
    let q := tget s.home.misses die []
    let e := (who.ctx, va / 0x10000)
    if (va / 2 ^ 56 != 0 && va / 2 ^ 56 != 255) || (s.cached who.ctx va).isSome || q.contains e || 4096 ≤ q.length then s
    else { s with home := { s.home with misses := tset s.home.misses die (q ++ [e]) } }

/-- Forgets the cached translations of a context (R136, R53). -/
def State.dropTlb (s : State) (ctx : Nat) : State :=
  { s with home := { s.home with tlb := s.home.tlb.filter fun t => t.1 != ctx } }

/-! ## The S-window (R142 to R145) -/

/-- P of a level, the product of the extents below it (R67). -/
def Grid.units (g : Grid) (k : Nat) : Nat := ((g.levels.drop 1).take (k - 3)).foldl (fun p l => p * l.extent) 1

/-- NWG (R67). -/
def Grid.nwg (g : Grid) : Nat := g.units g.nlev

/-- The highest level bound to a domain (R68). -/
def Grid.bound (g : Grid) (dom : Nat) : Option Nat :=
  ((List.range g.nlev).filter fun k => 2 ≤ k && (g.levels.getD (k - 2) ⟨1, 9, 0⟩).domain == dom).getLast?

/-- The instance of a level that workgroup `w` belongs to (R67, R68). -/
def Grid.instanceAt (g : Grid) (k w : Nat) : Nat := w / g.units (k + 1)

/-- Same cluster for share level 2 and cluster barriers (R68, R143). -/
def Grid.sameCluster (g : Grid) (w1 core1 w2 core2 : Nat) : Bool :=
  match g.bound 2 with
  | some k => g.instanceAt k w1 == g.instanceAt k w2
  | none => clusterOf core1 == clusterOf core2

/-- The share level of an allocation admits the accessor (R143). -/
def State.admits (s : State) (who : Who) (viaPeer : Bool) (a : Alloc) : Bool :=
  let g := s.gridOf a.grid
  if viaPeer then a.level == 4
  else match who.wg with
    | none => false
    | some k =>
      let x := s.wgOf k
      match a.level.toNat with
      | 0 => k == a.wg
      | 1 => x.grid == a.grid && x.w / g.hdr.gang == a.w / g.hdr.gang
      | 2 => x.grid == a.grid && g.sameCluster x.w x.core a.w a.core
      | _ => x.grid == a.grid

/-- The allocations that hold bytes `a` to `a + n - 1` of the S-window (R143): more than one where a gang that is out
has its home at the same bytes (R76). -/
def State.allocsAt (s : State) (a n : Nat) : List Alloc :=
  s.home.allocs.filter fun x =>
    x.core == a / 2 ^ 20 && x.off ≤ a % 2 ^ 20 && a % 2 ^ 20 + n ≤ x.off + x.len

/-- The first of them. -/
def State.allocAt (s : State) (a n : Nat) : Option Alloc := (s.allocsAt a n).head?

/-- The gang of an allocation's owner is between its halt and the end of its restore, which never comes where its grid is
ending (R145, R191). -/
def State.ownerOut (s : State) (a : Alloc) : Bool :=
  let g := s.gridOf a.grid
  match tfind g.gangs (a.w / g.hdr.gang) with
  | some x => x.st == .saving || x.st == .out || x.st == .dead
  | none => false

/-- Bytes of an image's scratchpad or operand buffer change while the workgroup is out (R87). -/
def Wg.keep (w : Wg) (off : Nat) (b : List Byte) : Wg :=
  { w with kept := w.kept.take off ++ b ++ w.kept.drop (off + b.length), dirty := true }

/-- The state of the gang a workgroup belongs to. -/
def State.gangSt (s : State) (k : Nat) : GangSt :=
  let w := s.wgOf k
  let g := s.gridOf w.grid
  ((tfind g.gangs (w.w / g.hdr.gang)).map (·.st)).getD .out

/-- The images of the workgroups whose gangs are out are behind (R87, R90). -/
def State.touchOut (s : State) : State :=
  { s with wgs := tmap s.wgs fun k w => if s.gangSt k == .out then { w with dirty := true } else w }

/-- WINCTL.EN. -/
def Window.en (w : Window) : Bool := w.ctl.getLsbD 63
/-- WINCTL.IDX. -/
def Window.idx (w : Window) : Bool := w.ctl.getLsbD 62
/-- WINCTL.TYPE. -/
def Window.ty (w : Window) : Nat := (w.ctl.extractLsb' 58 4).toNat
/-- WINCTL.OP. -/
def Window.op (w : Window) : Nat := (w.ctl.extractLsb' 55 3).toNat
/-- Bytes of the window. -/
def Window.bytes (w : Window) : Nat := ((w.ctl.extractLsb' 40 15).toNat + 1) * 0x10000
/-- WINCTL.NCONTRIB. -/
def Window.ncontrib (w : Window) : Nat := (w.ctl.extractLsb' 20 20).toNat
/-- WINCTL.TIMEOUT. -/
def Window.timeout (w : Window) : Nat := (w.ctl.extractLsb' 0 20).toNat
/-- WINBASE.MODULE. -/
def Window.module_ (w : Window) : Nat := (w.base.extractLsb' 48 8).toNat
/-- Domain address of the base within the module. -/
def Window.start (w : Window) : Nat := (w.base.extractLsb' 16 32).toNat * 0x10000

/-- Window `w`. -/
def State.window (s : State) (w : Nat) : Window := tget s.fab.windows w windowReset

/-- The enabled window that holds a domain address. -/
def State.windowAt (s : State) (m d : Nat) : Option Nat :=
  (s.fab.windows.find? fun w => w.2.en && w.2.module_ == m && w.2.start ≤ d && d < w.2.start + w.2.bytes).map (·.1)

/-- The domain address of a memory key of this module (R32): of device memory or of a slice. -/
def domainOf (k : Nat) : Option Nat :=
  if k < 2 ^ 40 then some k else if k < 2 ^ 41 then some (2 ^ 47 + (k - 2 ^ 40)) else none

/-- The window that holds a domain address of this module has failed (R43). -/
def State.windowFailed (s : State) (d : Nat) : Bool := ((s.windowAt s.modnum d).map fun w => (s.window w).failed).getD false

/-- The granules of a read that are poisoned (R19). -/
def State.poisoned (s : State) (k n : Nat) : Bool :=
  s.home.poison.any fun g => g * 64 < k + n && k < g * 64 + 64

/-- A workgroup's own store that covers a granule waits for its home: what the workgroup reads there is that store's data
(R19, R156 condition 5). -/
def State.coveredBy (s : State) (wg g : Nat) : Bool :=
  s.home.writes.any fun w => w.2.wg == wg && w.2.covers && g * 64 < w.2.loc + w.2.bytes.length && w.2.loc < g * 64 + 64

/-- Poison that an accessor meets (R19). -/
def State.meetsPoison (s : State) (who : Who) (k n : Nat) : Bool :=
  s.home.poison.any fun g => g * 64 < k + n && k < g * 64 + 64 && !(who.wg.any fun x => s.coveredBy x g)

/-- The accessed bytes lie in host memory (TARGET 2, R135). -/
def State.inHost (s : State) (die : Nat) (who : Who) (addr : DWord) : Bool :=
  match s.pagedVa who addr with
  | none => false
  | some va => match s.translate die who.ctx va with
    | .ok (e, _) => pteTarget e == 2
    | .error _ => false

/-- Order 10: the data at the home: a device physical address in service (R135), a window that has failed (R43), poison
(R19). A store meets no poison. -/
def State.homeCheck (s : State) (who : Who) (acc : Acc) (k n : Nat) : Except Bad Place :=
  if k < 2 ^ 40 && s.memTop < k + n then .error (.cls 0x10)
  else if (domainOf k).any s.windowFailed then .error (.cls 0x17)
  else if acc != .write && acc != .copy && s.meetsPoison who k n then .error (.cls 0x1A)
  else .ok (.loc k)

/-- The checks of an S-window access (R140 orders 1, 2, 7, 8, 10). -/
def State.sCheck (s : State) (who : Who) (acc : Acc) (viaPeer : Bool) (a n : Nat) : Except Bad Place :=
  match (s.allocsAt a n).filter fun x => s.admits who viaPeer x with
  | [] => .error (.cls 0x17)
  | xs => if xs.all s.ownerOut then .error (.cls 0x18) else s.homeCheck who acc (sKey a) n

/-! ## Page enumeration, for confidential memory (R63 to R66) -/

/-- The leaves below a table: virtual address, entry and page bits, in ascending address. -/
def leavesFrom (m : Memory) : List (Nat × Nat × Nat) → Nat → Nat → List (Nat × DWord × Nat)
  | [], _, _ => []
  | (lvl, sh, n) :: r, table, va =>
    (List.range (2 ^ n)).flatMap fun i =>
      let e := pteRead m table i
      if !pteV e then []
      else if pteLeaf e then (if lvl < 3 then [(va + i * 2 ^ sh, e, sh)] else [])
      else leavesFrom m r (pteAddr e) (va + i * 2 ^ sh)

/-- The mapped pages of a context. -/
def State.pages (s : State) (ctx : Nat) : List (Nat × DWord × Nat) := leavesFrom s.mem walkLevels (s.ctxOf ctx).ptroot 0

/-- A page in this module's device memory. -/
def State.localPage (s : State) (e : DWord) : Bool := pteTarget e == 0 || (pteTarget e == 1 && pteMod e == s.modnum)

/-- The confidential context whose encrypted page holds a device physical address (R63). -/
def State.confOf (s : State) (pa : Nat) : Option Nat :=
  (s.ctxs.find? fun c => c.2.conf && (s.pages c.1).any fun p =>
    s.localPage p.2.1 && pteEnc p.2.1 && pteAddr p.2.1 ≤ pa && pa < pteAddr p.2.1 + 2 ^ p.2.2).map (·.1)

/-- A byte as it lies on the stack: ciphertext where the page is a confidential context's. -/
def State.stackByte (s : State) (pa : Nat) : Byte :=
  match s.confOf pa with
  | none => mget s.mem pa
  | some c => Config.sm4Byte c (pa / 64) (mread s.mem (pa / 64 * 64) 64) (pa % 64)

/-- The 64 bytes of a granule as they lie on the stack. -/
def State.stackGranule (s : State) (g : Nat) : List Byte := (List.range 64).map fun i => s.stackByte (64 * g + i)

/-- The granule's bytes as a context reads them from the stack: deciphered with its own key where it is confidential. -/
def State.opened (s : State) (ctx g : Nat) (raw : List Byte) : List Byte :=
  if (s.ctxOf ctx).conf then (List.range 64).map (Config.sm4Open ctx g raw) else raw

/-- What a context reads of another, confidential context's page (R63). -/
def State.sealedRead (s : State) (ctx k n : Nat) : List Byte :=
  (List.range n).map fun i => (s.opened ctx ((k + i) / 64) (s.stackGranule ((k + i) / 64))).getD ((k + i) % 64) 0

/-- The bytes that the owner of a page reads in granule `g` once another context has written `bytes` at `k` (R63). -/
def State.sealedGranule (s : State) (ctx owner g k : Nat) (bytes : List Byte) : List Byte :=
  let seen := (s.opened ctx g (s.stackGranule g)).mapIdx fun i b =>
    if k ≤ 64 * g + i && 64 * g + i < k + bytes.length then bytes.getD (64 * g + i - k) 0 else b
  let raw := if (s.ctxOf ctx).conf then (List.range 64).map (Config.sm4Byte ctx g seen) else seen
  (List.range 64).map (Config.sm4Open owner g raw)

/-- Where an access of a context to device memory goes: a page of another, confidential context is sealed (R63). -/
def State.sealPlace (s : State) (ctx k : Nat) : Place :=
  match s.confOf k with
  | none => .loc k
  | some c => if c == ctx then .loc k else .sealed k c

/-! ## One element of one access (R140) -/

/-- A virtual address lies in the context's code heap, which only the foreman writes (R57, R49). -/
def Ctx.inHeap (c : Ctx) (va n : Nat) : Bool := c.heapBase.toNat < va + n && va < c.heapBase.toNat + c.heapSize

/-- Orders 6 to 10 for a paged access whose leaf is known (R47, R57, R64, R135, R138). -/
def State.leafCheck (s : State) (who : Who) (acc : Acc) (va n : Nat) (e : DWord) (bits : Nat) : Except Bad Place :=
  let off := va % 2 ^ bits
  let a := pteAddr e + off
  if acc.writes && (!pteW e || (s.ctxOf who.ctx).inHeap va n) then .error (.cls 0x15)
  else if acc == .fetch && !pteX e then .error (.cls 0x16)
  else if pteTarget e == 2 then
    if acc == .atomic false then .error (.cls 0x17)
    else if s.host.hostRefused.contains (a / 4096) then .error (.cls 0x17)
    else if !s.host.atsOn then .ok (.loc (hostKey a))
    else match tfind s.host.ats (a / 4096) with
      | none => .error (.ats (a / 4096))
      | some 0 => .error (.cls 0x19)
      | some (p + 1) => .ok (.loc (hostKey (p * 4096 + a % 4096)))
  else if pteTarget e == 1 && pteMod e != s.modnum then
    if (s.ctxOf who.ctx).conf then .error (.cls 0x17) else .ok (.peer (pteMod e) a)
  else match s.homeCheck who acc a n with
    | .ok (.loc k) => .ok (s.sealPlace who.ctx k)
    | r => r

/-- Every check of one element of one access, in the order of R140: where it goes, or how it ends. -/
def State.resolve (s : State) (die : Nat) (who : Who) (acc : Acc) (addr : DWord) (n : Nat) : Except Bad Place :=
  let a := addr.toNat
  let region := a / 2 ^ 56
  let low := a % 2 ^ 56
  let unaligned := (n == 2 || n == 4 || n == 8 || n == 16) && a % n != 0
  if region == 1 then
    if 2 ^ 30 ≤ low then .error (.cls 0x10)
    else if unaligned then .error (.cls 0x11)
    else s.sCheck who acc false low n
  else if region == 2 then
    let g := match who.wg with
      | some k => s.gridOf (s.wgOf k).grid
      | none => gridNone
    if g.paramsz < low + n then .error (.cls 0x10)
    else if unaligned then .error (.cls 0x11)
    else if acc.writes then .error (.cls 0x17)
    else match s.translate die who.ctx (g.param.toNat + low) with
      | .error c => .error (.cls c)
      | .ok (e, b) => s.leafCheck who acc (g.param.toNat + low) n e b
  else if region == 3 then
    if !low.testBit 47 || low % 2 ^ 47 / 2 ^ 30 != 0 then .error (.cls 0x10)
    else if unaligned then .error (.cls 0x11)
    else if low / 2 ^ 48 == s.modnum then s.sCheck who acc true (low % 2 ^ 30) n
    else if (s.ctxOf who.ctx).conf then .error (.cls 0x17)
    else .ok (.peer (low / 2 ^ 48) (low % 2 ^ 48))
  else if a / 2 ^ 56 == 0 || a / 2 ^ 56 == 0xFF then
    if a / 2 ^ 57 != (if a.testBit 56 then 127 else 0) then .error (.cls 0x10)
    else if unaligned then .error (.cls 0x11)
    else match s.translate die who.ctx a with
      | .error c => .error (.cls c)
      | .ok (e, b) => s.leafCheck who acc a n e b
  else .error (.cls 0x10)

/-- A key for a byte of another module's memory, beyond every key of this one. -/
def peerKey (m a : Nat) : Nat := 2 ^ 66 + m * 2 ^ 48 + a % 2 ^ 48

/-! ## Homes, visibility, reads (R150 to R158) -/

/-- Threads of one holder that are threads of the other (R156 conditions 4, 5). -/
def SKind.shares : SKind → SKind → Bool
  | .range a n, .range b m => a < b + m && b < a + n
  | .lane w x, .lane v y => w == v && (x &&& y) != 0
  | .range a n, .lane w x => (List.range 32).any fun j => x.getLsbD j && a ≤ 32 * w + j && 32 * w + j < a + n
  | .lane w x, .range a n => (List.range 32).any fun j => x.getLsbD j && a ≤ 32 * w + j && 32 * w + j < a + n
  | .handler, .handler => true
  | _, _ => false

/-- Who reads: the die, core, workgroup and threads. -/
structure View where
  die : Nat
  core : Nat
  wg : Nat
  kind : SKind
  deriving DecidableEq, Repr

/-- A pending write covers a key. -/
def PWrite.covering (w : PWrite) (k : Nat) : Bool := w.loc ≤ k && k < w.loc + w.bytes.length

/-- The chunk of a context on a core, in record or replay mode (R203). -/
def State.chunkOf (s : State) (core ctx : Nat) : Option Chunk := tfind (tget s.cores core coreReset).chunks ctx

/-- A write that its core buffers until its chunk commits (R203). -/
def State.buffered (s : State) (w : PWrite) : Bool := (s.chunkOf w.core (s.gridOf (s.wgOf w.wg).grid).ctx).isSome

/-- The byte belongs to WAITERS of an arrival word: writes to it are ignored (R147). -/
def State.waitersByte (s : State) (k : Nat) : Bool := s.home.words.any fun w => w + 12 ≤ k && k < w + 16

/-- The byte a read returns (R156): the thread's latest write that its home has not applied, then the die's latest
such write, then the last applied write that is visible at the die; no write to WAITERS (R147). In a chunk of record mode only the core's own
writes, then memory as it stood at the chunk's start (R203). -/
def State.viewByte (s : State) (v : View) (k : Nat) : Byte :=
  let chunk := s.chunkOf v.core (s.gridOf (s.wgOf v.wg).grid).ctx
  let near := s.home.writes.filter fun w =>
    w.2.covering k && w.2.die == v.die && (chunk.isNone || w.2.core == v.core) && !s.waitersByte k
  let own := near.filter fun w => w.2.wg == v.wg && w.2.kind.shares v.kind
  match (own.getLast? <|> near.getLast?) with
  | some w => w.2.bytes.getD (k - w.2.loc) 0
  | none =>
    match chunk with
    | some c => mget c.view k
    | none =>
      match (tget s.home.unseen v.die []).find? fun u => u.loc ≤ k && k < u.loc + u.old.length with
      | some u => u.old.getD (k - u.loc) 0
      | none => mget s.mem k

/-- The bytes a read returns, in address order. -/
def State.view (s : State) (v : View) (k n : Nat) : List Byte := (List.range n).map fun i => s.viewByte v (k + i)

/-- The state with its memory surroundings changed. -/
def State.setHome (s : State) (f : Home → Home) : State := { s with home := f s.home }

/-- Makes every applied write visible at a die (R154, R155). -/
def State.showAll (s : State) (die : Nat) : State :=
  s.setHome fun h => { h with unseen := tset h.unseen die [] }

/-- The dies that do not see a write of die `d` at once. -/
def otherDies (d : Nat) : List Nat := [0, 1, 2, 3].filter (· != d)

/-- The home applies bytes (R154): they become visible at the issuing die and wait at the others; bytes 12 to 15 of
an arrival word stay (R147). A write whose instruction covers a granule clears its poison once nothing of the
instruction's data for it waits (R19): every die then sees the new data, since no read of a granule that was poisoned may
return older data. -/
def State.homeWrite (s : State) (die k : Nat) (bytes : List Byte) (covers : Bool) : State :=
  let kept := bytes.mapIdx fun i b => if s.waitersByte (k + i) then mget s.mem (k + i) else b
  let old := mread s.mem k bytes.length
  let clears := covers && s.poisoned k bytes.length
  let s := s.showAll die
  { s with
    mem := mwrite s.mem k kept
    home := { s.home with
      unseen := if clears then [] else
        (otherDies die).foldl (fun t d => tset t d (tget t d [] ++ [⟨k, old⟩])) s.home.unseen
      poison := if covers then s.home.poison.filter (fun g => !(g * 64 < k + bytes.length && k < g * 64 + 64))
        else s.home.poison } }

/-- Poisons the granules that bytes `k` to `k + n - 1` touch (R19). -/
def State.poisonAt (s : State) (k n : Nat) : State :=
  s.setHome fun h => { h with
    poison := ((List.range ((k + n + 63) / 64 - k / 64)).map (k / 64 + ·)).foldl
      (fun l g => if l.contains g then l else g :: l) h.poison }

/-- A pending write may be applied next: no write of its die of an earlier epoch or of the same bytes precedes it
(R153, R154). -/
def State.canApply (s : State) (id : Nat) (w : PWrite) : Bool :=
  s.home.writes.all fun x =>
    x.2.die != w.die || !(x.2.epoch < w.epoch ||
      (x.1 < id && x.2.loc < w.loc + w.bytes.length && w.loc < x.2.loc + x.2.bytes.length))

/-- Adds a write that its home has yet to apply. -/
def State.addWrite (s : State) (v : View) (k : Nat) (bytes : List Byte) (covers : Bool) (grp : Nat) : State :=
  s.setHome fun h => { h with
    writes := h.writes ++ [(h.nextWrite,
      ({ die := v.die, core := v.core, wg := v.wg, kind := v.kind, loc := k, bytes := bytes
         epoch := tget h.epoch v.die 0, covers := covers, grp := grp } : PWrite))]
    nextWrite := h.nextWrite + 1 }

/-- A release (R152, R153): later writes of the die are applied after earlier ones, whatever the scope. -/
def State.releaseDie (s : State) (die : Nat) : State :=
  s.setHome fun h => { h with epoch := tset h.epoch die (tget h.epoch die 0 + 1) }

end Sys2Proof.Machine
end

