-- ==== Sys2Proof/Machine/Ops.lean ====
section
/-! DEFINITION. The operations every family shares: registers, the program counter, homes and arrival words, the
fault record and taking a trap (R184 to R192), the return from the timer handler (R199), the end of a grid (R54,
R94, R191), and the gate every instruction passes at issue (R188). -/

namespace Sys2Proof.Machine

/-- What a step answers. -/
abbrev Out := Host.Outcome State Fault Refusal

/-! ## Updates -/

/-- Changes one strand. -/
def State.updStrand (s : State) (u : Nat) (f : Strand → Strand) : State := { s with strands := tmod s.strands u f }

/-- Changes one workgroup. -/
def State.updWg (s : State) (k : Nat) (f : Wg → Wg) : State := { s with wgs := tmod s.wgs k f }

/-- Changes one grid. -/
def State.updGrid (s : State) (k : Nat) (f : Grid → Grid) : State := { s with grids := tmod s.grids k f }

/-- Changes one context. -/
def State.updCtx (s : State) (k : Nat) (f : Ctx → Ctx) : State := { s with ctxs := tmod s.ctxs k f }

/-- Changes the registers of one core. -/
def State.updCore (s : State) (k : Nat) (f : Core → Core) : State :=
  { s with cores := tset s.cores k (f (tget s.cores k coreReset)) }

/-- Changes the module's registers. -/
def State.setMod (s : State) (f : Module → Module) : State := { s with mod := f s.mod }

/-- Changes the host interface. -/
def State.setHost (s : State) (f : HostIf → HostIf) : State := { s with host := f s.host }

/-- Changes the fabric. -/
def State.setFab (s : State) (f : Fabric → Fabric) : State := { s with fab := f s.fab }

/-- Changes the placers and arbiters. -/
def State.setSched (s : State) (f : Sched → Sched) : State := { s with sched := f s.sched }

/-- A unique number that has not been used. -/
def State.fresh (s : State) : State := { s with next := s.next + 1 }

/-- Raises an MSI-X vector (R47). -/
def State.raise (s : State) (v : Nat) : State := s.setHost fun h => { h with msix := v :: h.msix }

/-- Appends an event to the canary of a die, which keeps the newest 65,536 (R206). -/
def State.canary (s : State) (die src ev unit data : Nat) : State :=
  s.setMod fun m => { m with
    canary := tset m.canary die (((tget m.canary die []) ++
      [({ tick := m.tick, src := BitVec.ofNat 8 src, ev := BitVec.ofNat 8 ev, unit := BitVec.ofNat 16 unit
          data := BitVec.ofNat 32 data } : Canary)]).drop ((tget m.canary die []).length + 1 - 65536)) }

/-! ## Strands, their threads and registers (R104 to R107) -/

/-- Parked on nothing. -/
def parkNone : Park := ⟨0, none, []⟩

/-- The warp of a lane strand; of a range strand the warp of its lowest thread (R103). -/
def Strand.warp (st : Strand) : Nat :=
  match st.kind with
  | .range lo _ => lo / 32
  | .lane w _ => w
  | .handler => 0

/-- The active mask of a lane strand. -/
def Strand.mask (st : Strand) : BitVec 32 :=
  match st.kind with
  | .lane _ m => m
  | _ => 0

/-- Lanes of a mask in ascending order. -/
def lanesOf (m : BitVec 32) : List Nat := (List.range 32).filter fun j => m.getLsbD j

/-- The lowest lane of a mask. -/
def lowLane (m : BitVec 32) : Nat := (lanesOf m).headD 0

/-- The lowest logical index a strand holds, and of how many (R189 FIRST and SUFN). -/
def Strand.names (st : Strand) : Nat × Nat :=
  match st.kind with
  | .range lo n => (lo, n)
  | .lane w m => (32 * w + lowLane m, m.toNat)
  | .handler => (0, 0)

/-- Number of threads. -/
def Strand.count (st : Strand) : Nat :=
  match st.kind with
  | .range _ n => n
  | .lane _ m => (lanesOf m).length
  | .handler => 0

/-- A range strand. -/
def Strand.isRange (st : Strand) : Bool :=
  match st.kind with
  | .range _ _ => true
  | _ => false

/-- A lane strand. -/
def Strand.isLane (st : Strand) : Bool :=
  match st.kind with
  | .lane _ _ => true
  | _ => false

/-- The timer handler (R199). -/
def Strand.isHandler (st : Strand) : Bool :=
  match st.kind with
  | .handler => true
  | _ => false

/-- Uniform register s(r). -/
def Strand.sreg (st : Strand) (r : Nat) : Word := tget st.s r 0

/-- Uniform pair: s(r) low, s(r + 1) high (R4). -/
def Strand.dreg (st : Strand) (r : Nat) : DWord := st.sreg (r + 1) ++ st.sreg r

/-- Writes s(r). -/
def Strand.setS (st : Strand) (r : Nat) (v : Word) : Strand := { st with s := tset st.s r v }

/-- Writes the pair s(r), s(r + 1). -/
def Strand.setD (st : Strand) (r : Nat) (v : DWord) : Strand :=
  (st.setS r (v.extractLsb' 0 32)).setS (r + 1) (v.extractLsb' 32 32)

/-- Writes consecutive uniform registers. -/
def Strand.setSs (st : Strand) (r : Nat) (vs : List Word) : Strand :=
  (vs.zipIdx).foldl (fun x v => x.setS (r + v.2) v.1) st

/-- The form of v(r) (R107). -/
def Strand.form (st : Strand) (r : Nat) : Form := tget st.forms r ⟨0, 0⟩

/-- The lane mask k(r) of a lane strand; k0 is all ones (R257). -/
def Strand.kmask (st : Strand) (r : Nat) : BitVec 32 := if r = 0 then BitVec.allOnes 32 else tget st.masks r 0

/-- The runs of k(r) over the `n` threads of a range strand (R111). -/
def Strand.krun (st : Strand) (r : Nat) : List (Nat × Bool) :=
  if r = 0 then [(st.count, true)] else tget st.runs r [(st.count, false)]

/-- Lane `j` of v(r) of a warp. -/
def Wg.lane (g : Wg) (warp r j : Nat) : Word :=
  match tfind g.warps warp with
  | some w => tget w.regs (32 * r + j) 0
  | none => 0

/-- Writes lane `j` of v(r) of a warp. -/
def Wg.setLane (g : Wg) (warp r j : Nat) (v : Word) : Wg :=
  { g with warps := tmod g.warps warp fun w => { w with regs := tset w.regs (32 * r + j) v } }

/-- The value of v(r) at a thread of a strand: its lane, or its form at that index (R107). -/
def State.vreg (s : State) (st : Strand) (r j : Nat) : Word :=
  match st.kind with
  | .range lo _ => (st.form r).base + (st.form r).stride * BitVec.ofNat 32 (j - lo)
  | .lane w _ => (s.wgOf st.wg).lane w r j
  | .handler => 0

/-- Blocks the strand's warp holds (R185): of a range strand the header's VBLK. -/
def State.blocks (s : State) (st : Strand) : Nat :=
  match st.kind with
  | .lane w _ => ((tfind (s.wgOf st.wg).warps w).map (·.blocks)).getD 0
  | _ => (s.gridOf (s.wgOf st.wg).grid).hdr.vblk

/-- The grid of a strand. -/
def State.gridAt (s : State) (st : Strand) : Grid := s.gridOf (s.wgOf st.wg).grid

/-- The context number of a strand. -/
def State.ctxNo (s : State) (st : Strand) : Nat := (s.gridAt st).ctx

/-- Who a strand is to the memory checks. -/
def State.who (s : State) (st : Strand) : Who := ⟨s.ctxNo st, some st.wg⟩

/-- What a strand's reads see. -/
def Strand.view (st : Strand) : View := ⟨dieOf st.core, st.core, st.wg, st.kind⟩

/-- Operations in flight that a strand waits for (R218). -/
def State.opsOf (s : State) (u : Nat) : List (Nat × Op) := s.ops.filter fun o => o.2.holders.contains u

/-- Flag `f` is busy for a strand (R218). -/
def State.busy (s : State) (u f : Nat) : Bool := (s.opsOf u).any fun o => o.2.flag.toNat == f

/-- Some set-A flag of a strand is busy (R116). -/
def State.busyA (s : State) (u : Nat) : Bool := (s.opsOf u).any fun o => !o.2.setB

/-! ## The program counter (R216, R217) -/

/-- The address after a clause's last word. -/
def Clause.stop (c : Clause) : DWord := c.base + 4 + 4 * BitVec.ofNat 64 c.words.length

/-- A strand at its next instruction: the clause ends when none of its words is left, with its yield hint (R80). -/
def Strand.goTo (st : Strand) (pc : DWord) (clock : Nat) : Strand :=
  match st.clause with
  | some c =>
    if c.base.ult pc && pc.ult c.stop then
      { st with pc := pc, block := .none, doneLanes := 0, doneCount := 0, asBarw := false }
    else
      { st with pc := pc, block := .none, doneLanes := 0, doneCount := 0, asBarw := false, clause := none
                yieldUntil := if c.yield then clock + 17 else st.yieldUntil }
  | none => { st with pc := pc, block := .none, doneLanes := 0, doneCount := 0, asBarw := false }

/-- A strand after a control transfer, whose clause is over wherever it goes (R217). -/
def Strand.jump (st : Strand) (pc : DWord) (clock : Nat) : Strand :=
  { st with
    pc := pc, block := .none, doneLanes := 0, doneCount := 0, asBarw := false, clause := none
    yieldUntil := if (st.clause.map (·.yield)).getD false then clock + 17 else st.yieldUntil }

/-- The words of the clause from an address on. -/
def Clause.wordsFrom (c : Clause) (pc : DWord) : List Word := c.words.drop ((pc - c.base).toNat / 4 - 1)

/-- The instruction at which a strand stands. -/
def Strand.standing (st : Strand) : Instr :=
  ((st.clause.bind fun k => decodeWords (k.wordsFrom st.pc))).getD .yield

/-- A word is a predicate prefix (R220): the mask it names. -/
def prefixOf (w : Word) : Option (BitVec 3) :=
  if w.extractLsb' 3 29 == (0xC8001000 : Word).extractLsb' 3 29 && w.extractLsb' 0 3 != 0 then
    some (w.extractLsb' 0 3)
  else none

/-- How many words the instruction at which a strand stands takes, its prefix and inline words among them. -/
def Strand.width (st : Strand) : Nat :=
  match st.clause with
  | none => 1
  | some c =>
    let ws := c.wordsFrom st.pc
    let p := (prefixOf (ws.headD 0)).isSome
    let body := if p then ws.drop 1 else ws
    (if p then 1 else 0) + 1 + ((decodeWords body).map Instr.inlineCount).getD 0

/-- A blocked strand completes its instruction and stands at the next. -/
def Strand.complete (st : Strand) (clock : Nat) : Strand :=
  st.goTo (st.pc + 4 * BitVec.ofNat 64 st.width) clock

/-- A strand completes the instruction under way. -/
def State.retire (s : State) (c : Issue) (i : Instr) : State :=
  s.updStrand c.uid fun st => st.goTo (c.pc + 4 * BitVec.ofNat 64 (1 + i.inlineCount)) s.mod.clock

/-- A strand waits at the instruction under way. -/
def State.wait (s : State) (c : Issue) (b : Block) : State :=
  s.updStrand c.uid fun st => { st with block := b, waitTick := s.mod.tick.toNat }

/-- A strand waits at the instruction under way and will issue it anew: a capsule has not executed it yet (R341). -/
def State.waitAnew (s : State) (c : Issue) (b : Block) : State :=
  s.updStrand c.uid fun st => { st with
    block := b, waitTick := s.mod.tick.toNat, caps := st.caps.map fun x => { x with icount := x.icount - 1 } }

/-! ## Arrival words (R147, R148) and applied writes -/

/-- Field of an arrival word: 0 TARGET, 1 COUNT, 2 GEN, 3 WAITERS. -/
def wordField (m : Memory) (k f : Nat) : Nat := leNat (mread m (k + 4 * f) 4)

/-- The word that an accessor names by a key of the slices lies there, and not in the image of an owner that is out
(R76, R87). -/
def State.wordHere (s : State) (who : Who) (k : Nat) : Bool :=
  let xs := (s.allocsAt (k - 2 ^ 40) 16).filter fun a => s.admits who false a
  xs.isEmpty || xs.any fun a => !s.ownerOut a

/-- The bytes that WAITERS of a word shows (R147), where the word lies in its slice and not in an image (R145): the strands
that wait on this word, and not on one of an owner that is out at the same bytes (R76). -/
def State.countWaiters (s : State) (k : Nat) : State :=
  let xs := s.allocsAt (k - 2 ^ 40) 16
  let n := (s.strands.filter fun x => match x.2.block with
    | .await k' _ _ _ => k' == k && s.wordHere ⟨(s.gridOf (s.wgOf x.2.wg).grid).ctx, some x.2.wg⟩ k
    | _ => false).length
  if !xs.isEmpty && xs.all s.ownerOut then s else { s with mem := mwrite s.mem (k + 12) (leBytes 4 n) }

/-- Releases the strands that wait for a generation of a word other than its present one (R148, R293): AWAIT
answers 0 and is an acquire. -/
def State.wakeWord (s : State) (k : Nat) : State :=
  let g := BitVec.ofNat 32 (wordField s.mem k 2)
  let hit : Strand → Option (BitVec 6) := fun st => match st.block with
    | .await k' g' _ sc => if k' == k && g' != g && s.wordHere ⟨(s.gridOf (s.wgOf st.wg).grid).ctx, some st.wg⟩ k then some sc else none
    | _ => none
  let dies := (s.strands.filter fun x => (hit x.2).isSome).map fun x => dieOf x.2.core
  let s := { s with
    strands := tmap s.strands fun _ st => match hit st with
      | some sc => (st.setS sc.toNat 0).complete s.mod.clock
      | none => st }
  if dies.isEmpty then s else (dies.foldl State.showAll s).countWaiters k

/-- A program was compiled from one of `n` bytes at `k`. -/
def Assay.uses (x : Assay) (k n : Nat) : Bool := x.runs.any fun r => r.1 < k + n && k < r.1 + r.2

/-- A write to a byte that an assay program was compiled from, or is being compiled from, drops the program (R327). -/
def Sched.forget (d : Sched) (k n : Nat) : Sched :=
  { d with
    assay := tmap d.assay fun _ l => l.filter fun x => !x.uses k n
    assaying := d.assaying.filter fun x => !x.2.uses k n }

/-- The programs of a context are dropped (R53). -/
def Sched.forgetCtx (d : Sched) (ctx : Nat) : Sched :=
  { d with
    assay := tmap d.assay fun _ l => l.filter fun x => x.ctx != ctx
    assaying := d.assaying.filter fun x => x.2.ctx != ctx }

/-- The home applies bytes and releases the waiters of every arrival word whose GEN changes (R148, R154). -/
def State.homeStore (s : State) (die k : Nat) (bytes : List Byte) (covers : Bool) : State :=
  let s' := (s.homeWrite die k bytes covers).setSched fun d => d.forget k bytes.length
  (s.home.words.filter fun w => w < k + bytes.length && k < w + 16).foldl
    (fun t w => if wordField s.mem w 2 == wordField t.mem w 2 then t else t.wakeWord w) s'

/-- Adds an arrival of `b` bytes to the word at `k` (R148). -/
def State.arrive (s : State) (die k b : Nat) : State :=
  let target := wordField s.mem k 0
  if target = 0 then s
  else
    let total := wordField s.mem k 1 + b
    let gen := (wordField s.mem k 2 + total / target) % 2 ^ 32
    s.homeStore die (k + 4) (leBytes 4 (total % target) ++ leBytes 4 gen) false

/-- Data of the same instruction for the granules of a write still waits (R19). -/
def State.grpLeft (s : State) (id : Nat) (w : PWrite) : Bool :=
  s.home.writes.any fun x => x.1 != id && x.2.grp == w.grp && x.2.loc / 64 * 64 < w.loc + w.bytes.length &&
    w.loc / 64 * 64 < x.2.loc + x.2.bytes.length

/-- Applies one pending write (R154). The last of an instruction's writes to a granule that the instruction covers clears
its poison (R19). -/
def State.applyWrite (s : State) (id : Nat) : State :=
  match tfind s.home.writes id with
  | none => s
  | some w =>
    (s.setHome fun h => { h with writes := tdel h.writes id }).homeStore w.die w.loc w.bytes (w.covers && !s.grpLeft id w)

/-- Applies every pending write that `p` picks and no open chunk holds (R203), in the order of issue. -/
def State.applyAll (s : State) (p : PWrite → Bool) : State :=
  ((s.home.writes.filter fun w => p w.2 && !s.buffered w.2).map (·.1)).foldl State.applyWrite s

/-- Applies every pending write of a die (R158: an atomic never reads a write that the home has not applied). -/
def State.flushDie (s : State) (die : Nat) : State := s.applyAll fun w => w.die == die

/-- Makes every write of the module visible at system scope (R163). -/
def State.publish (s : State) : State :=
  [0, 1, 2, 3].foldl State.showAll (s.applyAll fun _ => true)

/-- A release event of a strand at a scope (R151, R152, R306): whatever the scope, the die's later writes are ordered after
its earlier ones at the homes (R153, R155); beyond the module the homes and the host have them at once, before any later
write to another module or to the host (R157). -/
def State.releaseAt (s : State) (st : Strand) (scope : Nat) : State :=
  if 5 ≤ scope then s.flushDie (dieOf st.core) else s.releaseDie (dieOf st.core)

/-- A release event whose partner reads no memory word: a barrier, a pool, SUCC, a capsule (R152). Beyond the die
the homes have applied the die's writes; within it, later writes are ordered after earlier ones. -/
def State.releaseSync (s : State) (st : Strand) (scope : Nat) : State :=
  if 4 ≤ scope then s.flushDie (dieOf st.core) else s.releaseDie (dieOf st.core)

/-- An acquire event of a strand at a scope (R152, R156): the strand's own writes are applied, and beyond the die
every applied write becomes visible. -/
def State.acquireAt (s : State) (st : Strand) (scope : Nat) : State :=
  let s := if s.home.writes.any fun w => w.2.wg == st.wg && w.2.kind.shares st.kind then s.flushDie (dieOf st.core) else s
  if 4 ≤ scope then s.showAll (dieOf st.core) else s

/-! ## Pages of other, confidential contexts (R63) -/

/-- A context's bytes are written into a page of another, confidential context: what the owner reads there changes granule
by granule. A granule that they cover whole, or that their instruction does (`covers`), loses its poison (R19). -/
def State.sealedStore (s : State) (die ctx owner k : Nat) (bytes : List Byte) (covers : Bool) : State :=
  ((List.range ((k + bytes.length + 63) / 64 - k / 64)).map (k / 64 + ·)).foldl
    (fun t g => t.homeStore die (64 * g) (t.sealedGranule ctx owner g k bytes)
      (covers || (decide (k ≤ 64 * g) && decide (64 * g + 64 ≤ k + bytes.length)))) s

/-! ## Bulk accesses -/

/-- A run of `n` bytes from `a` cut at multiples of 64. -/
def pieces : Nat → Nat → Nat → List (Nat × Nat)
  | 0, _, _ => []
  | f + 1, a, n =>
    if n = 0 then [] else
      let l := min n (64 - a % 64)
      (a, l) :: pieces f (a + l) (n - l)

/-- The pieces of a run, with fuel enough. -/
def piecesOf (a n : Nat) : List (Nat × Nat) := pieces (n / 64 + 2) a n

/-- A run of addresses lies in paged space (R133). -/
def inPaged (a n : Nat) : Bool := a + n ≤ 2 ^ 56 || (0xFF * 2 ^ 56 ≤ a && a + n ≤ 2 ^ 64)

/-- Where each piece of a run lies, or the first fault with its address. -/
def State.places (s : State) (die : Nat) (who : Who) (acc : Acc) (a n : Nat) :
    Except (Bad × Nat) (List (Nat × Nat × Place)) :=
  (piecesOf a n).foldr (fun p r =>
    match s.resolve die who acc (BitVec.ofNat 64 p.1) p.2 with
    | .error b => .error (b, p.1)
    | .ok pl => r.map fun l => (p.1, p.2, pl) :: l) (.ok [])

/-- The walks that the pieces of a run need wait in the miss queue of a die (R137). -/
def State.runMisses (s : State) (die : Nat) (who : Who) (a n : Nat) : State :=
  (piecesOf a n).foldl (fun t p => t.noteMiss die who (BitVec.ofNat 64 p.1)) s

/-- Where the pieces of a run of a context lie that the headframe reads or writes: in paged space, or nowhere (R51, R54). -/
def State.headPlaces (s : State) (ctx : Nat) (acc : Acc) (a n : Nat) : Except (Bad × Nat) (List (Nat × Nat × Place)) :=
  if inPaged a n then s.places 0 ⟨ctx, none⟩ acc a n else .error (.cls 0x10, a)

/-- How a read of the headframe stands: its bytes; it fails; or it waits for a host translation, or for answers of other
modules: the number, module, domain address and length of each piece. -/
inductive HeadGot where
  | data (b : List Byte)
  | fails
  | waits (ks : List (Nat × Nat × Nat × Nat))
  deriving DecidableEq, Repr

/-- A piece that has been read, before those after it. -/
def HeadGot.after (b : List Byte) : HeadGot → HeadGot
  | .data c => .data (b ++ c)
  | r => r

/-- A piece that waits, before those after it. -/
def HeadGot.waiting (k : Nat × Nat × Nat × Nat) : HeadGot → HeadGot
  | .fails => .fails
  | .waits ks => .waits (k :: ks)
  | .data _ => .waits [k]

/-- The answer to one element. -/
def State.answerTo (s : State) (a : Asker) (idx : Nat) : Option Answer :=
  s.fab.answers.find? fun x => x.asker == a && x.idx == idx

/-- The headframe reads a context's memory at the homes (R51, R54, R55): what lies in another module it asks for, and a
host translation it waits for (R138); outside paged space it fails (R54, log entry 107). -/
def State.headTry (s : State) (who : Asker) (ctx a n : Nat) : HeadGot :=
  match s.headPlaces ctx .read a n with
  | .error (.ats _, _) => .waits []
  | .error _ => .fails
  | .ok l => l.foldr (fun p r => match p.2.2 with
      | .loc k => r.after (mread s.mem k p.2.1)
      | .sealed k _ => r.after (s.sealedRead ctx k p.2.1)
      | .peer m d => match s.answerTo who (p.1 + 2 ^ 64 * p.2.1) with
        | none => r.waiting (p.1 + 2 ^ 64 * p.2.1, m, d, p.2.1)
        | some x => if x.fault.isSome then .fails else r.after x.data) (.data [])

/-- The bytes of a read that has ended, or how it stands. -/
def HeadGot.bytes : HeadGot → Except HeadGot (List Byte)
  | .data b => .ok b
  | r => .error r

/-- Who asks for what the headframe and the foreman read for a context beside a queue's records. -/
def ctxAsker (ctx : Nat) : Asker := .head (0x10000 + ctx)

/-- A read of the headframe that is to answer at once. -/
def State.headRead (s : State) (ctx a n : Nat) : Option (List Byte) :=
  match s.headTry (ctxAsker ctx) ctx a n with
  | .data b => some b
  | _ => none

/-- Record mode and replay mode of a context (R205). -/
def Ctx.records (c : Ctx) : Bool := c.cflags.getLsbD 1
def Ctx.replays (c : Ctx) : Bool := c.cflags.getLsbD 2

/-- `n` 8-byte words of a context's replay buffer from byte index `x` on (R205); none: a word cannot be read. -/
def State.ringRead (s : State) (ctx x n : Nat) : Option (List Byte) :=
  (List.range n).foldr (fun i r => r.bind fun t : List Byte =>
    (s.headRead ctx ((s.ctxOf ctx).rpBase.toNat + (x + 8 * i) % (max 8 (s.ctxOf ctx).rpSize)) 8).map (· ++ t)) (some [])

/-- The headframe writes a context's memory in this module; none: the write is dropped (R51, R54). -/
def State.headWrite (s : State) (ctx a : Nat) (bytes : List Byte) : Option State :=
  match s.headPlaces ctx .write a bytes.length with
  | .error _ => none
  | .ok l =>
    (l.foldl (fun r p => match r, p.2.2 with
      | some (t, off), .loc k => some (t.homeStore 0 k ((bytes.drop off).take p.2.1) (p.2.1 == 64), off + p.2.1)
      | some (t, off), .sealed k o => some (t.sealedStore 0 ctx o k ((bytes.drop off).take p.2.1) false, off + p.2.1)
      | _, _ => none) (some (s, 0))).map (·.1)

/-- A write of the headframe waits: its place lies in another module, or its host translation is not there yet. -/
def State.headLater (s : State) (ctx a n : Nat) : Bool :=
  match s.headPlaces ctx .write a n with
  | .error (.ats _, _) => true
  | .error _ => false
  | .ok l => l.any fun p => match p.2.2 with
    | .peer _ _ => true
    | _ => false

/-! ## Capsule records (R340, R344) -/

/-- Where bytes of a slice lie while every owner that admits the accessor is out: the workgroup whose image holds them, and
their offset there (R87, R145). -/
def State.keptAt (s : State) (who : Who) (k n : Nat) : Option (Nat × Nat) :=
  if k < 2 ^ 40 || 2 ^ 41 ≤ k then none
  else match (s.allocsAt (k - 2 ^ 40) n).filter fun a => s.admits who false a with
    | [] => none
    | a :: r => if (a :: r).all fun x => s.gangSt x.wg == .out || s.gangSt x.wg == .dead then
        some (a.wg, (k - 2 ^ 40) % 2 ^ 20 - a.off)
      else none

/-- Bytes at their home, which may be an image. -/
def State.homeRead (s : State) (who : Who) (k n : Nat) : List Byte :=
  match s.keptAt who k n with
  | none => mread s.mem k n
  | some (w, off) => ((s.wgOf w).kept.drop off).take n

/-- The home, which may be an image, takes bytes. -/
def State.homePut (s : State) (who : Who) (die k : Nat) (b : List Byte) : State :=
  match s.keptAt who k b.length with
  | none => s.homeStore die k b false
  | some (w, off) => s.updWg w fun x => x.keep off b

/-- STATE and TOKEN of a capsule record's first bytes. -/
def capsOwner (b : List Byte) : Nat × Nat := let w := leNat (b.take 8); (w / 2 ^ 62, w % 2 ^ 48)

/-- An event of a capsule's owner (R344): STATE becomes 2 (from 1) or 3, where the record names the owner. -/
def State.capsMark (s : State) (st : Strand) (dest : Nat) : State :=
  match st.caps with
  | none => s
  | some c =>
    let o := capsOwner (s.homeRead (s.who st) c.loc 64)
    if o.2 == c.token.toNat && (dest == 3 && o.1 != 0 || o.1 == 1) then
      let s := s.homePut (s.who st) (dieOf st.core) c.loc (leBytes 8 (dest * 2 ^ 62 + o.2))
      { s with strands := tmap s.strands fun _ x => if x.block == .capsule c.loc then { x with block := .none } else x }
    else s

/-! ## Grids that end (R54, R94, R191) -/

/-- The low 24 bits of a completion that could not be written, in the canary (R207 code 0x0F). -/
def State.headFailed (s : State) (queue : Option Nat) (kind seq : Nat) : State :=
  s.canary 0 8 0x0F (queue.getD 0xFFFF) (kind * 2 ^ 28 + seq % 2 ^ 24)

/-- A write of the headframe that cannot be made is dropped, with its canary event; then its vector is raised (R51, R54). -/
def State.headDropped (s : State) (o : HeadOut) : State :=
  let s := s.headFailed o.queue o.kind o.seq
  match o.irq with
  | some v => s.raise v
  | none => s

/-- A WRITE OF THE HEADFRAME (R51, R54): done at once, dropped, or kept until its translation or another module has
answered. -/
def State.headPut (s : State) (o : HeadOut) : State :=
  if s.headLater o.ctx o.addr o.bytes.length then s.setHost fun h => { h with headOut := h.headOut ++ [o] }
  else match s.headWrite o.ctx o.addr o.bytes with
    | none => s.headDropped o
    | some t => match o.irq with
      | some v => t.raise v
      | none => t

/-- Writes a completion record and raises the vector it asks for (R54). -/
def State.completion (s : State) (ctx : Nat) (queue : Option Nat) (addr value : DWord) (seq : BitVec 32)
    (status : Nat) (irq : Option Nat) : State :=
  let bytes := leBytes 8 value.toNat ++ leBytes 4 seq.toNat ++ leBytes 4 status
  let s := s.publish
  let o : HeadOut :=
    { id := s.next, ctx := ctx, queue := queue, addr := addr.toNat, bytes := bytes, kind := 0, seq := seq.toNat, irq := irq }
  if addr = 0 then
    match irq with
    | some v => s.raise v
    | none => s
  else if addr.toNat % 16 != 0 then s.headDropped o
  else s.fresh.headPut o

/-- Wakes the strands of a grid that wait in WAITPRED: they look again (R99). -/
def State.wakePred (s : State) (g : Nat) : State :=
  { s with strands := tmap s.strands fun _ st =>
      if st.block = .waitpred && (s.wgOf st.wg).grid == g then { st with block := .none } else st }

/-- A byte range reads zero. -/
def State.clearRange (s : State) (k n : Nat) : State := { s with mem := s.mem.filter fun c => !(k ≤ c.1 && c.1 < k + n) }

/-- Allocations of a context's grids are freed (R145): bytes of a confidential context that still lie in the slice are zeroed
(R63). -/
def State.freeAllocs (s : State) (ctx : Nat) (p : Alloc → Bool) : State :=
  let l := s.home.allocs.filter p
  let s := if !(s.ctxOf ctx).conf then s
    else (l.filter fun a => !s.ownerOut a).foldl (fun t a => t.clearRange (sKey (a.core * 2 ^ 20 + a.off)) a.len) s
  s.setHome fun h => { h with allocs := h.allocs.filter fun a => !p a }

/-- A grid is over with a completion STATUS: its areas and allocations are free, its completion record is written,
its successors go on or, where none of their gangs has started, are discarded (R54, R56, R94, R99, R145). The fuel
bounds the chain of successors. -/
def finishGrid : Nat → State → Nat → Nat → State
  | 0, s, _, _ => s
  | f + 1, s, g, status =>
    let gr := s.gridOf g
    let s := (s.updGrid g fun x => { x with st := .done status })
    let s := s.updCtx gr.ctx fun c => { c with runs := c.runs.filter fun r => r.1 != g }
    let s := s.freeAllocs gr.ctx fun a => a.grid == g
    let s := { s with bars := s.bars.filter fun b => !(2 ≤ b.1.level && b.1.level ≤ 4 && b.1.owner == g) }
    let s := s.completion gr.ctx gr.queue gr.compaddr gr.compval gr.seq status gr.irq
    (s.grids.filter fun x => x.2.pred == some g && x.2.st == .live).foldl
      (fun t x => if status != 0 && x.2.gangs.isEmpty then finishGrid f t x.1 status else t.wakePred x.1) s

/-- Ends the grid once every gang of it is saved or drained (R191 item 5). -/
def State.settle (s : State) (g : Nat) : State :=
  let gr := s.gridOf g
  match gr.st with
  | .ending status =>
    if gr.gangs.all fun x => x.2.st == .dead || x.2.st == .retired || x.2.st == .out then
      finishGrid (s.grids.length + 1) s g status
    else s
  | _ => s

/-- Requests the pre-emption of every gang of a grid, which will end with `status` (R191, R192). A gang that drains
finishes draining (R88). Capsules held open by gangs that have halted are GONE. -/
def State.endGrid (s : State) (g status : Nat) : State :=
  let gr := s.gridOf g
  if gr.st != .live then s
  else
    let s := s.updGrid g fun x => { x with
      st := .ending status
      gangs := tmap x.gangs fun _ y =>
        if y.st == .resident && (s.strands.any fun z => y.members.contains z.2.wg) then
          { y with st := .halting, reqTick := s.mod.tick.toNat }
        else if y.st == .out then { y with st := .dead } else y }
    let stopped := fun w : Nat => (s.gridOf g).gangs.any fun y =>
      y.2.members.contains w && (y.2.st == .dead || y.2.st == .saving)
    ((s.strands.filter fun z => z.2.caps.isSome && stopped z.2.wg).foldl (fun t z => t.capsMark z.2 3) s).settle g

/-! ## Traps (R184 to R195) -/

/-- The fault classes that park and replay (R184 kind P). -/
def kindP (cls : Nat) : Bool := cls == 0x12 || cls == 0x13 || cls == 0x18 || cls == 0x19

/-- A trap of a strand: class, ADDR or AUX, the flags beside RANGE and REPLAY (R189), the threads it names where
they are not all of the strand, the address of the word it names, and whether a class of kind G is among the
faults of its threads (R188). `elems`: class, lane and address of every element that parks (R194, R195). -/
structure Trap where
  cls : Nat
  addr : DWord := 0
  flags : Nat := 0
  who : Option (Nat × Nat) := none
  pc : Option DWord := none
  fatal : Bool := false
  elems : List (Nat × Nat × Nat) := []
  deriving DecidableEq, Repr

/-- Kind G ends the grid. -/
def Trap.ends (t : Trap) : Bool := t.fatal || !kindP t.cls

/-- LCRD3 to LCRD7 of a workgroup (R67). -/
def Grid.coords (g : Grid) (w : Nat) : List (BitVec 32) :=
  [3, 4, 5, 6, 7].map fun k =>
    if k < g.nlev then BitVec.ofNat 32 (w / g.units k % (g.levels.getD (k - 2) ⟨1, 0, 0⟩).extent) else 0

/-- The fault record of a trap (R189). A strand that is not blocked traps at issue; one that is blocked issued earlier. -/
def State.record (s : State) (st : Strand) (t : Trap) : FaultRec :=
  let g := s.gridAt st
  let n := t.who.getD st.names
  { tick := if st.block == .none then s.mod.tick else BitVec.ofNat 64 st.issueTick
    cls := BitVec.ofNat 8 t.cls
    flags := BitVec.ofNat 8 (t.flags + (if t.ends then 0 else 1) + (if st.isRange then 2 else 0))
    pc := (t.pc.getD st.pc).extractLsb' 0 48
    first := BitVec.ofNat 32 n.1
    sufn := BitVec.ofNat 32 n.2
    wg := BitVec.ofNat 32 (s.wgOf st.wg).w
    core := BitVec.ofNat 10 st.core
    slot := BitVec.ofNat 10 (if st.isHandler then 512 else st.slot)
    ctx := BitVec.ofNat 8 g.ctx
    lcrd := g.coords (s.wgOf st.wg).w
    seq := g.seq
    addr := t.addr }

/-- A record of a confidential context as the log keeps it (R209). -/
def FaultRec.withheld (r : FaultRec) : FaultRec :=
  { r with flags := 0, pc := 0, first := 0, sufn := 0, wg := 0, core := 0, slot := 0, ctx := 0
           lcrd := List.replicate 5 0, seq := 0, addr := 0 }

/-- Writes a fault record to its context's log, which keeps the newest 1,024, and to the canary (R190, R206,
R207 code 0x01), of a confidential context with nothing but the tick and the class. -/
def State.logRecord (s : State) (ctx : Nat) (r : FaultRec) : State :=
  let conf := (s.ctxOf ctx).conf
  let kept := if conf then r.withheld else r
  let s := s.updCtx ctx fun c => { c with log := (c.log ++ [kept]).drop (c.log.length + 1 - 1024), logged := c.logged + 1 }
  let die := dieOf r.core.toNat
  if conf then s.canary die 0 0 0 (r.cls.toNat * 2 ^ 24)
  else s.canary die 0 1 r.core.toNat (r.cls.toNat * 2 ^ 24 + r.first.toNat % 2 ^ 24)

/-- Writes one fault-service entry into the host's ring, or keeps it until there is room (R194). -/
def State.fsrPush (s : State) (e : FsEntry) : State :=
  if s.host.fsrCons + 2 ^ s.host.fsrLogsz ≤ s.host.fsrProd then
    s.setHost fun h => { h with fsrWait := h.fsrWait ++ [e] }
  else
    let va := if (s.ctxOf e.ctx).conf then 0 else e.page * 0x10000
    let bytes := leBytes 8 va ++ leBytes 1 e.ctx ++ leBytes 1 e.kind ++ leBytes 2 0 ++ leBytes 4 e.serial ++
      leBytes 8 e.tick ++ leBytes 8 0
    let at_ := s.host.fsrBase.toNat + s.host.fsrProd % 2 ^ s.host.fsrLogsz * 32
    let s := { s with mem := mwrite s.mem (hostKey at_) bytes }
    (s.setHost fun h => { h with fsrProd := h.fsrProd + 1, fsrOpen := h.fsrOpen ++ [e] }).raise 2

/-- Asks the host for a page: one entry per context, page and kind, however many elements wait (R194). -/
def State.fsrAsk (s : State) (ctx page kind : Nat) : State :=
  if (s.host.fsrOpen ++ s.host.fsrWait).any fun e => e.ctx == ctx && e.page == page && e.kind == kind then s
  else
    (s.setHost fun h => { h with fsrSerial := h.fsrSerial + 1 }).fsrPush
      ⟨s.host.fsrSerial, ctx, page, kind, s.mod.tick.toNat⟩

/-- An element of an asker that is no strand parks on a page. -/
def State.hold (s : State) (a : Asker) (cls ctx page : Nat) : State :=
  if s.host.holds.any fun h => h.asker == a && h.cls == cls && h.ctx == ctx && h.page == page then s
  else s.setHost fun h => { h with holds := h.holds ++ [⟨a, cls, ctx, page, false⟩] }

/-- The class of the fault that an asker's parked element has become (R195, R138); none: it has not. -/
def State.holdFault (s : State) (a : Asker) (cls ctx page : Nat) : Option Nat :=
  if s.host.holds.any fun h => h.asker == a && h.cls == cls && h.ctx == ctx && h.page == page && h.failed then
    some (if cls = 0x19 then 0x17 else cls)
  else none

/-- Forgets what an asker's elements were parked on. -/
def State.forgetHolds (s : State) (a : Asker) : State :=
  s.setHost fun h => { h with holds := h.holds.filter fun x => x.asker != a }

/-- A page of a context is asked for: of the host by the foreman, or of the host's page service (R194, R138). -/
def State.askPage (s : State) (cls ctx page kind : Nat) : State :=
  if cls = 0x13 then s.fsrAsk ctx page kind
  else if cls = 0x19 then
    s.setHost fun h => { h with
      pageReqs := if h.pageReqs.contains (ctx, page) then h.pageReqs else h.pageReqs ++ [(ctx, page)] }
  else s

/-- Kind of a fault-service entry: 0 read, 1 write or atomic, 2 fetch (R194). -/
def fsKind (flags : Nat) : Nat := if flags / 4 % 2 = 1 then 2 else if flags / 8 % 2 = 1 then 1 else 0

/-- A strand parks for good and its grid ends (R191). -/
def State.parkEnded (s : State) (u : Nat) : State :=
  match tfind s.strands u with
  | none => s
  | some st =>
    ((s.capsMark st 3).updStrand u fun x => { x with block := .ended }).endGrid (s.wgOf st.wg).grid 2

/-- TAKING A TRAP (R184 to R192): the record is written to the log and the canary; a trap of kind P parks its
strand and asks its resolver; a trap of kind G parks it for good, marks an open capsule GONE, and ends the grid. A
page that is not present while the fault-service ring is off counts as failed at once (R195). -/
def State.takeTrap (s : State) (u : Nat) (t : Trap) : State :=
  match tfind s.strands u with
  | none => s
  | some st =>
    let t := if t.cls == 0x13 && !s.host.fsrEn then { t with fatal := true } else t
    let ctx := s.ctxNo st
    let page := t.addr.toNat / 0x10000
    let s := s.logRecord ctx (s.record st t)
    if t.ends then s.parkEnded u
    else
      let s := (s.capsMark st 2).updStrand u fun x => { x with
        block := .parked (BitVec.ofNat 8 t.cls) ctx t.addr.toNat t.flags
        park := { pc := t.pc.getD x.pc, who := t.who, elems := t.elems } }
      s.askPage t.cls ctx page (fsKind t.flags)

/-- A trap of kind C (R192): every grid of the context ends, and it accepts no further launch. -/
def State.contextFatal (s : State) (ctx : Nat) : State :=
  if (s.ctxOf ctx).fatal then s
  else
    let s := s.updCtx ctx fun c => { c with fatal := true }
    let s := s.logRecord ctx
      { tick := s.mod.tick, cls := 0x38, flags := 0, pc := 0, first := 0, sufn := 0, wg := 0, core := 0, slot := 0
        ctx := BitVec.ofNat 8 ctx, lcrd := List.replicate 5 0, seq := 0, addr := 0 }
    (s.grids.filter fun g => g.2.ctx == ctx).foldl (fun t g => t.endGrid g.1 2) s

/-- What the foreman stages for the lanes of a strand (R196): the results that the 6000 series defines (R8). -/
def State.emulStage (s : State) (st : Strand) (word : Word) (act : BitVec 32) : List Word :=
  let va := (word.extractLsb' 10 6).toNat
  let vb := (word.extractLsb' 4 6).toNat
  let lanes := List.range 32
  lanes.map fun j => Config.emulResult word j act (lanes.map fun i => s.vreg st va i) (lanes.map fun i => s.vreg st vb i)

/-- A foreman trap of kind E (R196): the strand parks with what the foreman staged, and an event goes to the canary
only (R207 code 0x02). -/
def State.takeEmulation (s : State) (u : Nat) (word : Word) (act : BitVec 32) : State :=
  match tfind s.strands u with
  | none => s
  | some st =>
    let op := (word.extractLsb' 22 6).toNat
    let s := (s.capsMark st 2).updStrand u fun x =>
      { x with block := .emulate word (word.extractLsb' 16 6) act (s.emulStage st word act) }
    if (s.ctxOf (s.ctxNo st)).conf then s.canary (dieOf st.core) 0 0 0 (op * 2 ^ 24)
    else s.canary (dieOf st.core) 7 2 st.core (op * 2 ^ 24 + st.names.1 % 2 ^ 24)

/-- THE RETURN FROM THE TIMER HANDLER (R199): the handler strand is gone. -/
def State.handlerReturn (s : State) (u : Nat) : State := { s with strands := tdel s.strands u }

end Sys2Proof.Machine

namespace Sys2Proof

/-- Control transfers (R217). -/
def Instr.isControl : Instr → Bool
  | .vbr .. | .vbrn .. | .vswitch .. | .vjoin .. | .vreform .. | .vcall .. | .vcallr .. | .vret | .vexit | .jmp ..
  | .brz .. | .brnz .. | .call .. | .callr .. | .ret | .exit | .eret => true
  | _ => false

/-- Instructions that must stand last in their clause: control transfers, and CAPB and CAPE (R216, R341). -/
def Instr.endsClause (i : Instr) : Bool :=
  i.isControl || match i with
    | .capb .. | .capeStep | .capeEnd => true
    | _ => false

/-- Set-A operations (R218). -/
def Instr.setsA : Instr → Bool
  | .vld .. | .vldc .. | .vldg .. | .vatom .. | .sld .. | .sldc .. | .satom .. | .accrd .. | .poolp .. | .poold .. => true
  | _ => false

/-- Set-B operations (R218). -/
def Instr.setsB : Instr → Bool
  | .tcopy .. | .tcopyx .. | .mcopy .. | .bcopy .. | .chain .. | .redw .. | .mma .. | .mmaRs .. | .mmaSs .. | .mmas ..
  | .mman .. | .salient .. | .accz .. => true
  | _ => false

/-- Instructions that need every flag of the strand idle (R274, R342). -/
def Instr.needsIdle : Instr → Bool
  | .vcall .. | .vcallr .. | .vret | .call .. | .callr .. | .ret | .capb .. => true
  | _ => false

/-- The lane pipe's instructions: bit 31 of the word is 0 (R210). -/
def Instr.isLane (i : Instr) : Bool := ((encode i).headD 0).getLsbD 31 == false

/-- Instructions that the timer handler may not execute (R353). -/
def Instr.notInHandler : Instr → Bool
  | .barw .. | .bars .. | .await .. | .bwait .. | .waitpred | .sleep .. | .capb .. | .launch .. | .tmarm ..
  | .mma .. | .mmaRs .. | .mmaSs .. | .mmas .. | .mman .. => true
  | i => i.isLane

/-- Instructions that a capsule admits (R341). -/
def Instr.capsuleOk : Instr → Bool
  | .sadd .. | .ssub .. | .smul .. | .smulhI32 .. | .smulhN32 .. | .sminI32 .. | .sminN32 .. | .smaxI32 .. | .smaxN32 ..
  | .sand .. | .sor .. | .sxor .. | .sshl .. | .sshr .. | .ssar .. | .scmp .. | .ssel .. | .smov .. | .spopc .. | .sclz ..
  | .sdivN32 .. | .sremN32 .. | .sdivI32 .. | .sremI32 .. | .sadd64 .. | .ssub64 .. | .smulw .. | .saddi .. | .smuli ..
  | .sandi .. | .sori .. | .sxori .. | .sshli .. | .sshri .. | .ssari .. | .sltiI32 .. | .sltiN32 .. | .seqi ..
  | .sadd64i .. | .smovi .. | .shii .. | .nop .. | .capeStep | .capeEnd | .exit => true
  | .sld _ _ sz _ | .sst _ _ sz _ => sz == 4 || sz == 5
  | .jmp off => off.toInt > 0
  | .brz _ off | .brnz _ off => off.toInt > 0
  | _ => false

end Sys2Proof

namespace Sys2Proof.Machine

/-! ## The gate at issue (R188 items 2 to 4, R216 to R218, R341) -/

/-- A register an instruction names: its file (1 v, 2 s, 3 k) and number. -/
abbrev Use := Nat × Nat

/-- Vector register `r` and the `n - 1` after it. -/
def useV (r : BitVec 6) (n : Nat := 1) : List Use := (List.range n).map fun i => (1, r.toNat + i)
/-- Uniform register `r` and the `n - 1` after it. -/
def useS (r : BitVec 6) (n : Nat := 1) : List Use := (List.range n).map fun i => (2, r.toNat + i)
/-- Mask register `r`. -/
def useK (r : Nat) : List Use := if r = 0 then [] else [(3, r)]

/-- The first register a strand names beyond its blocks (R185). -/
def State.overreach (s : State) (st : Strand) (uses : List Use) : Option Nat :=
  (uses.find? fun x => x.1 == 1 && s.blocks st ≤ x.2 / 8).map fun x => 0x100 + x.2

/-- The strand has done part of the instruction at which it stands (R128, R129). -/
def Strand.midway (st : Strand) : Bool := st.doneLanes != 0 || st.doneCount != 0

/-- The first register a strand names that an operation in flight will write, or that a set-A operation of its own clause
writes (R186, R218). An instruction of which part is done has passed this check. -/
def State.hazard (s : State) (u : Nat) (st : Strand) (uses : List Use) : Option Nat :=
  if st.midway then none
  else
    let own := (st.clause.map (·.dst)).getD []
    (uses.find? fun x => own.contains x || (s.opsOf u).any fun o =>
      (x.1 == 1 && o.2.dstV.contains x.2) || (x.1 == 2 && o.2.dstS.contains x.2)).map fun x => x.1 * 256 + x.2

/-- The clause rules an instruction can break (R216, R218). -/
def Strand.clauseBreach (st : Strand) (c : Issue) (i : Instr) : Bool :=
  match st.clause with
  | none => true
  | some k =>
    (i.endsClause && c.pc + 4 * BitVec.ofNat 64 (1 + i.inlineCount) != k.stop) ||
      (i.setsA && 12 ≤ k.setA.toNat) || (i.setsB && 12 ≤ k.setB.toNat)

/-- The capsule rules on an instruction as a whole (R341): what it is, its registers, and how many have run. -/
def Caps.breach (c : Caps) (i : Instr) (uses : List Use) : Bool :=
  !i.capsuleOk || uses.any (fun x => x.2 < 56) || 32 ≤ c.icount ||
    (match i with
      | .sst .. => 8 ≤ c.wcount + c.held.length
      | _ => false)

/-- The capsule checks of a strand, inside and outside (R341). -/
def Strand.capsBreach (st : Strand) (i : Instr) (uses : List Use) : Bool :=
  match st.caps with
  | some c => c.breach i uses
  | none => i == .capeStep || i == .capeEnd

/-- What stops an instruction at issue, in the order of R188: class and AUX. `excess` is the barrier or ACQ excess of
R185. -/
def State.gate (s : State) (c : Issue) (st : Strand) (i : Instr) (uses : List Use) (excess : Option Nat) :
    Option (Nat × Nat) :=
  if !i.wf || st.clauseBreach c i || (st.isHandler && i.notInHandler) || (!st.isHandler && i == .eret) then
    some (0x01, 0)
  else match s.overreach st uses <|> excess with
    | some a => some (0x04, a)
    | none => match s.hazard c.uid st uses <|> (if i.needsIdle && !(s.opsOf c.uid).isEmpty then some 0 else none) with
      | some a => some (0x05, a)
      | none => if st.capsBreach i uses then some (0x23, 0) else none

/-- The strand has issued: the moment, and the count of a capsule (R81, R341). -/
def Strand.issued (st : Strand) (clock tick : Nat) : Strand :=
  { st with
    lastIssue := clock
    issueTick := tick
    clause := st.clause.map fun c => { c with started := true }
    caps := st.caps.map fun c => { c with icount := c.icount + 1 } }

/-- ISSUE OF ONE INSTRUCTION. The strand that step names passes the gate or takes its trap; then the body acts. -/
def issue (i : Instr) (uses : Strand → List Use) (excess : State → Strand → Option Nat)
    (body : State → Issue → Strand → State) (s : State) : Out :=
  match s.cur with
  | none => .fault .noIssuer
  | some c =>
    match tfind s.strands c.uid with
    | none => .fault .noIssuer
    | some st =>
      match s.gate c st i (uses st) (excess s st) with
      | some (cls, aux) =>
        .next { s.takeTrap c.uid { cls := cls, addr := BitVec.ofNat 64 aux, pc := some c.pc } with cur := none }
      | none =>
        let s := s.updStrand c.uid fun x => x.issued s.mod.clock s.mod.tick.toNat
        .next { body s c (st.issued s.mod.clock s.mod.tick.toNat) with cur := none }

/-- No excess of barriers or blocks. -/
def noExcess (_ : State) (_ : Strand) : Option Nat := none

end Sys2Proof.Machine
end

