-- ==== Sys2Proof/Machine/Remote.lean ====
section
/-! DEFINITION. Requests to other modules (R34 to R38): an operation asks for all its remote elements, waits, and
acts when every answer is there. -/

namespace Sys2Proof.Machine

/-- One remote element: its number in the operation, READ, WRITE, ATOMIC or RED, home module, domain address, size,
operation and operand bytes. -/
structure Ask where
  idx : Nat
  op : Nat
  dmod : Nat
  addr : Nat
  size : Nat
  aop : Nat
  data : List Byte
  /-- sequence index of a contribution (R35, R36) -/
  seq : List (BitVec 20)
  deriving DecidableEq, Repr

/-- The port of a number. -/
def State.port (s : State) (p : Nat) : Port := tget s.fab.ports p portReset

/-- Changes a port. -/
def State.updPort (s : State) (p : Nat) (f : Port → Port) : State :=
  s.setFab fun b => { b with ports := tset b.ports p (f (tget b.ports p portReset)) }

/-- The ports of a die whose STATE is up (R31). -/
def State.upPorts (s : State) (die : Nat) : List Nat :=
  ((List.range 16).map (16 * die + ·)).filter fun p => (s.port p).st == 2

/-- The port a message of a die leaves through (R34); none where no up port reaches the module. -/
def State.portFor (s : State) (die dmod addr : Nat) : Option Nat :=
  let ups := s.upPorts die
  if ups.isEmpty then none else ups[Config.portHash dmod (addr % 2 ^ 48 / 2 ^ 8) % ups.length]?

/-- Puts a message into a port's queue of a virtual channel (R28). -/
def State.sendOn (s : State) (p : Nat) (vc : BitVec 3) (m : Msg) : State :=
  s.updPort p fun x => { x with txq := x.txq ++ [(vc, m)] }

/-- Records an answer that somebody waits for. -/
def State.putAnswer (s : State) (a : Answer) : State := s.setFab fun b => { b with answers := b.answers ++ [a] }

/-- Forgets the answers of a finished operation. -/
def State.clearAnswers (s : State) (a : Asker) : State :=
  s.setFab fun b => { b with answers := b.answers.filter fun x => x.asker != a }

/-- Forgets what an asker has asked for, with the answers. -/
def State.forgetAsks (s : State) (a : Asker) : State :=
  (s.clearAnswers a).setFab fun b => { b with reqs := b.reqs.filter fun r => r.2.asker != a }

/-- A READ waits while a WRITE of its core to the same 256-byte block has no answer (R37). -/
def State.heldBehindWrite (s : State) (core : Nat) (k : Ask) : Bool :=
  k.op == 1 && s.fab.reqs.any fun r =>
    r.2.core == core && r.2.msg.op == 2 && r.2.msg.dmod.toNat == k.dmod &&
      r.2.msg.addr.toNat % 2 ^ 48 / 256 == k.addr % 2 ^ 48 / 256

/-- The requests of a die to a 256-byte block that have no answer, but for those that are to be sent again (R42). -/
def State.blockReqs (s : State) (die dmod addr : Nat) : List (Nat × Req) :=
  s.fab.reqs.filter fun r => r.2.retryAt.isNone && dieOf r.2.core == die &&
    r.2.msg.dmod.toNat == dmod && r.2.msg.addr.toNat % 2 ^ 48 / 256 == addr % 2 ^ 48 / 256

/-- A message of a die to a 256-byte block waits while one to that block that has left on another path than port `p` is not
answered (R34). `tag` is the message's own, where it has one. -/
def State.heldByPath (s : State) (die p : Nat) (tag : Option Nat) (dmod addr : Nat) : Bool :=
  (s.blockReqs die dmod addr).any fun r => some r.1 != tag && r.2.port.any (· != p)

/-- An earlier message of a die to the block has not left yet (R34). -/
def State.blockWaits (s : State) (die dmod addr : Nat) : Bool := (s.blockReqs die dmod addr).any fun r => r.2.port.isNone

/-- The message of a request. -/
def State.askMsg (s : State) (core tag : Nat) (k : Ask) : Msg where
  op := BitVec.ofNat 8 k.op
  dmod := BitVec.ofNat 8 k.dmod
  smod := BitVec.ofNat 8 s.modnum
  sdie := BitVec.ofNat 2 (dieOf core)
  bytes := k.size
  status := 0
  tag := BitVec.ofNat 24 tag
  aop := BitVec.ofNat 8 k.aop
  addr := BitVec.ofNat 56 (k.dmod * 2 ^ 48 + k.addr % 2 ^ 48)
  idx := k.seq
  data := k.data

/-- Sends one request, or answers it as timed out at once where no path exists (R38). One that writes drops the assay
programs compiled from the bytes (R327). -/
def State.ask1 (s : State) (a : Asker) (core : Nat) (vc : BitVec 3) (k : Ask) : State :=
  if (s.answerTo a k.idx).isSome || s.fab.reqs.any (fun r => r.2.asker == a && r.2.idx == k.idx) then s
  else if 192 ≤ k.dmod then s.putAnswer ⟨a, k.idx, [], some 0x1B⟩
  else match s.portFor (dieOf core) k.dmod k.addr with
    | none => s.putAnswer ⟨a, k.idx, [], some 0x1B⟩
    | some p =>
      if s.heldBehindWrite core k || s.blockWaits (dieOf core) k.dmod k.addr ||
          s.heldByPath (dieOf core) p none k.dmod k.addr then s
      else
        let tag := s.fab.nextTag % 2 ^ 24
        let m := s.askMsg core tag k
        let s := if k.op = 1 then s else s.setSched fun d => d.forget (peerKey k.dmod k.addr) (max 1 k.data.length)
        (s.setFab fun b => { b with
          nextTag := b.nextTag + 1
          reqs := tset b.reqs tag ⟨a, k.idx, core, m, s.mod.tick.toNat, vc, some p, none⟩ }).sendOn p vc m

/-- Asks for every element that has no answer. -/
def State.askAll (s : State) (a : Asker) (core : Nat) (vc : Nat → BitVec 3) (ks : List Ask) : State :=
  ks.foldl (fun t k => t.ask1 a core (vc k.op) k) s

/-- Asks for the pieces that a read of the headframe waits for (R51, R54, R55). -/
def State.headAsk (s : State) (a : Asker) (core : Nat) (ks : List (Nat × Nat × Nat × Nat)) : State :=
  s.askAll a core (fun _ => 0) (ks.map fun k =>
    { idx := k.1, op := 1, dmod := k.2.1, addr := k.2.2.1, size := k.2.2.2, aop := 0, data := [], seq := [] })

/-- Every element of an operation has its answer. -/
def State.allAnswered (s : State) (a : Asker) (ks : List Ask) : Bool := ks.all fun k => (s.answerTo a k.idx).isSome

/-- The channel of an element access: READ on 0, WRITE and ATOMIC on 1, RED on 3 (R36). -/
def elemVc (op : Nat) : BitVec 3 := if op = 1 then 0 else if op = 7 then 3 else 1

/-- The channel of a bulk copy: READ on 0, WRITE on 4 (R28). -/
def bulkVc (op : Nat) : BitVec 3 := if op = 1 then 0 else 4

/-- A strand that waits for answers looks again when it has no request outstanding (R37). -/
def State.wakeRemote (s : State) : State :=
  { s with strands := tmap s.strands fun u st =>
      if st.block == .remote && !(s.fab.reqs.any fun r => r.2.asker == .strand u) then { st with block := .none } else st }

end Sys2Proof.Machine
end

