-- ==== Sys2Proof/Machine/Fetch.lean ====
section
/-! DEFINITION. Fetching clauses (R57, R215, R216, R219) and the predicate prefix (R220). -/

namespace Sys2Proof.Machine

/-- The header word of a clause (R215): bits 31:28 are ones. -/
def isHeader (w : Word) : Bool := w.extractLsb' 28 4 == 0xF

/-- One instruction word through the instruction cache, which stores of programs never reach (R57, R84). -/
def State.fetchWord (s : State) (u : Nat) (st : Strand) (pc : DWord) (idx : Nat) : Except Bad (Option Word) :=
  let ctx := s.ctxNo st
  match s.home.icache.find? fun e => e.1 == ctx && e.2.1 == pc.toNat with
  | some e => .ok (some e.2.2)
  | none =>
    match s.resolve (dieOf st.core) (s.who st) .fetch pc 4 with
    | .error b => .error b
    | .ok (.loc k) => .ok (some (BitVec.ofNat 32 (leNat (mread s.mem k 4))))
    | .ok (.sealed k _) => .ok (some (BitVec.ofNat 32 (leNat (s.sealedRead ctx k 4))))
    | .ok (.peer _ _) =>
      match s.answerTo (.strand u) idx with
      | none => .ok none
      | some a => match a.fault with
        | some c => .error (.cls c.toNat)
        | none => .ok (some (BitVec.ofNat 32 (leNat a.data)))

/-- Puts a fetched word into the cache. -/
def State.cacheWord (s : State) (ctx : Nat) (pc : DWord) (w : Word) : State :=
  if s.home.icache.any fun e => e.1 == ctx && e.2.1 == pc.toNat then s
  else s.setHome fun h => { h with icache := (ctx, pc.toNat, w) :: h.icache }

/-- The fetch of `n` words misses in the translations that are cached: of those words that the instruction cache does not
hold (R57, R137). -/
def State.fetchMisses (s : State) (st : Strand) (pc : DWord) (n : Nat) : State :=
  (((List.range n).map fun i => pc + 4 * BitVec.ofNat 64 i).filter fun a =>
    !(s.home.icache.any fun e => e.1 == s.ctxNo st && e.2.1 == a.toNat)).foldl
      (fun t a => t.noteMiss (dieOf st.core) (t.who st) a) s

/-- The trap of a fetch that fails: FLAGS.FETCH, PC and ADDR name the word (R219). -/
def fetchTrap (pc : DWord) (cls : Nat) : Trap := { cls := cls, addr := pc, flags := 4, pc := some pc }

/-- The words at `pc`, `pc + 4` …, or the first that fails: none of the list, where a remote word is awaited. -/
def State.fetchWords (s : State) (u : Nat) (st : Strand) : Nat → DWord → Nat → Except (Bad × DWord) (Option (List Word))
  | 0, _, _ => .ok (some [])
  | n + 1, pc, idx =>
    match s.fetchWord u st pc idx with
    | .error b => .error (b, pc)
    | .ok none => .ok none
    | .ok (some w) => match s.fetchWords u st n (pc + 4) (idx + 1) with
      | .error e => .error e
      | .ok r => .ok (r.map (w :: ·))

/-- Asks another module for code words (R37, R135 TARGET 1). -/
def State.askCode (s : State) (u : Nat) (st : Strand) (pc : DWord) (n : Nat) : State :=
  let ks := (List.range n).filterMap fun i =>
    match s.resolve (dieOf st.core) (s.who st) .fetch (pc + 4 * BitVec.ofNat 64 i) 4 with
    | .ok (.peer m a) => some (⟨i, 1, m, a, 4, 0, [], []⟩ : Ask)
    | _ => none
  (s.askAll (.strand u) st.core elemVc ks).updStrand u fun x => { x with block := .remote }

/-- How a fetch that fails ends. -/
def State.fetchFails (s : State) (u : Nat) (b : Bad) (pc : DWord) : State :=
  match b with
  | .cls c => s.takeTrap u (fetchTrap pc c)
  | .ats p => s.updStrand u fun x => { x with block := .ats p }

/-- The handler has yet to issue its first instruction: TMVEC is its target (R353). -/
def Strand.startsHandler (st : Strand) : Bool := st.isHandler && st.lastIssue == 0

/-- A clause is fetched whole (R219): its header, then its words. A trampoline parks the strand on a foreman trap until its
function is translated (R60, R344). -/
def State.fetchClause (s : State) (u : Nat) : State :=
  match tfind s.strands u with
  | none => s
  | some st =>
    if st.clause.isSome || st.block != .none then s
    else if (tfind (s.ctxOf (s.ctxNo st)).stubs st.pc.toNat).any (!·.committed) then
      (s.capsMark st 2).updStrand u fun x => { x with block := .translate st.pc }
    else if st.startsHandler && st.pc.toNat % 4 != 0 then s.takeTrap u { cls := 0x03 }
    else
      let s := s.fetchMisses st st.pc 1
      match s.fetchWords u st 1 st.pc 0 with
      | .error (b, pc) => s.fetchFails u b pc
      | .ok none => s.askCode u st st.pc 1
      | .ok (some hs) =>
        let h := hs.headD 0
        if !isHeader h then s.takeTrap u { cls := if st.startsHandler then 0x03 else 0x01 }
        else if h.extractLsb' 0 3 != 0 then s.takeTrap u { cls := 0x01 }
        else
          let n := (h.extractLsb' 24 4).toNat + 1
          let s := s.fetchMisses st (st.pc + 4) n
          match s.fetchWords u st n (st.pc + 4) 1 with
          | .error (b, pc) => s.fetchFails u b pc
          | .ok none => s.askCode u st st.pc (n + 1)
          | .ok (some ws) =>
            let ctx := s.ctxNo st
            let s := (((h :: ws).zipIdx).foldl (fun t w => t.cacheWord ctx (st.pc + 4 * BitVec.ofNat 64 w.2) w.1) s)
            (s.clearAnswers (.strand u)).updStrand u fun x =>
              { x with
                pc := st.pc + 4
                clause := some
                  { base := st.pc, words := ws, wait := h.extractLsb' 12 12, setA := h.extractLsb' 8 4
                    setB := h.extractLsb' 4 4, yield := h.getLsbD 3, started := false, dst := [] } }

/-- What the pipe finds at a strand's PC: an instruction with its address and predicate, or the word at which
illegal instruction is raised. -/
inductive Found where
  | instr (i : Instr) (pc : DWord) (pred : BitVec 3)
  | illegal (pc : DWord)
  deriving DecidableEq, Repr

/-- Words that a predicate prefix may stand before (R220): not of LM or LB, of a uniform class, or a prefix. -/
def takesPrefix (w : Word) : Bool :=
  let c := (w.extractLsb' 28 4).toNat
  c < 8 && c != 3 && c != 5

/-- Reads the instruction at a strand's PC out of its clause (R216, R220). -/
def Clause.find (c : Clause) (pc : DWord) : Found :=
  let ws := c.wordsFrom pc
  let w := ws.headD 0
  match prefixOf w with
  | some k =>
    let r := ws.drop 1
    if r.isEmpty || !takesPrefix (r.headD 0) then .illegal pc
    else match decodeWords r with
      | some i => .instr i (pc + 4) k
      | none => .illegal (pc + 4)
  | none =>
    match decodeWords ws with
    | some i => .instr i pc 0
    | none => .illegal pc

/-- A wait reports what the commands it covers met (R190): one record for each command, in program order, naming the
strand the command belongs to, at the tick of the report and with REPLAY 0; then the strand parks for good. -/
def State.reportAsync (s : State) (u : Nat) (p : AsyncFault → Bool) : State :=
  match tfind s.strands u with
  | none => s
  | some st =>
    let hits := st.async.filter p
    let s := hits.foldl (fun t a =>
      if a.quiet then t
      else
        let r := (t.record { (tfind t.strands a.by_).getD st with block := .none }
          { cls := a.cls.toNat, addr := a.addr, flags := 16 + (if a.write then 8 else 0)
            who := some (a.first, a.sufn), pc := some a.pc, fatal := true })
        let t := t.logRecord (t.ctxNo st) r
        { t with strands := tmap t.strands fun _ x =>
            { x with async := x.async.map fun b => if b.id == a.id then { b with quiet := true } else b } }) s
    (s.updStrand u fun x => { x with async := x.async.filter fun a => !p a }).parkEnded u

/-- A clause's wait covers an asynchronous fault (R190, R218). -/
def Clause.covers (c : Clause) (a : AsyncFault) : Bool :=
  a.waitOn.any fun w => match w with
    | .flag f => decide (f.toNat < 12) && c.wait.getLsbD f.toNat
    | _ => false

end Sys2Proof.Machine
end

