-- ==== Sys2Proof/Machine/Strands.lean ====
section
/-! DEFINITION. Strand slots (R70, R71), splits (R114 to R117), joins and merges (R118 to R122), expansion (R123,
R124), and the split at a fault (R128, R129). -/

namespace Sys2Proof.Machine

/-! ## What a workgroup reserves (R70) -/

/-- Threads per workgroup, EXTENT of level 2. -/
def Grid.threads (g : Grid) : Nat := (g.levels.headD ⟨1, 0, 0⟩).extent

/-- W, the warps of a workgroup. -/
def Grid.warps (g : Grid) : Nat := (g.threads + 31) / 32

/-- The header starts workgroups as one range strand (FLAGS bit 1). -/
def Header.rangeStart (h : Header) : Bool := h.flags.getLsbD 1

/-- Barriers are declared. -/
def Header.barriers (h : Header) : Bool := h.barwg + h.bargang + h.barclus + h.bargrid != 0

/-- L, the lane warps reserved. -/
def Grid.lanes (g : Grid) : Nat := if g.hdr.barriers || !g.hdr.rangeStart then g.warps else min g.warps 8

/-- S, the strand slots reserved. -/
def Grid.slots (g : Grid) : Nat := g.lanes + 32 + (if g.hdr.rangeStart then 1 else 0)

/-- F, the form entries reserved. -/
def Grid.forms (g : Grid) : Nat := if g.hdr.rangeStart then 17 else 0

/-- CTXMIN (R73). -/
def Grid.ctxMin (g : Grid) : Nat :=
  1728 + 64 * ((g.warps + 15) / 16) + 512 * g.slots + 512 * g.forms + 1024 * g.lanes * g.hdr.acqmax + g.hdr.scratch +
    g.hdr.obuf

/-- Offset of the scratchpad in an image (R89). -/
def Grid.padsAt (g : Grid) : Nat :=
  0x6C0 + 64 * ((g.warps + 15) / 16) + 512 * g.slots + 512 * g.forms + 1024 * g.lanes * g.hdr.acqmax

/-- Bytes of one workgroup area (R56). -/
def Grid.areaBytes (g : Grid) : Nat := g.hdr.ctxarea + g.hdr.callarea

/-- Context area of workgroup `w` (R56); none before the headframe holds a run. -/
def Grid.ctxAreaOf (g : Grid) (w : Nat) : Option Nat := g.area.map fun a => a.toNat + w * g.areaBytes

/-- Call area of workgroup `w` (R56). -/
def Grid.callAreaOf (g : Grid) (w : Nat) : Option Nat := (g.ctxAreaOf w).map (· + g.hdr.ctxarea)

/-- The threads of a warp that exist, as a mask (R103). -/
def Grid.existing (g : Grid) (w : Nat) : BitVec 32 := BitVec.ofNat 32 (2 ^ min 32 (g.threads - 32 * w) - 1)

/-! ## Slots (R70, R71) -/

/-- Workgroups that hold reservations on a core: those of gangs that are not out. -/
def State.wgsOn (s : State) (core : Nat) : List (Nat × Wg) :=
  s.wgs.filter fun x => x.2.core == core &&
    match tfind (s.gridOf x.2.grid).gangs (x.2.w / (s.gridOf x.2.grid).hdr.gang) with
    | some g => g.st == .resident || g.st == .halting || g.st == .saving
    | none => false

/-- Strands in slots of a core. -/
def State.strandsOn (s : State) (core : Nat) : List (Nat × Strand) :=
  s.strands.filter fun x => x.2.core == core && !x.2.parkedOut && !x.2.isHandler && (s.wgsOn core).any (·.1 == x.2.wg)

/-- The strands of a workgroup. -/
def State.strandsOf (s : State) (wg : Nat) : List (Nat × Strand) := s.strands.filter fun x => x.2.wg == wg

/-- The lowest slot number that no strand of the core holds. -/
def State.slotNumber (s : State) (core : Nat) : Nat :=
  ((List.range 512).find? fun k => !(s.strandsOn core).any fun x => x.2.slot == k).getD 511

/-- Slots of a core neither reserved nor borrowed. -/
def State.freeSlots (s : State) (core : Nat) : Nat :=
  512 - ((s.wgsOn core).foldl (fun n x => n + (s.gridOf x.2.grid).slots) 0 +
    ((s.strandsOn core).filter (·.2.borrowed)).length)

/-- Range strands of a workgroup in reserved slots: each uses one of the F reserved form entries (R70). -/
def State.rangesOf (s : State) (wg : Nat) : Nat := ((s.strandsOf wg).filter fun x => x.2.isRange && !x.2.borrowed).length

/-- Form entries of a core neither reserved nor borrowed: a range strand in a borrowed slot borrows one (R70, R71). -/
def State.freeForms (s : State) (core : Nat) : Nat :=
  128 - ((s.wgsOn core).foldl (fun n x => n + (s.gridOf x.2.grid).forms) 0 +
    ((s.strandsOn core).filter fun x => x.2.borrowed && x.2.isRange).length)

/-- Register blocks of a core reserved or acquired (R70, R278): those of a warp whose strands all lie in the image do
not count (R280). -/
def State.usedBlocks (s : State) (core : Nat) : Nat :=
  (s.wgsOn core).foldl (fun n x =>
    let g := s.gridOf x.2.grid
    n + g.lanes * g.hdr.vblk + x.2.warps.foldl (fun m w =>
      if (s.strandsOf x.1).any fun y => y.2.isLane && y.2.warp == w.1 && !y.2.parkedOut then m + (w.2.blocks - g.hdr.vblk)
      else m) 0) 0

/-- Register blocks of a core that are free. -/
def State.freeBlocks (s : State) (core : Nat) : Nat := 512 - s.usedBlocks core

/-- The workgroup may borrow one more slot: its context area has room for the overflow record (R71). -/
def State.mayBorrow (s : State) (wg : Nat) : Bool :=
  let g := s.gridOf (s.wgOf wg).grid
  (((s.strandsOf wg).filter (·.2.borrowed)).length + 1) * 1024 + g.ctxMin ≤ g.hdr.ctxarea

/-- A slot for a strand of a workgroup: whether it is a split slot and whether it is borrowed. `lane`: a lane strand
of an expansion, which takes one of the L lane slots first (R124); otherwise a split slot first (R70, R115). -/
def State.slotFor (s : State) (wg : Nat) (range lane : Bool) : Option (Bool × Bool) :=
  let g := s.gridOf (s.wgOf wg).grid
  let core := (s.wgOf wg).core
  let own := s.strandsOf wg
  let splits := own.filter (·.2.split)
  if lane then
    if (own.filter fun x => x.2.isLane && !x.2.split && !x.2.borrowed).length < g.lanes then some (false, false)
    else if s.mayBorrow wg && 0 < s.freeSlots core then some (false, true) else none
  else if splits.length < 32 && (!range || ((splits.filter (·.2.isRange)).length < 16 && s.rangesOf wg < g.forms)) then
    some (true, false)
  else if s.mayBorrow wg && 0 < s.freeSlots core && (!range || 0 < s.freeForms core) then some (false, true)
  else none

/-- Adds a strand in a slot of the kind given, with every busy flag of its parent, and the faults that its waits are to
report (R114, R116, R190). -/
def State.addStrand (s : State) (parent : Nat) (st : Strand) (k : Bool × Bool) : State :=
  let u := s.next
  let st := { st with
    slot := s.slotNumber st.core, split := k.1, borrowed := k.2, caps := none
    placed := s.mod.tick.toNat, lastIssue := 0 }
  { s with
    next := u + 1
    strands := tset s.strands u st
    ops := tmap s.ops fun _ o => if o.holders.contains parent then { o with holders := o.holders ++ [u] } else o }

/-- Frees a strand's slot; operations in flight keep `heir` as holder where one is given (R116, R120). -/
def State.dropStrand (s : State) (u : Nat) (heir : Option Nat) : State :=
  { s with
    strands := tdel s.strands u
    ops := (tmap s.ops fun _ o =>
      { o with holders := (o.holders.filter (· != u)) ++
          (match heir with
            | some h => if o.holders.contains u && !o.holders.contains h then [h] else []
            | none => []) }).filter fun o => o.2.setB || !o.2.holders.isEmpty }

/-! ## Run predicates (R111) -/

/-- Adjacent equal runs joined, empty ones dropped. -/
def runsJoin : List (Nat × Bool) → List (Nat × Bool)
  | [] => []
  | (n, a) :: r =>
    if n = 0 then runsJoin r
    else match runsJoin r with
      | (m, b) :: t => if a == b then (n + m, a) :: t else (n, a) :: (m, b) :: t
      | [] => [(n, a)]

/-- The first `k` threads of a run predicate. -/
def runsTake : Nat → List (Nat × Bool) → List (Nat × Bool)
  | _, [] => []
  | k, (n, a) :: r => if k = 0 then [] else if k ≤ n then [(k, a)] else (n, a) :: runsTake (k - n) r

/-- A run predicate without its first `k` threads. -/
def runsDrop : Nat → List (Nat × Bool) → List (Nat × Bool)
  | _, [] => []
  | k, (n, a) :: r => if n ≤ k then runsDrop (k - n) r else (n - k, a) :: r

/-- The value of a run predicate at its thread `i`. -/
def runsAt : Nat → List (Nat × Bool) → Bool
  | _, [] => false
  | i, (n, a) :: r => if i < n then a else runsAt (i - n) r

/-- A bit function of two run predicates over the same threads. -/
def runsMap2 (f : Bool → Bool → Bool) : Nat → List (Nat × Bool) → List (Nat × Bool) → List (Nat × Bool)
  | 0, _, _ => []
  | _, [], _ => []
  | _, _, [] => []
  | k + 1, (n, a) :: r, (m, b) :: t =>
    let l := min n m
    (l, f a b) :: runsMap2 f k (if n = l then r else (n - l, a) :: r) (if m = l then t else (m - l, b) :: t)

/-- Starts, lengths and values of a run predicate's runs. -/
def runsSpans : Nat → List (Nat × Bool) → List (Nat × Nat × Bool)
  | _, [] => []
  | i, (n, a) :: r => (i, n, a) :: runsSpans (i + n) r

/-- Maximal runs of equal values of a list: start, length, value. -/
def spansOf {α : Type} [BEq α] : Nat → List α → List (Nat × Nat × α)
  | _, [] => []
  | i, x :: r =>
    match spansOf (i + 1) r with
    | (j, n, y) :: t => if x == y then (i, n + 1, x) :: t else (i, 1, x) :: (j, n, y) :: t
    | [] => [(i, 1, x)]

/-- A form moved to a new low index (R107). -/
def Form.shift (f : Form) (d : Nat) : Form := { f with base := f.base + f.stride * BitVec.ofNat 32 d }

/-- A range strand cut to `n` threads from offset `off` (R107, R111). -/
def Strand.cut (st : Strand) (off n : Nat) : Strand :=
  match st.kind with
  | .range lo _ =>
    { st with
      kind := .range (lo + off) n
      forms := tmap st.forms fun _ f => f.shift off
      runs := tmap st.runs fun _ r => runsTake n (runsDrop off r) }
  | _ => st

/-! ## The deferral spill (R117) -/

/-- Entries of a workgroup's stacks that lie in the spill. -/
def State.spilled (s : State) (wg : Nat) : List DivEntry :=
  (s.strandsOf wg).flatMap fun x => (x.2.div.drop 4)

/-- The 16 bytes of an entry (R117). -/
def DivEntry.bytes (e : DivEntry) : List Byte :=
  leBytes 16 (e.maskB.toNat * 2 ^ 96 + e.maskA.toNat * 2 ^ 64 + e.kind.toNat * 2 ^ 62 + e.tag.toNat * 2 ^ 58 + e.pc.toNat)

/-! ## A workgroup's own areas (R56) -/

/-- Why an access of a strand to its workgroup's areas does not go through: no room; a fault, its address, and whether the
access writes; a host translation is awaited; answers of other modules are awaited. -/
inductive AreaStop where
  | full (cls : Nat)
  | fault (cls addr : Nat) (write : Bool)
  | ats (page : Nat)
  | remote (asks : List Ask)
  deriving DecidableEq, Repr

/-- Several accesses: what is awaited comes before what has failed. -/
def areaAll {α : Type} : List (Except AreaStop α) → Except AreaStop (List α)
  | [] => .ok []
  | .ok a :: r => (areaAll r).map (a :: ·)
  | .error (.remote ks) :: r =>
    match areaAll r with
    | .error (.remote ls) => .error (.remote (ks ++ ls))
    | _ => .error (.remote ks)
  | .error e :: r =>
    match areaAll r with
    | .error (.remote ls) => .error (.remote ls)
    | _ => .error e

/-- Where the pieces of a run of an area lie (R140). -/
def State.areaPlaces (s : State) (die : Nat) (who : Who) (acc : Acc) (a n : Nat) :
    Except AreaStop (List (Nat × Nat × Place)) :=
  match s.places die who acc a n with
  | .error (.cls c, x) => .error (.fault c x acc.writes)
  | .error (.ats p, _) => .error (.ats p)
  | .ok l => .ok l

/-- A read of a workgroup's areas; what lies in another module is asked for (R37, R56). `see` reads this module's memory. -/
def State.areaGet (s : State) (ask : Asker) (die : Nat) (who : Who) (acc : Acc) (see : Nat → Nat → List Byte) (a n : Nat) :
    Except AreaStop (List Byte) :=
  match s.areaPlaces die who acc a n with
  | .error e => .error e
  | .ok l =>
    (areaAll (l.map fun p =>
      match p.2.2 with
      | .loc k => .ok (see k p.2.1)
      | .sealed k _ => .ok (s.sealedRead who.ctx k p.2.1)
      | .peer m d =>
        match s.answerTo ask (2 ^ 64 + p.1) with
        | none => .error (.remote [⟨2 ^ 64 + p.1, 1, m, d, p.2.1, 0, [], []⟩])
        | some x =>
          match x.fault with
          | some c => .error (.fault c.toNat p.1 false)
          | none => .ok x.data)).map List.flatten

/-- The misses of accesses to areas are queued (R137). -/
def State.areaMisses (s : State) (die : Nat) (who : Who) (runs : List (Nat × Nat)) : State :=
  runs.foldl (fun t x => t.runMisses die who x.1 x.2) s

/-- A load of a strand's workgroup from its own areas (R56). -/
def State.areaRead (s : State) (u : Nat) (st : Strand) (a n : Nat) : Except AreaStop (List Byte) :=
  s.areaGet (.strand u) (dieOf st.core) (s.who st) .read (s.view st.view) a n

/-- What the store of one run of an area has to do: its places with their bytes, once every other module has answered. -/
def State.areaPlan (s : State) (ask : Asker) (die : Nat) (who : Who) (w : Nat × List Byte) :
    Except AreaStop (List (Place × List Byte)) :=
  match s.areaPlaces die who .write w.1 w.2.length with
  | .error e => .error e
  | .ok l => areaAll (l.map fun p =>
      let b := (w.2.drop (p.1 - w.1)).take p.2.1
      match p.2.2 with
      | .peer m d =>
        match s.answerTo ask (2 ^ 65 + p.1) with
        | none => .error (.remote [⟨2 ^ 65 + p.1, 2, m, d, p.2.1, 0, b, []⟩])
        | some x =>
          match x.fault with
          | some c => .error (.fault c.toNat p.1 true)
          | none => .ok (p.2.2, b)
      | _ => .ok (p.2.2, b))

/-- The homes take what a plan of stores has for this module (R56, R154). -/
def State.areaDone (s : State) (die ctx : Nat) (l : List (Place × List Byte)) : State :=
  l.foldl (fun t x =>
    match x.1 with
    | .loc k => t.homeStore die k x.2 (x.2.length == 64)
    | .sealed k o => t.sealedStore die ctx o k x.2 (x.2.length == 64)
    | .peer _ _ => t) s

/-- Stores of a strand's workgroup into its own areas, all of them or none (R56). -/
def State.areaWrites (s : State) (u : Nat) (st : Strand) (ws : List (Nat × List Byte)) : Except AreaStop State :=
  (areaAll (ws.map (s.areaPlan (.strand u) (dieOf st.core) (s.who st)))).map fun l => l.flatten.foldl (fun t w =>
    match w.1 with
    | .loc k => t.addWrite st.view k w.2 (w.2.length == 64) t.home.nextWrite
    | .sealed k o => t.sealedStore (dieOf st.core) (s.ctxNo st) o k w.2 (w.2.length == 64)
    | .peer _ _ => t) (s.areaMisses (dieOf st.core) (s.who st) (ws.map fun w => (w.1, w.2.length)))

/-- What a strand does at an access to its areas that does not go through: it takes the trap at the instruction, or waits
(R56, R117, R126). -/
def State.areaStop (s : State) (u : Nat) (pc : DWord) (st : Strand) : AreaStop → State
  | .full k => (s.clearAnswers (.strand u)).takeTrap u { cls := k, pc := some pc }
  | .fault k a w =>
    ((s.clearAnswers (.strand u)).noteMiss (dieOf st.core) (s.who st) (BitVec.ofNat 64 a)).takeTrap u
      { cls := k, addr := BitVec.ofNat 64 a, flags := if w then 8 else 0, pc := some pc }
  | .ats p => s.updStrand u fun x => { x with block := .ats p, waitTick := s.mod.tick.toNat }
  | .remote ks =>
    (s.askAll (.strand u) st.core elemVc ks).updStrand u fun x => { x with block := .remote, waitTick := s.mod.tick.toNat }

/-- What the spill of a workgroup is to hold, and where, in a state whose stacks have grown (R56, R89, R117). -/
def State.spillWrite (s : State) (st : Strand) : Except AreaStop (List (Nat × List Byte)) :=
  let sp := s.spilled st.wg
  if sp.isEmpty then .ok []
  else if 64 < sp.length then .error (.full 0x06)
  else match (s.gridAt st).ctxAreaOf (s.wgOf st.wg).w with
    | none => .ok []
    | some a => .ok [(a + 0x2C0, sp.flatMap DivEntry.bytes)]

/-- Depth of a strand's calls, on chip and in frames (R126). -/
def Strand.depth (st : Strand) : Nat := st.ret.length + 8 * st.frames.length

/-- A new GROUP entry (R114). -/
def groupEntry (tag : BitVec 4) (group : BitVec 32) (kind : BitVec 2) (depth : Nat) (live : BitVec 8) : DivEntry where
  maskB := 0
  maskA := group
  kind := kind
  tag := tag
  pc := 0
  clause := none
  barw := false
  depth := depth
  live := live

/-- A DEFER entry for lanes of a strand that have no slot (R115): they have the strand's return stack, as a child would
(R126, log entry 115). -/
def deferEntry (tag : BitVec 4) (m : BitVec 32) (pc : DWord) (clause : Option Clause) (st : Strand) (live : BitVec 8) :
    DivEntry where
  maskB := 0
  maskA := m
  kind := 1
  tag := tag
  pc := pc.extractLsb' 0 48
  clause := clause
  barw := false
  depth := st.depth
  live := live
  ret := st.ret
  frames := st.frames

/-- A saved PC as an address. -/
def pc48 (p : BitVec 48) : DWord := p.setWidth 64

/-! ## Return-stack frames (R56, R126) -/

/-- Frame addresses of the call area that are taken, or are being written by another strand. -/
def State.framesTaken (s : State) (u wg : Nat) : List Nat :=
  ((s.strandsOf wg).flatMap fun x => (x.2.frames ++ x.2.div.flatMap (·.frames)).map (·.toNat)) ++
    (s.fab.reqs.filterMap fun r => if r.2.asker != .strand u && 2 ^ 65 ≤ r.2.idx then some (r.2.idx - 2 ^ 65) else none) ++
    s.fab.answers.filterMap fun r => if r.asker != .strand u && 2 ^ 65 ≤ r.idx then some (r.idx - 2 ^ 65) else none

/-- The lowest free frames of the call area that lie below the strand's d24 (R56, R126). -/
def State.freeFrames (s : State) (u : Nat) (st : Strand) (n : Nat) : Option (List Nat) :=
  match (s.gridAt st).callAreaOf (s.wgOf st.wg).w with
  | none => none
  | some base =>
    let used := s.framesTaken u st.wg
    let l := (((List.range (((st.dreg 48).toNat - base) / 64)).map fun i => base + 64 * i).filter fun a => !used.contains a).take n
    if l.length = n then some l else none

/-- The 64 bytes of a frame: the newest return address lowest (R126). -/
def frameBytes (rets : List DWord) : List Byte := rets.flatMap fun r => leBytes 8 r.toNat

/-- The return addresses of a frame. -/
def frameRets (b : List Byte) : List DWord := (List.range 8).map fun i => BitVec.ofNat 64 (leNat ((b.drop (8 * i)).take 8))

/-- Writes eight return addresses into a new frame: its address (R126). -/
def State.pushFrame (s : State) (u : Nat) (st : Strand) (rets : List DWord) : Except AreaStop (State × DWord) :=
  match s.freeFrames u st 1 with
  | some [a] => (s.areaWrites u st [(a, frameBytes rets)]).map fun t => (t, BitVec.ofNat 64 a)
  | _ => .error (.full 0x07)

/-- The contents of a strand's frames (R126). -/
def State.frameData (s : State) (u : Nat) (st : Strand) : Except AreaStop (List (List Byte)) :=
  areaAll (st.frames.map fun f => s.areaRead u st f.toNat 64)

/-- What the children of a strand need in its areas (R117, R126): the spill as it will stand, and for each of `n` children
its own copy of every frame: the state with all of it stored, and the frames of each child. -/
def State.areaFor (s : State) (u : Nat) (st : Strand) (spill : Except AreaStop (List (Nat × List Byte))) (n : Nat) :
    Except AreaStop (State × List (List DWord)) :=
  match spill with
  | .error e => .error e
  | .ok sp =>
    let k := if n = 0 then 0 else st.frames.length
    match (if k = 0 then .ok [] else s.frameData u st), (if k = 0 then some [] else s.freeFrames u st (n * k)) with
    | .error e, _ => .error e
    | .ok _, none => .error (.full 0x07)
    | .ok bs, some as =>
      ((if k = 0 then s else s.areaMisses (dieOf st.core) (s.who st) (st.frames.map fun f => (f.toNat, 64))).areaWrites u st
        (sp ++ as.zip (List.replicate n bs).flatten)).map fun t =>
        (t, (List.range n).map fun i => ((as.drop (i * k)).take k).map (BitVec.ofNat 64))

/-- Children take the frames that were written for them. -/
def State.giveFrames (s : State) (l : List (Nat × List DWord)) : State :=
  l.foldl (fun t x => t.updStrand x.1 fun y => { y with frames := x.2 }) s

/-! ## Splits (R114, R115, R222) -/

/-- One outcome of a branch: the threads (a lane mask, or offset and length in a range), and where they go; none: a
bad target. `stay`: the threads stand at the VCALLR and call from there; `parts`: those of each further target (R62). -/
structure Outcome where
  mask : BitVec 32 := 0
  off : Nat := 0
  len : Nat := 0
  target : Option DWord
  stay : Bool := false
  parts : List (BitVec 32) := []
  deriving DecidableEq, Repr

/-- Deferred and waiting lanes stay with the strand that keeps the slot (R103): a sibling's entry holds none. -/
def DivEntry.emptied (e : DivEntry) : DivEntry := if e.kind == 1 then { e with maskA := 0, maskB := 0 } else e

/-- The child of an outcome, standing at the branch or at its target. -/
def Strand.child (st : Strand) (o : Outcome) (e : DivEntry) (clock : Nat) : Strand :=
  let c := match st.kind with
    | .range _ _ => st.cut o.off o.len
    | .lane w _ => { st with kind := .lane w o.mask }
    | .handler => st
  let c := { c with div := { e with part := if e.kind == 2 then 1 + lowLane o.mask else 0 } :: st.div, block := .none }
  match o.target with
  | some t => if o.stay then c else c.jump t clock
  | none => c

/-- Places children one after the other while slots last: the state, and the outcomes left without one. -/
def State.placeChildren (s : State) (u : Nat) (st : Strand) (e : DivEntry) : List Outcome → State × List Outcome × List (Nat × Outcome)
  | [] => (s, [], [])
  | o :: r =>
    match s.slotFor st.wg st.isRange false with
    | none => (s, o :: r, [])
    | some k =>
      let n := s.next
      let x := { st with div := st.div.map DivEntry.emptied }
      let (t, left, placed) := (s.addStrand u (x.child o e s.mod.clock) k).placeChildren u st e r
      (t, left, (n, o) :: placed)

/-- Every child that named a bad target takes the trap (R222). -/
def State.trapBad (s : State) (pc : DWord) (l : List (Nat × Outcome)) : State :=
  l.foldl (fun t x => if x.2.target.isNone then t.takeTrap x.1 { cls := 0x03, pc := some pc } else t) s

/-- Why a split did not happen: the strand expands instead. -/
inductive Split where
  | done (s : State)
  | expand
  deriving DecidableEq, Repr

/-- The strands of a split as they stand, DEFER entries pushed (R114, R115): the state, the outcomes left without a slot, and
the children placed. Lanes of a VCALLR without a slot wait at it (log entry 114). -/
def State.splitTry (s : State) (u : Nat) (st : Strand) (tag : BitVec 4) (kind : BitVec 2) (live : BitVec 8) (first : Outcome)
    (rest : List Outcome) : State × List Outcome × List (Nat × Outcome) :=
  let e := groupEntry tag (s.wgOf st.wg).group kind st.depth live
  let s1 := (s.updWg st.wg fun x => { x with group := x.group + 1 }).updStrand u fun x =>
    { (st.child first e s.mod.clock) with slot := x.slot, split := x.split, borrowed := x.borrowed }
  let (s2, left, placed) := s1.placeChildren u st e rest
  let defers := left.flatMap fun o =>
    if o.stay then (if o.parts.isEmpty then [o.mask] else o.parts).map fun m => deferEntry tag m st.pc st.clause st live
    else [deferEntry tag o.mask (o.target.getD 0) none st live]
  (s2.updStrand u fun x => { x with div := defers ++ x.div }, left, placed)

/-- A lane strand parks whole at a branch: its record names every thread that names a bad target (R222). -/
def State.parkBad (s : State) (u : Nat) (st : Strand) (pc : DWord) (outs : List Outcome) : State :=
  let m := (outs.filter fun o => o.target.isNone).foldl (fun m o => m ||| o.mask) 0
  s.takeTrap u { cls := 0x03, pc := some pc, who := some (32 * st.warp + lowLane m, m.toNat) }

/-- A SPLIT (R114 to R117, R222): outcomes in ascending order of lowest index. -/
def State.split (s : State) (u : Nat) (st : Strand) (pc : DWord) (tag : BitVec 4) (kind : BitVec 2) (live : BitVec 8)
    (outs : List Outcome) : Split :=
  match outs with
  | [] => .done s
  | first :: rest =>
    if s.busyA u then .done (s.updStrand u fun x => { x with block := .flags })
    else
      let (t, left, placed) := s.splitTry u st tag kind live first rest
      if st.isRange && !left.isEmpty then .expand
      else if left.any fun o => o.target.isNone then .done (s.parkBad u st pc outs)
      else match s.areaFor u st (t.spillWrite st) placed.length with
        | .error e => .done (s.areaStop u pc st e)
        | .ok (s', fr) =>
          let (t', _, placed') := s'.splitTry u st tag kind live first rest
          .done (((t'.giveFrames ((placed'.map (·.1)).zip fr)).clearAnswers (.strand u)).trapBad pc ((u, first) :: placed'))

/-! ## Expansion (R123, R124) -/

/-- The warp has its blocks or can take them (R124). -/
def State.warpReady (s : State) (wg warp : Nat) : Bool :=
  (tfind (s.wgOf wg).warps warp).isSome || (s.wgOf wg).warps.length < (s.gridOf (s.wgOf wg).grid).lanes

/-- The warp takes its VBLK blocks (R124). -/
def State.takeWarp (s : State) (wg warp : Nat) : State :=
  if (tfind (s.wgOf wg).warps warp).isSome then s
  else s.updWg wg fun g => { g with warps := tset g.warps warp ⟨(s.gridOf g.grid).hdr.vblk, []⟩ }

/-- A warp with no lane strand left frees its blocks (R124). -/
def State.dropWarp (s : State) (wg warp : Nat) : State :=
  if (s.strandsOf wg).any fun x => x.2.isLane && x.2.warp == warp then s
  else s.updWg wg fun g => { g with warps := tdel g.warps warp }

/-- The lanes of a mask take the values that a range strand's forms give (R107, R123). -/
def State.fillLanes (s : State) (st : Strand) (warp : Nat) (m : BitVec 32) : State :=
  let n := (tget (s.wgOf st.wg).warps warp ⟨0, []⟩).blocks
  s.updWg st.wg fun g =>
    (List.range (8 * n)).foldl (fun g r => (lanesOf m).foldl (fun g j =>
      if (st.form r).base == 0 && (st.form r).stride == 0 && g.lane warp r j == 0 then g
      else g.setLane warp r j (s.vreg st r (32 * warp + j))) g) g

/-- The lane mask that a run predicate of a range strand is over one warp. -/
def Strand.maskOfRuns (st : Strand) (lo warp : Nat) (m : BitVec 32) (k : Nat) : BitVec 32 :=
  BitVec.ofNat 32 ((lanesOf m).foldl (fun v j =>
    if runsAt (32 * warp + j - lo) (st.krun k) then v + 2 ^ j else v) 0)

/-- The slot of the next piece of an expansion: a lane slot; in a workgroup that declares barriers, where no cursor waits
(R131), the range strand's own slot for its last piece, and a split slot where no lane slot is left. The flag: the piece
takes over the slot. -/
def State.pieceSlot (s : State) (st : Strand) (last : Bool) : Option ((Bool × Bool) × Bool) :=
  let barriers := (s.gridAt st).hdr.barriers
  if barriers && last then some ((st.split, st.borrowed), true)
  else match s.slotFor st.wg false true with
    | some k => some (k, false)
    | none => if barriers then (s.slotFor st.wg false false).map fun k => (k, false) else none

/-- The address of the instruction at which a strand stands, past its prefix (R220). -/
def Strand.wordPc (st : Strand) : DWord :=
  match st.clause with
  | none => st.pc
  | some c => if (prefixOf ((c.wordsFrom st.pc).headD 0)).isSome then st.pc + 4 else st.pc

/-- The first piece of a range strand as a lane strand of its warp (R123). -/
def Strand.piece (st : Strand) (lo w : Nat) (m : BitVec 32) : Strand :=
  { st with
    kind := .lane w m, forms := [], runs := [], block := .none
    masks := (List.range 8).filterMap fun r =>
      if r = 0 then none
      else let b := st.maskOfRuns lo w m r; if b == 0 then none else some (r, b)
    arrivals := (st.arrivals.filter fun a => (a.key.level != 0 || a.key.sub == w) && (a.lanes &&& m) != 0).map fun a =>
      { a with lanes := a.lanes &&& m } }

/-- Cuts the first `c` threads, lanes `m` of warp `w`, off a range strand of `n` (R123): the last piece has the strand's
frames, and frees its slot. -/
def State.cutPiece (s : State) (u : Nat) (st : Strand) (lo n w c : Nat) (m : BitVec 32) (k : Bool × Bool) (takes : Bool) :
    State :=
  let v := s.next
  let s := ((s.takeWarp st.wg w).fillLanes st w m).addStrand u (st.piece lo w m) k
  let s := if takes then s.updStrand v fun y => { y with slot := st.slot } else s
  if n = c then s.dropStrand u none else s.updStrand u fun y => y.cut c (n - c)

/-- A piece that cannot have its stacks yet waits behind the cursor, and asks for what it lacks: an expansion raises no
trap (R123, R131, R231). -/
def State.expandStop (s : State) (u : Nat) (st : Strand) (e : AreaStop) : State :=
  (match e with
    | .remote ks => s.askAll (.strand u) st.core elemVc ks
    | .fault c a w => s.askPage c (s.ctxNo st) (a / 0x10000) (if w then 1 else 0)
    | .full _ | .ats _ => s).updStrand u fun y => { y with block := .expand }

/-- Cuts warps off a range strand while blocks and slots last (R123). -/
def State.expandLoop : Nat → State → Nat → State
  | 0, s, _ => s
  | f + 1, s, u =>
    match tfind s.strands u with
    | none => s
    | some st =>
      match st.kind with
      | .range lo n =>
        let w := lo / 32
        let p := lo % 32
        let c := min n (32 - p)
        let m : BitVec 32 := BitVec.ofNat 32 ((2 ^ c - 1) * 2 ^ p)
        match s.warpReady st.wg w, s.pieceSlot st (n == c) with
        | true, some (k, takes) =>
          match s.areaFor u st ((s.cutPiece u st lo n w c m k takes).spillWrite st) (if n = c then 0 else 1) with
          | .error e => s.expandStop u st e
          | .ok (s', fr) =>
            let t := s'.cutPiece u st lo n w c m k takes
            expandLoop f ((t.giveFrames ((List.replicate fr.length s'.next).zip fr)).clearAnswers (.strand u)) u
        | _, _ => s.updStrand u fun y => { y with block := .expand }
      | _ => s

/-- The range strands of a workgroup that wait behind the expansion cursor, in ascending lo (R124); one that lies in the
image waits for its restore (R125). -/
def State.cursors (s : State) (wg : Nat) : List Nat :=
  ((((s.strandsOf wg).filter fun x => x.2.block == .expand && !x.2.parkedOut).map fun x => (x.2.names.1, x.1)) |>
    sortBy fun a b => a.1 ≤ b.1).map (·.2)

/-- The cursors of a workgroup advance, the lowest lo first (R124). -/
def State.advanceCursors (s : State) (wg : Nat) : State :=
  (s.cursors wg).foldl (fun t v =>
    State.expandLoop (((tfind t.strands v).map (·.count)).getD 0 / 32 + 2) (t.updStrand v fun x => { x with block := .none }) v) s

/-- EXPANSION (R116, R123): each lane strand stands at the instruction; what cannot be placed waits behind the
cursor, and so does the strand while a lower one waits (R124). -/
def State.expandStrand (s : State) (u : Nat) : State :=
  match tfind s.strands u with
  | none => s
  | some st =>
    if s.busyA u then s.updStrand u fun x => { x with block := .flags }
    else (s.updStrand u fun x => { x with block := .expand }).advanceCursors st.wg

/-! ## Joins and merges (R118 to R122) -/

/-- The group a strand waits for at a join, and where. -/
def Strand.joinAt (st : Strand) : Option (Option (BitVec 32) × BitVec 4 × BitVec 8 × Bool × Nat) :=
  match st.block with
  | .join g t m r since => some (g, t, m, r, since)
  | _ => none

/-- A sibling at a join of a group (R119). -/
def Strand.inGroup (st : Strand) (g : Option (BitVec 32)) : Bool :=
  match g with
  | none => st.div.isEmpty
  | some n => st.div.any fun e => (e.kind == 0 || e.kind == 2) && e.maskA == n

/-- A sibling does not hold up the wait at a join (R119): it waits at this join or another, or is blocked or parked; or it is
the threads that wait at a VCALLR (R127). -/
def Strand.letsJoin (st : Strand) : Bool :=
  match st.block with
  | .join .. | .barrier _ _ | .crew _ | .await _ _ _ _ | .bwait _ | .waitpred | .sleep _ | .acq _ _ _ | .expand | .target
  | .parked _ _ _ _ | .ended | .emulate _ _ _ _ | .translate _ => true
  | _ => false

/-- The wait of a strand at a join ends (R119). -/
def State.joinEnds (s : State) (u : Nat) (st : Strand) : Bool :=
  match st.joinAt with
  | none => false
  | some (g, _, _, _, since) =>
    since + 65536 ≤ s.mod.clock ||
      ((s.strandsOf st.wg).all fun x => x.1 == u || x.2.isHandler || !x.2.inGroup g || x.2.letsJoin)

/-- Equal forms (R107). -/
def Form.same (f g : Form) (d : Nat) : Bool := f.stride == g.stride && g.base == f.base + f.stride * BitVec.ofNat 32 d

/-- Registers of a live-block mask (R114). -/
def liveRegs (m : BitVec 8) : List Nat := (List.range 64).filter fun r => m.getLsbD (r / 8)

/-- Every lane of a strand: its active ones and those its DEFER entries hold (R385). -/
def Strand.allLanes (st : Strand) : BitVec 32 :=
  st.div.foldl (fun m e => if e.kind == 1 then m ||| e.maskA ||| e.maskB else m) st.mask

/-- The lanes over which an arrival record of a strand speaks: of a range strand inside one warp its positions, of a longer
one every bit. -/
def Strand.spanMask (st : Strand) : BitVec 32 :=
  match st.kind with
  | .range lo n =>
    if lo / 32 = (lo + n - 1) / 32 then BitVec.ofNat 32 ((2 ^ n - 1) * 2 ^ (lo % 32)) else BitVec.allOnes 32
  | _ => st.allLanes

/-- The arrival records of a strand's threads (R90): level, barrier, low bit of the generation. -/
def Strand.records (st : Strand) : List (Nat × Nat × Nat) :=
  (st.arrivals.filter fun a => (a.lanes &&& st.spanMask) != 0).map fun a => (a.key.level, a.key.b, a.gen % 2)

/-- The threads of a strand have one arrival record (R90, R303). -/
def Strand.oneRecord (st : Strand) : Bool :=
  st.arrivals.all fun a => (a.lanes &&& st.spanMask) == 0 || (st.spanMask &&& ~~~a.lanes) == 0

/-- Two strands have equal frames (R126): their contents, wherever they lie. -/
def State.sameFrames (s : State) (u v : Nat) (x y : Strand) : Bool :=
  x.frames.length == y.frames.length &&
    match s.frameData u x, s.frameData v y with
    | .ok a, .ok b => a == b
    | _, _ => false

/-- An entry without the return stack of its lanes. -/
def DivEntry.bare (e : DivEntry) : DivEntry := { e with ret := [], frames := [] }

/-- What every merge requires of two strands, beside equal frames (R120). -/
def Strand.alike (x y : Strand) : Bool :=
  (List.range 64).all (fun r => x.sreg r == y.sreg r) && (List.range 4).all (fun r => tget x.route r 0x2000 == tget y.route r 0x2000) &&
    x.tile == y.tile && x.mode == y.mode && x.ret == y.ret &&
    x.oneRecord && y.oneRecord && x.records.all y.records.contains && y.records.all x.records.contains &&
    x.div.map DivEntry.bare == y.div.map DivEntry.bare

/-- Two candidates, the lower first, whose popped stacks are given merge under the live mask (R120). -/
def Strand.merges (x y : Strand) (m : BitVec 8) : Bool :=
  x.alike y &&
  match x.kind, y.kind with
  | .range lo n, .range lo' _ =>
    lo + n == lo' && (liveRegs m).all (fun r => (x.form r).same (y.form r) n) &&
      (List.range 8).all fun k => k == 0 || (runsJoin (x.krun k ++ y.krun k)).length ≤ 3
  | .lane w _, .lane w' _ => w == w'
  | _, _ => false

/-- The merged strand (R120): the lower one's slot, the union of the threads, flags and sticky flags. -/
def Strand.merged (x y : Strand) (m : BitVec 8) : Strand :=
  let z := { x with
    sticky := x.sticky ||| y.sticky
    async := x.async ++ y.async.filter fun a => !(x.async.any fun b => b.id == a.id)
    gaveWay := x.gaveWay ++ y.gaveWay.filter (fun e => !x.gaveWay.contains e)
    arrivals := (x.arrivals.map fun a =>
      { a with lanes := a.lanes ||| ((y.arrivals.find? fun b => b.key == a.key).map (·.lanes)).getD 0 }) ++
        y.arrivals.filter fun b => !(x.arrivals.any fun a => a.key == b.key) }
  match x.kind, y.kind with
  | .range lo n, .range _ n' =>
    { z with
      kind := .range lo (n + n')
      forms := x.forms.filter fun f => (liveRegs m).contains f.1
      runs := (List.range 8).filterMap fun k => if k = 0 then none else some (k, runsJoin (x.krun k ++ y.krun k)) }
  | .lane w a, .lane _ b =>
    { z with
      kind := .lane w (a ||| b)
      masks := (List.range 8).filterMap fun k =>
        if k = 0 then none else some (k, (x.kmask k &&& a) ||| (y.kmask k &&& b)) }
  | _, _ => z

/-- Merges candidates of ascending lowest index into one another (R120): the lane strands of one warp, and
neighbouring ranges. -/
def State.mergeAll (m : BitVec 8) : Nat → State → List Nat → State
  | 0, s, _ => s
  | _, s, [] => s
  | f + 1, s, u :: r =>
    match tfind s.strands u with
    | none => State.mergeAll m f s r
    | some x =>
      match r.find? fun v => (tfind s.strands v).any fun y => x.merges y m && s.sameFrames u v x y with
      | none => State.mergeAll m f s r
      | some v =>
        let y := (tfind s.strands v).getD x
        let s := (s.updStrand u fun _ => x.merged y m).dropStrand v (some u)
        State.mergeAll m f s (u :: r.filter (· != v))

/-- The slot of a lane strand that becomes a range strand (R70, R122): with a reserved form entry a split slot, its own or a
free one, else its reserved lane slot; otherwise a borrowed form entry with a borrowed slot, its own or a free one. -/
def State.reformSlot (s : State) (st : Strand) : Option (Bool × Bool) :=
  let own := s.strandsOf st.wg
  let splits := own.filter (·.2.split)
  if s.rangesOf st.wg < (s.gridAt st).forms && (splits.filter (·.2.isRange)).length < 16 &&
      (!st.borrowed || splits.length < 32) then
    some (st.split || splits.length < 32, false)
  else if s.freeForms st.core = 0 then none
  else if st.borrowed then some (false, true)
  else if s.mayBorrow st.wg && 0 < s.freeSlots st.core then some (false, true)
  else none

/-- A lane strand as a range strand (R122): full warp, arithmetic progressions, few runs, and room for it. -/
def State.reform (s : State) (u : Nat) (m : BitVec 8) : State :=
  match tfind s.strands u with
  | none => s
  | some st =>
    match st.kind with
    | .lane w mask =>
      let g := s.gridAt st
      let c := (lanesOf (g.existing w)).length
      let nb := s.blocks st
      let regs := (liveRegs m).filter fun r => r / 8 < nb
      let v := fun r j => s.vreg st r j
      let d := fun r => if c = 1 then 0 else v r 1 - v r 0
      let runs := fun k => (spansOf 0 ((List.range c).map fun j => (st.kmask k).getLsbD j)).map fun x => (x.2.1, x.2.2)
      if mask == g.existing w && regs.all (fun r => (List.range c).all fun j => v r j == v r 0 + BitVec.ofNat 32 j * d r) &&
          (List.range 8).all (fun k => k == 0 || (runs k).length ≤ 3) then
        match s.reformSlot st with
        | none => s
        | some k =>
          let s := s.updStrand u fun x => { x with
            kind := .range (32 * w) c, split := k.1, borrowed := k.2
            forms := regs.map fun r => (r, ⟨v r 0, d r⟩)
            runs := (List.range 8).filterMap fun i => if i = 0 then none else some (i, runs i)
            masks := []
            arrivals := (x.arrivals.filter fun a => (a.lanes &&& mask) != 0).map fun a =>
              if (mask &&& ~~~a.lanes) == 0 then { a with lanes := BitVec.allOnes 32 } else a }
          s.dropWarp st.wg w
      else s
    | _ => s

/-- Candidates sorted by lowest logical index. -/
def State.byIndex (s : State) (l : List Nat) : List Nat :=
  l |> sortBy fun a b =>
    ((tfind s.strands a).map (·.names.1)).getD 0 ≤ ((tfind s.strands b).map (·.names.1)).getD 0

/-- The strands that wait at one join, released together (R119 to R122, R127). -/
def State.releaseJoin (s : State) (st : Strand) : State :=
  match st.joinAt with
  | none => s
  | some (g, tag, m, re, _) =>
    let us := ((s.strandsOf st.wg).filter fun x =>
      match x.2.joinAt with
      | some (g', _, _, _, _) => g' == g && x.2.pc == st.pc
      | none => false).map (·.1)
    let asks := us.filterMap fun v => (tfind s.strands v).bind fun x =>
      match s.frameData v x with
      | .error (.remote ks) => some (v, x.core, ks)
      | _ => none
    if us.any fun v => s.busyA v then s
    else if !asks.isEmpty then asks.foldl (fun t x => t.askAll (.strand x.1) x.2.1 elemVc x.2.2) s
    else
      let step : Strand → Strand := fun x =>
        let x := { x with div := if g.isSome then x.div.drop 1 else x.div }
        if tag == 8 then { x with block := .none } else x.complete s.mod.clock
      let s := us.foldl (fun t v => t.updStrand v step) s
      let us := s.byIndex us
      let s := State.mergeAll m (2 * us.length + 1) s us
      let s := if re then
          let s := us.foldl (fun t v => t.reform v m) s
          State.mergeAll m (2 * us.length + 1) s (us.filter fun v => (tfind s.strands v).any (·.isRange))
        else s
      us.foldl (fun t v => t.clearAnswers (.strand v)) s

/-- Releases every join whose wait ends (R119). -/
def State.releaseJoins (s : State) : State :=
  s.strands.foldl (fun t x =>
    match tfind t.strands x.1 with
    | some st => if t.joinEnds x.1 st then t.releaseJoin st else t
    | none => t) s

/-- Arrives at the join of a group (R119). -/
def State.groupJoin (s : State) (u : Nat) (g : Option (BitVec 32)) (tag : BitVec 4) (m : BitVec 8) (re : Bool) : State :=
  (s.updStrand u fun x => { x with block := .join g tag m re s.mod.clock }).releaseJoins

/-- The deferred or held lanes of the top entry run, and the strand's own lanes wait where it stands (R118): each with the
return stack it had (R126, R276). -/
def Strand.swapIn (st : Strand) (e : DivEntry) (rest : List DivEntry) (held : BitVec 32) (pc : BitVec 48)
    (clause : Option Clause) (barw : Bool) : Strand :=
  let w := st.warp
  let back := { e with
    maskB := e.maskB ||| held, maskA := 0, pc := pc, clause := clause, barw := barw, ret := st.ret, frames := st.frames }
  { st with
    kind := .lane w e.maskA, div := back :: rest, pc := pc48 e.pc, clause := e.clause, asBarw := e.barw, ret := e.ret
    frames := e.frames
    block := .none, doneLanes := 0, doneCount := 0 }

/-- A strand goes on from a join that has no effect on it; a lane strand that leaves a VREFORM is recompacted, once its
set-A flags are idle (R116, R122). -/
def State.leaveJoin (s : State) (u : Nat) (m : BitVec 8) (re : Bool) : State :=
  if !re then s.updStrand u fun x => x.complete s.mod.clock
  else if s.busyA u then s.updStrand u fun x => { x with block := .flags }
  else (s.updStrand u fun x => x.complete s.mod.clock).reform u m

/-- VJOIN (R118): `join(S, t, m)`. -/
def State.joinStep (s : State) (u : Nat) (tag : BitVec 4) (m : BitVec 8) (re : Bool) : Nat → State
  | 0 => s
  | f + 1 =>
    match tfind s.strands u with
    | none => s
    | some st =>
      match st.div with
      | [] => if tag == 0 then s.groupJoin u none tag m re else s.leaveJoin u m re
      | e :: r =>
        if e.tag != tag then s.leaveJoin u m re
        else if e.kind == 1 then
          if e.maskA != 0 then
            s.updStrand u fun x => x.swapIn e r x.mask (x.pc.extractLsb' 0 48) x.clause false
          else
            (s.updStrand u fun x => { x with kind := .lane x.warp (x.mask ||| e.maskB), div := r }).joinStep u tag m re f
        else s.groupJoin u (some e.maskA) tag m re

/-- A strand whose active lanes have all exited looks at its divergence stack (R118): deferred or waiting lanes run, also
below a GROUP or CALLJOIN entry (R103, R131); none: no lane is left. -/
def Strand.afterExit (st : Strand) : List DivEntry → Option Strand
  | [] => none
  | e :: r =>
    if e.kind != 1 then st.afterExit r
    else if e.maskA != 0 then some (st.swapIn e r 0 0 none false)
    else if e.maskB != 0 then
      some { st with
        kind := .lane st.warp e.maskB, div := { e with maskB := 0 } :: r, pc := pc48 e.pc, clause := e.clause
        asBarw := e.barw, block := .none, doneLanes := 0, doneCount := 0, ret := e.ret, frames := e.frames }
    else st.afterExit r

/-! ## The split at a fault (R128, R129) -/

/-- A strand that is split at a fault (R128, R129): `cut` gives the state with the faulting threads in a strand of their own,
which stands in `State.next`. Without a slot, or where its stacks find no room, the whole strand parks and keeps which of
its threads are done. Answers the state and the strand that faults, or what is awaited first. -/
def State.splitFault (s : State) (u : Nat) (st : Strand) (slot : Option (Bool × Bool)) (whole : State)
    (cut : State → Bool × Bool → State) : Except AreaStop (State × Nat) :=
  match slot with
  | none => .ok (whole, u)
  | some k =>
    match s.areaFor u st ((cut s k).spillWrite st) 1 with
    | .error (.remote ks) => .error (.remote ks)
    | .error (.ats p) => .error (.ats p)
    | .error _ => .ok (whole, u)
    | .ok (s', fr) => .ok ((cut s' k).giveFrames ((List.replicate fr.length s'.next).zip fr), s'.next)

/-- The faulting lanes of a lane strand stay at the instruction as a strand of their own (R129); lanes that its predicate
leaves out go on (log entry 108). -/
def State.splitLanes (s : State) (c : Issue) (st : Strand) (i : Instr) (bad : BitVec 32) : Except AreaStop (State × Nat) :=
  if bad == st.mask then .ok (s, c.uid)
  else s.splitFault c.uid st (s.slotFor st.wg false false)
    (s.updStrand c.uid fun x => { x with doneLanes := x.doneLanes ||| (st.mask &&& ~~~bad) }) fun s k =>
      ((s.addStrand c.uid { st with kind := .lane st.warp bad, div := st.div.map DivEntry.emptied } k).updStrand c.uid
        fun x => { x with kind := .lane st.warp (st.mask &&& ~~~bad) }).retire c i

/-- The suffix of a range strand from element `k` stays at the instruction (R128). -/
def State.splitRange (s : State) (c : Issue) (st : Strand) (i : Instr) (k : Nat) : Except AreaStop (State × Nat) :=
  if k = 0 then .ok (s, c.uid)
  else s.splitFault c.uid st (s.slotFor st.wg true false) (s.updStrand c.uid fun x => { x with doneCount := k }) fun s sl =>
    ((s.addStrand c.uid { (st.cut k (st.count - k)) with doneCount := 0 } sl).updStrand c.uid fun x => x.cut 0 k).retire c i

end Sys2Proof.Machine
end

