-- ==== Sys2Proof/Machine/Flags.lean ====
section
/-! DEFINITION. Floating-point control, sticky flags and the floating-point trap (R168 to R174, R232, R233). -/

namespace Sys2Proof.Machine

/-- What floating-point work of a strand consults: MODE and its workgroup's SATCTL. -/
structure Env where
  mode : BitVec 8
  satctl : BitVec 3
  deriving DecidableEq, Repr

/-- The controls a strand's instructions run under: the newest SATCTL (R232, log entry 105). -/
def State.env (s : State) (st : Strand) : Env := ⟨st.mode, (s.wgOf st.wg).satctl⟩

/-- MODE.RND (R168). -/
def Env.rnd (e : Env) : Nat := (e.mode.extractLsb' 0 2).toNat
/-- MODE.FTZ (R168). -/
def Env.ftz (e : Env) : Bool := e.mode.getLsbD 2
/-- SATCTL.SAT32, SAT16, SAT8 by their bit (R232). -/
def Env.sat (e : Env) (b : Nat) : Bool := e.satctl.getLsbD b

/-- FP32 arithmetic (R233): RND, FTZ, SAT32. -/
def Env.ctl32 (e : Env) : Ctl := ⟨e.rnd, e.ftz, e.sat 2⟩
/-- .bf16x2 and .f16x2 arithmetic (R233): RND, FTZ, SAT16. -/
def Env.ctl16 (e : Env) : Ctl := ⟨e.rnd, e.ftz, e.sat 1⟩
/-- .e4m3x4 and .e5m2x4 arithmetic (R233): RND, SAT8. -/
def Env.ctl8 (e : Env) : Ctl := ⟨e.rnd, false, e.sat 0⟩

/-- An event whose trap bit of MODE is set (R174): TNV, TDZ, TOF and TUF are bits 7:4 of MODE in the order of NV,
DZ, OF and UF. -/
def trapsOn (mode : BitVec 8) (ev : Ev) : Bool := (ev.extractLsb' 0 4 &&& mode.extractLsb' 4 4) != 0

/-- ORs events into the flags of a strand (R173). -/
def State.addEvents (s : State) (u : Nat) (ev : Ev) : State := s.updStrand u fun x => { x with sticky := x.sticky ||| ev }

/-- FLAGS as CSRR reads it: the OR over every strand of the workgroup (R173). -/
def State.flagsOf (s : State) (wg : Nat) : Ev := (s.strandsOf wg).foldl (fun v x => v ||| x.2.sticky) 0

/-- The floating-point trap (R174): every event enters the flags, nothing is written, and the record names the
lanes that raised an enabled event. -/
def State.fpTrap (s : State) (c : Issue) (ev : Ev) (who : Option (Nat × Nat)) : State :=
  (s.addEvents c.uid ev).takeTrap c.uid { cls := 0x08, who := who, pc := some c.pc }

end Sys2Proof.Machine
end

