-- ==== Sys2Proof/Machine/Operands.lean ====
section
/-! DEFINITION. Operand forms: predicates (R112, R220, R252), routed sources (R253, R255), forms of a range strand
(R107 to R110), and the elementwise instruction over both kinds of strand (R229, R230). -/

namespace Sys2Proof.Machine

/-! ## Predicates -/

/-- The lanes active for an instruction (R252). -/
def Strand.active (st : Strand) (k : Nat) : BitVec 32 := st.mask &&& st.kmask k

/-- A predicate on a range strand (R112): one value over all threads, or none. -/
def Strand.constPred (st : Strand) (k : Nat) : Option Bool :=
  match runsJoin (st.krun k) with
  | [(_, b)] => some b
  | _ => none

/-! ## Routed sources -/

/-- RSLOT.n of a strand (R253): the direct route until ROUTE sets it. -/
def Strand.slotReg (st : Strand) (n : Nat) : BitVec 16 := tget st.route n 0x2000

/-- Threads of a tile (R104). -/
def Strand.tileSize (st : Strand) : Nat := 2 ^ st.tile.toNat

/-- The lane that lane `j` reads through slot `n` (R255). -/
def State.routeLane (s : State) (st : Strand) (n j : Nat) : Nat :=
  let t := st.tileSize
  let q := j % t
  let base := j - q
  let r := st.slotReg n
  let p := (r.extractLsb' 0 6).toNat
  match (r.extractLsb' 14 2).toNat with
  | 0 => base + (q + p) % t
  | 1 => base + p % t
  | 2 => base + (q ^^^ (p % t))
  | _ => base + (s.vreg st p j).toNat % t

/-- A source operand in lane `j` of a lane strand (R255): `route` 0 is direct. -/
def State.src (s : State) (st : Strand) (act : BitVec 32) (r route j : Nat) : Word :=
  if route = 0 then s.vreg st r j
  else
    let l := s.routeLane st route j
    if act.getLsbD l then s.vreg st r l
    else if (st.slotReg route).getLsbD 13 then s.vreg st r j
    else 0

/-- The registers a source names: its own, and the index register of an indexed route (R255). -/
def Strand.useSrc (st : Strand) (r : BitVec 6) (route : Nat) : List Use :=
  useV r ++ (if route != 0 && (st.slotReg route).extractLsb' 14 2 == 3 then
    [(1, ((st.slotReg route).extractLsb' 0 6).toNat)] else [])

/-! ## Forms -/

/-- Stride 0 (R107). -/
def Form.uni (f : Form) : Bool := f.stride == 0

/-- UNI of a constant. -/
def uniOf (v : Word) : Form := ⟨v, 0⟩

/-- A routed source that counts as UNI (R109). -/
def Strand.uniSrc (st : Strand) (r : Nat) (route : Nat) : Bool :=
  (st.form r).uni && (route == 0 || (st.slotReg route).getLsbD 13)

/-- x + y. -/
def Form.add (x y : Form) : Form := ⟨x.base + y.base, x.stride + y.stride⟩
/-- x − y. -/
def Form.sub (x y : Form) : Form := ⟨x.base - y.base, x.stride - y.stride⟩
/-- x · u for a UNI factor on either side (R108). -/
def Form.mul (x y : Form) : Option Form :=
  if y.uni then some ⟨x.base * y.base, x.stride * y.base⟩
  else if x.uni then some ⟨y.base * x.base, y.stride * x.base⟩
  else none

/-- A logical operation with one side UNI 0 or UNI all ones (R108). -/
def Form.logic (f : Word → Word → Word) (x y : Form) : Option Form :=
  let edge := fun z : Form => z.uni && (z.base == 0 || z.base == BitVec.allOnes 32)
  let pick := fun (g : Word → Word) (z : Form) =>
    if g 0 == 0 && g (BitVec.allOnes 32) == BitVec.allOnes 32 then some z
    else if g 0 == g (BitVec.allOnes 32) then some (uniOf (g 0))
    else some ⟨~~~z.base, 0 - z.stride⟩
  if edge y then pick (fun v => f v y.base) x
  else if edge x then pick (fun v => f x.base v) y
  else none

/-- x · 2^c of a uniform count; UNI 0 where the lane result is 0 (R108). -/
def Form.shl (x : Form) (c : Nat) : Form :=
  if 32 ≤ c then uniOf 0 else ⟨x.base <<< c, x.stride <<< c⟩

/-! ## The elementwise instruction -/

/-- Writes v(r) in the lanes of a lane strand. -/
def State.writeLanes (s : State) (st : Strand) (r : Nat) (vals : List (Nat × Word)) : State :=
  s.updWg st.wg fun g => vals.foldl (fun g x => g.setLane st.warp r x.1 x.2) g

/-- Writes the form of v(r) of a range strand. -/
def State.writeForm (s : State) (u r : Nat) (f : Form) : State :=
  s.updStrand u fun x => { x with forms := tset x.forms r f }

/-- The results of the active lanes, each with its events: a floating-point trap, or all written at once (R174,
R229). -/
def State.commitLanes (s : State) (c : Issue) (st : Strand) (i : Instr) (vd : BitVec 6)
    (rs : List (Nat × Word × Ev)) : State :=
  let ev := rs.foldl (fun e r => e ||| r.2.2) 0
  let bad := rs.filter fun r => trapsOn st.mode r.2.2
  if bad.isEmpty then
    ((s.writeLanes st vd.toNat (rs.map fun r => (r.1, r.2.1))).addEvents c.uid ev).retire c i
  else
    s.fpTrap c ev (some (32 * st.warp + (bad.headD (0, 0, 0)).1, bad.foldl (fun m r => m + 2 ^ r.1) 0))

/-- A vector source: register and route selector. -/
abbrev Src := BitVec 6 × Nat

/-- AN ELEMENTWISE INSTRUCTION (R229 to R231): `form` gives the result form where R108 admits one, `f` the value and
the events of one lane. -/
def elementwise (i : Instr) (vd : BitVec 6) (srcs : List Src) (form : List Form → Option Form)
    (f : Env → List Word → Word × Ev) : State → Out :=
  issue i (fun st => useV vd ++ srcs.flatMap fun x => st.useSrc x.1 x.2) noExcess fun s c st =>
    let env := s.env st
    match st.kind with
    | .range _ _ =>
      match st.constPred c.pred.toNat with
      | none => s.expandStrand c.uid
      | some false => s.retire c i
      | some true =>
        let fs := srcs.map fun x => st.form x.1.toNat
        match (if srcs.all (fun x => x.2 == 0) then form fs else none) with
        | some r => (s.writeForm c.uid vd.toNat r).retire c i
        | none =>
          if srcs.all fun x => st.uniSrc x.1.toNat x.2 then
            let (v, ev) := f env (fs.map (·.base))
            if trapsOn st.mode ev then s.fpTrap c ev none
            else ((s.writeForm c.uid vd.toNat (uniOf v)).addEvents c.uid ev).retire c i
          else s.expandStrand c.uid
    | .lane _ _ =>
      let act := st.active c.pred.toNat
      s.commitLanes c st i vd ((lanesOf act).map fun j => (j, f env (srcs.map fun x => s.src st act x.1.toNat x.2 j)))
    | .handler => s.retire c i

/-- No form beyond UNI is kept. -/
def noForm (_ : List Form) : Option Form := none

/-- A result without events. -/
def pureFn (f : List Word → Word) : Env → List Word → Word × Ev := fun _ xs => (f xs, 0)

/-- The first, second and third source. -/
def a0 (xs : List Word) : Word := xs.getD 0 0
/-- The second source. -/
def a1 (xs : List Word) : Word := xs.getD 1 0
/-- The third source. -/
def a2 (xs : List Word) : Word := xs.getD 2 0

end Sys2Proof.Machine
end

