-- ==== Sys2Proof/Machine/LaneInt.lean ====
section
/-! DEFINITION. Lane integer and logic instructions (R234, R235, R240 to R243, R246, R251). -/

namespace Sys2Proof.Machine

/-! ## Values -/

/-- Signed 64-bit value of a word. -/
def sx (a : Word) : Int := a.toInt

/-- The word of an integer, modulo 2^32 (R6, R167). -/
def ofI (v : Int) : Word := BitVec.ofInt 32 v

/-- Clamps to .i32 (R167). -/
def sat32 (v : Int) : Word := ofI (max (-2 ^ 31) (min (2 ^ 31 - 1) v))

/-- High half of a signed product. -/
def mulhI (a b : Word) : Word := ofI (sx a * sx b / 2 ^ 32)
/-- High half of an unsigned product. -/
def mulhN (a b : Word) : Word := BitVec.ofNat 32 (a.toNat * b.toNat / 2 ^ 32)
/-- The lesser, signed. -/
def minI (a b : Word) : Word := if a.slt b then a else b
/-- The greater, signed. -/
def maxI (a b : Word) : Word := if a.slt b then b else a
/-- The lesser, unsigned. -/
def minN (a b : Word) : Word := if a.ult b then a else b
/-- The greater, unsigned. -/
def maxN (a b : Word) : Word := if a.ult b then b else a
/-- Left shift by the whole count (R234). -/
def shlW (a b : Word) : Word := if 32 ≤ b.toNat then 0 else a <<< b.toNat
/-- Logical right shift by the whole count (R234). -/
def shrW (a b : Word) : Word := if 32 ≤ b.toNat then 0 else a >>> b.toNat
/-- Arithmetic right shift by the whole count (R234). -/
def sarW (a b : Word) : Word := a.sshiftRight (min 32 b.toNat)
/-- Rotation by the count modulo 32 (R234). -/
def rotlW (a b : Word) : Word := a.rotateLeft (b.toNat % 32)
/-- Sign extension of a 10-bit immediate (R235). -/
def imm10 (i : BitVec 10) : Word := i.signExtend 32
/-- Number of set bits. -/
def popc (a : Word) : Word := BitVec.ofNat 32 ((List.range 32).filter fun k => a.getLsbD k).length
/-- Number of leading zero bits. -/
def clzW (a : Word) : Word := BitVec.ofNat 32 (32 - bitLen a.toNat)
/-- Bit reversal. -/
def brev (a : Word) : Word := BitVec.ofNat 32 ((List.range 32).foldl (fun v k => if a.getLsbD k then v + 2 ^ (31 - k) else v) 0)
/-- Position and width of a field code (R242). -/
def fieldOf (c : Word) : Nat × Nat := let p := c.toNat % 32; (p, min (c.toNat / 256 % 64) (32 - p))
/-- VBFI (R242). -/
def bfi (a b c : Word) : Word :=
  let (p, w) := fieldOf c
  let mask : Word := BitVec.ofNat 32 ((2 ^ w - 1) * 2 ^ p)
  (a &&& ~~~mask) ||| ((b <<< p) &&& mask)
/-- VBFE (R243). -/
def bfe (signed : Bool) (a b : Word) : Word :=
  let (p, w) := fieldOf b
  let v := a.toNat / 2 ^ p % 2 ^ w
  if w = 0 then 0 else if signed && v / 2 ^ (w - 1) = 1 then ofI ((v : Int) - 2 ^ w) else BitVec.ofNat 32 v
/-- Byte `k` of a word. -/
def byteOf (a : Word) (k : Nat) : BitVec 8 := a.extractLsb' (8 * k) 8
/-- VDOT4 (R240). -/
def dot4 (a b : Word) : Int := [0, 1, 2, 3].foldl (fun v k => v + (byteOf a k).toInt * (byteOf b k).toInt) 0

/-- An LT register field as a register number (R211). -/
def lt (r : BitVec 5) : BitVec 6 := r.setWidth 6

/-! ## LR (R234) -/

/-- VADD: a + b. -/
def execVadd (vd va vb : BitVec 6) (ra rb : BitVec 2) : State → Out :=
  elementwise (.vadd vd va vb ra rb) vd [(va, ra.toNat), (vb, rb.toNat)]
    (fun f => some ((f.getD 0 (uniOf 0)).add (f.getD 1 (uniOf 0))))
    (pureFn fun x => a0 x + a1 x)

/-- VSUB: a − b. -/
def execVsub (vd va vb : BitVec 6) (ra rb : BitVec 2) : State → Out :=
  elementwise (.vsub vd va vb ra rb) vd [(va, ra.toNat), (vb, rb.toNat)]
    (fun f => some ((f.getD 0 (uniOf 0)).sub (f.getD 1 (uniOf 0))))
    (pureFn fun x => a0 x - a1 x)

/-- VMUL: low half of a · b. -/
def execVmul (vd va vb : BitVec 6) (ra rb : BitVec 2) : State → Out :=
  elementwise (.vmul vd va vb ra rb) vd [(va, ra.toNat), (vb, rb.toNat)]
    (fun f => (f.getD 0 (uniOf 0)).mul (f.getD 1 (uniOf 0)))
    (pureFn fun x => a0 x * a1 x)

/-- VMULH.i32. -/
def execVmulhI32 (vd va vb : BitVec 6) (ra rb : BitVec 2) : State → Out :=
  elementwise (.vmulhI32 vd va vb ra rb) vd [(va, ra.toNat), (vb, rb.toNat)]
    (noForm)
    (pureFn fun x => mulhI (a0 x) (a1 x))

/-- VMULH.n32. -/
def execVmulhN32 (vd va vb : BitVec 6) (ra rb : BitVec 2) : State → Out :=
  elementwise (.vmulhN32 vd va vb ra rb) vd [(va, ra.toNat), (vb, rb.toNat)]
    (noForm)
    (pureFn fun x => mulhN (a0 x) (a1 x))

/-- VMIN.i32. -/
def execVminI32 (vd va vb : BitVec 6) (ra rb : BitVec 2) : State → Out :=
  elementwise (.vminI32 vd va vb ra rb) vd [(va, ra.toNat), (vb, rb.toNat)]
    (noForm)
    (pureFn fun x => minI (a0 x) (a1 x))

/-- VMIN.n32. -/
def execVminN32 (vd va vb : BitVec 6) (ra rb : BitVec 2) : State → Out :=
  elementwise (.vminN32 vd va vb ra rb) vd [(va, ra.toNat), (vb, rb.toNat)]
    (noForm)
    (pureFn fun x => minN (a0 x) (a1 x))

/-- VMAX.i32. -/
def execVmaxI32 (vd va vb : BitVec 6) (ra rb : BitVec 2) : State → Out :=
  elementwise (.vmaxI32 vd va vb ra rb) vd [(va, ra.toNat), (vb, rb.toNat)]
    (noForm)
    (pureFn fun x => maxI (a0 x) (a1 x))

/-- VMAX.n32. -/
def execVmaxN32 (vd va vb : BitVec 6) (ra rb : BitVec 2) : State → Out :=
  elementwise (.vmaxN32 vd va vb ra rb) vd [(va, ra.toNat), (vb, rb.toNat)]
    (noForm)
    (pureFn fun x => maxN (a0 x) (a1 x))

/-- VAND. -/
def execVand (vd va vb : BitVec 6) (ra rb : BitVec 2) : State → Out :=
  elementwise (.vand vd va vb ra rb) vd [(va, ra.toNat), (vb, rb.toNat)]
    (fun f => Form.logic (· &&& ·) (f.getD 0 (uniOf 0)) (f.getD 1 (uniOf 0)))
    (pureFn fun x => a0 x &&& a1 x)

/-- VOR. -/
def execVor (vd va vb : BitVec 6) (ra rb : BitVec 2) : State → Out :=
  elementwise (.vor vd va vb ra rb) vd [(va, ra.toNat), (vb, rb.toNat)]
    (fun f => Form.logic (· ||| ·) (f.getD 0 (uniOf 0)) (f.getD 1 (uniOf 0)))
    (pureFn fun x => a0 x ||| a1 x)

/-- VXOR. -/
def execVxor (vd va vb : BitVec 6) (ra rb : BitVec 2) : State → Out :=
  elementwise (.vxor vd va vb ra rb) vd [(va, ra.toNat), (vb, rb.toNat)]
    (fun f => Form.logic (· ^^^ ·) (f.getD 0 (uniOf 0)) (f.getD 1 (uniOf 0)))
    (pureFn fun x => a0 x ^^^ a1 x)

/-- VANDN: a AND NOT b. -/
def execVandn (vd va vb : BitVec 6) (ra rb : BitVec 2) : State → Out :=
  elementwise (.vandn vd va vb ra rb) vd [(va, ra.toNat), (vb, rb.toNat)]
    (fun f => Form.logic (fun a b => a &&& ~~~b) (f.getD 0 (uniOf 0)) (f.getD 1 (uniOf 0)))
    (pureFn fun x => a0 x &&& ~~~(a1 x))

/-- VSHL. -/
def execVshl (vd va vb : BitVec 6) (ra rb : BitVec 2) : State → Out :=
  elementwise (.vshl vd va vb ra rb) vd [(va, ra.toNat), (vb, rb.toNat)]
    (fun f => if (f.getD 1 (uniOf 0)).uni then some ((f.getD 0 (uniOf 0)).shl (f.getD 1 (uniOf 0)).base.toNat) else none)
    (pureFn fun x => shlW (a0 x) (a1 x))

/-- VSHR. -/
def execVshr (vd va vb : BitVec 6) (ra rb : BitVec 2) : State → Out :=
  elementwise (.vshr vd va vb ra rb) vd [(va, ra.toNat), (vb, rb.toNat)]
    (noForm)
    (pureFn fun x => shrW (a0 x) (a1 x))

/-- VSAR. -/
def execVsar (vd va vb : BitVec 6) (ra rb : BitVec 2) : State → Out :=
  elementwise (.vsar vd va vb ra rb) vd [(va, ra.toNat), (vb, rb.toNat)]
    (noForm)
    (pureFn fun x => sarW (a0 x) (a1 x))

/-- VROTL. -/
def execVrotl (vd va vb : BitVec 6) (ra rb : BitVec 2) : State → Out :=
  elementwise (.vrotl vd va vb ra rb) vd [(va, ra.toNat), (vb, rb.toNat)]
    (noForm)
    (pureFn fun x => rotlW (a0 x) (a1 x))

/-- VADDS.i32. -/
def execVaddsI32 (vd va vb : BitVec 6) (ra rb : BitVec 2) : State → Out :=
  elementwise (.vaddsI32 vd va vb ra rb) vd [(va, ra.toNat), (vb, rb.toNat)]
    (noForm)
    (pureFn fun x => sat32 (sx (a0 x) + sx (a1 x)))

/-- VSUBS.i32. -/
def execVsubsI32 (vd va vb : BitVec 6) (ra rb : BitVec 2) : State → Out :=
  elementwise (.vsubsI32 vd va vb ra rb) vd [(va, ra.toNat), (vb, rb.toNat)]
    (noForm)
    (pureFn fun x => sat32 (sx (a0 x) - sx (a1 x)))

/-- VABSD.n32. -/
def execVabsdN32 (vd va vb : BitVec 6) (ra rb : BitVec 2) : State → Out :=
  elementwise (.vabsdN32 vd va vb ra rb) vd [(va, ra.toNat), (vb, rb.toNat)]
    (noForm)
    (pureFn fun x => maxN (a0 x) (a1 x) - minN (a0 x) (a1 x))

/-- VMOV: a copy, which keeps any form. -/
def execVmov (vd va : BitVec 6) (ra : BitVec 2) : State → Out :=
  elementwise (.vmov vd va ra) vd [(va, ra.toNat)] (fun f => f.head?) (pureFn a0)

/-! ## LI (R235) -/

/-- VADDI: a + x. -/
def execVaddi (vd va : BitVec 6) (ra : BitVec 2) (imm : BitVec 10) : State → Out :=
  elementwise (.vaddi vd va ra imm) vd [(va, ra.toNat)]
    (fun f => some ((f.getD 0 (uniOf 0)).add (uniOf (imm10 imm))))
    (pureFn fun x => a0 x + imm10 imm)

/-- VSUBRI: x − a. -/
def execVsubri (vd va : BitVec 6) (ra : BitVec 2) (imm : BitVec 10) : State → Out :=
  elementwise (.vsubri vd va ra imm) vd [(va, ra.toNat)]
    (fun f => some ((uniOf (imm10 imm)).sub (f.getD 0 (uniOf 0))))
    (pureFn fun x => imm10 imm - a0 x)

/-- VMULI: low half of a · x. -/
def execVmuli (vd va : BitVec 6) (ra : BitVec 2) (imm : BitVec 10) : State → Out :=
  elementwise (.vmuli vd va ra imm) vd [(va, ra.toNat)]
    (fun f => (f.getD 0 (uniOf 0)).mul (uniOf (imm10 imm)))
    (pureFn fun x => a0 x * imm10 imm)

/-- VANDI. -/
def execVandi (vd va : BitVec 6) (ra : BitVec 2) (imm : BitVec 10) : State → Out :=
  elementwise (.vandi vd va ra imm) vd [(va, ra.toNat)]
    (fun f => Form.logic (· &&& ·) (f.getD 0 (uniOf 0)) (uniOf (imm10 imm)))
    (pureFn fun x => a0 x &&& imm10 imm)

/-- VORI. -/
def execVori (vd va : BitVec 6) (ra : BitVec 2) (imm : BitVec 10) : State → Out :=
  elementwise (.vori vd va ra imm) vd [(va, ra.toNat)]
    (fun f => Form.logic (· ||| ·) (f.getD 0 (uniOf 0)) (uniOf (imm10 imm)))
    (pureFn fun x => a0 x ||| imm10 imm)

/-- VXORI. -/
def execVxori (vd va : BitVec 6) (ra : BitVec 2) (imm : BitVec 10) : State → Out :=
  elementwise (.vxori vd va ra imm) vd [(va, ra.toNat)]
    (fun f => Form.logic (· ^^^ ·) (f.getD 0 (uniOf 0)) (uniOf (imm10 imm)))
    (pureFn fun x => a0 x ^^^ imm10 imm)

/-- VSHLI. -/
def execVshli (vd va : BitVec 6) (ra : BitVec 2) (imm : BitVec 10) : State → Out :=
  elementwise (.vshli vd va ra imm) vd [(va, ra.toNat)]
    (fun f => some ((f.getD 0 (uniOf 0)).shl imm.toNat))
    (pureFn fun x => a0 x <<< imm.toNat)

/-- VSHRI. -/
def execVshri (vd va : BitVec 6) (ra : BitVec 2) (imm : BitVec 10) : State → Out :=
  elementwise (.vshri vd va ra imm) vd [(va, ra.toNat)]
    (noForm)
    (pureFn fun x => a0 x >>> imm.toNat)

/-- VSARI. -/
def execVsari (vd va : BitVec 6) (ra : BitVec 2) (imm : BitVec 10) : State → Out :=
  elementwise (.vsari vd va ra imm) vd [(va, ra.toNat)]
    (noForm)
    (pureFn fun x => (a0 x).sshiftRight imm.toNat)

/-- VMINI.i32. -/
def execVminiI32 (vd va : BitVec 6) (ra : BitVec 2) (imm : BitVec 10) : State → Out :=
  elementwise (.vminiI32 vd va ra imm) vd [(va, ra.toNat)]
    (noForm)
    (pureFn fun x => minI (a0 x) (imm10 imm))

/-- VMAXI.i32. -/
def execVmaxiI32 (vd va : BitVec 6) (ra : BitVec 2) (imm : BitVec 10) : State → Out :=
  elementwise (.vmaxiI32 vd va ra imm) vd [(va, ra.toNat)]
    (noForm)
    (pureFn fun x => maxI (a0 x) (imm10 imm))

/-- VMOVI: the sign-extended immediate; UNI on a range strand. -/
def execVmovi (vd : BitVec 6) (imm : BitVec 10) : State → Out :=
  elementwise (.vmovi vd imm) vd [] noForm (pureFn fun _ => imm10 imm)

/-- VMOVL: the inline word; UNI on a range strand (R251). -/
def execVmovl (vd : BitVec 6) (imm : BitVec 32) : State → Out :=
  elementwise (.vmovl vd imm) vd [] noForm (pureFn fun _ => imm)

/-! ## Integer members of LR, LT and LX (R240 to R243) -/

/-- VDOT4.i8. -/
def execVdot4I8 (vd va vb : BitVec 6) (ra rb : BitVec 2) : State → Out :=
  elementwise (.vdot4I8 vd va vb ra rb) vd [(va, ra.toNat), (vb, rb.toNat)] noForm (pureFn fun x => ofI (dot4 (a0 x) (a1 x)))

/-- VMAD: a · b + c; a form where one factor is UNI (R108). -/
def execVmad (vd va vb vc : BitVec 5) (ra rb : BitVec 2) (rc : BitVec 1) : State → Out :=
  elementwise (.vmad vd va vb vc ra rb rc) (lt vd) [(lt va, ra.toNat), (lt vb, rb.toNat), (lt vc, rc.toNat)]
    (fun f => ((f.getD 0 (uniOf 0)).mul (f.getD 1 (uniOf 0))).map fun m => m.add (f.getD 2 (uniOf 0)))
    (pureFn fun x => a0 x * a1 x + a2 x)

/-- VDOT4A.i8. -/
def execVdot4aI8 (vd va vb vc : BitVec 5) (ra rb : BitVec 2) (rc : BitVec 1) : State → Out :=
  elementwise (.vdot4aI8 vd va vb vc ra rb rc) (lt vd) [(lt va, ra.toNat), (lt vb, rb.toNat), (lt vc, rc.toNat)] noForm
    (pureFn fun x => ofI (dot4 (a0 x) (a1 x)) + a2 x)

/-- VBFI (R242). -/
def execVbfi (vd va vb vc : BitVec 5) (ra rb : BitVec 2) (rc : BitVec 1) : State → Out :=
  elementwise (.vbfi vd va vb vc ra rb rc) (lt vd) [(lt va, ra.toNat), (lt vb, rb.toNat), (lt vc, rc.toNat)] noForm
    (pureFn fun x => bfi (a0 x) (a1 x) (a2 x))

/-- VPOPC (R243). -/
def execVpopc (d a : BitVec 6) : State → Out := elementwise (.vpopc d a) d [(a, 0)] noForm (pureFn fun x => popc (a0 x))

/-- VCLZ (R243). -/
def execVclz (d a : BitVec 6) : State → Out := elementwise (.vclz d a) d [(a, 0)] noForm (pureFn fun x => clzW (a0 x))

/-- VBREV (R243). -/
def execVbrev (d a : BitVec 6) : State → Out := elementwise (.vbrev d a) d [(a, 0)] noForm (pureFn fun x => brev (a0 x))

/-- VBFE (R243). -/
def execVbfe (d a b : BitVec 6) (sgn : BitVec 1) : State → Out :=
  elementwise (.vbfe d a b sgn) d [(a, 0), (b, 0)] noForm (pureFn fun x => bfe (sgn == 1) (a0 x) (a1 x))

end Sys2Proof.Machine
end

