-- ==== Sys2Proof/Machine/LaneFp.lean ====
section
/-! DEFINITION. Lane floating-point, packed, special-function and conversion instructions (R236 to R241, R244 to
R250). -/

namespace Sys2Proof.Machine

/-- A .f32 result as a lane value. -/
def lane32 (r : Nat × Ev) : Word × Ev := (BitVec.ofNat 32 r.1, r.2)

/-- The scalar operation on every sub-element of width `w` bits (R175, R239). -/
def packed (w : Nat) (op : Nat → Nat → Nat × Ev) (a b : Word) : Word × Ev :=
  (List.range (32 / w)).foldl (fun r k =>
    let x := op (a.toNat / 2 ^ (w * k) % 2 ^ w) (b.toNat / 2 ^ (w * k) % 2 ^ w)
    (r.1 + BitVec.ofNat 32 (x.1 * 2 ^ (w * k)), r.2 ||| x.2)) (0, 0)

/-- The three-source scalar operation on both halves (R241). -/
def packed3 (op : Nat → Nat → Nat → Nat × Ev) (a b c : Word) : Word × Ev :=
  let x := op (a.toNat % 2 ^ 16) (b.toNat % 2 ^ 16) (c.toNat % 2 ^ 16)
  let y := op (a.toNat / 2 ^ 16) (b.toNat / 2 ^ 16) (c.toNat / 2 ^ 16)
  (BitVec.ofNat 32 (x.1 + y.1 * 2 ^ 16), x.2 ||| y.2)

/-- The halves of a word. -/
def lo16 (a : Word) : Nat := a.toNat % 2 ^ 16
/-- The upper half. -/
def hi16 (a : Word) : Nat := a.toNat / 2 ^ 16

/-! ## LR (R236 to R240) -/

/-- VFADD.f32 (R236). -/
def execVfaddF32 (vd va vb : BitVec 6) (ra rb : BitVec 2) : State → Out :=
  elementwise (.vfaddF32 vd va vb ra rb) vd [(va, ra.toNat), (vb, rb.toNat)] noForm
    (fun e x => lane32 (Fmt.f32.add e.ctl32 (a0 x).toNat (a1 x).toNat))

/-- VFSUB.f32 (R236). -/
def execVfsubF32 (vd va vb : BitVec 6) (ra rb : BitVec 2) : State → Out :=
  elementwise (.vfsubF32 vd va vb ra rb) vd [(va, ra.toNat), (vb, rb.toNat)] noForm
    (fun e x => lane32 (Fmt.f32.sub e.ctl32 (a0 x).toNat (a1 x).toNat))

/-- VFMUL.f32 (R236). -/
def execVfmulF32 (vd va vb : BitVec 6) (ra rb : BitVec 2) : State → Out :=
  elementwise (.vfmulF32 vd va vb ra rb) vd [(va, ra.toNat), (vb, rb.toNat)] noForm
    (fun e x => lane32 (Fmt.f32.mul e.ctl32 (a0 x).toNat (a1 x).toNat))

/-- VFMIN.f32 (R237). -/
def execVfminF32 (vd va vb : BitVec 6) (ra rb : BitVec 2) : State → Out :=
  elementwise (.vfminF32 vd va vb ra rb) vd [(va, ra.toNat), (vb, rb.toNat)] noForm
    (fun e x => lane32 (Fmt.f32.minmax false e.ctl32 (a0 x).toNat (a1 x).toNat))

/-- VFMAX.f32 (R237). -/
def execVfmaxF32 (vd va vb : BitVec 6) (ra rb : BitVec 2) : State → Out :=
  elementwise (.vfmaxF32 vd va vb ra rb) vd [(va, ra.toNat), (vb, rb.toNat)] noForm
    (fun e x => lane32 (Fmt.f32.minmax true e.ctl32 (a0 x).toNat (a1 x).toNat))

/-- VFSCALE.f32 (R238). -/
def execVfscaleF32 (vd va vb : BitVec 6) (ra rb : BitVec 2) : State → Out :=
  elementwise (.vfscaleF32 vd va vb ra rb) vd [(va, ra.toNat), (vb, rb.toNat)] noForm
    (fun e x => lane32 (fscale e.ctl32 (a0 x).toNat (a1 x).toInt))

/-- VFADD.bf16x2 (R239). -/
def execVfaddBf16x2 (vd va vb : BitVec 6) (ra rb : BitVec 2) : State → Out :=
  elementwise (.vfaddBf16x2 vd va vb ra rb) vd [(va, ra.toNat), (vb, rb.toNat)] noForm
    (fun e x => packed 16 (Fmt.bf16.add e.ctl16) (a0 x) (a1 x))

/-- VFMUL.bf16x2 (R239). -/
def execVfmulBf16x2 (vd va vb : BitVec 6) (ra rb : BitVec 2) : State → Out :=
  elementwise (.vfmulBf16x2 vd va vb ra rb) vd [(va, ra.toNat), (vb, rb.toNat)] noForm
    (fun e x => packed 16 (Fmt.bf16.mul e.ctl16) (a0 x) (a1 x))

/-- VFADD.f16x2 (R239). -/
def execVfaddF16x2 (vd va vb : BitVec 6) (ra rb : BitVec 2) : State → Out :=
  elementwise (.vfaddF16x2 vd va vb ra rb) vd [(va, ra.toNat), (vb, rb.toNat)] noForm
    (fun e x => packed 16 (Fmt.f16.add e.ctl16) (a0 x) (a1 x))

/-- VFMUL.f16x2 (R239). -/
def execVfmulF16x2 (vd va vb : BitVec 6) (ra rb : BitVec 2) : State → Out :=
  elementwise (.vfmulF16x2 vd va vb ra rb) vd [(va, ra.toNat), (vb, rb.toNat)] noForm
    (fun e x => packed 16 (Fmt.f16.mul e.ctl16) (a0 x) (a1 x))

/-- VFADD.e4m3x4 (R239). -/
def execVfaddE4m3x4 (vd va vb : BitVec 6) (ra rb : BitVec 2) : State → Out :=
  elementwise (.vfaddE4m3x4 vd va vb ra rb) vd [(va, ra.toNat), (vb, rb.toNat)] noForm
    (fun e x => packed 8 (Fmt.e4m3.add e.ctl8) (a0 x) (a1 x))

/-- VFMUL.e4m3x4 (R239). -/
def execVfmulE4m3x4 (vd va vb : BitVec 6) (ra rb : BitVec 2) : State → Out :=
  elementwise (.vfmulE4m3x4 vd va vb ra rb) vd [(va, ra.toNat), (vb, rb.toNat)] noForm
    (fun e x => packed 8 (Fmt.e4m3.mul e.ctl8) (a0 x) (a1 x))

/-- VFADD.e5m2x4 (R239). -/
def execVfaddE5m2x4 (vd va vb : BitVec 6) (ra rb : BitVec 2) : State → Out :=
  elementwise (.vfaddE5m2x4 vd va vb ra rb) vd [(va, ra.toNat), (vb, rb.toNat)] noForm
    (fun e x => packed 8 (Fmt.e5m2.add e.ctl8) (a0 x) (a1 x))

/-- VFMUL.e5m2x4 (R239). -/
def execVfmulE5m2x4 (vd va vb : BitVec 6) (ra rb : BitVec 2) : State → Out :=
  elementwise (.vfmulE5m2x4 vd va vb ra rb) vd [(va, ra.toNat), (vb, rb.toNat)] noForm
    (fun e x => packed 8 (Fmt.e5m2.mul e.ctl8) (a0 x) (a1 x))

/-- VDOT2.bf16 (R240). -/
def execVdot2Bf16 (vd va vb : BitVec 6) (ra rb : BitVec 2) : State → Out :=
  elementwise (.vdot2Bf16 vd va vb ra rb) vd [(va, ra.toNat), (vb, rb.toNat)] noForm
    (fun e x => lane32 (dot2 e.ctl32 (lo16 (a0 x)) (hi16 (a0 x)) (lo16 (a1 x)) (hi16 (a1 x)) none))

/-! ## LT (R240, R241) -/

/-- VFMA.f32 (R241). -/
def execVfmaF32 (vd va vb vc : BitVec 5) (ra rb : BitVec 2) (rc : BitVec 1) : State → Out :=
  elementwise (.vfmaF32 vd va vb vc ra rb rc) (lt vd) [(lt va, ra.toNat), (lt vb, rb.toNat), (lt vc, rc.toNat)] noForm
    (fun e x => lane32 (Fmt.f32.fma e.ctl32 (a0 x).toNat (a1 x).toNat (a2 x).toNat))

/-- VFMA.bf16x2 (R241). -/
def execVfmaBf16x2 (vd va vb vc : BitVec 5) (ra rb : BitVec 2) (rc : BitVec 1) : State → Out :=
  elementwise (.vfmaBf16x2 vd va vb vc ra rb rc) (lt vd) [(lt va, ra.toNat), (lt vb, rb.toNat), (lt vc, rc.toNat)] noForm
    (fun e x => packed3 (Fmt.bf16.fma e.ctl16) (a0 x) (a1 x) (a2 x))

/-- VFMA.f16x2 (R241). -/
def execVfmaF16x2 (vd va vb vc : BitVec 5) (ra rb : BitVec 2) (rc : BitVec 1) : State → Out :=
  elementwise (.vfmaF16x2 vd va vb vc ra rb rc) (lt vd) [(lt va, ra.toNat), (lt vb, rb.toNat), (lt vc, rc.toNat)] noForm
    (fun e x => packed3 (Fmt.f16.fma e.ctl16) (a0 x) (a1 x) (a2 x))

/-- VDOT2A.bf16 (R240). -/
def execVdot2aBf16 (vd va vb vc : BitVec 5) (ra rb : BitVec 2) (rc : BitVec 1) : State → Out :=
  elementwise (.vdot2aBf16 vd va vb vc ra rb rc) (lt vd) [(lt va, ra.toNat), (lt vb, rb.toNat), (lt vc, rc.toNat)] noForm
    (fun e x => lane32 (dot2 e.ctl32 (lo16 (a0 x)) (hi16 (a0 x)) (lo16 (a1 x)) (hi16 (a1 x)) (some (a2 x).toNat)))

/-! ## Special functions (R244) -/

/-- rcp (R181, R244). -/
def execVfrcpF32 (d a : BitVec 6) : State → Out :=
  elementwise (.vfrcpF32 d a) d [(a, 0)] noForm (fun e x => lane32 (Sfn.rcp.apply e.ctl32 (a0 x).toNat))

/-- rsq (R181, R244). -/
def execVfrsqF32 (d a : BitVec 6) : State → Out :=
  elementwise (.vfrsqF32 d a) d [(a, 0)] noForm (fun e x => lane32 (Sfn.rsq.apply e.ctl32 (a0 x).toNat))

/-- sqrt (R181, R244). -/
def execVfsqrtF32 (d a : BitVec 6) : State → Out :=
  elementwise (.vfsqrtF32 d a) d [(a, 0)] noForm (fun e x => lane32 (Sfn.sqrt.apply e.ctl32 (a0 x).toNat))

/-- exp2 (R181, R244). -/
def execVfexp2F32 (d a : BitVec 6) : State → Out :=
  elementwise (.vfexp2F32 d a) d [(a, 0)] noForm (fun e x => lane32 (Sfn.exp2.apply e.ctl32 (a0 x).toNat))

/-- log2 (R181, R244). -/
def execVflog2F32 (d a : BitVec 6) : State → Out :=
  elementwise (.vflog2F32 d a) d [(a, 0)] noForm (fun e x => lane32 (Sfn.log2.apply e.ctl32 (a0 x).toNat))

/-- sinpi (R181, R244). -/
def execVfsinpiF32 (d a : BitVec 6) : State → Out :=
  elementwise (.vfsinpiF32 d a) d [(a, 0)] noForm (fun e x => lane32 (Sfn.sinpi.apply e.ctl32 (a0 x).toNat))

/-- cospi (R181, R244). -/
def execVfcospiF32 (d a : BitVec 6) : State → Out :=
  elementwise (.vfcospiF32 d a) d [(a, 0)] noForm (fun e x => lane32 (Sfn.cospi.apply e.ctl32 (a0 x).toNat))

/-- tanh (R181, R244). -/
def execVftanhF32 (d a : BitVec 6) : State → Out :=
  elementwise (.vftanhF32 d a) d [(a, 0)] noForm (fun e x => lane32 (Sfn.tanh.apply e.ctl32 (a0 x).toNat))

/-! ## Classification, unary operations, conversions (R245 to R250) -/

/-- The formats of VFCLASS and of VPACK by number, .f32 first (R245). -/
def classFmt (n : Nat) : Fmt :=
  match n with
  | 0 => .f32
  | 1 => .bf16
  | 2 => .f16
  | 3 => .e4m3
  | _ => .e5m2

/-- VFCLASS (R245). -/
def execVfclass (d a : BitVec 6) (fn : BitVec 4) : State → Out :=
  elementwise (.vfclass d a fn) d [(a, 0)] noForm
    (pureFn fun x =>
      let f := classFmt fn.toNat
      BitVec.ofNat 32 (f.classify ((a0 x).toNat % 2 ^ f.width)))

/-- The operations of VUNARY (R246). -/
def unaryOp (fn : Nat) (e : Env) (a : Word) : Word × Ev :=
  match fn with
  | 0 => (0 - a, 0)
  | 1 => (if a.msb then 0 - a else a, 0)
  | 2 => (~~~a, 0)
  | 3 => (a ^^^ 0x80000000, 0)
  | 4 => (a &&& 0x7FFFFFFF, 0)
  | 5 => lane32 (frint e.rnd e.ftz a.toNat)
  | 6 => lane32 (frint 2 e.ftz a.toNat)
  | 7 => lane32 (frint 3 e.ftz a.toNat)
  | _ => lane32 (frint 1 e.ftz a.toNat)

/-- VUNARY (R246). -/
def execVunary (d a : BitVec 6) (fn : BitVec 4) : State → Out :=
  elementwise (.vunary d a fn) d [(a, 0)] noForm (fun e x => unaryOp fn.toNat e (a0 x))

/-- The conversions of VCVT and SCVT (R247). -/
def cvtOp (fn : Nat) (e : Env) (a : Word) : Word × Ev :=
  match fn with
  | 0 => lane32 (ofInt e.ctl32 a.toInt)
  | 1 => lane32 (ofInt e.ctl32 a.toNat)
  | 2 => lane32 (toInt32 true e.rnd e.ftz a.toNat)
  | 3 => lane32 (toInt32 false e.rnd e.ftz a.toNat)
  | 4 => lane32 (toInt32 true 1 e.ftz a.toNat)
  | _ => lane32 (toInt32 false 1 e.ftz a.toNat)

/-- VCVT (R247). -/
def execVcvt (d a : BitVec 6) (fn : BitVec 4) : State → Out :=
  elementwise (.vcvt d a fn) d [(a, 0)] noForm (fun e x => cvtOp fn.toNat e (a0 x))

/-- The conversions of VCVTB (R248). -/
def cvtbOp (fn : Nat) (e : Env) (a : Word) : Word × Ev :=
  if fn < 2 then lane32 (Fmt.bf16.widen e.ftz (a.toNat / 2 ^ (16 * fn) % 2 ^ 16))
  else if fn < 4 then lane32 (Fmt.f16.widen e.ftz (a.toNat / 2 ^ (16 * (fn - 2)) % 2 ^ 16))
  else if fn < 8 then lane32 (Fmt.e4m3.widen e.ftz (byteOf a (fn - 4)).toNat)
  else if fn < 12 then lane32 (Fmt.e5m2.widen e.ftz (byteOf a (fn - 8)).toNat)
  else lane32 (ofInt Ctl.home (byteOf a (fn - 12)).toInt)

/-- VCVTB (R248). -/
def execVcvtb (d a : BitVec 6) (fn : BitVec 4) : State → Out :=
  elementwise (.vcvtb d a fn) d [(a, 0)] noForm (fun e x => cvtbOp fn.toNat e (a0 x))

/-- The formats of VPACK (R249). -/
def packFmt (n : Nat) : Fmt :=
  match n with
  | 0 => .bf16
  | 1 => .f16
  | 2 => .e4m3
  | 3 => .e5m2
  | _ => .e2m1

/-- VPACK (R249): two narrowed elements shifted into the destination. -/
def packOp (fn : Nat) (e : Env) (a b d : Word) : Word × Ev :=
  let f := packFmt (fn % 8)
  let c : Ctl := ⟨e.rnd, e.ftz, fn / 8 == 1⟩
  let x := f.narrow c a.toNat
  let y := f.narrow c b.toNat
  let p : Word := BitVec.ofNat 32 (x.1 + y.1 * 2 ^ f.width)
  let v := match f.width with
    | 16 => p
    | 8 => (d >>> 16) ||| (p <<< 16)
    | _ => (d >>> 8) ||| (p <<< 24)
  (v, x.2 ||| y.2)

/-- VPACK (R249): narrow formats read the destination too. -/
def execVpack (d a b : BitVec 6) (fn : BitVec 4) : State → Out :=
  elementwise (.vpack d a b fn) d (if fn.toNat % 8 < 2 then [(a, 0), (b, 0)] else [(a, 0), (b, 0), (d, 0)]) noForm
    (fun e x => packOp fn.toNat e (a0 x) (a1 x) (a2 x))

/-- The elements of VUNPACK (R250). -/
def unpackOp (fn : Nat) (e : Env) (a b : Word) : Word × Ev :=
  let s := b.toNat % 256
  if fn < 8 then lane32 (Fmt.e2m1.unpack e.ctl32 (a.toNat / 2 ^ (4 * fn) % 16) s)
  else if fn < 12 then lane32 (Fmt.e4m3.unpack e.ctl32 (byteOf a (fn - 8)).toNat s)
  else lane32 (Fmt.e5m2.unpack e.ctl32 (byteOf a (fn - 12)).toNat s)

/-- VUNPACK (R250). -/
def execVunpack (d a b : BitVec 6) (fn : BitVec 4) : State → Out :=
  elementwise (.vunpack d a b fn) d [(a, 0), (b, 0)] noForm (fun e x => unpackOp fn.toNat e (a0 x) (a1 x))

end Sys2Proof.Machine
end

