-- ==== Sys2Proof/Machine/LaneCross.lean ====
section
/-! DEFINITION. Comparisons, selections, cross-lane operations, mask moves and form queries (R257 to R269). -/

namespace Sys2Proof.Machine

/-! ## Masks and tiles -/

/-- Writes k(r) in the active lanes of a lane strand. -/
def State.writeMask (s : State) (u r : Nat) (act bits : BitVec 32) : State :=
  s.updStrand u fun x => { x with masks := tset x.masks r ((x.kmask r &&& ~~~act) ||| (bits &&& act)) }

/-- Writes the run predicate k(r) of a range strand. -/
def State.writeRuns (s : State) (u r : Nat) (v : List (Nat × Bool)) : State :=
  s.updStrand u fun x => { x with runs := tset x.runs r v }

/-- A mask from the lanes that satisfy a condition. -/
def maskWhere (l : List Nat) (p : Nat → Bool) : BitVec 32 := BitVec.ofNat 32 (l.foldl (fun v j => if p j then v + 2 ^ j else v) 0)

/-- The active lanes of each tile, in ascending position (R104, R257). -/
def Strand.tiles (st : Strand) (act : BitVec 32) : List (List Nat) :=
  (List.range 32).map fun t => (lanesOf act).filter fun j => j / st.tileSize == t

/-- The tile-mates of a lane. -/
def Strand.tileOf (st : Strand) (act : BitVec 32) (j : Nat) : List Nat :=
  (lanesOf act).filter fun x => x / st.tileSize == j / st.tileSize

/-- An instruction that reads across lanes (R257): a range strand expands first. -/
def crossLane (i : Instr) (uses : List Use) (body : State → Issue → Strand → BitVec 32 → State) : State → Out :=
  issue i (fun _ => uses) noExcess fun s c st =>
    match st.kind with
    | .range _ _ => if st.constPred c.pred.toNat == some false then s.retire c i else s.expandStrand c.uid
    | .lane _ _ => body s c st (st.active c.pred.toNat)
    | .handler => s.retire c i

/-- An instruction that acts in each lane alone and that a range strand may carry as forms or runs (R111, R112):
`range` answers none where the strand must expand. -/
def laneOrRange (i : Instr) (uses : List Use) (range : State → Issue → Strand → Nat → Nat → Option State)
    (body : State → Issue → Strand → BitVec 32 → State) : State → Out :=
  issue i (fun _ => uses) noExcess fun s c st =>
    match st.kind with
    | .range lo n =>
      match st.constPred c.pred.toNat with
      | some false => s.retire c i
      | some true => match range s c st lo n with
        | some t => t
        | none => s.expandStrand c.uid
      | none => s.expandStrand c.uid
    | .lane _ _ => body s c st (st.active c.pred.toNat)
    | .handler => s.retire c i

/-! ## VCMP and VSEL (R258, R259) -/

/-- Conditions of VCMP. -/
def cmpOp (fn : Nat) (e : Env) (a b : Word) : Bool × Ev :=
  match fn with
  | 0 => (a == b, 0)
  | 1 => (a != b, 0)
  | 2 => (a.slt b, 0)
  | 3 => (a.sle b, 0)
  | 4 => (a.ult b, 0)
  | 5 => (a.ule b, 0)
  | _ => fcmp fn e.ftz a.toNat b.toNat

/-- VCMP (R258). Integer conditions of forms give a run predicate of at most three runs; a .f32 condition keeps the
range only where both sources are UNI. -/
def execVcmp (d a b : BitVec 6) (fn : BitVec 4) : State → Out :=
  laneOrRange (.vcmp d a b fn) (useK d.toNat ++ useV a ++ useV b)
    (fun s c st lo n =>
      let e := s.env st
      let fa := st.form a.toNat
      let fb := st.form b.toNat
      if fa.uni && fb.uni then
        let r := cmpOp fn.toNat e fa.base fb.base
        if trapsOn st.mode r.2 then some (s.fpTrap c r.2 none)
        else some (((s.writeRuns c.uid d.toNat [(n, r.1)]).addEvents c.uid r.2).retire c (.vcmp d a b fn))
      else if 6 ≤ fn.toNat then none
      else
        let runs := (spansOf 0 ((List.range n).map fun j =>
          (cmpOp fn.toNat e (s.vreg st a.toNat (lo + j)) (s.vreg st b.toNat (lo + j))).1)).map fun x => (x.2.1, x.2.2)
        if runs.length ≤ 3 then some ((s.writeRuns c.uid d.toNat runs).retire c (.vcmp d a b fn)) else none)
    fun s c st act =>
      let e := s.env st
      let rs := (lanesOf act).map fun j => (j, cmpOp fn.toNat e (s.vreg st a.toNat j) (s.vreg st b.toNat j))
      let ev := rs.foldl (fun v r => v ||| r.2.2) 0
      let bad := rs.filter fun r => trapsOn st.mode r.2.2
      if bad.isEmpty then
        ((s.writeMask c.uid d.toNat act (maskWhere (lanesOf act) fun j =>
          rs.any fun r => r.1 == j && r.2.1)).addEvents c.uid ev).retire c (.vcmp d a b fn)
      else s.fpTrap c ev (some (32 * st.warp + (bad.headD (0, false, 0)).1, bad.foldl (fun m r => m + 2 ^ r.1) 0))

/-- VSEL (R259). -/
def execVsel (d a b : BitVec 6) (k : BitVec 3) : State → Out :=
  laneOrRange (.vsel d a b k) (useV d ++ useV a ++ useV b ++ useK k.toNat)
    (fun s c st _ _ =>
      match st.constPred k.toNat with
      | some v => some ((s.writeForm c.uid d.toNat (st.form (if v then a else b).toNat)).retire c (.vsel d a b k))
      | none => none)
    fun s c st act =>
      (s.writeLanes st d.toNat ((lanesOf act).map fun j =>
        (j, s.vreg st (if (st.kmask k.toNat).getLsbD j then a else b).toNat j))).retire c (.vsel d a b k)

/-! ## Votes, scans, reductions (R260 to R262) -/

/-- VVOTE (R260). -/
def execVvote (d a : BitVec 6) (fn : BitVec 4) : State → Out :=
  crossLane (.vvote d a fn) (useK d.toNat ++ (if fn == 2 then useV a else useK a.toNat)) fun s c st act =>
    let bit := fun l : List Nat =>
      match fn.toNat with
      | 0 => l.any fun j => (st.kmask a.toNat).getLsbD j
      | 1 => l.all fun j => (st.kmask a.toNat).getLsbD j
      | _ => l.all fun j => s.vreg st a.toNat j == s.vreg st a.toNat (l.headD 0)
    (s.writeMask c.uid d.toNat act (maskWhere (lanesOf act) fun j => bit (st.tileOf act j))).retire c (.vvote d a fn)

/-- The combining operation of a scan, by VSCAN's fn (R261). -/
def scanOp (fn : Nat) (e : Env) (a b : Word) : Word × Ev :=
  match fn with
  | 0 | 1 => (a + b, 0)
  | 2 => (minI a b, 0)
  | 3 => (maxI a b, 0)
  | 4 => (minN a b, 0)
  | 5 => (maxN a b, 0)
  | 6 => (a &&& b, 0)
  | 7 => (a ||| b, 0)
  | 8 => (a ^^^ b, 0)
  | 9 | 10 => lane32 (Fmt.f32.add e.ctl32 a.toNat b.toNat)
  | 11 => lane32 (Fmt.f32.minmax false e.ctl32 a.toNat b.toNat)
  | _ => lane32 (Fmt.f32.minmax true e.ctl32 a.toNat b.toNat)

/-- The prefixes of a tile's values in ascending lane position, with the events within each (R261). -/
def scanList (op : Word → Word → Word × Ev) (exclusive : Bool) : Option (Word × Ev) → List (Nat × Word) → List (Nat × Word × Ev)
  | _, [] => []
  | acc, (j, a) :: r =>
    let nxt := match acc with
      | none => (a, 0)
      | some (v, ev) => let x := op v a; (x.1, ev ||| x.2)
    (j, if exclusive then acc.getD (0, 0) else nxt) :: scanList op exclusive (some nxt) r

/-- VSCAN (R261). -/
def execVscan (d a : BitVec 6) (fn : BitVec 4) : State → Out :=
  crossLane (.vscan d a fn) (useV d ++ useV a) fun s c st act =>
    let e := s.env st
    s.commitLanes c st (.vscan d a fn) d ((st.tiles act).flatMap fun l =>
      scanList (scanOp fn.toNat e) (fn == 1 || fn == 10) none (l.map fun j => (j, s.vreg st a.toNat j)))

/-- The fn of VSCAN whose operation VRED's fn combines with (R262). -/
def redFn (fn : Nat) : Nat := if fn = 0 then 0 else if fn ≤ 7 then fn + 1 else if fn = 8 then 9 else fn + 2

/-- VRED (R262): the last prefix, in every active lane of the tile. -/
def execVred (d a : BitVec 6) (fn : BitVec 4) : State → Out :=
  crossLane (.vred d a fn) (useV d ++ useV a) fun s c st act =>
    let e := s.env st
    s.commitLanes c st (.vred d a fn) d ((st.tiles act).flatMap fun l =>
      let v := ((scanList (scanOp (redFn fn.toNat) e) false none (l.map fun j => (j, s.vreg st a.toNat j))).getLast?.map (·.2)).getD (0, 0)
      l.map fun j => (j, v))

/-! ## VMATCH, VCOMPACT, VKMOV (R263 to R265) -/

/-- VMATCH (R263). -/
def execVmatch (d a : BitVec 6) (fn : BitVec 4) : State → Out :=
  crossLane (.vmatch d a fn) ((if fn == 0 then useV d else useK d.toNat) ++ useV a) fun s c st act =>
    let v := s.vreg st a.toNat
    if fn == 0 then
      (s.writeLanes st d.toNat ((lanesOf act).map fun j =>
        (j, BitVec.ofNat 32 (((st.tileOf act j).filter fun x => v x == v j).foldl (fun m x => m + 2 ^ (x % st.tileSize)) 0)))).retire
          c (.vmatch d a fn)
    else
      (s.writeMask c.uid d.toNat act (maskWhere (lanesOf act) fun j =>
        !(st.tileOf act j).any fun x => x < j && v x == v j)).retire c (.vmatch d a fn)

/-- VCOMPACT (R264). -/
def execVcompact (d a b : BitVec 6) (fn : BitVec 4) : State → Out :=
  crossLane (.vcompact d a b fn) (useV d ++ useV a ++ useK b.toNat) fun s c st act =>
    (s.writeLanes st d.toNat ((st.tiles act).flatMap fun l =>
      let picked := (l.filter fun j => (st.kmask b.toNat).getLsbD j).map fun j => s.vreg st a.toNat j
      (l.zipIdx).filterMap fun x => match picked[x.2]? with
        | some v => some (x.1, v)
        | none => if fn == 1 then some (x.1, 0) else none)).retire c (.vcompact d a b fn)

/-- The mask logic of VKMOV fn 2 to 7. -/
def kLogic (fn : Nat) (a b : Bool) : Bool :=
  match fn with
  | 2 => a && b
  | 3 => a || b
  | 4 => a != b
  | 5 => a && !b
  | 6 => a
  | _ => !a

/-- VKMOV (R265). -/
def execVkmov (d a b : BitVec 6) (fn : BitVec 4) : State → Out :=
  let i := Instr.vkmov d a b fn
  let uses := (if fn == 0 then useV d else useK d.toNat) ++ (if fn == 1 then useV a else useK a.toNat) ++
    (if 2 ≤ fn.toNat && fn.toNat ≤ 5 then useK b.toNat else [])
  laneOrRange i uses
    (fun s c st lo n =>
      if fn == 0 then none
      else if fn == 1 then
        if !(st.form a.toNat).uni then none
        else
          let w := (st.form a.toNat).base
          let runs := (spansOf 0 ((List.range n).map fun j => w.getLsbD ((lo + j) % 32 % st.tileSize))).map fun x => (x.2.1, x.2.2)
          if runs.length ≤ 3 then some ((s.writeRuns c.uid d.toNat runs).retire c i) else none
      else
        let runs := runsJoin (runsMap2 (kLogic fn.toNat) 8 (st.krun a.toNat) (if fn.toNat ≤ 5 then st.krun b.toNat else [(n, false)]))
        if runs.length ≤ 3 then some ((s.writeRuns c.uid d.toNat runs).retire c i) else none)
    fun s c st act =>
      if fn == 0 then
        (s.writeLanes st d.toNat ((lanesOf act).map fun j =>
          (j, BitVec.ofNat 32 (((st.tileOf act j).filter fun x => (st.kmask a.toNat).getLsbD x).foldl
            (fun m x => m + 2 ^ (x % st.tileSize)) 0)))).retire c i
      else if fn == 1 then
        (s.writeMask c.uid d.toNat act (maskWhere (lanesOf act) fun j =>
          (s.vreg st a.toNat j).getLsbD (j % st.tileSize))).retire c i
      else
        (s.writeMask c.uid d.toNat act (maskWhere (lanesOf act) fun j =>
          kLogic fn.toNat ((st.kmask a.toNat).getLsbD j) ((st.kmask b.toNat).getLsbD j))).retire c i

/-! ## Form queries (R266 to R269) -/

/-- VINDEX (R266). -/
def execVindex (d : BitVec 6) (fn : BitVec 4) : State → Out :=
  laneOrRange (.vindex d fn) (useV d)
    (fun s c st lo n =>
      let put := fun f : Form => some ((s.writeForm c.uid d.toNat f).retire c (.vindex d fn))
      let within := fun t : Nat => lo / t == (lo + n - 1) / t
      match fn.toNat with
      | 0 => put ⟨BitVec.ofNat 32 lo, 1⟩
      | 1 => if within 32 then put ⟨BitVec.ofNat 32 (lo % 32), 1⟩ else none
      | 2 => if within st.tileSize then put ⟨BitVec.ofNat 32 (lo % st.tileSize), 1⟩ else none
      | _ => if within 32 then put (uniOf (BitVec.ofNat 32 (lo / 32))) else none)
    fun s c st act =>
      let v := fun j : Nat => match fn.toNat with
        | 0 => 32 * st.warp + j
        | 1 => j
        | 2 => j % st.tileSize
        | _ => st.warp
      (s.writeLanes st d.toNat ((lanesOf act).map fun j => (j, BitVec.ofNat 32 (v j)))).retire c (.vindex d fn)

/-- Inverse of an odd word modulo 2^32. -/
def oddInverse (a : Word) : Word := (List.range 5).foldl (fun x _ => x * (2 - a * x)) a

/-- The strides that an arithmetic progression over these lanes could have (R267, R268). -/
def strides (vs : List (Nat × Word)) : List Word :=
  match vs with
  | [] | [_] => []
  | (j0, v0) :: (j1, v1) :: _ =>
    let o := j1 - j0
    let t := ((List.range 5).filter fun k => o % 2 ^ k == 0).getLast?.getD 0
    let dv := (v1 - v0).toNat
    if dv % 2 ^ t != 0 then []
    else
      let base := (BitVec.ofNat 32 (dv / 2 ^ t) * oddInverse (BitVec.ofNat 32 (o / 2 ^ t))).toNat % 2 ^ (32 - t)
      ((List.range (2 ^ t)).map fun k => BitVec.ofNat 32 (base + k * 2 ^ (32 - t))).filter fun d =>
        vs.all fun x => x.2 == v0 + d * BitVec.ofNat 32 (x.1 - j0)

/-- VFORM fn 0 of a lane strand's values, with the stride of VSTRIDE. -/
def laneForm (vs : List (Nat × Word)) : Nat × Word :=
  let v0 := (vs.headD (0, 0)).2
  if vs.all fun x => x.2 == v0 then (0, 0)
  else match (strides vs).filter (· != 0) with
    | [] => (2, 0)
    | d :: r => (1, r.foldl minN d)

/-- VFORM (R267). -/
def execVform (d a : BitVec 6) (fn : BitVec 4) : State → Out :=
  let i := Instr.vform d a fn
  laneOrRange i (useV d ++ (if fn == 0 then useV a else []))
    (fun s c st lo n =>
      let v := match fn.toNat with
        | 0 => if (st.form a.toNat).uni then 0 else 1
        | 1 => lo
        | 2 => n
        | _ => (s.strandsOf st.wg).countP fun x => !x.2.isHandler
      some ((s.writeForm c.uid d.toNat (uniOf (BitVec.ofNat 32 v))).retire c i))
    fun s c st act =>
      let l := lanesOf act
      let v := match fn.toNat with
        | 0 => (laneForm (l.map fun j => (j, s.vreg st a.toNat j))).1
        | 1 => 32 * st.warp + lowLane act
        | 2 => l.length
        | _ => (s.strandsOf st.wg).countP fun x => !x.2.isHandler
      (s.writeLanes st d.toNat (l.map fun j => (j, BitVec.ofNat 32 v))).retire c i

/-- VSTRIDE (R268). -/
def execVstride (d a : BitVec 6) : State → Out :=
  laneOrRange (.vstride d a) (useV d ++ useV a)
    (fun s c st _ _ => some ((s.writeForm c.uid d.toNat (uniOf (st.form a.toNat).stride)).retire c (.vstride d a)))
    fun s c st act =>
      let l := lanesOf act
      let v := (laneForm (l.map fun j => (j, s.vreg st a.toNat j))).2
      (s.writeLanes st d.toNat (l.map fun j => (j, v))).retire c (.vstride d a)

/-- VEXPAND (R269). -/
def execVexpand : State → Out :=
  issue .vexpand (fun _ => []) noExcess fun s c st =>
    match st.kind with
    | .range _ _ =>
      if st.constPred c.pred.toNat == some false then s.retire c .vexpand else s.expandStrand c.uid
    | _ => s.retire c .vexpand

end Sys2Proof.Machine
end

