-- ==== Sys2Proof/Machine/Barrier.lean ====
section
/-! DEFINITION. Barriers (R302 to R305, R385), FENCE (R306), and the exit of threads (R93, R103, R277). -/

namespace Sys2Proof.Machine

/-! ## Instances and generations -/

/-- The scope of a level word (R69). -/
def Grid.scopeOf (g : Grid) (k : Nat) : Nat := (g.levels.getD (k - 2) ⟨1, 0, 0⟩).scope

/-- The scope that a barrier level orders at (R69, R304). -/
def Grid.barScope (g : Grid) (level : Nat) : Nat :=
  match level with
  | 0 | 1 => g.scopeOf 2
  | 2 => (g.bound 1).elim 1 g.scopeOf
  | 3 => (g.bound 2).elim 2 g.scopeOf
  | 4 => g.scopeOf (g.nlev - 1)
  | _ => 5

/-- The count declared for a barrier level (R55, R302). -/
def Header.declared (h : Header) (level : Nat) : Nat :=
  match level with
  | 0 => 16
  | 1 => h.barwg
  | 2 => h.bargang
  | 3 => h.barclus
  | _ => h.bargrid

/-- The barrier instances that a strand's threads belong to (R302, R303): one, but one per warp for a range strand
at the warp level. -/
def State.barKeys (s : State) (st : Strand) (level b : Nat) : List BarKey :=
  let wg := s.wgOf st.wg
  let g := s.gridOf wg.grid
  match level with
  | 0 =>
    match st.kind with
    | .range lo n => (List.range ((lo + n - 1) / 32 + 1 - lo / 32)).map fun i => ⟨0, st.wg, lo / 32 + i, b⟩
    | _ => [⟨0, st.wg, st.warp, b⟩]
  | 1 => [⟨1, st.wg, 0, b⟩]
  | 2 => [⟨2, wg.grid, wg.w / g.hdr.gang, b⟩]
  | 3 => [⟨3, wg.grid, (g.bound 2).elim 0 fun k => g.instanceAt k wg.w, b⟩]
  | 4 => [⟨4, wg.grid, 0, b⟩]
  | _ => [⟨5, 0, 0, b⟩]

/-- The generation of a barrier instance. -/
def State.gen (s : State) (k : BarKey) : Nat := ((s.bars.find? fun x => x.1 == k).map (·.2)).getD 0

/-- Sets the generation of a barrier instance. -/
def State.setGen (s : State) (k : BarKey) (g : Nat) : State := { s with bars := (k, g) :: s.bars.filter fun x => x.1 != k }

/-- The workgroup indices that a barrier instance spans in a grid (R302). -/
def Grid.spans (g : Grid) (k : BarKey) (w : Nat) : Bool :=
  match k.level with
  | 2 => w / g.hdr.gang == k.sub
  | 3 => (g.bound 2).elim true fun l => g.instanceAt l w == k.sub
  | _ => true

/-- Every thread of a strand that belongs to the instance has arrived in the generation. -/
def Strand.hasArrived (st : Strand) (k : BarKey) (gen : Nat) : Bool :=
  st.isHandler ||
    st.arrivals.any fun a => a.key == k && a.gen == gen && (st.spanMask &&& ~~~a.lanes) == 0

/-- A strand has threads in the instance. -/
def State.inInstance (s : State) (st : Strand) (k : BarKey) : Bool :=
  let wg := s.wgOf st.wg
  let g := s.gridOf wg.grid
  !st.isHandler &&
  match k.level with
  | 0 => st.wg == k.owner && (s.barKeys st 0 k.b).any (· == k)
  | 1 => st.wg == k.owner
  | 5 => g.st == .live && k.b < g.hdr.bargrid
  | _ => wg.grid == k.owner && g.spans k wg.w

/-- Every workgroup of the instance has been placed (R103: threads that have not started have not arrived). -/
def State.allPlaced (s : State) (k : BarKey) : Bool :=
  let placed := fun gk : Nat =>
    let g := s.gridOf gk
    (List.range g.nwg).all fun w => !g.spans k w || (tfind g.gangs (w / g.hdr.gang)).isSome
  match k.level with
  | 0 | 1 => true
  | 5 => s.grids.all fun x => !(x.2.st == .live && k.b < x.2.hdr.bargrid) || placed x.1
  | _ => placed k.owner

/-- Every member on this module has arrived in the present generation or has exited (R303). -/
def State.full (s : State) (k : BarKey) : Bool :=
  s.allPlaced k && s.strands.all fun x => !s.inInstance x.2 k || x.2.hasArrived k (s.gen k)

/-- Drops the arrival records of a strand's active threads for some instances. -/
def Strand.clearArrivals (st : Strand) (ks : List BarKey) : Strand :=
  { st with arrivals := st.arrivals.filterMap fun a =>
      if !ks.contains a.key then some a
      else if st.isRange || st.isHandler then none
      else if (a.lanes &&& ~~~st.mask) == 0 then none
      else some { a with lanes := a.lanes &&& ~~~st.mask } }

/-- A generation is complete: it advances and every waiter goes on (R303), and images of workgroups that are out follow
(R87, R90). A completion is an acquire (R304). -/
def State.advanceGen (s : State) (k : BarKey) : State :=
  let s := (s.setGen k (s.gen k + 1)).touchOut
  let dies := (s.strands.filter fun x => s.inInstance x.2 k && 4 ≤ (s.gridAt x.2).barScope k.level).map fun x => dieOf x.2.core
  let s := dies.foldl State.showAll s
  { s with strands := tmap s.strands fun _ st => match st.block with
      | .barrier ks done =>
        let r := ks.filter fun x => x.1 != k
        if r.length == ks.length then st
        else if !r.isEmpty then { st with block := .barrier r done }
        else if done then (st.clearArrivals (s.barKeys st k.level k.b)).complete s.mod.clock
        else { st with block := .none }
      | _ => st }

/-! ## Domain barriers (R305) -/

/-- DBAR.b. -/
def State.dbar (s : State) (b : Nat) : DWord := tget s.fab.dbar b 0
/-- DBAR.EN. -/
def dbarEn (v : DWord) : Bool := v.getLsbD 63
/-- DBAR.ROOT. -/
def dbarRoot (v : DWord) : Nat := (v.extractLsb' 48 8).toNat
/-- DBAR.NMOD. -/
def dbarNmod (v : DWord) : Nat := (v.extractLsb' 40 8).toNat

/-- The identity beat of BARRIER. -/
def barBeat (b gen : Nat) (release : Bool) : Nat := b + gen % 2 * 16 + (if release then 32 else 0)

/-- A BARRIER message. -/
def State.barMsg (s : State) (dest : Nat) (beat : Nat) : Msg :=
  { Msg.none with op := 0x0A, dmod := BitVec.ofNat 8 dest, smod := BitVec.ofNat 8 s.modnum, bytes := 8, data := leBytes 8 beat }

/-- Sends BARRIER on VC6 through a port of die 0. -/
def State.sendBarrier (s : State) (dest beat : Nat) : State :=
  match s.portFor 0 dest 0 with
  | some p => s.sendOn p 6 (s.barMsg dest beat)
  | none => s

/-- ROOT counts an arrival of a module and, with all of them, releases every participant, itself included. -/
def State.rootArrival (s : State) (b genBit m : Nat) : State :=
  let v := s.dbar b
  if s.fab.arrived.contains (b, genBit, m) then s
  else
    let s := s.setFab fun f => { f with arrived := (b, genBit, m) :: f.arrived }
    if (s.fab.arrived.filter fun x => x.1 == b && x.2.1 == genBit).length ≤ dbarNmod v then s
    else
      let s := s.setFab fun f => { f with arrived := f.arrived.filter fun x => !(x.1 == b && x.2.1 == genBit) }
      let s := (List.range (dbarNmod v + 1)).foldl (fun t i =>
        if dbarRoot v + i == t.modnum then t else t.sendBarrier (dbarRoot v + i) (barBeat b genBit true)) s
      if s.gen ⟨5, 0, 0, b⟩ % 2 == genBit then s.advanceGen ⟨5, 0, 0, b⟩ else s

/-- The module's arrival at a domain barrier, once per generation. -/
def State.domainArrival (s : State) (k : BarKey) : State :=
  let g := s.gen k
  let sent : BarKey := ⟨6, 0, 0, k.b⟩
  if s.gen sent == g + 1 then s
  else
    let s := s.setGen sent (g + 1)
    let root := dbarRoot (s.dbar k.b)
    if root == s.modnum then s.rootArrival k.b (g % 2) s.modnum else s.sendBarrier root (barBeat k.b (g % 2) false)

/-- Completes a generation whose members have all arrived or exited (R303, R305). -/
def State.tryComplete (s : State) (k : BarKey) : State :=
  if !s.full k then s else if k.level == 5 then s.domainArrival k else s.advanceGen k

/-- The module arrives at every domain barrier that a grid of it declares and whose members have all arrived or exited,
whether or not one that arrived is left (R103, R277, R305). -/
def State.checkDomain (s : State) : State :=
  (s.fab.dbar.filter fun d => dbarEn d.2 && s.grids.any fun g => g.2.st == .live && decide (d.1 < g.2.hdr.bargrid)).foldl
    (fun t d => t.tryComplete ⟨5, 0, 0, d.1⟩) s

/-- Looks at every barrier in whose present generation some thread has arrived (R277, R303: an exit completes a
generation as an arrival does), and at the domain barriers. -/
def State.checkBarriers (s : State) : State :=
  let ks := (s.strands.flatMap fun x => x.2.arrivals.filterMap fun a => if a.gen == s.gen a.key then some a.key else none)
  (ks.eraseDups.foldl State.tryComplete s).checkDomain

/-! ## BARA, BARW, BARS (R302, R303, R385) -/

/-- The instances in whose present generation some active thread of the strand has arrived. -/
def State.pendingAt (s : State) (st : Strand) (ks : List BarKey) : List (BarKey × Nat) :=
  ks.filterMap fun k =>
    if st.arrivals.any fun a =>
        a.key == k && a.gen == s.gen k && (a.lanes &&& (if st.isLane then st.mask else st.spanMask)) != 0 then
      some (k, s.gen k)
    else none

/-- The threads of a strand arrive (R303). -/
def State.arriveAt (s : State) (u : Nat) (ks : List BarKey) : State :=
  let s := s.updStrand u fun x =>
    let y := x.clearArrivals ks
    let m := if x.isLane then x.mask else BitVec.allOnes 32
    { y with arrivals := ks.foldl (fun l k =>
        if l.any fun a => a.key == k && a.gen == s.gen k then
          l.map fun a => if a.key == k && a.gen == s.gen k then { a with lanes := a.lanes ||| m } else a
        else l ++ [⟨k, s.gen k, m⟩]) y.arrivals }
  ks.foldl State.tryComplete s

/-- A lane strand that would block gives way to deferred lanes, once per generation (R385). -/
def State.giveWay (s : State) (c : Issue) (st : Strand) (waits : List (BarKey × Nat)) : Option State :=
  match st.div with
  | e :: r =>
    if e.kind == 1 && e.maskA != 0 && st.isLane && !(waits.all fun w => st.gaveWay.contains w) then
      let back := { e with
        maskA := st.mask, pc := c.pc.extractLsb' 0 48, clause := st.clause, barw := true, ret := st.ret, frames := st.frames }
      some (s.updStrand c.uid fun x =>
        { x with
          kind := .lane st.warp e.maskA, div := back :: r, pc := pc48 e.pc, clause := e.clause, asBarw := e.barw
          ret := e.ret, frames := e.frames, block := .none, gaveWay := (x.gaveWay.filter fun w => w.2 == s.gen w.1) ++ waits })
    else none
  | [] => none

/-- The wait of a barrier (R303): blocks while a thread's generation is the present one, then clears the records. -/
def State.barWait (s : State) (c : Issue) (i : Instr) (ks : List BarKey) : State :=
  match tfind s.strands c.uid with
  | none => s
  | some st =>
    match s.pendingAt st ks with
    | [] => (s.updStrand c.uid fun x => x.clearArrivals ks).retire c i
    | waits =>
      match s.giveWay c st waits with
      | some t => t
      | none => s.wait c (.barrier waits true)

/-- The barrier number beyond its declared count (R185, R302). -/
def barExcess (level b : Nat) (s : State) (st : Strand) : Option Nat :=
  if (s.gridAt st).hdr.declared level ≤ b then some (0x200 + b) else none

/-- A barrier instruction (R302): arrives, waits, or both; a domain barrier that is not enabled faults (R305). -/
def barrierOp (i : Instr) (level b : Nat) (arrives waits : Bool) : State → Out :=
  issue i (fun _ => []) (barExcess level b) fun s c st =>
    let ks := s.barKeys st level b
    let scope := (s.gridAt st).barScope level
    if level == 5 && !dbarEn (s.dbar b) then s.takeTrap c.uid { cls := 0x17, pc := some c.pc }
    else if st.asBarw then (s.acquireAt st scope).barWait c i ks
    else if !arrives then (s.acquireAt st scope).barWait c i ks
    else match s.pendingAt st ks with
      | [] =>
        let s := (s.releaseSync st scope).arriveAt c.uid ks
        if waits then (s.acquireAt st scope).barWait c i ks else s.retire c i
      | p => s.wait c (.barrier p false)

/-- BARA. -/
def execBara (level : BitVec 3) (b : BitVec 4) : State → Out := barrierOp (.bara level b) level.toNat b.toNat true false
/-- BARW. -/
def execBarw (level : BitVec 3) (b : BitVec 4) : State → Out := barrierOp (.barw level b) level.toNat b.toNat false true
/-- BARS. -/
def execBars (level : BitVec 3) (b : BitVec 4) : State → Out := barrierOp (.bars level b) level.toNat b.toNat true true

/-- FENCE (R306): release, acquire or both at a scope. -/
def execFence (kind : BitVec 2) (scope : BitVec 3) : State → Out :=
  issue (.fence kind scope) (fun _ => []) noExcess fun s c st =>
    let s := if kind.getLsbD 0 then s.releaseAt st scope.toNat else s
    let s := if kind.getLsbD 1 then s.acquireAt st scope.toNat else s
    s.retire c (.fence kind scope)

/-! ## Targets that wait at a VCALLR (R62, R127) -/

/-- The target pair of a VCALLR at a thread. -/
def pairAt (va : Nat) (s : State) (st : Strand) (j : Nat) : DWord := s.vreg st (va + 1) j ++ s.vreg st va j

/-- The target pair of the VCALLR at which a strand waits. -/
def waitingPair (s : State) (st : Strand) (j : Nat) : DWord :=
  match st.clause.bind fun k => decodeWords (k.wordsFrom st.pc) with
  | some (.vcallr va) => pairAt va.toNat s st j
  | _ => 0

/-- A stack whose CALLJOIN entry of the group that waits names the target of some lanes. -/
def partOf (m : BitVec 32) : List DivEntry → List DivEntry
  | [] => []
  | e :: r => if e.kind == 2 then { e with part := 1 + lowLane m } :: r else e :: partOf m r

/-- The lanes of each target of a strand that waits at a VCALLR, in the order of the targets. -/
def State.waitingParts (s : State) (st : Strand) : List (BitVec 32) :=
  (((lanesOf st.mask).map (waitingPair s st)).eraseDups).map fun t =>
    (lanesOf st.mask).foldl (fun m j => if waitingPair s st j == t then m ||| BitVec.ofNat 32 (2 ^ j) else m) 0

/-- The targets of a VCALLR's group that run: those of the strands inside a call, and of those that are about to call. -/
def State.runningParts (s : State) (wg : Nat) (group : BitVec 32) (pc : DWord) : List Nat :=
  ((s.strandsOf wg).filterMap fun x =>
    (x.2.div.find? fun e => e.kind == 2 && e.maskA == group).bind fun e =>
      if x.2.block != .target && (e.depth < x.2.depth || x.2.pc == pc) then some e.part else none).eraseDups

/-- The next target of a strand that waits at a VCALLR starts (R62): its lanes leave the strand, or, where no slot can be had,
run in it while each further target is deferred (R115). -/
def State.nextTarget (s : State) (u : Nat) : State :=
  match tfind s.strands u with
  | none => s
  | some st =>
    let parts := s.waitingParts st
    let m := parts.headD 0
    let stop : AreaStop → State := fun e => match e with
      | .remote ks => s.askAll (.strand u) st.core elemVc ks
      | .ats p => s.areaStop u st.wordPc st (.fault 0x17 (p * 4096) false)
      | e => s.areaStop u st.wordPc st e
    if parts.length ≤ 1 then s.updStrand u fun x => { x with block := .none, div := partOf m x.div }
    else match s.slotFor st.wg false false with
      | some k =>
        let cut := fun t : State =>
          (t.addStrand u { st with kind := .lane st.warp m, block := .none, div := partOf m (st.div.map DivEntry.emptied) } k
            ).updStrand u fun x => { x with kind := .lane st.warp (st.mask &&& ~~~m) }
        match s.areaFor u st ((cut s).spillWrite st) 1 with
        | .error e => stop e
        | .ok (s', fr) => ((cut s').giveFrames ((List.replicate fr.length s'.next).zip fr)).clearAnswers (.strand u)
      | none =>
        let cut := fun t : State => t.updStrand u fun x =>
          { x with
            kind := .lane x.warp m, block := .none
            div := ((parts.drop 1).map fun p => deferEntry 8 p x.pc x.clause x 0xFF) ++ partOf m x.div }
        match s.areaFor u st ((cut s).spillWrite st) 0 with
        | .error e => stop e
        | .ok (s', _) => (cut s').clearAnswers (.strand u)

/-- Threads that wait at a VCALLR go on while fewer than eight targets run (R62). -/
def State.startTargets (s : State) (wg : Nat) : State :=
  ((s.strandsOf wg).filter fun x => x.2.block == .target).foldl (fun t x =>
    match x.2.div.find? fun e => e.kind == 2 with
    | some e => if (t.runningParts wg e.maskA x.2.pc).length < 8 then t.nextTarget x.1 else t
    | none => t) s

/-! ## Exits (R93, R103, R118, R277) -/

/-- The warps and lanes of a strand's active threads. -/
def Strand.lanesByWarp (st : Strand) : List (Nat × BitVec 32) :=
  match st.kind with
  | .lane w m => [(w, m)]
  | .range lo n => (List.range ((lo + n - 1) / 32 + 1 - lo / 32)).map fun i =>
      let w := lo / 32 + i
      (w, BitVec.ofNat 32 ((List.range 32).foldl (fun v j => if lo ≤ 32 * w + j && 32 * w + j < lo + n then v + 2 ^ j else v) 0))
  | .handler => []

/-- The active threads of a strand exit: an open capsule is GONE, pending set-A results are discarded, deferred or
waiting lanes go on, a target that waits at a VCALLR may start, and barriers may complete. The sticky flags of a strand
that ends stay with its workgroup (R173). -/
def State.exitThreads (s : State) (u : Nat) : State :=
  match tfind s.strands u with
  | none => s
  | some st =>
    let s := s.capsMark st 3
    let s := s.updWg st.wg fun g => { g with
      exited := st.lanesByWarp.foldl (fun t x => tset t x.1 (tget t x.1 0 ||| x.2)) g.exited }
    let s := { s with ops := (tmap s.ops fun _ o =>
      if o.holders.contains u && !o.setB then
        { o with res := o.res.filter fun r => !(r.1 < 32 && st.mask.getLsbD r.1), sres := [] } else o) }
    match (if st.isLane then st.afterExit st.div else none) with
    | some x => ((s.updStrand u fun _ => { x with caps := none }).startTargets st.wg).checkBarriers
    | none =>
      let s := s.updWg st.wg fun g => { g with sticky := g.sticky ||| st.sticky, dirty := true }
      (((s.dropStrand u none).dropWarp st.wg st.warp).startTargets st.wg).checkBarriers

end Sys2Proof.Machine
end

