-- ==== Sys2Proof/Machine/Picker.lean ====
section
/-! DEFINITION. Which strands are eligible (R80), and the reason a strand is blocked on (R101). -/

namespace Sys2Proof.Machine

/-- The busy flags that the next clause waits on (R80, R215): whether one is set A, and whether any is busy. -/
def State.waitBusy (s : State) (u : Nat) (st : Strand) : Bool × Bool :=
  match st.clause with
  | none => (false, false)
  | some c =>
    if c.started then (false, false)
    else
      let l := (s.opsOf u).filter fun o => decide (o.2.flag.toNat < 12) && c.wait.getLsbD o.2.flag.toNat
      (l.any fun o => !o.2.setB, !l.isEmpty)

/-- A strand whose core has a closed chunk of its context that is not committed (R203 to R205). -/
def State.chunkHeld (s : State) (st : Strand) : Bool := (s.chunkOf st.core (s.ctxNo st)).any (·.closed)

/-- Another handler of the core started earlier and is resident: handlers run one at a time (R199). -/
def State.handlerBefore (s : State) (u : Nat) (st : Strand) : Bool :=
  s.strands.any fun x => x.1 < u && x.2.isHandler && x.2.core == st.core && s.gangSt x.2.wg == .resident

/-- A strand is eligible (R80). -/
def State.eligible (s : State) (u : Nat) (st : Strand) : Bool :=
  s.gangSt st.wg == .resident && !st.parkedOut && st.block == .none && st.clause.isSome && !(s.waitBusy u st).2 &&
    decide (st.yieldUntil ≤ s.mod.clock) && !s.chunkHeld st && !(st.isHandler && s.handlerBefore u st)

/-- A 48-bit count plus `n`, saturating (R102). -/
def countUp (t : Tab Nat) (k n : Nat) : Tab Nat := if n = 0 then t else tset t k (min (tget t k 0 + n) 0xFFFFFFFFFFFF)

/-- A core's account brought up to a clock: on the clocks that it has not counted yet no strand was resident, which
charges ELIGCNT.0 and reason 0 (R101). -/
def Core.caughtUp (c : Core) (clock : Nat) : Core :=
  { c with
    elig := if c.counting then countUp c.elig 0 (clock - c.upto) else c.elig
    stall := if c.counting then countUp c.stall 0 (clock - c.upto) else c.stall
    upto := max c.upto clock }

/-- The reason of R101 that a strand is blocked on. -/
def State.reason (s : State) (u : Nat) (st : Strand) : Nat :=
  if s.gangSt st.wg != .resident || st.parkedOut then 14
  else match st.block with
    | .join .. => 10
    | .barrier .. => 4
    | .crew _ | .accept => 5
    | .await .. | .capsule _ | .reply => 6
    | .bwait _ => 7
    | .waitpred => 8
    | .sleep _ => 12
    | .acq .. => 11
    | .expand => 9
    | .flags => 1
    | .remote => match st.standing with
      | .launch .. => 2
      | _ => 1
    | .requests => 2
    | .target => 10
    | .ats _ | .parked .. | .ended => 13
    | .emulate .. | .translate _ => 15
    | .none =>
      if s.chunkHeld st then 15
      else if st.clause.isNone then 3
      else if (s.waitBusy u st).1 then 1
      else if (s.waitBusy u st).2 then 2
      else 0

end Sys2Proof.Machine
end

