-- ==== Sys2Proof/Machine/Access.lean ====
section
/-! DEFINITION. Memory accesses of strands: one element for each thread, checked in the order of R140, with the split
at a fault (R128 to R130), requests to other modules (R37), set-A operations (R218) and atomics at the home (R158,
R183, R288). -/

namespace Sys2Proof.Machine

/-- One element of one access: the lane, or on a range strand the logical index, its address and its bytes. -/
structure Touch where
  j : Nat
  addr : DWord
  n : Nat
  deriving DecidableEq, Repr

/-- An element with the result of its checks. -/
abbrev Checked := Touch × Except Bad Place

/-- What one thread of a strand sees. -/
def Strand.viewAt (st : Strand) (j : Nat) : View :=
  { st.view with kind := match st.kind with
      | .range _ _ => .range j 1
      | .lane w _ => .lane w (BitVec.ofNat 32 (2 ^ j))
      | .handler => .handler }

/-- Checks elements in order, noting the misses of the walks; on a range strand up to the first fault (R128, R137). -/
def State.checkAll (die : Nat) (who : Who) (acc : Acc) (stop : Bool) : List Touch → State → State × List Checked
  | [], s => (s, [])
  | t :: r, s =>
    let x := s.resolve die who acc t.addr t.n
    let s := s.noteMiss die who t.addr
    match x with
    | .error b =>
      if stop then (s, [(t, .error b)])
      else
        let q := State.checkAll die who acc stop r s
        (q.1, (t, .error b) :: q.2)
    | .ok p =>
      let q := State.checkAll die who acc stop r s
      (q.1, (t, .ok p) :: q.2)

/-- The fault class of an element, its answer from another module included (R37). -/
def State.faultOf (s : State) (a : Asker) (x : Checked) : Option Nat :=
  match x.2 with
  | .error (.cls c) => some c
  | .error (.ats _) => none
  | .ok (.loc _) | .ok (.sealed _ _) => none
  | .ok (.peer _ _) => ((s.answerTo a x.1.j).bind (·.fault)).map (·.toNat)

/-- The elements that pass. -/
def State.goods (s : State) (a : Asker) (xs : List Checked) : List (Touch × Place) :=
  xs.filterMap fun x => match x.2 with
    | .ok p => if (s.faultOf a x).isSome then none else some (x.1, p)
    | .error _ => none

/-- The elements that fault, with their classes. -/
def State.bads (s : State) (a : Asker) (xs : List Checked) : List (Touch × Nat) :=
  xs.filterMap fun x => (s.faultOf a x).map fun c => (x.1, c)

/-- A class that ends the grid here (R184, R195). -/
def State.ends (s : State) (cls : Nat) : Bool := !kindP cls || (cls == 0x13 && !s.host.fsrEn)

/-- FLAGS.WRITE (R189). -/
def Acc.flag (acc : Acc) : Nat := if acc.writes then 8 else 0

/-- The trap of faulting elements (R188): the class of the lowest thread, MIXED where a class of kind G differs from
another. -/
def State.elemTrap (s : State) (c : Issue) (acc : Acc) (bads : List (Touch × Nat)) (who : Nat × Nat) : Trap :=
  let first := bads.headD (⟨0, 0, 0⟩, 0)
  let fatal := bads.any fun b => s.ends b.2
  { cls := first.2, addr := first.1.addr
    flags := acc.flag + (if fatal && bads.any (fun b => b.2 != first.2) then 0x20 else 0)
    who := some who, pc := some c.pc, fatal := fatal
    elems := bads.map fun b => (b.2, b.1.j, b.1.addr.toNat) }

/-- Asks for the pages of every element that parks (R138, R194). -/
def State.askPages (s : State) (ctx : Nat) (acc : Acc) (bads : List (Touch × Nat)) : State :=
  if bads.any fun b => s.ends b.2 then s
  else bads.foldl (fun t b => t.askPage b.2 ctx (b.1.addr.toNat / 0x10000) (fsKind acc.flag)) s

/-- The lanes of parked elements. -/
def elemLanes (l : List (Nat × Nat × Nat)) : BitVec 32 := BitVec.ofNat 32 ((l.map (·.2.1)).eraseDups.foldl (fun m j => m + 2 ^ j) 0)

/-- Elements of a strand whose faults have not been resolved stay parked when others replay (R195): no record is written
anew. -/
def State.stayParked (s : State) (c : Issue) (st : Strand) (acc : Acc) (v : Nat) (rest : List (Nat × Nat × Nat)) : State :=
  match rest with
  | [] => s
  | e :: _ => s.updStrand v fun x => match x.block with
    | .none => { x with
        block := .parked (BitVec.ofNat 8 e.1) (s.ctxNo st) e.2.2 acc.flag, waitTick := s.mod.tick.toNat
        park := { pc := c.pc, who := some (32 * st.warp + e.2.1, (elemLanes rest).toNat), elems := rest } }
    | .parked .. => { x with park := { x.park with elems := x.park.elems ++ rest } }
    | _ => x

/-- The elements of a lane strand that are still parked (R195). -/
def Strand.stillParked (st : Strand) : List (Nat × Nat × Nat) := if st.isLane then st.park.elems else []

/-- Lanes of a lane strand fault, `bs`, or are still parked: they stay at the instruction (R129), the others go on, also
where no element of theirs has passed; a destination they name is theirs (R218). -/
def State.lanesStay (s : State) (c : Issue) (st : Strand) (i : Instr) (acc : Acc) (good : List (Touch × Place))
    (bs : List (Touch × Nat)) (act : State → List (Touch × Place) → State) : State :=
  let a := Asker.strand c.uid
  let m := bs.foldl (fun m x => m + 2 ^ x.1.j) 0
  match s.splitLanes c st i (BitVec.ofNat 32 m ||| elemLanes st.stillParked) with
  | .error e => s.areaStop c.uid c.pc st e
  | .ok (t, v) =>
    let t := (if v == c.uid && good.isEmpty then t else act t good).clearAnswers a
    let t := t.updStrand c.uid fun x => { x with park := parkNone }
    let t := match bs with
      | [] => t
      | b :: _ => (t.takeTrap v (s.elemTrap c acc bs (32 * st.warp + b.1.j, m))).askPages (s.ctxNo st) acc bs
    t.stayParked c st acc v st.stillParked

/-- What the checked elements of a lane instruction do. `ask` is the request of one that lies in another module; `act`
what the elements that pass do. Nothing acts before every answer is there; a fault first waits for the strand's set-A
flags (R116). A range strand asks for one element at a time, and for none past a fault (R128). -/
def State.laneFinish (s : State) (c : Issue) (st : Strand) (i : Instr) (acc : Acc) (xs : List Checked)
    (ask : Touch → Nat → Nat → Ask) (act : State → List (Touch × Place) → State) : State :=
  let a := Asker.strand c.uid
  let pages := xs.filterMap fun x => match x.2 with
    | .error (.ats p) => some p
    | _ => none
  let ks := xs.filterMap fun x => match x.2 with
    | .ok (.peer m d) => if (s.answerTo a x.1.j).isSome then none else some (ask x.1 m d)
    | _ => none
  match pages, s.bads a xs, ks with
  | p :: _, _, _ => s.wait c (.ats p)
  | [], [], [] =>
    if st.stillParked.isEmpty then ((act s (s.goods a xs)).clearAnswers a).retire c i
    else if s.busyA c.uid then s.wait c .flags
    else s.lanesStay c st i acc (s.goods a xs) [] act
  | [], [], k :: ks => (s.askAll a st.core elemVc (if st.isRange then [k] else k :: ks)).wait c .remote
  | [], b :: bs, ks =>
    let ks := if st.isRange then (ks.filter fun k => k.idx < b.1.j).take 1 else ks
    if s.busyA c.uid then s.wait c .flags
    else if !ks.isEmpty then (s.askAll a st.core elemVc ks).wait c .remote
    else
      let good := s.goods a xs
      match st.kind with
      | .range lo n =>
        let k := b.1.j - lo
        match s.splitRange c st i k with
        | .error e => s.areaStop c.uid c.pc st e
        | .ok (t, v) =>
          let gs := good.filter fun g => g.1.j < b.1.j
          ((if gs.isEmpty then t else act t gs).clearAnswers a).takeTrap v (s.elemTrap c acc [b] (lo + k, n - k))
      | _ => s.lanesStay c st i acc good (b :: bs) act

/-- THE MEMORY ACCESS OF A LANE INSTRUCTION (R128, R129, R140). `ts` are the elements in ascending index. -/
def State.laneAccess (s : State) (c : Issue) (st : Strand) (i : Instr) (acc : Acc) (ts : List Touch)
    (ask : Touch → Nat → Nat → Ask) (act : State → List (Touch × Place) → State) : State :=
  let r := State.checkAll (dieOf st.core) (s.who st) acc st.isRange ts s
  r.1.laneFinish c st i acc r.2 ask act

/-- THE MEMORY ACCESS OF A UNIFORM INSTRUCTION (R281): one element for the whole strand. -/
def State.uniformAccess (s : State) (c : Issue) (st : Strand) (i : Instr) (acc : Acc) (addr : DWord) (n : Nat)
    (ask : Nat → Nat → Ask) (act : State → Place → State) : State :=
  let a := Asker.strand c.uid
  let t : Touch := ⟨0, addr, n⟩
  let x := s.resolve (dieOf st.core) (s.who st) acc addr n
  let s := s.noteMiss (dieOf st.core) (s.who st) addr
  match s.faultOf a (t, x), x with
  | some k, _ =>
    (s.clearAnswers a).takeTrap c.uid
      { cls := k, addr := addr, flags := acc.flag, pc := some c.pc, elems := [(k, 0, addr.toNat)] }
  | none, .error (.ats p) => s.wait c (.ats p)
  | none, .error (.cls _) => s
  | none, .ok (.loc k) => (act s (.loc k)).retire c i
  | none, .ok (.sealed k o) => (act s (.sealed k o)).retire c i
  | none, .ok (.peer m d) =>
    if (s.answerTo a 0).isSome then ((act s (.peer m d)).clearAnswers a).retire c i
    else (s.askAll a st.core elemVc [ask m d]).wait c .remote

/-! ## Requests of elements (R36) -/

/-- READ of one element. -/
def askRead (t : Touch) (m d : Nat) : Ask := ⟨t.j, 1, m, d, t.n, 0, [], []⟩
/-- WRITE of one element. -/
def askWrite (data : Touch → List Byte) (t : Touch) (m d : Nat) : Ask := ⟨t.j, 2, m, d, t.n, 0, data t, []⟩
/-- ATOMIC on one element: the operand, then for CAS the value compared with. -/
def askAtomic (aop : Nat) (data : Touch → List Byte) (t : Touch) (m d : Nat) : Ask :=
  ⟨t.j, 3, m, d, (data t).length, aop, data t, []⟩

/-! ## Data (R282) -/

/-- Bytes of a size code. -/
def szBytes (sz : BitVec 3) : Nat := ([1, 1, 2, 2, 4, 8, 16] : List Nat).getD sz.toNat 4

/-- Registers that a size code fills. -/
def szRegs (sz : BitVec 3) : Nat := if sz == 5 then 2 else if sz == 6 then 4 else 1

/-- The words of loaded bytes: i8 and i16 sign-extended, the others zero-extended. -/
def extend (sz : BitVec 3) (b : List Byte) : List Word :=
  let v := leNat b
  if sz == 1 then [(BitVec.ofNat 8 v).signExtend 32]
  else if sz == 3 then [(BitVec.ofNat 16 v).signExtend 32]
  else (List.range (szRegs sz)).map fun i => BitVec.ofNat 32 (v / 2 ^ (32 * i))

/-- The bytes of consecutive registers. -/
def wordBytes (n : Nat) (ws : List Word) : List Byte := (ws.flatMap fun w => leBytes 4 w.toNat).take n

/-- The data of an element that a thread reads. -/
def State.touchData (s : State) (a : Asker) (v : View) (t : Touch) (p : Place) : List Byte :=
  match p with
  | .loc k => s.view v k t.n
  | .sealed k _ => s.sealedRead (s.gridOf (s.wgOf v.wg).grid).ctx k t.n
  | .peer _ _ => ((s.answerTo a t.j).map (·.data)).getD (List.replicate t.n 0)

/-- A place of the host or of another module. -/
def Place.far (p : Place) : Bool :=
  match p with
  | .loc k => decide (2 ^ 64 ≤ k)
  | .sealed _ _ => false
  | .peer _ _ => true

/-- A value read from the host or from another module is data beats of the core's chunk (R203); in replay mode the
logged value stands in for it (R204). The state and the value. -/
def State.noteBeats (s : State) (v : View) (p : Place) (data : List Byte) : State × List Byte :=
  let ctx := (s.gridOf (s.wgOf v.wg).grid).ctx
  match p.far, s.chunkOf v.core ctx with
  | true, some k =>
    let n := (data.length + 7) / 8
    let data :=
      if (s.ctxOf ctx).replays then
        ((s.ringRead ctx ((s.ctxOf ctx).rpCons.toNat + 16 + 8 * k.beats.length) n).getD data).take data.length
      else data
    let beats := (List.range n).map fun i => BitVec.ofNat 64 (leNat ((data.drop (8 * i)).take 8))
    (s.updCore v.core fun x => { x with chunks := tmod x.chunks ctx fun y => { y with beats := y.beats ++ beats } }, data)
  | _, _ => (s, data)

/-- A set-A operation starts: its flag is busy until its results are delivered (R218), and no instruction of its clause may
name its destination (R186). -/
def State.startOp (s : State) (c : Issue) (st : Strand) (dstV dstS : List Nat) (res : List (Nat × Nat × Word))
    (sres : List (Nat × Word)) (external : Bool) (ahead : Option Ahead) : State :=
  let o : Op :=
    { flag := (st.clause.map (·.setA)).getD 15, setB := false, holders := [c.uid], wg := st.wg, warp := st.warp
      dstV := dstV, dstS := dstS, res := res, sres := sres, external := external, ahead := ahead }
  let dst := dstV.map (fun r => (1, r)) ++ dstS.map (fun r => (2, r))
  let s := s.updStrand c.uid fun x => { x with clause := x.clause.map fun k => { k with dst := k.dst ++ dst } }
  { s.fresh with ops := tset s.ops s.next o }

/-! ## Stores -/

/-- The instruction's stores cover the whole 64-byte granule of a key (R19). -/
def coversGranule (ws : List (Nat × List Byte)) (k : Nat) : Bool :=
  (List.range 64).all fun b => ws.any fun w => w.1 ≤ k / 64 * 64 + b && k / 64 * 64 + b < w.1 + w.2.length

/-- The elements of a store that lie in this module wait for their homes (R154), as the writes of one instruction (R19). -/
def State.storeAll (s : State) (ws : List (View × Place × List Byte)) : State :=
  let plain := ws.filterMap fun w => match w.2.1 with
    | .loc k => some (k, w.2.2)
    | .sealed k _ => some (k, w.2.2)
    | .peer _ _ => none
  ws.foldl (fun t w => match w.2.1 with
    | .loc k => t.addWrite w.1 k w.2.2 (coversGranule plain k) s.home.nextWrite
    | .sealed k o => t.sealedStore w.1.die (t.gridOf (t.wgOf w.1.wg).grid).ctx o k w.2.2 (coversGranule plain k)
    | .peer _ _ => t) s

/-! ## Atomics at the home (R158, R183, R288) -/

/-- The new value of an atomic on `bits` bits: old value, operand, value compared with. -/
def atomNew (aop bits : Nat) (old b cmp : Nat) : Nat :=
  let x := BitVec.ofNat bits old
  let y := BitVec.ofNat bits b
  match aop with
  | 0 => (x + y).toNat
  | 1 => (if x.slt y then x else y).toNat
  | 2 => (if x.slt y then y else x).toNat
  | 3 => min x.toNat y.toNat
  | 4 => max x.toNat y.toNat
  | 5 => (x &&& y).toNat
  | 6 => (x ||| y).toNat
  | 7 => (x ^^^ y).toNat
  | 8 => y.toNat
  | 9 => if old == cmp then y.toNat else old
  | 10 => Fmt.f32.homeAdd old b
  | 11 => Fmt.f32.homePick false old b
  | _ => Fmt.f32.homePick true old b

/-- One atomic on a page of another, confidential context (R63): the state and the old value. -/
def State.atomSealed (s : State) (die ctx k o aop n : Nat) (b cmp : Nat) : State × Nat :=
  let old := leNat (s.sealedRead ctx k n)
  (s.sealedStore die ctx o k (leBytes n (atomNew aop (8 * n) old b cmp)) false, old)

/-- One atomic at its home: the state and the old value. -/
def State.atomAt (s : State) (die k aop n : Nat) (b cmp : Nat) : State × Nat :=
  let old := leNat (mread s.mem k n)
  (s.homeStore die k (leBytes n (atomNew aop (8 * n) old b cmp)) false, old)

end Sys2Proof.Machine
end

