-- ==== Sys2Proof/Machine/LaneMem.lean ====
section
/-! DEFINITION. Lane memory instructions: VLD, VST, VLDC, VPREF (R282 to R285), VLDG (R286), VATOM (R288, R289), VCOPY
(R290), and the batches BSEAL and BWAIT (R291). -/

namespace Sys2Proof.Machine

/-! ## Elements -/

/-- The address pair at a thread. -/
def State.vaddr (s : State) (st : Strand) (va : Nat) (j : Nat) : DWord := s.vreg st (va + 1) j ++ s.vreg st va j

/-- The elements of a lane strand: its active lanes that have not completed (R129) and whose faults are not still to be
resolved (R195). -/
def Strand.laneTouches (st : Strand) (k : Nat) (n : Nat) (addr : Nat → DWord) : List Touch :=
  (lanesOf (st.active k &&& ~~~st.doneLanes &&& ~~~elemLanes st.park.elems)).map fun j => ⟨j, addr j, n⟩

/-- The elements of a range strand, one for each thread that has not completed (R128). -/
def Strand.rangeTouches (st : Strand) (n : Nat) (addr : Nat → DWord) : List Touch :=
  match st.kind with
  | .range lo m => (List.range (m - st.doneCount)).map fun i => ⟨lo + st.doneCount + i, addr (lo + st.doneCount + i), n⟩
  | _ => []

/-- A predicated instruction of a range strand (R112): expands, does nothing, or acts. -/
def State.rangePred (s : State) (c : Issue) (st : Strand) (i : Instr) (k : Nat) (act : State) : State :=
  match st.constPred k with
  | none => s.expandStrand c.uid
  | some false => s.retire c i
  | some true => act

/-! ## Loads (R282 to R284, R286) -/

/-- The loaded words as results of an operation in flight: of a range strand for every thread. With no active lane it sets its
flag all the same (R218). -/
def State.loadAct (c : Issue) (st : Strand) (vd : Nat) (sz : BitVec 3) (ahead : Option Ahead) (s : State)
    (gs : List (Touch × Place)) : State :=
  let got := gs.foldl (fun (r : State × List (Nat × List Byte)) g =>
    let q := r.1.noteBeats (st.viewAt g.1.j) g.2 (s.touchData (.strand c.uid) (st.viewAt g.1.j) g.1 g.2)
    (q.1, r.2 ++ [(g.1.j, q.2)])) (s, [])
  let res := got.2.flatMap fun g =>
    ((extend sz g.2).zipIdx).map fun w => (if st.isRange then 32 else g.1, vd + w.2, w.1)
  got.1.startOp c st ((List.range (szRegs sz)).map (vd + ·)) [] res [] false ahead

/-- A lane load: of a range strand one access where the address is UNI (R113). -/
def laneLoad (i : Instr) (vd va : BitVec 6) (sz : BitVec 3) (more : List Use) (k : Issue → Nat)
    (uni : Strand → Bool) (addr : State → Strand → Nat → DWord) (ahead : Option (BitVec 3 × Nat)) : State → Out :=
  issue i (fun _ => useV vd (szRegs sz) ++ useV va 2 ++ more) noExcess fun s c st =>
    match st.kind with
    | .range lo _ =>
      s.rangePred c st i (k c)
        (if uni st then
          s.laneAccess c st i .read [⟨lo, addr s st lo, szBytes sz⟩] askRead (State.loadAct c st vd.toNat sz none)
        else s.expandStrand c.uid)
    | _ =>
      s.laneAccess c st i .read (st.laneTouches (k c) (szBytes sz) (addr s st)) askRead
        (State.loadAct c st vd.toNat sz (ahead.map fun a => ⟨a.1, a.2, st.active (k c)⟩))

/-- The address of an LM element (R282). -/
def lmAddr (va off : BitVec 6) (n : Nat) (s : State) (st : Strand) (j : Nat) : DWord :=
  s.vaddr st va.toNat j + off.signExtend 64 * BitVec.ofNat 64 n

/-- The address pair of a range strand is UNI. -/
def uniPair (va : BitVec 6) (st : Strand) : Bool := (st.form va.toNat).uni && (st.form (va.toNat + 1)).uni

/-- VLD (R282, R283). -/
def execVld (vd va : BitVec 6) (k sz : BitVec 3) (off : BitVec 6) : State → Out :=
  laneLoad (.vld vd va k sz off) vd va sz (useK k.toNat) (fun _ => k.toNat) (uniPair va) (lmAddr va off (szBytes sz)) none

/-- VLDC (R284): the moment it reads at is its issue. -/
def execVldc (vd va : BitVec 6) (k sz : BitVec 3) (off : BitVec 6) : State → Out :=
  laneLoad (.vldc vd va k sz off) vd va sz (useK k.toNat) (fun _ => k.toNat) (uniPair va) (lmAddr va off (szBytes sz)) none

/-- VLDG (R286): a UNI address is one whose pair and offset are UNI. -/
def execVldg (vd va vb : BitVec 6) (sz : BitVec 3) (scale : BitVec 2) (ahead : BitVec 1) (tag : BitVec 3)
    (win : BitVec 4) (disp : BitVec 16) : State → Out :=
  laneLoad (.vldg vd va vb sz scale ahead tag win disp) vd va sz (useV vb) (fun c => c.pred.toNat)
    (fun st => uniPair va st && (st.form vb.toNat).uni)
    (fun s st j => s.vaddr st va.toNat j + ((s.vreg st vb.toNat j).setWidth 64 <<< scale.toNat) + disp.signExtend 64)
    (if ahead == 1 then some (tag, win.toNat) else none)

/-- VPREF (R285): asks for the translations of the elements that pass their checks, and nothing else. -/
def execVpref (hint va : BitVec 6) (k : BitVec 3) (off : BitVec 6) : State → Out :=
  issue (.vpref hint va k off) (fun _ => useV va 2 ++ useK k.toNat) noExcess fun s c st =>
    let i : Instr := .vpref hint va k off
    let near := fun (t : State) (ts : List Touch) => ts.foldl (fun t x =>
      match t.resolve (dieOf st.core) (t.who st) .read x.addr x.n with
      | .ok _ => t.noteMiss (dieOf st.core) (t.who st) x.addr
      | .error _ => t) t
    match st.kind with
    | .range lo _ =>
      s.rangePred c st i k.toNat
        ((if uniPair va st then near s [⟨lo, lmAddr va off 4 s st lo, 4⟩] else s).retire c i)
    | _ => (near s (st.laneTouches k.toNat 4 (lmAddr va off 4 s st))).retire c i

/-! ## Stores (R282, R283) -/

/-- The bytes a thread stores from consecutive registers. -/
def State.vbytes (s : State) (st : Strand) (vs n j : Nat) : List Byte :=
  wordBytes n ((List.range ((n + 3) / 4)).map fun i => s.vreg st (vs + i) j)

/-- VST: of a range strand one element for each thread in ascending index. -/
def execVst (vs va : BitVec 6) (k sz : BitVec 3) (off : BitVec 6) : State → Out :=
  issue (.vst vs va k sz off) (fun _ => useV va 2 ++ useV vs (szRegs sz) ++ useK k.toNat) noExcess fun s c st =>
    let i : Instr := .vst vs va k sz off
    let n := szBytes sz
    let data := fun t : Touch => s.vbytes st vs.toNat n t.j
    let act := fun (x : State) (gs : List (Touch × Place)) =>
      x.storeAll (gs.map fun g => (st.viewAt g.1.j, g.2, data g.1))
    match st.kind with
    | .range _ _ =>
      s.rangePred c st i k.toNat
        (s.laneAccess c st i .write (st.rangeTouches n (lmAddr va off n s st)) (askWrite data) act)
    | _ => s.laneAccess c st i .write (st.laneTouches k.toNat n (lmAddr va off n s st)) (askWrite data) act

/-! ## VATOM (R288, R289) -/

/-- An atomic that PCI Express has (R47). -/
def hostAtomic (aop : Nat) : Bool := aop == 0 || aop == 8 || aop == 9

/-- The old value of an atomic as words. -/
def oldWords (n old : Nat) : List Word := (List.range (n / 4)).map fun i => BitVec.ofNat 32 (old / 2 ^ (32 * i))

/-- VATOM: the elements act at their homes in ascending index, with nothing between them. -/
def execVatom (vd va vb : BitVec 6) (aop : BitVec 5) (w nr : BitVec 1) (vc : BitVec 6) (disp : BitVec 16) : State → Out :=
  let i : Instr := .vatom vd va vb aop w nr vc disp
  let m := if w == 1 then 2 else 1
  let n := 4 * m
  issue i (fun _ => (if nr == 1 then [] else useV vd m) ++ useV va 2 ++ useV vb m ++ (if aop == 9 then useV vc m else []))
    noExcess fun s c st =>
    let addr := fun j => s.vaddr st va.toNat j + disp.signExtend 64
    let num := fun (r : BitVec 6) (j : Nat) => leNat (s.vbytes st r.toNat n j)
    let data := fun t : Touch =>
      leBytes n (num vb t.j) ++ (if aop == 9 then leBytes n (num vc t.j) else [])
    let act := fun (x : State) (gs : List (Touch × Place)) =>
        let r := gs.foldl (fun (r : State × List (Nat × Nat × Word)) g =>
          let q : State × Nat := match g.2 with
            | .loc key => r.1.atomAt (dieOf st.core) key aop.toNat n (num vb g.1.j) (num vc g.1.j)
            | .sealed key o => r.1.atomSealed (dieOf st.core) (s.ctxNo st) key o aop.toNat n (num vb g.1.j) (num vc g.1.j)
            | .peer _ _ => (r.1, leNat (r.1.touchData (.strand c.uid) (st.viewAt g.1.j) g.1 g.2))
          let b := q.1.noteBeats (st.viewAt g.1.j) g.2 (leBytes n q.2)
          (b.1, r.2 ++ ((oldWords n (leNat b.2)).zipIdx).map fun x => (g.1.j, vd.toNat + x.2, x.1)))
          (x.flushDie (dieOf st.core), [])
        r.1.startOp c st (if nr == 1 then [] else (List.range m).map (vd.toNat + ·)) []
          (if nr == 1 then [] else r.2) [] false none
    let acc := Acc.atomic (hostAtomic aop.toNat)
    match st.kind with
    | .range _ _ =>
      s.rangePred c st i c.pred.toNat
        (if nr == 1 then s.laneAccess c st i acc (st.rangeTouches n addr) (askAtomic aop.toNat data) act
        else s.expandStrand c.uid)
    | _ => s.laneAccess c st i acc (st.laneTouches c.pred.toNat n addr) (askAtomic aop.toNat data) act

/-! ## VCOPY and batches (R149, R290, R291) -/

/-- A fault of the checks of orders 1, 2 and 7, which VCOPY makes at issue. -/
def earlyFault (addr : DWord) (b : Bad) : Option Nat :=
  match b with
  | .cls 0x11 => some 0x11
  | .cls 0x17 => some 0x17
  | .cls 0x10 => if addr.extractLsb' 56 8 == 0 || addr.extractLsb' 56 8 == 0xFF then none else some 0x10
  | _ => none

/-- The early checks of one VCOPY element: the class, the address and whether the destination fails. -/
def State.copyCheck (s : State) (st : Strand) (dst src : DWord) (size valid : Nat) : Option (Nat × DWord × Bool) :=
  let die := dieOf st.core
  let toS : Bool := dst.extractLsb' 56 8 == 1
  let d : Option Nat :=
    match s.resolve die (s.who st) .write dst size with
    | .error (.cls 0x10) => (earlyFault dst (.cls 0x10)) <|> if dst.toNat % size != 0 then some 0x11 else some 0x17
    | .error b => if dst.toNat % size != 0 then some 0x11 else (earlyFault dst b) <|> if toS then none else some 0x17
    | .ok _ => if dst.toNat % size != 0 then some 0x11 else if toS then none else some 0x17
  match d with
  | some k => some (k, dst, true)
  | none =>
    if valid = 0 then none
    else match s.resolve die (s.who st) .read src valid with
      | .error (.cls 0x10) =>
        ((earlyFault src (.cls 0x10)) <|> if src.toNat % size != 0 then some 0x11 else none).map fun k => (k, src, false)
      | .error b => if src.toNat % size != 0 then some (0x11, src, false) else (earlyFault src b).map fun k => (k, src, false)
      | .ok _ => if src.toNat % size != 0 then some (0x11, src, false) else none

/-- The logical index of a lane of a strand; of a range strand the index itself. -/
def Strand.thread (st : Strand) (j : Nat) : Nat :=
  match st.kind with
  | .lane w _ => 32 * w + j
  | _ => j

/-- VCOPY: one copy for each active thread joins its open set. What the die has stored before is at its homes before a copy
writes (R153, R160). -/
def execVcopy (vd va vb : BitVec 6) (logsz : BitVec 3) : State → Out :=
  let i : Instr := .vcopy vd va vb logsz
  let size := 2 ^ logsz.toNat
  issue i (fun _ => useV vd 2 ++ useV va 2 ++ useV vb) noExcess fun s c st =>
    let valid := fun j => min (s.vreg st vb.toNat j).toNat size
    let dst := s.vaddr st vd.toNat
    let check := fun t : Touch => s.copyCheck st (dst t.j) (s.vaddr st va.toNat t.j) size (valid t.j)
    let go := fun ts : List Touch =>
      let bad := ts.filterMap fun t => (check t).map fun b => b
      let xs : List Checked := ts.map fun t => match check t with
        | some b => ({ t with addr := b.2.1 }, .error (.cls b.1))
        | none => (t, .ok (.loc (sKey ((dst t.j).toNat % 2 ^ 56))))
      let acc : Acc := if (bad.headD (0, 0, true)).2.2 then .write else .read
      s.laneFinish c st i acc xs askRead fun x gs =>
        gs.foldl (fun y g => match g.2 with
          | .loc key =>
            let cp : VCp :=
              { wg := st.wg, uid := c.uid, thread := st.thread g.1.j, batch := none, dst := key
                src := s.vaddr st va.toNat g.1.j, size := size, valid := valid g.1.j, pc := c.pc, inst := x.next
                failed := none }
            { y.fresh with copies := tset y.copies y.next cp }
          | _ => y) (x.flushDie (dieOf st.core))
    match st.kind with
    | .range _ _ => s.rangePred c st i c.pred.toNat (go (st.rangeTouches size dst))
    | _ => go (st.laneTouches c.pred.toNat size dst)

/-- A thread of a workgroup belongs to a strand. -/
def Strand.holds (st : Strand) (t : Nat) : Bool :=
  match st.kind with
  | .range lo n => decide (lo ≤ t) && decide (t < lo + n)
  | .lane w m => decide (t / 32 = w) && m.getLsbD (t % 32)
  | .handler => false

/-- A thread belongs to a strand, or to a part of its lanes that is deferred (R116). -/
def Strand.holdsAny (st : Strand) (t : Nat) : Bool :=
  st.holds t || (match st.kind with
    | .lane w _ => decide (t / 32 = w) && st.allLanes.getLsbD (t % 32)
    | _ => false)

/-- BSEAL (R291): the open set of every thread of the strand moves into the batch. -/
def execBseal (t : BitVec 3) : State → Out :=
  issue (.bseal t) (fun _ => []) noExcess fun s c st =>
    State.retire { s with copies := tmap s.copies fun _ x =>
      if x.wg == st.wg && st.holds x.thread && x.batch.isNone then { x with batch := some t } else x } c (.bseal t)

/-- A batch of some thread of the strand holds a copy (R149). -/
def State.batchBusy (s : State) (st : Strand) (t : BitVec 3) : Bool :=
  s.copies.any fun x => x.2.wg == st.wg && st.holds x.2.thread && x.2.batch == some t

/-- A fault that a strand's wait for a batch reports: one of a copy of its threads (R149, R190, R291). -/
def Strand.inBatch (st : Strand) (t : BitVec 3) (a : AsyncFault) : Bool :=
  a.waitOn.contains (.batch t) && a.threads.any st.holds

/-- BWAIT (R291). -/
def execBwait (t : BitVec 3) : State → Out :=
  issue (.bwait t) (fun _ => []) noExcess fun s c st =>
    if s.batchBusy st t then s.wait c (.bwait t)
    else if st.async.any (st.inBatch t) then s.reportAsync c.uid (st.inBatch t)
    else s.retire c (.bwait t)

end Sys2Proof.Machine
end

