-- ==== Sys2Proof/Machine/UniMem.lean ====
section
/-! DEFINITION. Uniform memory instructions SLD, SST, SLDC (R337), SATOM (R338), the capsule forms of SLD and SST
(R341), and the arrival words AWINIT and AWAIT (R292, R293). -/

namespace Sys2Proof.Machine

/-! ## SLD, SST, SLDC, SATOM -/

/-- The bytes of consecutive uniform registers. -/
def Strand.sbytes (st : Strand) (r n : Nat) : List Byte := wordBytes n ((List.range ((n + 3) / 4)).map fun i => st.sreg (r + i))

/-- Two places have one home (R154, R341): the same memory channel, or the same slice. -/
def State.sameHome (s : State) (k l : Nat) : Bool :=
  if k < 2 ^ 40 && l < 2 ^ 40 then stackOf k == stackOf l && channelOf s.channels k == channelOf s.channels l
  else decide (2 ^ 40 ≤ k) && decide (2 ^ 40 ≤ l) && (k - 2 ^ 40) / 2 ^ 20 == (l - 2 ^ 40) / 2 ^ 20

/-- The capsule violation of the instruction under way. -/
def State.capsTrap (s : State) (c : Issue) : State := s.takeTrap c.uid { cls := 0x23, pc := some c.pc }

/-- A uniform load; inside a capsule it reads at the home, overlaid with the step's own held stores (R341). -/
def uniformLoad (i : Instr) (sd sa : BitVec 6) (sz : BitVec 3) (off : BitVec 9) : State → Out :=
  issue i (fun _ => useS sd (szRegs sz) ++ useS sa 2) noExcess fun s c st =>
    let n := szBytes sz
    let addr := st.dreg sa.toNat + off.signExtend 64 * BitVec.ofNat 64 n
    let dst := (List.range (szRegs sz)).map (sd.toNat + ·)
    let give := fun (x : State) (b : List Byte) =>
      x.startOp c st [] dst [] (((extend sz b).zipIdx).map fun w => (sd.toNat + w.2, w.1)) false none
    match st.caps with
    | none =>
      s.uniformAccess c st i .read addr n (askRead ⟨0, addr, n⟩) fun x p =>
        let b := x.noteBeats st.view p (x.touchData (.strand c.uid) st.view ⟨0, addr, n⟩ p)
        give b.1 b.2
    | some k =>
      let r := s.resolve (dieOf st.core) (s.who st) .read addr n
      let s := s.noteMiss (dieOf st.core) (s.who st) addr
      match r with
      | .ok (.loc key) =>
        if s.sameHome key k.loc then
          let x := s.flushDie (dieOf st.core)
          let m := k.held.foldl (fun m h => mwrite m h.1 h.2) x.mem
          (give x (mread m key n)).retire c i
        else s.capsTrap c
      | .ok _ => s.capsTrap c
      | .error (.ats p) => s.waitAnew c (.ats p)
      | .error (.cls q) => s.takeTrap c.uid { cls := q, addr := addr, pc := some c.pc }

/-- SLD. -/
def execSld (sd sa : BitVec 6) (sz : BitVec 3) (off : BitVec 9) : State → Out := uniformLoad (.sld sd sa sz off) sd sa sz off

/-- SLDC: the moment it reads at is its issue (R284). -/
def execSldc (sd sa : BitVec 6) (sz : BitVec 3) (off : BitVec 9) : State → Out := uniformLoad (.sldc sd sa sz off) sd sa sz off

/-- SST: inside a capsule the store is held until its step commits (R341). -/
def execSst (ss sa : BitVec 6) (sz : BitVec 3) (off : BitVec 9) : State → Out :=
  let i : Instr := .sst ss sa sz off
  issue i (fun _ => useS sa 2 ++ useS ss (szRegs sz)) noExcess fun s c st =>
    let n := szBytes sz
    let addr := st.dreg sa.toNat + off.signExtend 64 * BitVec.ofNat 64 n
    let data := st.sbytes ss.toNat n
    match st.caps with
    | none =>
      s.uniformAccess c st i .write addr n (askWrite (fun _ => data) ⟨0, addr, n⟩) fun x p => x.storeAll [(st.view, p, data)]
    | some k =>
      let r := s.resolve (dieOf st.core) (s.who st) .write addr n
      let s := s.noteMiss (dieOf st.core) (s.who st) addr
      match r with
      | .ok (.loc key) =>
        if s.sameHome key k.loc then
          (s.updStrand c.uid fun x => { x with caps := x.caps.map fun y => { y with held := y.held ++ [(key, data)] } }).retire c i
        else s.capsTrap c
      | .ok _ => s.capsTrap c
      | .error (.ats p) => s.waitAnew c (.ats p)
      | .error (.cls q) => s.takeTrap c.uid { cls := q, addr := addr, flags := 8, pc := some c.pc }

/-- SATOM: VATOM once, with uniform operands (R338). -/
def execSatom (sa sb sc : BitVec 6) (aop : BitVec 5) (w nr : BitVec 1) (cmp : BitVec 6) (disp : BitVec 16) : State → Out :=
  let i : Instr := .satom sa sb sc aop w nr cmp disp
  let m := if w == 1 then 2 else 1
  let n := 4 * m
  issue i (fun _ => (if nr == 1 then [] else useS sc m) ++ useS sa 2 ++ useS sb m ++ (if aop == 9 then useS cmp m else []))
    noExcess fun s c st =>
    let addr := st.dreg sa.toNat + disp.signExtend 64
    let b := st.sbytes sb.toNat n
    let q := st.sbytes cmp.toNat n
    let data := b ++ (if aop == 9 then q else [])
    s.uniformAccess c st i (.atomic (hostAtomic aop.toNat)) addr n (askAtomic aop.toNat (fun _ => data) ⟨0, addr, n⟩) fun x p =>
      let r : State × Nat := match p with
        | .loc key => (x.flushDie (dieOf st.core)).atomAt (dieOf st.core) key aop.toNat n (leNat b) (leNat q)
        | .sealed key o => x.atomSealed (dieOf st.core) (s.ctxNo st) key o aop.toNat n (leNat b) (leNat q)
        | .peer _ _ => (x, leNat (x.touchData (.strand c.uid) st.view ⟨0, addr, n⟩ p))
      let q := r.1.noteBeats st.view p (leBytes n r.2)
      q.1.startOp c st [] (if nr == 1 then [] else (List.range m).map (sc.toNat + ·)) []
        (if nr == 1 then [] else ((oldWords n (leNat q.2)).zipIdx).map fun y => (sc.toNat + y.2, y.1)) false none

/-! ## Arrival words (R292, R293) -/

/-- Order 1 of R140 fails for `n` bytes at an address: no region, or past the end of the region. -/
def State.offRegion (s : State) (st : Strand) (addr : DWord) (n : Nat) : Bool :=
  let a := addr.toNat
  let low := a % 2 ^ 56
  match a / 2 ^ 56 with
  | 0 | 255 => false
  | 1 => decide (2 ^ 30 ≤ low)
  | 2 => decide ((s.gridAt st).paramsz < low + n)
  | 3 => !low.testBit 47 || low % 2 ^ 47 / 2 ^ 30 != 0
  | _ => true

/-- The memory key of an arrival word, or the class of the fault: off its region, misaligned, access, or what its allocation
says (R140, R292). -/
def State.wordAt (s : State) (st : Strand) (acc : Acc) (addr : DWord) : Except Nat Nat :=
  let region := addr.toNat / 2 ^ 56
  if s.offRegion st addr 16 then .error 0x10
  else if addr.toNat % 16 != 0 then .error 0x11
  else if region != 1 then .error 0x17
  else match s.resolve (dieOf st.core) (s.who st) acc addr 16 with
    | .error (.cls c) => .error c
    | .ok (.loc k) => .ok k
    | _ => .error 0x17

/-- The home watches the word at a key: WAITERS reads the strands that wait (R147). Since when, and until when, is log entry
109. -/
def State.watchWord (s : State) (k : Nat) : State :=
  if s.home.words.contains k then s else (s.setHome fun h => { h with words := k :: h.words }).countWaiters k

/-- AWINIT: TARGET and COUNT in one write at the home; GEN and WAITERS stay. -/
def execAwinit (sa sb : BitVec 6) : State → Out :=
  issue (.awinit sa sb) (fun _ => useS sa 2 ++ useS sb) noExcess fun s c st =>
    match s.wordAt st .write (st.dreg sa.toNat) with
    | .error k => s.takeTrap c.uid { cls := k, addr := st.dreg sa.toNat, flags := 8, pc := some c.pc }
    | .ok k =>
      (((s.watchWord k).flushDie (dieOf st.core)).homeStore (dieOf st.core) k
        (leBytes 4 (st.sreg sb.toNat).toNat ++ leBytes 4 0) false).retire c (.awinit sa sb)

/-- A fault that a wait for an arrival word reports (R190). -/
def AsyncFault.onWord (k : Nat) (a : AsyncFault) : Bool := a.waitOn.contains (.word k)

/-- AWAIT (R293). -/
def execAwait (sa sb sc : BitVec 6) : State → Out :=
  issue (.await sa sb sc) (fun _ => useS sc ++ useS sa 2 ++ useS sb) noExcess fun s c st =>
    match s.wordAt st .read (st.dreg sa.toNat) with
    | .error k => s.takeTrap c.uid { cls := k, addr := st.dreg sa.toNat, pc := some c.pc }
    | .ok k =>
      if st.async.any (AsyncFault.onWord k) then s.reportAsync c.uid (AsyncFault.onWord k)
      else
        let s := (s.watchWord k).flushDie (dieOf st.core)
        let g := st.sreg sb.toNat
        if BitVec.ofNat 32 (wordField s.mem k 2) != g then
          ((s.acquireAt st 4).updStrand c.uid fun x => x.setS sc.toNat 0).retire c (.await sa sb sc)
        else
          let d := (st.sreg sc.toNat).toNat
          (s.wait c (.await k g (if d = 0 then none else some (s.mod.tick.toNat + d)) sc)).countWaiters k

end Sys2Proof.Machine
end

