-- ==== Sys2Proof/Machine/Capsules.lean ====
section
/-! DEFINITION. Capsules (R340 to R345): the record at its home, CAPB, the commits of CAPE, and what a descheduled owner
does when it resumes. -/

namespace Sys2Proof.Machine

/-! ## The record (R340) -/

/-- A capsule record. -/
structure CapsRec where
  state : Nat
  token : Nat
  icount : Nat
  wcount : Nat
  step : Nat
  nextpc : Nat
  reply : Nat
  htoken : Nat
  ck : List Word
  deriving DecidableEq, Repr

/-- The record that 64 bytes hold. -/
def CapsRec.ofBytes (b : List Byte) : CapsRec :=
  let w := fun i => leNat ((b.drop (8 * i)).take 8)
  { state := w 0 / 2 ^ 62, token := w 0 % 2 ^ 48
    icount := w 1 / 2 ^ 58, wcount := w 1 / 2 ^ 54 % 16, step := w 1 / 2 ^ 48 % 64, nextpc := w 1 % 2 ^ 48
    reply := w 2, htoken := w 3 % 2 ^ 48
    ck := (List.range 8).map fun i => BitVec.ofNat 32 (leNat ((b.drop (32 + 4 * i)).take 4)) }

/-- The record at a memory key. -/
def capsRead (m : Memory) (k : Nat) : CapsRec := CapsRec.ofBytes (mread m k 64)

/-- The 64 bytes of a record. -/
def CapsRec.bytes (r : CapsRec) : List Byte :=
  leBytes 8 (r.state * 2 ^ 62 + r.token) ++
    leBytes 8 (r.icount * 2 ^ 58 + r.wcount * 2 ^ 54 + r.step * 2 ^ 48 + r.nextpc % 2 ^ 48) ++
    leBytes 8 r.reply ++ leBytes 8 r.htoken ++ r.ck.flatMap fun w => leBytes 4 w.toNat

/-- c0 to c7 (R212): s56 to s63. -/
def Strand.cregs (st : Strand) : List Word := (List.range 8).map fun i => st.sreg (56 + i)

/-- Contenders that wait for a record look again: it has changed (R342). -/
def State.wakeCaps (s : State) (k : Nat) : State :=
  { s with strands := tmap s.strands fun _ x => if x.block == .capsule k then { x with block := .none } else x }

/-- Writes a record, or its first bytes, at its home. -/
def State.capsPut (s : State) (die k : Nat) (b : List Byte) : State := (s.homeStore die k b false).wakeCaps k

/-- Where a record or a reply block lies, or the class of the fault (R342): unmapped, misaligned, then access for what
is neither device memory of this module nor its S-window, then as R140 gives; a device address out of service is order 10. -/
def State.capsPlace (s : State) (st : Strand) (acc : Acc) (addr : DWord) (n : Nat) : Except Nat Nat :=
  let r := s.resolve (dieOf st.core) (s.who st) acc addr n
  if s.offRegion st addr n then .error 0x10
  else if addr.toNat % 64 != 0 then .error 0x11
  else match r with
    | .ok (.loc k) => if k < 2 ^ 41 then .ok k else .error 0x17
    | .ok _ => .error 0x17
    | .error (.ats _) => .error 0x17
    | .error (.cls c) => .error (if c == 0x19 then 0x17 else c)

/-- The reply block of a holder holds DONE with its token (R343). -/
def State.replyOf (s : State) (st : Strand) (c : Caps) : Option (List Word) :=
  match s.resolve (dieOf st.core) (s.who st) .read c.reply 64 with
  | .ok (.loc k) =>
    if leNat (mread s.mem (k + 32) 8) == 2 ^ 63 + c.token.toNat then
      some ((List.range 8).map fun i => BitVec.ofNat 32 (leNat (mread s.mem (k + 4 * i) 4)))
    else none
  | _ => none

/-- An adopter takes back its own c0 to c7 and stands at its own CAPB (R343). -/
def Strand.leaveCapsule (st : Strand) (c : Caps) : Strand :=
  { (st.setSs 56 c.savedC) with
    pc := c.savedPc, clause := c.savedClause, caps := none, block := .none, doneLanes := 0, doneCount := 0 }

/-- The loads of a step that has been given up reach no register any more: the strand's set-A operations are gone. -/
def State.dropLoads (s : State) (u : Nat) : State :=
  { s with ops := (tmap s.ops fun _ o =>
      if o.setB then o else { o with holders := o.holders.filter (· != u) }).filter fun o => o.2.setB || !o.2.holders.isEmpty }

/-- A displaced holder whose reply is there loads it and goes on at its exit address; an acquire (R343). -/
def State.takeReply (s : State) (u : Nat) : State :=
  match tfind s.strands u with
  | none => s
  | some st =>
    match st.caps with
    | none => s
    | some c =>
      match s.replyOf st c with
      | none => s
      | some ws =>
        (s.acquireAt st 4).updStrand u fun x => ((x.setSs 56 ws).jump c.exit s.mod.clock |> fun y => { y with caps := none })

/-- A REJECTED COMMIT (R343): an adopter re-issues its CAPB; a holder waits for its reply. -/
def State.rejected (s : State) (u : Nat) : State :=
  match tfind s.strands u with
  | none => s
  | some st =>
    match st.caps with
    | none => s
    | some c =>
      let s := s.dropLoads u
      if c.adopter then s.updStrand u fun x => x.leaveCapsule c
      else (s.updStrand u fun x => { x with block := .reply, waitTick := s.mod.tick.toNat }).takeReply u

/-- Holders whose reply has arrived go on. -/
def State.takeReplies (s : State) : State :=
  s.strands.foldl (fun t x => if x.2.block == .reply then t.takeReply x.1 else t) s

/-! ## CAPB (R342) -/

/-- The token of a strand: context, core, slot, and the epoch its core has just advanced to (R340). -/
def State.tokenOf (s : State) (st : Strand) : BitVec 48 :=
  BitVec.ofNat 8 (s.ctxNo st) ++ (BitVec.ofNat 10 st.core ++ (BitVec.ofNat 9 st.slot ++ (tget s.cores st.core coreReset).epoch))

/-- The loop of CAPB, one action at the home: `k` the record, `r` the reply block. A strand that looks again has been
waiting since it first blocked (R187). -/
def State.capsEnter (s : State) (c : Issue) (st : Strand) (i : Instr) (sa sb sc : BitVec 6) (k r : Nat) : State :=
  let die := dieOf st.core
  let s := s.flushDie die
  let o := capsRead s.mem k
  if o.state == 1 then
    s.updStrand c.uid fun y => { y with
      block := .capsule k, doneCount := 1, waitTick := if y.doneCount = 1 then y.waitTick else s.mod.tick.toNat }
  else
    let s := s.updCore st.core fun x => { x with epoch := x.epoch + 1 }
    let tok := s.tokenOf st
    let x : Caps :=
      { record := st.dreg sa.toNat, loc := k, reply := st.dreg sb.toNat, exit := st.dreg sc.toNat, adopter := o.state != 0
        token := tok, steps := 0, icount := 1, wcount := 0, held := [], htoken := tok, replying := false
        savedC := st.cregs, savedPc := c.pc, savedClause := st.clause }
    if o.state == 0 then
      let rec_ : CapsRec :=
        { state := 1, token := tok.toNat, icount := 1, wcount := 0, step := 0, nextpc := (c.pc + 4).toNat
          reply := (st.dreg sb.toNat).toNat, htoken := tok.toNat, ck := st.cregs }
      let s := (s.capsPut die k rec_.bytes).homeStore die (r + 32) (leBytes 8 0) false
      ((s.acquireAt st 4).updStrand c.uid fun y => { y with caps := some x }).retire c i
    else
      let s := s.capsPut die k (leBytes 8 (2 ^ 62 + tok.toNat))
      let x := { x with
        reply := BitVec.ofNat 64 o.reply, steps := o.step, icount := o.icount, wcount := o.wcount
        htoken := BitVec.ofNat 48 o.htoken }
      (s.acquireAt st 4).updStrand c.uid fun y =>
        { ((y.setSs 56 o.ck).jump (BitVec.ofNat 64 o.nextpc) s.mod.clock) with caps := some x }

/-- CAPB (R342). -/
def execCapb (sa sb sc : BitVec 6) : State → Out :=
  let i : Instr := .capb sa sb sc
  issue i (fun _ => useS sa 2 ++ useS sb 2 ++ useS sc 2) noExcess fun s c st =>
    let at_ := s.capsPlace st (.atomic true) (st.dreg sa.toNat) 64
    let s := s.noteMiss (dieOf st.core) (s.who st) (st.dreg sa.toNat)
    match at_ with
    | .error k => s.takeTrap c.uid { cls := k, addr := st.dreg sa.toNat, flags := 8, pc := some c.pc }
    | .ok k =>
      let to_ := s.capsPlace st .write (st.dreg sb.toNat) 8
      let s := s.noteMiss (dieOf st.core) (s.who st) (st.dreg sb.toNat)
      match to_ with
      | .error q => s.takeTrap c.uid { cls := q, addr := st.dreg sb.toNat, flags := 8, pc := some c.pc }
      | .ok r => s.capsEnter c st i sa sb sc k r

/-! ## CAPE (R343) -/

/-- An adopter writes the first holder's reply, takes back its c0 to c7 and re-issues its CAPB; a fault of the write is
raised at the CAPE, and the commit stands. -/
def State.giveReply (s : State) (c : Issue) (st : Strand) (x : Caps) : State :=
  let to_ := s.capsPlace st .write x.reply 64
  let s := s.noteMiss (dieOf st.core) (s.who st) x.reply
  match to_ with
  | .error k =>
    (s.updStrand c.uid fun y => { y with caps := some { x with replying := true, icount := x.icount - 1 } }).takeTrap c.uid
      { cls := k, addr := x.reply, flags := 8, pc := some c.pc }
  | .ok r =>
    let die := dieOf st.core
    let s := s.homeStore die r (st.cregs.flatMap fun w => leBytes 4 w.toNat) false
    let s := s.homeStore die (r + 32) (leBytes 8 (2 ^ 63 + x.htoken.toNat)) false
    (s.updStrand c.uid fun y => y.leaveCapsule x).takeReplies

/-- A commit (R343): accepted only where the record names the strand and its step. A record in a slice whose owner is out is
not at its home: the commit is an access that waits for the restore (R145). -/
def State.capsCommit (s : State) (c : Issue) (st : Strand) (i : Instr) (x : Caps) (last : Bool) : State :=
  let die := dieOf st.core
  let s := s.flushDie die
  let o := capsRead s.mem x.loc
  if x.replying then s.giveReply c st x
  else if s.capsPlace st (.atomic true) x.record 64 == .error 0x18 then
    s.takeTrap c.uid { cls := 0x18, addr := x.record, flags := 8, pc := some c.pc }
  else if o.state != 1 || o.token != x.token.toNat || o.step != x.steps then s.rejected c.uid
  else
    let s := x.held.foldl (fun t h => t.homeStore die h.1 h.2 false) s
    let w := x.wcount + x.held.length
    let n : CapsRec := { o with
      state := if last then 0 else 1, token := if last then 0 else o.token
      icount := x.icount, wcount := w, step := o.step + 1, nextpc := (c.pc + 4).toNat, ck := st.cregs }
    let s := s.capsPut die x.loc n.bytes
    if !last then
      (s.updStrand c.uid fun y => { y with caps := some { x with steps := x.steps + 1, wcount := w, held := [] } }).retire c i
    else if x.adopter then s.giveReply c st x
    else (s.updStrand c.uid fun y => { y with caps := none }).retire c i

/-- The commit of the strand under way. -/
def capeOp (i : Instr) (last : Bool) : State → Out :=
  issue i (fun _ => []) noExcess fun s c st =>
    match st.caps with
    | none => s.capsTrap c
    | some x => s.capsCommit c st i x last

/-- CAPE with E = 0. -/
def execCapeStep : State → Out := capeOp .capeStep false

/-- CAPE with E = 1. -/
def execCapeEnd : State → Out := capeOp .capeEnd true

/-! ## An owner resumes (R344, R345) -/

/-- Reclaim: STATE 2 with the strand's own token becomes 1, and the step starts again from the checkpoint; another
token acts as a rejected commit. It acts at the record's home, which may be an image (R87). -/
def State.reclaim (s : State) (u : Nat) : State :=
  match tfind s.strands u with
  | none => s
  | some st =>
    match st.caps with
    | none => s
    | some x =>
      let o := CapsRec.ofBytes (s.homeRead (s.who st) x.loc 64)
      if x.replying || st.block == .reply then s
      else if o.token != x.token.toNat || o.state == 0 then s.rejected u
      else if o.state == 2 then
        let s := ((s.homePut (s.who st) (dieOf st.core) x.loc (leBytes 8 (2 ^ 62 + o.token))).wakeCaps x.loc).dropLoads u
        s.updStrand u fun y =>
          { ((y.setSs 56 o.ck).jump (BitVec.ofNat 64 o.nextpc) s.mod.clock) with
            caps := some { x with steps := o.step, icount := o.icount, wcount := o.wcount, held := [] } }
      else s

/-- A parked strand goes on (R88, R195): its instruction issues again, and an open capsule is reclaimed (R344), of a gang
that is out only when it resumes. -/
def State.unpark (s : State) (u : Nat) : State :=
  let s := s.updStrand u fun x => { x with block := .none, park := parkNone }
  match tfind s.strands u with
  | none => s
  | some st => if s.gangSt st.wg == .resident then s.reclaim u else s

end Sys2Proof.Machine
end

