-- ==== Sys2Proof/Machine/Obuf.lean ====
section
/-! DEFINITION. The reservation records of the operand buffer (R311, R312). -/

namespace Sys2Proof.Machine

/-- A reservation record (R311). -/
structure ObRec where
  v : Bool
  kind : Nat
  fmt : Nat
  lb : Nat
  split : Bool
  layout : Bool
  ns : Nat
  soff : Nat
  len : Nat
  off : Nat
  deriving DecidableEq, Repr

/-- The sixteen bytes of a record as a number, and back. -/
def ObRec.ofNat (x : Nat) : ObRec where
  v := x.testBit 127
  kind := x / 2 ^ 125 % 4
  fmt := x / 2 ^ 122 % 8
  lb := x / 2 ^ 120 % 4
  split := x.testBit 119
  layout := x.testBit 118
  ns := x / 2 ^ 116 % 4
  soff := x / 2 ^ 64 % 2 ^ 32
  len := x / 2 ^ 32 % 2 ^ 32
  off := x % 2 ^ 32

/-- A record as a number (R311). -/
def ObRec.toNat (r : ObRec) : Nat :=
  (if r.v then 2 ^ 127 else 0) + r.kind * 2 ^ 125 + r.fmt * 2 ^ 122 + r.lb * 2 ^ 120 + (if r.split then 2 ^ 119 else 0) +
    (if r.layout then 2 ^ 118 else 0) + r.ns * 2 ^ 116 + r.soff * 2 ^ 64 + r.len * 2 ^ 32 + r.off

/-- Bits of an element of a format (R312). -/
def fmtBits (fmt : Nat) : Nat := if fmt = 2 then 4 else if fmt = 4 || fmt = 5 then 16 else 8

/-- A scaled format. -/
def fmtScaled (fmt : Nat) : Bool := decide (fmt ≤ 2)

/-- SLAB (R312). -/
def slab (fmt : Nat) : Nat := 512 * fmtBits fmt

/-- N of a structured A record. -/
def ObRec.n (r : ObRec) : Nat := 4 * 2 ^ r.ns

/-- RN, the bytes of a row record (R328). -/
def ObRec.rn (r : ObRec) : Nat := 4 + (r.n * fmtBits r.fmt / 8 + 3) / 4 * 4

/-- Bytes of one K block. -/
def ObRec.unit (r : ObRec) : Nat := if r.kind = 3 then 128 * r.rn else slab r.fmt

/-- KB, the K blocks of a record. -/
def ObRec.kb (r : ObRec) : Nat := r.len / r.unit

/-- L, the scale block length. -/
def ObRec.l (r : ObRec) : Nat := 16 * 2 ^ r.lb

/-- NSB, the scale vectors. -/
def ObRec.nsb (r : ObRec) : Nat := if fmtScaled r.fmt && r.kind != 2 then (32 * r.kb + r.l - 1) / r.l else 0

/-- Memory key of the first byte of a workgroup's operand-buffer area. -/
def Wg.obase (w : Wg) : Nat := obKey w.core w.ooff

/-- OBUF of a workgroup. -/
def State.obuf (s : State) (wg : Nat) : Nat := (s.gridOf (s.wgOf wg).grid).hdr.obuf

/-- Memory key of the record of handle `h`; none: the workgroup has no operand buffer. -/
def State.recKey (s : State) (wg h : Nat) : Option Nat :=
  if s.obuf wg < 256 then none else some ((s.wgOf wg).obase + s.obuf wg - 256 + 16 * h)

/-- The record of a handle (R311). -/
def State.obRec (s : State) (wg h : Nat) : ObRec :=
  match s.recKey wg h with
  | none => ObRec.ofNat 0
  | some k => ObRec.ofNat (leNat (mread s.mem k 16))

/-- The member of a workgroup's gang that runs on core `q` of its quad. -/
def State.memberOn (s : State) (wg q : Nat) : Option Nat :=
  let w := s.wgOf wg
  let g := s.gridOf w.grid
  (s.wgs.find? fun x =>
    x.2.grid == w.grid && x.2.w / g.hdr.gang == w.w / g.hdr.gang && x.2.core == quadOf w.core * 4 + q).map (·.1)

/-- The segments that a handle's stream offsets name: data, in quarters for a split B, then scales (R312). -/
def State.obSegs (s : State) (wg : Nat) (r : ObRec) : List (Nat × Nat × Nat) :=
  let w := s.wgOf wg
  let data :=
    if r.kind = 1 && r.split then
      (List.range 4).filterMap fun q => (s.memberOn wg q).map fun m => (q * (r.len / 4), r.len / 4, (s.wgOf m).obase + r.off)
    else [(0, r.len, w.obase + r.off)]
  data ++ [(r.len, 128 * r.nsb, w.obase + r.soff)]

/-- The memory key of a stream offset. -/
def segKey (segs : List (Nat × Nat × Nat)) (o : Nat) : Option Nat :=
  (segs.find? fun g => g.1 ≤ o && o < g.1 + g.2.1).map fun g => g.2.2 + (o - g.1)

end Sys2Proof.Machine
end

