-- ==== Sys2Proof/Machine/Window.lean ====
section
/-! DEFINITION. Reduction windows (R40 to R44, R183) and contributions at the home (R158, R301). -/

namespace Sys2Proof.Machine

/-- Bytes of an element of a type (R40). -/
def redBytes (ty : Nat) : Nat := if ty = 1 then 2 else if ty = 4 then 8 else 4

/-- A reserved type or operation, or a bitwise operation on FP32 or BF16 (R40, R301). -/
def redBad (ty op : Nat) : Bool := 5 ≤ ty || 6 ≤ op || (3 ≤ op && ty ≤ 1)

/-- One contribution applied to an element (R42, R183). -/
def redNew (ty op old v : Nat) : Nat :=
  let f : Fmt := if ty = 1 then .bf16 else .f32
  let n := 8 * redBytes ty
  let x := BitVec.ofNat n old
  let y := BitVec.ofNat n v
  if ty ≤ 1 then
    match op with
    | 0 => f.homeAdd old v
    | 1 => f.homePick false old v
    | _ => f.homePick true old v
  else
    match op with
    | 0 => (x + y).toNat
    | 1 => if ty = 3 then min x.toNat y.toNat else (if x.slt y then x else y).toNat
    | 2 => if ty = 3 then max x.toNat y.toNat else (if x.slt y then y else x).toNat
    | 3 => (x &&& y).toNat
    | 4 => (x ||| y).toNat
    | _ => (x ^^^ y).toNat

/-- Applies a contribution at its home. -/
def State.redApply (s : State) (k ty op : Nat) (v : List Byte) : State :=
  let n := redBytes ty
  s.homeStore (homeDie k) k (leBytes n (redNew ty op (leNat (mread s.mem k n)) (leNat v))) false

/-- How a home answers a contribution (R42). -/
inductive RedReply where
  | ack
  | retry
  | refuse
  deriving DecidableEq, Repr

/-- Changes a window. -/
def State.updWindow (s : State) (w : Nat) (f : Window → Window) : State :=
  s.setFab fun b => { b with windows := tset b.windows w (f (tget b.windows w windowReset)) }

/-- Contributions of a window in the reorder buffer of a port, or of a die's own contributions (R42, R158). -/
def State.heldOf (s : State) (w port : Nat) : Nat :=
  (((s.window w).elems.flatMap fun e => e.2.held).filter fun h => h.1 == port).length

/-- The tick at which the oldest contribution that an element holds was held (R43). -/
def Elem.since (e : Elem) : Nat := (e.held.headD (0, 0, [], 0)).2.2.2

/-- Applies the held contributions that follow, in turn (R42). -/
def redDrain : Nat → State → Nat → Nat → Nat → State
  | 0, s, _, _, _ => s
  | f + 1, s, w, off, k =>
    let win := s.window w
    match tfind win.elems off with
    | none => s
    | some e =>
      match e.held.find? fun h => h.2.1 == e.e with
      | none => s
      | some h =>
        let last := decide (e.e = win.ncontrib)
        let s := (s.redApply k win.ty win.op h.2.2.1).updWindow w fun x => { x with
          elems := tset x.elems off { e with
            e := if last then 0 else e.e + 1, held := e.held.filter fun y => y.2.1 != e.e } }
        if last then s else redDrain f s w off k

/-- A CONTRIBUTION AT THE HOME of a window (R42, R43): `port` is the port it came in on, or 64 plus the die. -/
def State.contribute (s : State) (w port off k seqidx : Nat) (v : List Byte) : State × RedReply :=
  let win := s.window w
  if win.failed then (s, .refuse)
  else if !win.idx then (s.redApply k win.ty win.op v, .ack)
  else
    let e : Elem := tget win.elems off ⟨0, []⟩
    let n := win.ncontrib
    if seqidx = e.e then
      let s := (s.redApply k win.ty win.op v).updWindow w fun x => { x with
        elems := tset x.elems off { e with e := if seqidx = n then 0 else e.e + 1 } }
      (redDrain (e.held.length + 1) s w off k, .ack)
    else if seqidx < e.e || n < seqidx || e.held.any (fun h => h.2.1 == seqidx) then (s, .refuse)
    else if e.e + 4096 ≤ seqidx || 4096 ≤ s.heldOf w port then (s, .retry)
    else
      (s.updWindow w fun x => { x with
        elems := tset x.elems off { e with
          held := e.held ++ [(port, seqidx, v, s.mod.tick.toNat)] } }, .ack)

/-! ## The registers (R40, R46) -/

/-- Element offset of a window's lowest element that holds contributions. -/
def Window.firstHeld (w : Window) : Option Nat := (w.elems.find? fun e => !e.2.held.isEmpty).map (·.1)

/-- Two windows overlap. -/
def Window.meets (x y : Window) : Bool :=
  x.module_ == y.module_ && decide (x.start < y.start + y.bytes) && decide (y.start < x.start + x.bytes)

/-- Settings that leave EN at 0 (R40). -/
def State.windowBad (s : State) (w : Nat) (x : Window) : Bool :=
  redBad x.ty x.op || (x.op == 0 && decide (x.ty ≤ 1) && !x.idx) || decide (16383 < (x.ctl.extractLsb' 40 15).toNat) ||
    s.fab.windows.any fun y => y.1 != w && y.2.en && x.meets y.2

/-- A window's registers take new values: an enabled window starts again, and what it held is discarded. -/
def State.setWindow (s : State) (w : Nat) (x : Window) : State :=
  let old := s.window w
  let s := if !old.en then s else match old.firstHeld with
    | some o => s.canary 0 7 9 w (2 ^ 31 + o / 4)
    | none => s
  let x := if x.en && s.windowBad w x then { x with ctl := x.ctl &&& ~~~(0x8000000000000000 : DWord) } else x
  s.updWindow w fun _ => if old.en then { x with failed := false, elems := [] } else x

/-- A value written to WINBASE. -/
def State.setBase (s : State) (w : Nat) (v : DWord) : State :=
  s.setWindow w { s.window w with base := v &&& 0x00FFFFFFFFFF0000 }

/-- A value written to WINCTL. -/
def State.setCtl (s : State) (w : Nat) (v : DWord) : State := s.setWindow w { s.window w with ctl := v }

/-- A value written to DBAR: EN, ROOT and NMOD. -/
def State.setDbar (s : State) (b : Nat) (v : DWord) : State :=
  s.setFab fun f => { f with dbar := tset f.dbar b (v &&& 0x80FFFF0000000000) }

end Sys2Proof.Machine
end

