-- ==== Sys2Proof/Machine/Engine.lean ====
section
/-! DEFINITION. Engine commands of the stream unit: TCOPY, TCOPYX (R295 to R297), MCOPY (R298), BCOPY (R299), CHAIN
(R300), REDW (R301), and the movement of their data (R294). -/

namespace Sys2Proof.Machine

/-! ## Accesses of an engine -/

/-- Who an engine command acts as: the issuing workgroup (R294). -/
def State.engWho (s : State) (e : Engine) : Who := ⟨(s.gridOf (s.wgOf e.wg).grid).ctx, some e.wg⟩

/-- What an engine's reads see: its die. -/
def Engine.view (e : Engine) : View := ⟨dieOf e.core, e.core, e.wg, .handler⟩

/-- The slice of a gang under save still takes the writes of engine commands that target it (R86 step 4). -/
def State.savingSlice (s : State) (a n : Nat) : Bool :=
  match s.allocAt a n with
  | none => false
  | some x => match tfind (s.gridOf x.grid).gangs (x.w / (s.gridOf x.grid).hdr.gang) with
    | some g => g.st == .saving
    | none => false

/-- The checks of an engine's element (R140, R19). -/
def State.engResolve (s : State) (e : Engine) (acc : Acc) (addr : DWord) (n : Nat) : Except Bad Place :=
  match s.resolve (dieOf e.core) (s.engWho e) acc addr n with
  | .error (.cls 0x18) =>
    if addr.extractLsb' 56 8 == 1 && s.savingSlice (addr.toNat % 2 ^ 56) n then .ok (.loc (sKey (addr.toNat % 2 ^ 56)))
    else .error (.cls 0x18)
  | r => r

/-- Where an engine writes: a key it has checked, or an address. -/
inductive EngDst where
  | key (k : Nat)
  | addr (a : DWord)
  deriving DecidableEq, Repr

/-- The address of a destination, for the record of a fault. -/
def EngDst.at_ : EngDst → DWord
  | .key k => BitVec.ofNat 64 (2 ^ 56 + (k - 2 ^ 40))
  | .addr a => a

/-- How one element of an engine stands. -/
inductive EngGot where
  /-- bytes read, and whether they are poisoned -/
  | data (b : List Byte) (poison : Bool)
  /-- may be written at this place; already written by another module -/
  | place (p : Place)
  | written
  | fault (cls : Nat)
  /-- a fault of kind P, or a host translation awaited -/
  | park (cls : Nat)
  | ask (k : Ask)
  deriving DecidableEq, Repr

/-- How an element that fails a check ends: a fault, or parked; a parked element whose answer was FAIL is a fault. -/
def State.engStop (s : State) (id : Nat) (e : Engine) (cls : Nat) (addr : DWord) : EngGot :=
  if s.ends cls then .fault cls
  else match s.holdFault (.engine id) cls (s.engWho e).ctx (addr.toNat / 0x10000) with
    | some c => .fault c
    | none => .park cls

/-- The scratchpad granule that holds the byte of a key as the command first read it (R161). -/
def State.engSeen (s : State) (id k : Nat) : Option (List Byte) :=
  (tfind s.engines id).bind fun e => tfind e.seen (k / 32)

/-- Bytes that an engine command reads in device memory: a granule of scratchpad that it has read from before is as it was
(R161), but for what the command itself has written (log entry 120). -/
def State.engView (s : State) (id : Nat) (v : View) (k n : Nat) : List Byte :=
  (List.range n).map fun i => match s.engSeen id (k + i) with
    | some b => b.getD ((k + i) % 32) 0
    | none => s.viewByte v (k + i)

/-- One element read. -/
def State.engGet (s : State) (id : Nat) (e : Engine) (idx : Nat) (addr : DWord) (n : Nat) : EngGot :=
  match s.engResolve e .copy addr n with
  | .error (.ats _) => .park 0
  | .error (.cls c) => s.engStop id e c addr
  | .ok (.loc k) => .data (s.engView id e.view k n) (s.poisoned k n)
  | .ok (.sealed k _) => .data (s.sealedRead (s.engWho e).ctx k n) (s.poisoned k n)
  | .ok (.peer m d) =>
    match s.answerTo (.engine id) idx with
    | none => .ask ⟨idx, 1, m, d, n, 0, [], []⟩
    | some a => match a.fault with
      | some 0x1A => .data (a.data ++ List.replicate (n - a.data.length) 0) true
      | some c => .fault c.toNat
      | none => .data a.data false

/-- One element to write. -/
def State.engPut (s : State) (id : Nat) (e : Engine) (idx : Nat) (d : EngDst) (bytes : List Byte) : EngGot :=
  let r := match d with
    | .key k =>
      if 2 ^ 40 ≤ k && k < 2 ^ 41 then s.engResolve e .write (BitVec.ofNat 64 (2 ^ 56 + (k - 2 ^ 40))) bytes.length
      else .ok (.loc k)
    | .addr a => s.engResolve e .write a bytes.length
  match r with
  | .error (.ats _) => .park 0
  | .error (.cls c) => s.engStop id e c d.at_
  | .ok (.loc k) => .place (.loc k)
  | .ok (.sealed k o) => .place (.sealed k o)
  | .ok (.peer m x) =>
    match s.answerTo (.engine id) idx with
    | none => .ask ⟨idx, 2, m, x, bytes.length, 0, bytes, []⟩
    | some a => match a.fault with
      | some c => .fault c.toNat
      | none => .written

/-- Stores a run at its homes: it clears the poison of the granules that it covers whole (R19). -/
def State.homeRun (s : State) (die k : Nat) (bytes : List Byte) : State :=
  (piecesOf k bytes.length).foldl (fun t p => t.homeStore die p.1 ((bytes.drop (p.1 - k)).take p.2) (p.2 == 64)) s

/-- The engine keeps the first fault of kind G it meets (R190). -/
def State.engFault (s : State) (id cls : Nat) (addr : DWord) (write : Bool) : State :=
  { s with engines := tmod s.engines id fun e =>
      if e.failed.isSome then e else { e with failed := some (cls, addr, write) } }

/-- An element that parks asks its resolver (R184, R194, R138). -/
def State.engPark (s : State) (id : Nat) (e : Engine) (cls : Nat) (addr : DWord) (write : Bool) : State :=
  let ctx := (s.engWho e).ctx
  let page := addr.toNat / 0x10000
  (if cls = 0x12 || cls = 0x13 || cls = 0x19 then s.hold (.engine id) cls ctx page else s).askPage cls ctx page (if write then 1 else 0)

/-- An element of an asker that overflowed the miss queue of a die waits until the queue holds fewer than 2,048 (R137). -/
def State.overflowHeld (s : State) (a : Asker) (die : Nat) : Bool :=
  (s.host.holds.any fun h => h.asker == a && h.cls == 0x12) && decide (2048 ≤ (tget s.home.misses die []).length)

/-- The granules of 32 bytes that a run touches. -/
def granules32 (k n : Nat) : List Nat := (List.range ((k + n + 31) / 32 - k / 32)).map (k / 32 + ·)

/-- What an engine is about to read is whole (R161): each scratchpad granule is read as a whole the first time, when every
write of a die that has one to the granule waiting for its home is applied, with what precedes it (R153 to R155), and the
engine's die sees it (log entry 120). -/
def State.engSees (s : State) (id : Nat) (e : Engine) (addrs : List (DWord × Nat)) : State :=
  let gs := (addrs.flatMap fun a => match s.engResolve e .copy a.1 a.2 with
    | .ok (.loc k) => if 2 ^ 40 ≤ k && k < 2 ^ 41 then granules32 k a.2 else []
    | _ => []).eraseDups.filter fun g => (s.engSeen id (32 * g)).isNone
  if gs.isEmpty then s
  else
    let dies := (s.home.writes.filter fun w =>
      gs.any fun g => 32 * g < w.2.loc + w.2.bytes.length && w.2.loc < 32 * g + 32).map (·.2.die)
    let s := (s.applyAll fun w => dies.contains w.die).showAll (dieOf e.core)
    { s with engines := tmod s.engines id fun x =>
        { x with seen := gs.foldl (fun l g => tset l g (s.view e.view (32 * g) 32)) x.seen } }

/-- What a command has read of scratchpad follows what it has written (R300). -/
def State.engWrote (s : State) (id : Nat) (ws : List (Nat × List Byte)) : State :=
  { s with engines := tmod s.engines id fun x =>
      { x with seen := tmap x.seen fun g l => l.mapIdx fun i b =>
          if ws.any fun w => w.1 ≤ 32 * g + i && 32 * g + i < w.1 + w.2.length then mget s.mem (32 * g + i) else b } }

/-- Sends the requests of elements that have none. -/
def State.engAsk (s : State) (id : Nat) (e : Engine) (gs : List EngGot) : State :=
  s.askAll (.engine id) e.core bulkVc (gs.filterMap fun g => match g with
    | .ask k => some k
    | _ => none)

/-- Parks what parks; none where nothing does. -/
def State.engHold (s : State) (id : Nat) (e : Engine) (gs : List (EngGot × DWord)) (write : Bool) : Option State :=
  let parks := gs.filterMap fun g => match g.1 with
    | .park c => some (c, g.2)
    | _ => none
  if !parks.isEmpty then some (parks.foldl (fun t p => t.engPark id e p.1 p.2 write) s)
  else if gs.any (fun g => match g.1 with
    | .ask _ => true
    | _ => false) then some (s.engAsk id e (gs.map (·.1)))
  else none

/-- ONE MOVEMENT OF AN ENGINE: reads elements, makes the writes from what was read, writes them at their homes, and goes
on. Nothing is written before every element is there; elements that fault are left out (R294). `idx` numbers the
elements; `fin` takes what was read and whether every element passed. -/
def State.engMove (s : State) (id : Nat) (e : Engine) (idx : Nat) (reads : List (DWord × Nat))
    (mk : List Unit16 → List (EngDst × List Byte × Bool)) (fin : State → List Unit16 → Bool → State) : State :=
  let s := (reads.map (·.1)).foldl (fun t a => t.noteMiss (dieOf e.core) (t.engWho e) a) (s.engSees id e reads)
  let got := (reads.zipIdx).map fun r => (s.engGet id e (idx + r.2) r.1.1 r.1.2, r.1.1)
  match s.engHold id e got false with
  | some t => t
  | none =>
    let units : List Unit16 := got.map fun g => match g.1 with
      | .data b p => some (b, p)
      | _ => none
    let ws := mk units
    let s := (ws.map (·.1.at_)).foldl (fun t a => t.noteMiss (dieOf e.core) (t.engWho e) a) s
    let put := (ws.zipIdx).map fun w => (s.engPut id e (idx + reads.length + w.2) w.1.1 w.1.2.1, w.1)
    match s.engHold id e (put.map fun p => (p.1, p.2.1.at_)) true with
    | some t => t
    | none =>
      let plain := put.filterMap fun p => match p.1 with
        | .place (.loc k) => some (k, p.2.2.1)
        | .place (.sealed k _) => some (k, p.2.2.1)
        | _ => none
      let s := got.foldl (fun t g => match g.1 with
        | .fault c => t.engFault id c g.2 false
        | _ => t) s
      let s := put.foldl (fun t p => match p.1 with
        | .fault c => t.engFault id c p.2.1.at_ true
        | .place (.loc k) =>
          t.homeStore (dieOf e.core) k p.2.2.1 (coversGranule plain k)
        | .place (.sealed k o) => t.sealedStore (dieOf e.core) (t.engWho e).ctx o k p.2.2.1 (coversGranule plain k)
        | _ => t) s
      let s := put.foldl (fun t p => match p.1 with
        | .place (.loc k) => if p.2.2.2 then t.poisonAt k p.2.2.1.length else t
        | .place (.sealed k _) => if p.2.2.2 then t.poisonAt k p.2.2.1.length else t
        | _ => t) s
      let s := s.engWrote id plain
      let bad : List EngGot → Bool := fun l => l.any fun g => match g with
        | .fault _ => true
        | _ => false
      fin s units (!bad (got.map (·.1)) && !bad (put.map (·.1)))

/-- An asynchronous fault reaches the issuing strand, which reports it when it waits (R190); a strand already blocked in
that wait looks again. -/
def State.postAsync (s : State) (uid : Nat) (a : AsyncFault) : State :=
  s.updStrand uid fun st =>
    let st := { st with async := st.async ++ [a] }
    match st.block with
    | .await k _ _ _ => if a.waitOn.contains (.word k) then { st with block := .none } else st
    | _ => st

/-- An engine command is over: its flag is idle, also in an image (R87), and its fault, if any, is posted to every strand that holds the flag: its
issuer, or what splits and merges have made of it (R116, R190, R294). -/
def State.engDone (s : State) (id : Nat) : State :=
  match tfind s.engines id with
  | none => s
  | some e =>
    let holders := ((tfind s.ops e.op).map (·.holders)).getD []
    let s := ((({ s with engines := tdel s.engines id, ops := tdel s.ops e.op }).clearAnswers (.engine id)).forgetHolds
      (.engine id)).touchOut
    match e.failed with
    | none => s
    | some (cls, addr, w) =>
      let words : List WaitOn := match e.kind with
        | .mcopy _ _ ts _ _ => ts.filterMap fun t => t.2.map .word
        | _ => match e.arr with
          | some k => [.word k]
          | none => []
      holders.foldl (fun t u => t.postAsync u
        { waitOn := .flag e.flag :: words, id := id, by_ := e.uid, quiet := false, cls := BitVec.ofNat 8 cls, pc := e.pc, addr := addr
          first := e.names.1, sufn := e.names.2, write := w }) s

/-- The engine goes on to its next row. -/
def State.engNext (s : State) (id : Nat) : State :=
  (({ s with engines := tmod s.engines id fun e => { e with next := e.next + 1 } }).clearAnswers (.engine id)).forgetHolds
    (.engine id)

/-! ## TCOPY and TCOPYX: one row (R296) -/

/-- AN ARRIVAL of `b` bytes at the word an engine command named: where every owner of the word that admits the command is
out, the word of its image takes it; a gang that never comes back takes none (R87, R148, R191). -/
def State.arriveWord (s : State) (who : Who) (die k b : Nat) : State :=
  match (s.allocsAt (k - 2 ^ 40) 16).filter fun a => s.admits who false a with
  | [] => s.arrive die k b
  | a :: r =>
    let g := s.gridOf a.grid
    let st := ((tfind g.gangs (a.w / g.hdr.gang)).map (·.st)).getD .out
    if !((a :: r).all s.ownerOut) || (st != .out && st != .dead) then s.arrive die k b
    else if st == .dead then s
    else
      let off := (k - 2 ^ 40) % 2 ^ 20 - a.off
      let w := ((s.wgOf a.wg).kept.drop off).take 16
      let target := leNat (w.take 4)
      if target = 0 then s
      else
        let total := leNat ((w.drop 4).take 4) + b
        let gen := (leNat ((w.drop 8).take 4) + total / target) % 2 ^ 32
        s.updWg a.wg fun y => y.keep (off + 4) (leBytes 4 (total % target) ++ leBytes 4 gen)

/-- One row of a tile copy. -/
def State.tcopyRow (s : State) (id : Nat) (e : Engine) (src : DWord) (segs : List (Nat × Nat × Nat))
    (base e0 e1 e2 ds1 ds2 ds3 : Nat) (ss1 ss2 ss3 : Int) (mode : Nat) : State :=
  let i1 := e.next % e1
  let i2 := e.next / e1 % e2
  let i3 := e.next / e1 / e2
  let from_ := src + BitVec.ofInt 64 (ss1 * i1 + ss2 * i2 + ss3 * i3)
  let to_ := base + 16 * (ds1 * i1 + ds2 * i2 + ds3 * i3)
  s.engMove id e 0 ((List.range (e0 / 16)).map fun u => (from_ + 16 * BitVec.ofNat 64 u, 16))
    (fun us => (us.zipIdx).filterMap fun u => match u.1, segKey segs (to_ + 16 * (u.2 ^^^ (i1 % 2 ^ mode))) with
      | some (b, p), some k => some (.key k, b, p)
      | _, _ => none)
    fun t _ ok =>
      (match e.arr with
        | some k => if ok then t.arriveWord (t.engWho e) (dieOf e.core) k e0 else t
        | none => t).engNext id

/-! ## MCOPY: the source once, then one target after the other (R298) -/

/-- One step of MCOPY. -/
def State.mcopyStep (s : State) (id : Nat) (e : Engine) (src : DWord) (count : Nat)
    (targets : List (List (Nat × Nat × Nat) × Option Nat)) (base : Nat) (data : Option (List Unit16)) : State :=
  match data with
  | none =>
    s.engMove id e 0 ((List.range (count / 16)).map fun u => (src + 16 * BitVec.ofNat 64 u, 16)) (fun _ => [])
      fun t us _ => ({ t with engines := tmod t.engines id fun x => { x with kind := .mcopy src count targets base (some us) } }).clearAnswers
        (.engine id)
  | some us =>
    let (segs, arr) := targets.getD e.next ([], none)
    s.engMove id e 0 [] (fun _ => (us.zipIdx).filterMap fun u => match u.1, segKey segs (base + 16 * u.2) with
        | some d, some k => some (.key k, d.1, d.2)
        | _, _ => none)
      fun t _ ok =>
        (match arr with
          | some w => if ok && us.all Option.isSome then t.arriveWord (t.engWho e) (dieOf e.core) w count else t
          | none => t).engNext id

/-! ## BCOPY (R299) -/

/-- The keys of BCOPY as they were read. -/
def bcopyKeys (us : List Unit16) : List (Option Nat) := us.map fun u => u.map fun d => leNat d.1

/-- Rows with key `k` among the first rows. -/
def countKey (ks : List (Option Nat)) (k : Nat) : Nat := (ks.filter fun x => x == some k).length

/-- Where row `i` goes, in rows from the base; none: it is not copied. -/
def bcopyPos (ks : List (Option Nat)) (nkey i : Nat) : Option Nat :=
  match ks.getD i none with
  | none => none
  | some k =>
    if nkey ≤ k then none
    else some ((ks.filter fun x => match x with
      | some y => decide (y < k)
      | none => false).length + countKey (ks.take i) k)

/-- BCOPY: the keys, then the rows in stable order and the counts. -/
def State.bcopyAll (s : State) (id : Nat) (e : Engine) (rows keys dst counts : DWord) (n rowb nkey : Nat) : State :=
  s.engMove id e 0 ((List.range n).map fun i => (keys + 4 * BitVec.ofNat 64 i, 4)) (fun _ => [])
    fun s us _ =>
      let ks := bcopyKeys us
      let moved := (List.range n).filterMap fun i => (bcopyPos ks nkey i).map fun p => (i, p)
      let cnt := (List.range nkey).map (countKey ks) ++
        [(ks.filter fun x => match x with
          | some y => decide (nkey ≤ y)
          | none => false).length]
      let w := rowb / 4
      s.engMove id e n (moved.flatMap fun m => (List.range w).map fun j =>
          (rows + BitVec.ofNat 64 (rowb * m.1 + 4 * j), 4))
        (fun ds =>
          (ds.zipIdx).filterMap (fun d => d.1.map fun b =>
            (EngDst.addr (dst + BitVec.ofNat 64 (rowb * (moved.getD (d.2 / w) (0, 0)).2 + 4 * (d.2 % w))), b.1, b.2)) ++
          (cnt.zipIdx).map fun c => (EngDst.addr (counts + 4 * BitVec.ofNat 64 c.2), leBytes 4 c.1, false))
        fun t _ _ => t.engNext id

/-! ## CHAIN (R300, R182) -/

/-- One operation of CHAIN over a row of .f32 values. -/
def chainStep (c : Ctl) (op : Nat × Word) (xs : List Nat) : List Nat :=
  let f := Fmt.f32
  let k := op.2.toNat
  match op.1 with
  | 1 => xs.map fun x => (f.add c x k).1
  | 2 => xs.map fun x => (f.mul c x k).1
  | 3 => xs.map fun x => (f.minmax true c x k).1
  | 4 => xs.map fun x => (f.minmax false c x k).1
  | 5 => xs.map fun x => (Sfn.exp2.apply c x).1
  | 6 => xs.map fun x => (Sfn.rcp.apply c x).1
  | 7 => xs.map fun x => (Sfn.rsq.apply c x).1
  | 8 => xs.map fun x => (Sfn.tanh.apply c x).1
  | 9 =>
    let m := (xs.drop 1).foldl (fun m x => (f.minmax true c m x).1) (xs.headD 0)
    xs.map fun x => (f.sub c x m).1
  | 10 =>
    let t := (xs.drop 1).foldl (fun m x => (f.add c m x).1) (xs.headD 0)
    let r := (Sfn.rcp.apply c t).1
    xs.map fun x => (f.mul c x r).1
  | 11 => xs.map fun x => (f.mul c x x).1
  | _ => xs

/-- A row through the whole chain. -/
def chainRow (c : Ctl) (it ot : Nat) (ops : List (Nat × Word)) (xs : List Nat) : List Nat :=
  let ys := ops.foldl (fun l o => chainStep c o l) (xs.map fun x => if it = 1 then (Fmt.bf16.widen false x).1 else x)
  ys.map fun y => if ot = 1 then (Fmt.bf16.narrow c y).1 else y

/-- Bytes of an element type of CHAIN. -/
def chainSize (t : Nat) : Nat := if t = 1 then 2 else 4

/-- What a command reads at `a` where it holds the first half of a word back (log entry 119). -/
def tailOver (tail : Option (DWord × List Byte × Bool)) (a : DWord) (u : Unit16) : Unit16 :=
  match tail, u with
  | some (b, x, p), some (d, q) =>
    let at_ := fun i : Nat => (a + BitVec.ofNat 64 i - b).toNat
    some (d.mapIdx fun i y => x.getD (at_ i) y, q || (p && (List.range d.length).any fun i => decide (at_ i < x.length)))
  | _, _ => u

/-- The writes of a row, and the first half of a 4-byte word whose other half is in the next row: it is written with that
row, so that no lane load finds half of an element's word (R161). -/
def holdHalf (next : DWord) (more : Bool) (ws : List (EngDst × List Byte × Bool)) :
    List (EngDst × List Byte × Bool) × Option (DWord × List Byte × Bool) :=
  match ws.getLast? with
  | some (.addr a, b, p) =>
    if more && b.length == 2 && a + 2 == next && next.toNat % 4 == 2 then (ws.dropLast, some (a, b, p)) else (ws, none)
  | _ => (ws, none)

/-- One row of CHAIN, read whole before any element is written. Where an element cannot be read, the others complete, but for
those of a chain whose every result depends on the whole row (R294). -/
def State.chainStep (s : State) (id : Nat) (e : Engine) (src dst : DWord) (elems it ot : Nat) (ops : List (Nat × Word))
    (rnd : Nat) (ftz : Bool) : State :=
  let n := chainSize it
  let m := chainSize ot
  let across := ops.any fun o => o.1 == 9 || o.1 == 10
  let from_ := fun i : Nat => src + BitVec.ofNat 64 (n * (elems * e.next + i))
  let to_ := fun i : Nat => dst + BitVec.ofNat 64 (m * (elems * e.next + i))
  let row : List Unit16 → List (EngDst × List Byte × Bool) × Option (DWord × List Byte × Bool) := fun us =>
    let us := (us.zipIdx).map fun u => tailOver e.tail (from_ u.2) u.1
    if across && !(us.all Option.isSome) then ([], none)
    else
      let ys := chainRow ⟨rnd, ftz, false⟩ it ot ops (us.map fun u => leNat ((u.map (·.1)).getD []))
      let ps := us.map fun u => (u.map (·.2)).getD false
      holdHalf (to_ elems) (decide (e.next + 1 < e.total)) (((ys.zipIdx).filter fun y => (us.getD y.2 none).isSome).map fun y =>
        (.addr (to_ y.2), leBytes m y.1, if across then ps.contains true else ps.getD y.2 false))
  s.engMove id e 0 ((List.range elems).map fun i => (from_ i, n))
    (fun us => e.tail.toList.map (fun t => (.addr t.1, t.2.1, t.2.2)) ++ (row us).1)
    fun t us _ => { t with engines := tmod t.engines id fun x => { x with tail := (row us).2 } }.engNext id

/-! ## REDW (R301) -/

/-- REDW at its home, or by message (R42, R158). -/
def State.redwStep (s : State) (id : Nat) (e : Engine) (addr : DWord) (value : List Byte) (ty op : Nat) (x : Bool)
    (seqidx : Nat) : State :=
  let refuse := fun t : State => (t.engFault id 0x17 addr true).engNext id
  let s := s.noteMiss (dieOf e.core) (s.engWho e) addr
  let wrong : Option Nat → Bool := fun w => match w with
    | some k => (s.window k).ty != ty || (s.window k).op != op || (s.window k).idx != x
    | none => x
  match s.engResolve e (.atomic (op == 0 && decide (2 ≤ ty))) addr value.length with
  | .error (.ats _) => s
  | .error (.cls c) => match s.engStop id e c addr with
    | .fault k => (s.engFault id k addr true).engNext id
    | _ => s.engPark id e c addr true
  | .ok (.loc k) =>
    let d := domainOf k
    let w := d.bind fun x => s.windowAt s.modnum x
    if wrong w then refuse s
    else match w with
      | none => ((s.flushDie (dieOf e.core)).redApply k ty op value).engNext id
      | some i =>
        match s.contribute i (64 + dieOf e.core) (d.getD 0 - (s.window i).start) k seqidx value with
        | (t, .ack) => t.engNext id
        | (t, .retry) => { t with engines := tmod t.engines id fun y => { y with after := t.mod.tick.toNat + 256 } }
        | (t, .refuse) => refuse t
  | .ok (.sealed k o) =>
    let ctx := (s.engWho e).ctx
    let old := leNat (s.sealedRead ctx k value.length)
    if wrong none then refuse s
    else (s.sealedStore (dieOf e.core) ctx o k (leBytes value.length (redNew ty op old (leNat value))) false).engNext id
  | .ok (.peer m d) =>
    let w := s.windowAt m d
    if wrong w then refuse s
    else match s.answerTo (.engine id) 0 with
      | none =>
        s.askAll (.engine id) e.core elemVc
          [⟨0, 7, m, d, value.length, ty * 8 + op, value, [BitVec.ofNat 20 seqidx]⟩]
      | some a => match a.fault with
        | some c => (s.engFault id c.toNat addr true).engNext id
        | none => s.engNext id

/-- COPY_ROW_COMPLETION (R294, R296): an engine command moves its next row, target or contribution, or is over. Acts on
`a`, the command. -/
def execCopyRowCompletion (s : State) : Out :=
  let id := s.arg.a
  match tfind s.engines id with
  | none => .next s
  | some e =>
    let t :=
      if e.total ≤ e.next || s.mod.tick.toNat < e.after || s.overflowHeld (.engine id) (dieOf e.core) then s
      else match e.kind with
        | .tcopy src segs base e0 e1 e2 _ ds1 ds2 ds3 ss1 ss2 ss3 mode =>
          s.tcopyRow id e src segs base e0 e1 e2 ds1 ds2 ds3 ss1 ss2 ss3 mode
        | .mcopy src count targets base data => s.mcopyStep id e src count targets base data
        | .bcopy rows keys dst counts n rowb nkey => s.bcopyAll id e rows keys dst counts n rowb nkey
        | .chain src dst elems it ot ops rnd ftz => s.chainStep id e src dst elems it ot ops rnd ftz
        | .redw addr value ty op x seqidx => s.redwStep id e addr value ty op x seqidx
    match tfind t.engines id with
    | some e' => .next (if e'.total ≤ e'.next then t.engDone id else t)
    | none => .next t

/-! ## Issue (R294) -/

/-- The arrival words that a command names for its targets. -/
def EngKind.words : EngKind → List Nat
  | .mcopy _ _ ts _ _ => ts.filterMap (·.2)
  | _ => []

/-- AN ENGINE COMMAND at issue: its checks, then the command is with the stream unit, its reads and writes after every
earlier access of the strand (R160). The checks answer the class and address of a precise fault, or the command, how
many movements it has, and its arrival word. -/
def engineOp (i : Instr) (uses : Strand → List Use)
    (body : State → Issue → Strand → Except (Nat × DWord) (EngKind × Nat × Option Nat)) : State → Out :=
  issue i uses noExcess fun s c st =>
    match body s c st with
    | .error (cls, addr) =>
      s.takeTrap c.uid { cls := cls, addr := addr, flags := if cls = 0x17 || cls = 0x1A then 8 else 0, pc := some c.pc }
    | .ok (k, total, arr) =>
      let s := s.flushDie (dieOf st.core)
      let flag := (st.clause.map (·.setB)).getD 15
      let o : Op :=
        { flag := flag, setB := true, holders := [c.uid], wg := st.wg, warp := st.warp
          dstV := [], dstS := [], res := [], sres := [], external := true, ahead := none }
      let e : Engine :=
        { op := s.next, uid := c.uid, wg := st.wg, core := st.core, flag := flag, names := st.names, kind := k
          next := 0, total := total, arr := arr, pc := c.pc, failed := none }
      let s := (k.words ++ arr.toList).foldl State.watchWord s
      State.retire { s with ops := tset s.ops s.next o, engines := tset s.engines (s.next + 1) e, next := s.next + 2 } c i

/-- A source address outside every region (R133, R140 order 1). -/
def State.badRegion (s : State) (st : Strand) (addr : DWord) : Bool :=
  match s.resolve (dieOf st.core) (s.who st) .copy addr 1 with
  | .error b => earlyFault addr b == some 0x10
  | .ok _ => false

/-- A destination of `n` bytes in the S-window that lies in no allocation that admits the strand (R294). -/
def State.offAlloc (s : State) (st : Strand) (addr : DWord) (n : Nat) : Bool :=
  n != 0 && addr.toNat / 2 ^ 56 == 1 && s.sCheck (s.who st) .write false (addr.toNat % 2 ^ 56) n == .error (.cls 0x17)

/-- The bits of a register field. -/
def bitsOf (w : Word) (lo n : Nat) : Nat := w.toNat / 2 ^ lo % 2 ^ n

/-- An arrival register (R295): the word's key, or how it fails; none where AWE is 0. -/
def State.arrivalReg (s : State) (st : Strand) (w : Word) : Except (Nat × DWord) (Option Nat) :=
  let a : DWord := BitVec.ofNat 64 (2 ^ 56 + bitsOf w 0 30)
  if w.getLsbD 30 then .error (0x11, a)
  else if !w.getLsbD 31 then .ok none
  else match s.wordAt st .write a with
    | .ok k => .ok (some k)
    | .error 0x18 => .ok (some (sKey (bitsOf w 0 30)))
    | .error c => .error (c, a)

/-- The destination of a tile (R295): its segments and base, with `span` bytes from it; or the fault. -/
def State.tileDst (s : State) (st : Strand) (w0 : Word) (span : Nat) : Except (Nat × DWord) (List (Nat × Nat × Nat) × Nat) :=
  if w0.getLsbD 31 then
    let r := s.obRec st.wg (bitsOf w0 24 4)
    let off := bitsOf w0 0 18
    let segs := s.obSegs st.wg r
    if bitsOf w0 28 3 != 0 || bitsOf w0 18 6 != 0 then .error (0x11, 0)
    else if !r.v || r.len + 128 * r.nsb < off + span || segs.foldl (fun n g => n + g.2.1) 0 != r.len + 128 * r.nsb then
      .error (0x17, 0)
    else .ok (segs, off)
  else
    let a := bitsOf w0 0 30
    let va : DWord := BitVec.ofNat 64 (2 ^ 56 + a)
    if w0.getLsbD 30 || a % 16 != 0 then .error (0x11, va)
    else if span = 0 then .ok ([(0, 2 ^ 30, sKey 0)], a)
    else match s.sCheck (s.who st) .write false a span with
      | .error (.cls 0x17) => .error (0x17, va)
      | _ => .ok ([(0, 2 ^ 30, sKey 0)], a)

/-- The checks of TCOPY and TCOPYX on register values and the command they make (R295 to R297). -/
def State.tileCopy (s : State) (st : Strand) (src : DWord) (w0 w1 w2 : Word) (ds3 : Nat) (e0 e1 e2 e3 : Nat)
    (ss1 ss2 ss3 : Int) (arrw : Word) : Except (Nat × DWord) (EngKind × Nat × Option Nat) :=
  let mode := bitsOf w2 28 4
  let ds1 := bitsOf w1 0 16
  let ds2 := bitsOf w1 16 16
  let total := e1 * e2 * e3
  let span := if total = 0 || e0 = 0 then 0 else 16 * (ds1 * (e1 - 1) + ds2 * (e2 - 1) + ds3 * (e3 - 1)) + e0
  if s.badRegion st src then .error (0x10, src)
  else if src.toNat % 16 != 0 || e0 % 16 != 0 || ss1 % 16 != 0 || ss2 % 16 != 0 || ss3 % 16 != 0 || 5 < mode ||
      e0 % (16 * 2 ^ mode) != 0 || bitsOf w2 16 12 != 0 then .error (0x11, src)
  else match s.tileDst st w0 span, s.arrivalReg st arrw with
    | .error (0x17, _), .error (0x11, b) => .error (0x11, b)
    | .error x, _ => .error x
    | _, .error x => .error x
    | .ok (segs, base), .ok arr =>
      .ok (.tcopy src segs base e0 e1 e2 e3 ds1 ds2 ds3 ss1 ss2 ss3 mode, if e0 = 0 then 0 else total, arr)

/-- TCOPY (R295). -/
def execTcopy (sa sb sc : BitVec 6) : State → Out :=
  engineOp (.tcopy sa sb sc) (fun _ => useS sb 3 ++ useS sa 2 ++ useS sc 6) fun s _ st =>
    let r := fun i => st.sreg (sc.toNat + i)
    s.tileCopy st (st.dreg sa.toNat) (st.sreg sb.toNat) (st.sreg (sb.toNat + 1)) (st.sreg (sb.toNat + 2))
      (bitsOf (st.sreg (sb.toNat + 2)) 0 16) (bitsOf (r 0) 0 16) (bitsOf (r 0) 16 16) (bitsOf (r 1) 0 16)
      (bitsOf (r 1) 16 16) (r 2).toInt (r 3).toInt (r 4).toInt (r 5)

/-- The registers that valid markers name (R297). -/
def markerUse (m : BitVec 10) : List Use := if m.getLsbD 9 then useS (m.extractLsb' 0 6) else []

/-- A field of TCOPYX after substitution (R297). -/
def Strand.substituted (st : Strand) (ms : List (BitVec 10)) (field : Nat) (v : BitVec 16) : Nat :=
  match ms.find? fun m => m.getLsbD 9 && (m.extractLsb' 6 3).toNat == field with
  | some m => bitsOf (st.sreg (m.extractLsb' 0 6).toNat) 0 16
  | none => v.toNat

/-- TCOPYX (R297). -/
def execTcopyx (sa sb sc : BitVec 6) (e1 e0 ss1 e2 row0 ss2 : BitVec 16) (m2 m1 m0 : BitVec 10) : State → Out :=
  engineOp (.tcopyx sa sb sc e1 e0 ss1 e2 row0 ss2 m2 m1 m0)
    (fun _ => useS sb 3 ++ useS sa 2 ++ useS sc ++ markerUse m0 ++ markerUse m1 ++ markerUse m2) fun s _ st =>
    let v := st.substituted [m0, m1, m2]
    let s1 := 16 * v 3 ss1
    s.tileCopy st (st.dreg sa.toNat + BitVec.ofNat 64 (s1 * v 5 row0)) (st.sreg sb.toNat) (st.sreg (sb.toNat + 1))
      (st.sreg (sb.toNat + 2)) 0 (v 0 e0) (v 1 e1) (v 2 e2) 1 (s1 : Int) ((16 * v 4 ss2 : Nat) : Int) 0 (st.sreg sc.toNat)

/-- The cores that a target mask of MCOPY names (R298). -/
def mcopyCores (core : Nat) (m : Word) : List Nat := ((List.range 16).filter fun t => m.getLsbD t).map (16 * clusterOf core + ·)

/-- A range of a core's operand-buffer slice lies inside the area of a member of the gang. -/
def State.inMember (s : State) (wg core off n : Nat) : Bool :=
  let w := s.wgOf wg
  let g := s.gridOf w.grid
  s.wgs.any fun x => x.2.grid == w.grid && x.2.w / g.hdr.gang == w.w / g.hdr.gang && x.2.core == core &&
    x.2.ooff ≤ off && off + n ≤ x.2.ooff + g.hdr.obuf

/-- The part of each segment that lies in a run of offsets. -/
def segRuns (segs : List (Nat × Nat × Nat)) (o n : Nat) : List (Nat × Nat × Nat) :=
  segs.filterMap fun g =>
    let lo := max o g.1
    let hi := min (o + n) (g.1 + g.2.1)
    if lo < hi then some (lo, hi - lo, g.2.2 + (lo - g.1)) else none

/-- The stream offsets of a record as offsets in an operand-buffer area: data, each quarter of a split B at the same offsets,
then the scales (R312). -/
def ObRec.area (r : ObRec) : List (Nat × Nat × Nat) :=
  (if r.kind = 1 && r.split then (List.range 4).map fun q => (q * (r.len / 4), r.len / 4, r.off) else [(0, r.len, r.off)]) ++
    [(r.len, 128 * r.nsb, r.soff)]

/-- Where MCOPY writes in each target, as segments with the offset of the first byte, or the fault (R298, R312; log entry
117). -/
def State.mcopyDst (s : State) (st : Strand) (w0 : Word) (cores : List Nat) (n : Nat) :
    Except (Nat × DWord) (List (List (Nat × Nat × Nat)) × Nat) :=
  if w0.getLsbD 31 then
    let r := s.obRec st.wg (bitsOf w0 24 4)
    let o := bitsOf w0 0 18
    let off := (s.wgOf st.wg).ooff
    let runs := segRuns r.area o n
    if bitsOf w0 28 3 != 0 || bitsOf w0 18 6 != 0 then .error (0x11, 0)
    else if !r.v || r.len + 128 * r.nsb < o + n || cores.any fun k =>
        quadOf k != quadOf st.core || runs.any fun g => !s.inMember st.wg k (off + g.2.2) g.2.1 then .error (0x17, 0)
    else .ok (cores.map fun k => runs.map fun g => (g.1, g.2.1, obKey k (off + g.2.2)), o)
  else
    let a := bitsOf w0 0 20
    if bitsOf w0 20 11 != 0 || a % 16 != 0 then .error (0x11, BitVec.ofNat 64 (2 ^ 56 + bitsOf w0 0 30))
    else
      let bad := cores.filter fun k => n != 0 && s.sCheck (s.who st) .write false (k * 2 ^ 20 + a) n == .error (.cls 0x17)
      match bad with
      | k :: _ => .error (0x17, BitVec.ofNat 64 (2 ^ 56 + k * 2 ^ 20 + a))
      | [] => .ok (cores.map fun k => [(a, n, sKey (k * 2 ^ 20 + a))], a)

/-- The arrival words of MCOPY's targets: at the register's offset in each target's slice (R298). The register's limits
hold for an empty mask too (R295). -/
def State.mcopyArr (s : State) (st : Strand) (w : Word) (cores : List Nat) : Except (Nat × DWord) (List (Option Nat)) :=
  if w.getLsbD 30 || (w.getLsbD 31 && bitsOf w 0 4 != 0) then .error (0x11, BitVec.ofNat 64 (2 ^ 56 + bitsOf w 0 30))
  else cores.foldr (fun k r => match r with
    | .error x => .error x
    | .ok l => match s.arrivalReg st ((w &&& 0xC00FFFFF) + BitVec.ofNat 32 (k * 2 ^ 20)) with
      | .error x => .error x
      | .ok a => .ok (a :: l)) (.ok [])

/-- MCOPY (R298). -/
def execMcopy (sa sb sc : BitVec 6) : State → Out :=
  engineOp (.mcopy sa sb sc) (fun _ => useS sb ++ useS sa 2 ++ useS sc 3) fun s _ st =>
    let src := st.dreg sa.toNat
    let n := (st.sreg sc.toNat).toNat
    let m := st.sreg (sc.toNat + 1)
    let cores := mcopyCores st.core m
    if s.badRegion st src then .error (0x10, src)
    else if src.toNat % 16 != 0 || n % 16 != 0 || 262144 < n || bitsOf m 16 16 != 0 then .error (0x11, src)
    else match s.mcopyDst st (st.sreg sb.toNat) cores n, s.mcopyArr st (st.sreg (sc.toNat + 2)) cores with
      | .error (0x17, _), .error (0x11, b) => .error (0x11, b)
      | .error x, _ => .error x
      | _, .error x => .error x
      | .ok (ks, base), .ok as => .ok (.mcopy src n (ks.zip as) base none, cores.length, none)

/-- BCOPY (R299). -/
def execBcopy (sa sb sc : BitVec 6) (nkey rowb : BitVec 16) (creg nreg : BitVec 6) : State → Out :=
  engineOp (.bcopy sa sb sc nkey rowb creg nreg)
    (fun _ => useS sc 2 ++ useS sa 2 ++ useS sb 2 ++ useS nreg ++ useS creg 2) fun s _ st =>
    let as := [st.dreg sa.toNat, st.dreg sb.toNat, st.dreg sc.toNat, st.dreg creg.toNat]
    let n := (st.sreg nreg.toNat).toNat
    let off := [(as.getD 2 0, if n = 0 || nkey == 0 then 0 else rowb.toNat), (as.getD 3 0, 4 * (nkey.toNat + 1))].find?
      fun d => s.offAlloc st d.1 d.2
    match as.find? (s.badRegion st ·), as.find? (fun a => a.toNat % 4 != 0), off with
    | some a, _, _ => .error (0x10, a)
    | none, some a, _ => .error (0x11, a)
    | none, none, some d => .error (0x17, d.1)
    | none, none, none =>
      .ok (.bcopy (as.getD 0 0) (as.getD 1 0) (as.getD 2 0) (as.getD 3 0) (st.sreg nreg.toNat).toNat rowb.toNat nkey.toNat, 1, none)

/-- CHAIN (R300): MODE.RND and MODE.FTZ are those of the issue. -/
def execChain (sa sb sc : BitVec 6) (ops : BitVec 32) (kb : BitVec 6) (ot it : BitVec 2) : State → Out :=
  let codes := (List.range 8).map fun j => (ops.extractLsb' (4 * j) 4).toNat
  let steps := (codes.zipIdx).filter fun x => x.1 != 0
  let reads := steps.filter fun x => 1 ≤ x.1 && x.1 ≤ 4
  engineOp (.chain sa sb sc ops kb ot it)
    (fun _ => useS sb 2 ++ useS sa 2 ++ useS sc 2 ++ reads.map fun x => (2, kb.toNat + x.2)) fun s _ st =>
    let src := st.dreg sa.toNat
    let dst := st.dreg sb.toNat
    let e := s.env st
    if s.badRegion st src then .error (0x10, src)
    else if s.badRegion st dst then .error (0x10, dst)
    else if src.toNat % chainSize it.toNat != 0 then .error (0x11, src)
    else if dst.toNat % chainSize ot.toNat != 0 then .error (0x11, dst)
    else if s.offAlloc st dst (chainSize ot.toNat * (st.sreg sc.toNat).toNat * (st.sreg (sc.toNat + 1)).toNat) then
      .error (0x17, dst)
    else
      .ok (.chain src dst (st.sreg sc.toNat).toNat it.toNat ot.toNat
        (steps.map fun x => (x.1, if 1 ≤ x.1 && x.1 ≤ 4 then st.sreg (kb.toNat + x.2) else 0)) e.rnd e.ftz,
        (st.sreg (sc.toNat + 1)).toNat, none)

/-- REDW (R301). Poison that is there at issue faults precisely (R19). -/
def execRedw (sa sb sc : BitVec 6) (ty : BitVec 4) (op : BitVec 3) (x : BitVec 1) : State → Out :=
  let n := redBytes ty.toNat
  engineOp (.redw sa sb sc ty op x)
    (fun _ => useS sa 2 ++ useS sb (if ty == 4 then 2 else 1) ++ (if x == 1 then useS sc else [])) fun s _ st =>
    let addr := st.dreg sa.toNat
    if s.badRegion st addr then .error (0x10, addr)
    else if addr.toNat % n != 0 then .error (0x11, addr)
    else if s.offAlloc st addr n then .error (0x17, addr)
    else if s.resolve (dieOf st.core) (s.who st) (.atomic true) addr n == .error (.cls 0x1A) then .error (0x1A, addr)
    else
      .ok (.redw addr (st.sbytes sb.toNat n) ty.toNat op.toNat (x == 1)
        (if x == 1 then bitsOf (st.sreg sc.toNat) 0 20 else 0), 1, none)

end Sys2Proof.Machine
end

