-- ==== Sys2Proof/Machine/Matrix.lean ====
section
/-! DEFINITION. The matrix engine (R307 to R331, R178 to R180): operand-buffer records, crews, acceptance, the arbiter
and its passes, accumulators, sparse and structured tiles. -/

namespace Sys2Proof.Machine

/-! ## Requests -/

/-- The instruction of a request, with its inline word. -/
def MxeReq.instr (r : MxeReq) : Instr := (decodeWords [r.word, r.inl]).getD .yield

/-- HA, HB and HC of an instruction (R318, R329); ACCZ has its handle in a register. -/
def Instr.handles : Instr → Nat × Nat × Nat
  | .mma _ a b c | .mmaRs _ _ _ a b c _ _ | .mmaSs _ _ _ a b c | .mmas _ _ a b c | .mman _ _ _ _ a b c _ _
  | .salient _ a b c => (a.toNat, b.toNat, c.toNat)
  | _ => (0, 0, 0)

/-- The handles a request names. -/
def MxeReq.names (r : MxeReq) : List Nat :=
  match r.instr with
  | .accz _ => [r.passw.toNat % 16]
  | i => [(Instr.handles i).1, (Instr.handles i).2.1, (Instr.handles i).2.2]

/-- The handle a request writes: HC, or ACCZ's (R310). -/
def MxeReq.dest (r : MxeReq) : Nat :=
  match r.instr with
  | .accz _ => r.passw.toNat % 16
  | i => (Instr.handles i).2.2

/-- P and k0 of a pass word (R318). -/
def passP (w : Word) : Nat := bitsOf w 0 16
/-- k0. -/
def passK0 (w : Word) : Nat := bitsOf w 16 16

/-- The gang of a workgroup is resident or halting: its requests are in the table (R330). -/
def State.wgIn (s : State) (wg : Nat) : Bool :=
  let w := s.wgOf wg
  let g := s.gridOf w.grid
  match tfind g.gangs (w.w / g.hdr.gang) with
  | some x => x.st == .resident || x.st == .halting
  | none => false

/-- The requests in the reservation table of a quad. -/
def State.tableOf (s : State) (q : Nat) : List (Nat × MxeReq) :=
  s.sched.mxe.filter fun r => !r.2.ended && quadOf (s.wgOf r.2.wg).core == q && s.wgIn r.2.wg

/-- A request of a workgroup names a handle (R313). -/
def State.handleBusy (s : State) (wg h : Nat) : Bool := s.sched.mxe.any fun r => !r.2.ended && r.2.wg == wg && r.2.names.contains h

/-- Strands of a workgroup that wait for requests look again. -/
def State.wakeRequests (s : State) (wg : Nat) : State :=
  { s with strands := tmap s.strands fun _ x => if x.wg == wg && x.block == .requests then { x with block := .none } else x }

/-! ## OBRES, OBREL (R313, R314) -/

/-- Byte ranges of a record in the owner's area: data (a quarter of a split B) and scales. -/
def ObRec.ranges (r : ObRec) : List (Nat × Nat) :=
  [(r.off, if r.kind = 1 && r.split then r.len / 4 else r.len), (r.soff, 128 * r.nsb)]

/-- Two byte ranges share a byte. -/
def overlaps (x y : Nat × Nat) : Bool := x.1 < y.1 + y.2 && y.1 < x.1 + x.2

/-- The checks of OBRES on its values (R313), in the table's order. -/
def obCheck (r : ObRec) (obuf gang : Nat) : Option Nat :=
  let scaled := fmtScaled r.fmt && r.kind != 2
  let outside := fun x : Nat × Nat => x.2 != 0 && obuf < x.1 + x.2 + 256
  if r.off % 256 != 0 || (scaled && r.soff % 16 != 0) || (r.kind != 2 && (r.len = 0 || r.len % r.unit != 0)) then some 0x11
  else if r.ranges.any outside || (scaled && overlaps (r.ranges.getD 0 (0, 0)) (r.ranges.getD 1 (0, 0))) then some 0x17
  else if r.kind = 2 && r.len != 65536 then some 0x17
  else if r.kind = 1 && r.split && gang < 4 then some 0x17
  else none

/-- OBRES (R313). -/
def execObres (sa sb sc : BitVec 6) (h : BitVec 4) (kind : BitVec 2) (fmt : BitVec 3) (lb : BitVec 2)
    (split layout : BitVec 1) (ns : BitVec 2) : State → Out :=
  let i : Instr := .obres sa sb sc h kind fmt lb split layout ns
  let scaled := fmtScaled fmt.toNat && kind != 2
  issue i (fun _ => useS sa ++ useS sb ++ (if scaled then useS sc else [])) noExcess fun s c st =>
    let r : ObRec :=
      { v := true, kind := kind.toNat, fmt := fmt.toNat, lb := lb.toNat, split := split == 1, layout := layout == 1
        ns := ns.toNat, soff := if scaled then (st.sreg sc.toNat).toNat else 0, len := (st.sreg sb.toNat).toNat
        off := (st.sreg sa.toNat).toNat }
    match obCheck r (s.obuf st.wg) (s.gridAt st).hdr.gang, s.recKey st.wg h.toNat with
    | some k, _ => s.takeTrap c.uid { cls := k, pc := some c.pc }
    | none, none => s.takeTrap c.uid { cls := 0x17, pc := some c.pc }
    | none, some k =>
      if s.handleBusy st.wg h.toNat then s.wait c .requests
      else
        (((s.flushDie (dieOf st.core)).homeStore (dieOf st.core) (k) (leBytes 16 r.toNat) false)).retire c i

/-- OBREL (R314). -/
def execObrel (sa : BitVec 6) : State → Out :=
  issue (.obrel sa) (fun _ => useS sa) noExcess fun s c st =>
    let hs := (List.range 16).filter fun h => (st.sreg sa.toNat).getLsbD h
    if hs.any (s.handleBusy st.wg) then s.wait c .requests
    else
      (hs.foldl (fun (t : State) h => match t.recKey st.wg h with
        | none => t
        | some k => t.homeStore (dieOf st.core) k (leBytes 16 ({ t.obRec st.wg h with v := false }).toNat) false)
        (s.flushDie (dieOf st.core))).retire c (.obrel sa)

/-! ## Crews (R315 to R317) -/

/-- The bits of CREW that are set, as rank and warp. -/
def crewNames (v : DWord) : List (Nat × Nat) :=
  ((List.range 64).filter fun b => v.getLsbD b).map fun b => (b / 16, b % 16)

/-- A value that CREW refuses (R316): fewer than two or more than eight warps, a rank beyond the gang, a warp beyond
the member's. -/
def State.crewBad (s : State) (st : Strand) (v : DWord) : Bool :=
  let g := s.gridAt st
  let n := (crewNames v).length
  n < 2 || 8 < n || (crewNames v).any fun x => g.hdr.gang ≤ x.1 || g.warps ≤ x.2

/-- CREW (R316). -/
def execCrew (sa : BitVec 6) : State → Out :=
  issue (.crew sa) (fun _ => useS sa 2) noExcess fun s c st =>
    let v := st.dreg sa.toNat
    if s.crewBad st v then s.takeTrap c.uid { cls := 0x17, pc := some c.pc }
    else (s.updWg st.wg fun g => { g with crew := v }).retire c (.crew sa)

/-- Warps that a strand covers. -/
def Strand.warps (st : Strand) : List Nat := st.lanesByWarp.map (·.1)

/-! ## ACCRD (R324) -/

/-- C[i][j] of a C record. -/
def State.cEntry (s : State) (wg : Nat) (r : ObRec) (i j : Nat) : Word :=
  BitVec.ofNat 32 (leNat (mread s.mem ((s.wgOf wg).obase + r.off + 4 * (if r.layout then 128 * j + i else 128 * i + j)) 4))

/-- The results of an ACCRD, read from C as it stands (R324). -/
def State.accResults (s : State) (a : AccRead) : List (Nat × Nat × Word) :=
  (lanesOf a.lanes).flatMap fun j => (List.range 8).map fun t =>
    let row := 2 * a.rp + t / 4
    let col := 32 * (t % 4) + j
    (j, a.vd + t, BitVec.ofNat 32 (leNat (mread s.mem (a.key + 4 * (if a.layout then 128 * col + row else 128 * row + col)) 4)))

/-- A request is over: the ACCRDs that waited for no other read C (R324). -/
def State.accReady (s : State) (id : Nat) : State :=
  { s with ops := tmap s.ops fun _ o => match o.acc with
      | none => o
      | some a =>
        let r := a.reqs.filter (· != id)
        if r.isEmpty then { o with acc := none, external := false, res := s.accResults a }
        else { o with acc := some { a with reqs := r } } }

/-- ACCRD: its flag is busy from its issue, and C is read once the requests accepted before it that name the handle are
over. -/
def execAccrd (sa sb sc : BitVec 6) : State → Out :=
  issue (.accrd sa sb sc) (fun _ => useV sc 8 ++ useS sa ++ useS sb) noExcess fun s c st =>
    let h := (st.sreg sa.toNat).toNat % 16
    let rp := (st.sreg sb.toNat).toNat
    let r := s.obRec st.wg h
    if st.isRange then s.expandStrand c.uid
    else if 63 < rp || !r.v || r.kind != 2 then s.takeTrap c.uid { cls := 0x17, pc := some c.pc }
    else
      let reqs := (s.sched.mxe.filter fun q => !q.2.ended && q.2.wg == st.wg && q.2.names.contains h).map (·.1)
      let a : AccRead := ⟨reqs, (s.wgOf st.wg).obase + r.off, r.layout, rp, sc.toNat, st.mask⟩
      let t := s.startOp c st ((List.range 8).map (sc.toNat + ·)) []
        (if reqs.isEmpty then s.accResults a else []) [] (!reqs.isEmpty) none
      (if reqs.isEmpty then t else { t with ops := tmod t.ops s.next fun o => { o with acc := some a } }).retire c
        (.accrd sa sb sc)

/-! ## Reads of memory by the MXE (R321, R325) -/

/-- How a read of the MXE stands: bytes, a fault with its address, or a wait. -/
inductive MatRead where
  | data (b : List Byte)
  | fault (cls : Nat) (addr : DWord)
  | wait (ks : List Ask) (pages : List (Nat × DWord))
  deriving DecidableEq, Repr

/-- Pieces of a read, joined. -/
def MatRead.join : MatRead → MatRead → MatRead
  | .fault c a, _ => .fault c a
  | _, .fault c a => .fault c a
  | .data a, .data b => .data (a ++ b)
  | .wait k p, .wait l q => .wait (k ++ l) (p ++ q)
  | .wait k p, .data _ => .wait k p
  | .data _, .wait k p => .wait k p

/-- A read of device memory, local or of another module (R325): host memory and the other regions are refused as
access; poison is a fault. -/
def State.matRead (s : State) (a : Asker) (wg idx : Nat) (addr : DWord) (n : Nat) : MatRead :=
  let w := s.wgOf wg
  let who : Who := ⟨(s.gridOf w.grid).ctx, some wg⟩
  let view : View := ⟨dieOf w.core, w.core, wg, .handler⟩
  ((piecesOf addr.toNat n).zipIdx).foldr (fun p r =>
    let at_ : DWord := BitVec.ofNat 64 p.1.1
    let x : MatRead := if s.inHost (dieOf w.core) who at_ then .fault 0x17 at_
      else match s.resolve (dieOf w.core) who .read at_ p.1.2 with
      | .error (.ats _) => .fault 0x17 at_
      | .error (.cls c) =>
        if s.ends c then .fault c at_
        else match s.holdFault a c who.ctx (p.1.1 / 0x10000) with
          | some f => .fault f at_
          | none => .wait [] [(c, at_)]
      | .ok (.loc k) => if k < 2 ^ 40 then .data (s.view view k p.1.2) else .fault 0x17 at_
      | .ok (.sealed k _) => .data (s.sealedRead who.ctx k p.1.2)
      | .ok (.peer m d) =>
        if at_.extractLsb' 56 8 == 3 then .fault 0x17 at_
        else match s.answerTo a (idx + p.2) with
          | none => .wait [⟨idx + p.2, 1, m, d, p.1.2, 0, [], []⟩] []
          | some y => match y.fault with
            | some c => .fault c.toNat at_
            | none => .data y.data
    x.join r) (.data [])

/-- What a read that waits asks for (R37, R194). -/
def State.matAsk (s : State) (a : Asker) (core ctx : Nat) (ks : List Ask) (pages : List (Nat × DWord)) : State :=
  pages.foldl (fun t p =>
    let page := p.2.toNat / 0x10000
    (if p.1 = 0x12 || p.1 = 0x13 || p.1 = 0x19 then t.hold a p.1 ctx page else t).askPage p.1 ctx page 0) (s.askAll a core elemVc ks)

/-- A read of the MXE misses in the translations that are cached (R137). -/
def State.matMisses (s : State) (wg : Nat) (addr : DWord) (n : Nat) : State :=
  let w := s.wgOf wg
  (piecesOf addr.toNat n).foldl (fun t p =>
    t.noteMiss (dieOf w.core) ⟨(s.gridOf w.grid).ctx, some wg⟩ (BitVec.ofNat 64 p.1)) s

/-- A sparse tile's descriptor (R325). -/
structure Tile where
  bitmap : DWord
  values : DWord
  nval : Nat
  fmt : Nat
  kb : Nat
  clean : Bool
  deriving DecidableEq, Repr

/-- The 64 bytes of a descriptor. -/
def Tile.ofBytes (b : List Byte) : Tile :=
  let f := fun o n => leNat ((b.drop o).take n)
  { bitmap := BitVec.ofNat 64 (f 0 8), values := BitVec.ofNat 64 (f 8 8), nval := f 16 4, fmt := f 20 1, kb := f 22 2
    clean := f 21 1 == 0 && f 24 40 == 0 }

/-- Set bits of some bytes. -/
def bitCount (b : List Byte) : Nat := b.foldl (fun n x => n + ((List.range 8).filter fun i => x.getLsbD i).length) 0

/-- Micro-operations of rows of a bitmap, four bytes each (R326). -/
def microOps : Nat → List Byte → Nat
  | 0, _ => 0
  | f + 1, b => if b.isEmpty then 0 else (bitCount (b.take 4) + 7) / 8 + microOps f (b.drop 4)

/-- The bytes that a tile's values occupy (R327). -/
def valueBytes (t : Tile) : Nat := (t.nval * fmtBits t.fmt + 7) / 8

/-! ## Acceptance (R307, R322) -/

/-- The value of CREW that identifies the latch at which a strand waits (R317). -/
def Strand.latchValue (st : Strand) : DWord :=
  match st.block with
  | .crew v => v
  | _ => 0

/-- The strands that have arrived at the latch of a strand: of its gang, with one value of CREW, at one instruction (R317). -/
def State.latch (s : State) (st : Strand) : List (Nat × Strand) :=
  let w := s.wgOf st.wg
  let g := s.gridOf w.grid
  s.strands.filter fun x =>
    let y := s.wgOf x.2.wg
    x.2.block == .crew st.latchValue && x.2.pc == st.pc && y.grid == w.grid && y.w / g.hdr.gang == w.w / g.hdr.gang

/-- Threads of a warp that have arrived at a latch. -/
def arrivedLanes (l : List (Nat × Strand)) (wg warp : Nat) : BitVec 32 :=
  l.foldl (fun m x => if x.2.wg == wg then
    x.2.lanesByWarp.foldl (fun m y => if y.1 == warp then m ||| y.2 else m) m else m) 0

/-- The workgroup key of the member of rank `r`. -/
def State.memberAt (s : State) (st : Strand) (r : Nat) : Nat :=
  let w := s.wgOf st.wg
  let g := s.gridOf w.grid
  ((s.wgs.find? fun x => x.2.grid == w.grid && x.2.w == w.w / g.hdr.gang * g.hdr.gang + r).map (·.1)).getD st.wg

/-- The latch has closed: every existing thread of every named warp has arrived or exited. -/
def State.latchClosed (s : State) (st : Strand) (l : List (Nat × Strand)) : Bool :=
  (crewNames st.latchValue).all fun x =>
    let m := s.memberAt st x.1
    let need := (s.gridAt st).existing x.2 &&& ~~~(tget (s.wgOf m).exited x.2 0)
    (need &&& ~~~(arrivedLanes l m x.2)) == 0

/-- The leader (R317): bit number of the leader warp, and the strand that holds its lowest arrived index. -/
def State.leaderOf (s : State) (st : Strand) (l : List (Nat × Strand)) : Option (Nat × Nat) :=
  (crewNames st.latchValue).findSome? fun x =>
    let m := s.memberAt st x.1
    let lanes := arrivedLanes l m x.2
    if lanes == 0 then none
    else
      let j := lowLane lanes
      (l.find? fun y => y.2.wg == m && y.2.lanesByWarp.any fun z => z.1 == x.2 && z.2.getLsbD j).map fun y => (16 * x.1 + x.2, y.1)

/-- The C format of a pair of formats (R309); none: refused. -/
def pairFormat (a b : Nat) : Option Nat :=
  if a ≤ 2 && b ≤ 2 then some 6
  else if a = 3 && b = 3 then some 7
  else if a = 4 && b = 4 then some 6
  else if a = 5 && b = 5 then some 6
  else none

/-- Two handles' ranges of one workgroup share a byte. -/
def ObRec.clash (x y : ObRec) : Bool := x.ranges.any fun a => y.ranges.any fun b => a.2 != 0 && b.2 != 0 && overlaps a b

/-- The scale blocks t0 and t1 of a request (R320). -/
def scaleBlocks (r : ObRec) (w : Word) : Nat × Nat :=
  (32 * passK0 w / r.l, (32 * (passK0 w + passP w) - 1) / r.l)

/-- Checks 1 to 6 of R322 on a crew instruction. -/
def State.acceptCheck (s : State) (i : Instr) (wg : Nat) (w : Word) (stream : DWord) (sbytes : Nat) : Option (Nat × DWord) :=
  let (ha, hb, hc) := Instr.handles i
  let a := s.obRec wg ha
  let b := s.obRec wg hb
  let c := s.obRec wg hc
  let kindA := match i with
    | .mman .. => 3
    | _ => 0
  let rs := match i with
    | .mmaRs .. => true
    | .mman _ _ _ form .. => form == 1
    | _ => false
  let ss := match i with
    | .mmaSs .. => true
    | _ => false
  let t := scaleBlocks a w
  if !(a.v && b.v && c.v && a.kind == kindA && b.kind == 1 && c.kind == 2) then some (0x17, 0)
  else if pairFormat a.fmt b.fmt != some c.fmt then some (0x17, 0)
  else if passP w = 0 || a.kb < passK0 w + passP w || b.kb < passK0 w + passP w then some (0x17, 0)
  else if c.clash a || c.clash b then some (0x17, 0)
  else if rs && (!fmtScaled a.fmt || 3 < t.2 - t.1) then some (0x17, 0)
  else if ss && stream.toNat % 16 != 0 then some (0x11, stream)
  else if ss && sbytes != 256 * (t.2 - t.1 + 1) then some (0x22, 0)
  else none

/-- The checks of SALIENT, by analogy (R329). -/
def State.salientCheck (s : State) (i : Instr) (wg : Nat) (w : Word) : Bool :=
  let (ha, hb, hc) := Instr.handles i
  let a := s.obRec wg ha
  let b := s.obRec wg hb
  let c := s.obRec wg hc
  a.v && b.v && c.v && a.kind == 0 && b.kind == 0 && c.kind == 3 && a.fmt == c.fmt && passP w != 0 &&
    passK0 w + passP w ≤ a.kb && passK0 w + passP w ≤ b.kb && passP w ≤ c.kb && !c.clash a && !c.clash b &&
    (!fmtScaled a.fmt || 32 * passK0 w % a.l == 0) && (!fmtScaled b.fmt || 32 * passK0 w % b.l == 0)

/-- The scale code that MMA.RS takes for row or column `r` out of a register of the leader (R320). -/
def State.rsCode (s : State) (st : Strand) (warp reg : Nat) (sel : BitVec 1) (r : Nat) : Byte :=
  let lane := if sel == 0 then r / 4 else r % 32
  let b := if sel == 0 then r % 4 else r / 32
  if st.lanesByWarp.any fun x => x.1 == warp && x.2.getLsbD lane then
    (s.vreg st reg (match st.kind with
      | .range _ _ => 32 * warp + lane
      | _ => lane)).extractLsb' (8 * b) 8
  else 0xFF

/-- Writes the scales of MMA.RS into the scale vectors of A and B (R320). -/
def State.rsScales (s : State) (st : Strand) (warp : Nat) (i : Instr) (w : Word) : State :=
  let go := fun (sb sc : BitVec 6) (sel : BitVec 1) (rsel : BitVec 8) =>
    let (ha, hb, _) := Instr.handles i
    let a := s.obRec st.wg ha
    let b := s.obRec st.wg hb
    let t := scaleBlocks a w
    let base := (s.wgOf st.wg).obase
    (List.range (t.2 - t.1 + 1)).foldl (fun (x : State) u =>
      let n := rsel.toNat / 4 ^ u % 4
      let codes := fun (r : BitVec 6) => (List.range 128).map (s.rsCode st warp (r.toNat + n) sel)
      (x.homeRun (dieOf st.core) (base + a.soff + 128 * (t.1 + u)) (codes sb)).homeRun (dieOf st.core)
        (base + b.soff + 128 * (t.1 + u)) (codes sc)) s
  match i with
  | .mmaRs _ sb sc _ _ _ sel rsel => go sb sc sel rsel
  | .mman _ sb sc form _ _ _ sel rsel => if form == 1 then go sb sc sel rsel else s
  | _ => s

/-- How the descriptor and count checks of an MMAS end (R325): a fault, a wait, or the descriptor and the bitmap. -/
inductive TileGot where
  | ok (desc bits : List Byte)
  | fault (cls : Nat) (addr : DWord)
  | wait (ks : List Ask) (pages : List (Nat × DWord))
  deriving DecidableEq, Repr

/-- An address, or some of the bytes of a run from it, lies in host memory, or outside device memory (R325), whatever else
keeps the bytes from being read. -/
def State.matFar (s : State) (wg : Nat) (addr : DWord) (n : Nat) : Bool :=
  let w := s.wgOf wg
  let who : Who := ⟨(s.gridOf w.grid).ctx, some wg⟩
  (piecesOf addr.toNat (max 1 n)).any fun p =>
    let at_ : DWord := BitVec.ofNat 64 p.1
    s.inHost (dieOf w.core) who at_ ||
      match s.resolve (dieOf w.core) who .copy at_ p.2 with
      | .ok (.loc k) => decide (2 ^ 40 ≤ k)
      | .ok (.peer _ _) => at_.extractLsb' 56 8 == 3
      | _ => false

/-- Reads a descriptor and its bitmap and checks them. -/
def State.tileGet (s : State) (a : Asker) (wg : Nat) (r : ObRec) (desc : DWord) : TileGot :=
  if desc.toNat % 64 != 0 then .fault 0x11 desc
  else match s.matRead a wg 0 desc 64 with
    | .fault c x => .fault c x
    | .wait k p => .wait k p
    | .data b =>
      let t := Tile.ofBytes b
      if t.bitmap.toNat % 64 != 0 then .fault 0x11 t.bitmap
      else if t.values.toNat % 16 != 0 then .fault 0x11 t.values
      else if !t.clean || t.fmt != r.fmt || t.kb != r.kb || s.matFar wg t.values (valueBytes t) then .fault 0x17 0
      else match s.matRead a wg 8 t.bitmap (512 * t.kb) with
        | .fault c x => .fault c x
        | .wait k p => .wait k p
        | .data m => if bitCount m != t.nval then .fault 0x21 desc else .ok b m

/-- The dense fallback applies (R326). -/
def tileDense (t : Tile) (bits : List Byte) : Bool :=
  5 * 4096 * t.kb < 8 * t.nval || 4096 < microOps (bits.length + 1) bits + t.kb

/-- A quad and its workgroup have room for one more request (R307). -/
def State.mxeRoom (s : State) (wg : Nat) : Bool :=
  (s.tableOf (quadOf (s.wgOf wg).core)).length < 16 && (s.sched.mxe.filter fun r => !r.2.ended && r.2.wg == wg).length < 4

/-- Accepts a request (R307): every issuing strand goes on with its SETB flag busy. -/
def State.acceptReq (s : State) (u : Nat) (st : Strand) (i : Instr) (crew : List Nat) (w : Word) (total : Nat)
    (addr : DWord) (sbytes leader : Nat) (dense assay : Bool) (tile : Option (List Byte × List Byte)) : State :=
  let o : Op :=
    { flag := (st.clause.map (·.setB)).getD 15, setB := true, holders := crew, wg := st.wg, warp := st.warp
      dstV := [], dstS := [], res := [], sres := [], external := true, ahead := none }
  let r : MxeReq :=
    { wg := st.wg, op := s.next, word := (encode i).headD 0, inl := (encode i).getD 1 0, passw := w, done := 0
      total := total, addr := addr, sbytes := sbytes, leader := leader, uid := u, lead := st.names, pc := st.pc
      acceptTick := s.mod.tick.toNat, order := s.next, lastGrant := none, dense := dense
      assay := assay, tile := tile }
  let s := { s with ops := tset s.ops s.next o, next := s.next + 2 }
  let s := s.setSched fun d => { d with mxe := tset d.mxe (s.next - 1) r }
  crew.foldl (fun t v => t.updStrand v fun x => x.complete s.mod.clock) s

/-- Every strand of a crew takes the trap of a failed acceptance check: an access fault names no address (R322). -/
def State.crewTrap (s : State) (crew : List Nat) (cls : Nat) (addr : DWord) : State :=
  crew.foldl (fun t v => t.takeTrap v { cls := cls, addr := if cls = 0x17 then 0 else addr, fatal := true }) s

/-- A crew parks on a replayable fault of the reads that its acceptance makes (R140, R325). -/
def State.crewPark (s : State) (crew : List Nat) (cls : Nat) (addr : DWord) : State :=
  crew.foldl (fun t v => t.takeTrap v { cls := cls, addr := addr, elems := [(cls, 0, addr.toNat)] }) s

/-- The reads of an acceptance that are not there: replayable faults park the crew, answers are awaited. -/
def State.crewWait (s : State) (a : Asker) (wg : Nat) (crew : List Nat) (ks : List Ask) (pages : List (Nat × DWord)) : State :=
  match pages with
  | p :: _ => (s.clearAnswers a).crewPark crew p.1 p.2
  | [] => s.askAll a (s.wgOf wg).core elemVc ks

/-- The tile's packed values, or how their read stands. -/
def State.tileValues (s : State) (a : Asker) (wg idx : Nat) (t : Tile) : MatRead := s.matRead a wg idx t.values (valueBytes t)

/-- The bits of element `n` of packed elements. -/
def packedAt (bits : Nat) (b : List Byte) (n : Nat) : Nat :=
  if bits = 4 then (b.getD (n / 2) 0).toNat / 16 ^ (n % 2) % 16
  else if bits = 8 then (b.getD n 0).toNat
  else (b.getD (2 * n) 0).toNat + 256 * (b.getD (2 * n + 1) 0).toNat

/-- Packs elements of a width into bytes, low nibble first. -/
def packElems (bits : Nat) (xs : List Nat) : List Byte :=
  if bits = 4 then
    (List.range ((xs.length + 1) / 2)).map fun i => BitVec.ofNat 8 (xs.getD (2 * i) 0 % 16 + 16 * (xs.getD (2 * i + 1) 0 % 16))
  else xs.flatMap fun x => leBytes (bits / 8) x

/-- The expansion of a sparse tile: presence bits in order, each taking the next packed value. -/
def expandTile (bits : Nat) (vals : List Byte) (map : List Byte) : List Nat :=
  (map.foldl (fun (r : List Nat × Nat) b =>
    (List.range 8).foldl (fun r i => if b.getLsbD i then (packedAt bits vals r.2 :: r.1, r.2 + 1) else (0 :: r.1, r.2)) r)
    ([], 0)).1.reverse

/-- The translations that the reads of a tile miss (R137): of its descriptor, its bitmap and its values. -/
def State.tileMisses (s : State) (a : Asker) (wg : Nat) (desc : DWord) : State :=
  let s := s.matMisses wg desc 64
  match s.matRead a wg 0 desc 64 with
  | .data b =>
    let t := Tile.ofBytes b
    (s.matMisses wg t.bitmap (512 * t.kb)).matMisses wg t.values (valueBytes t)
  | _ => s

/-- The path of an MMAS (R326), its tile read: the dense fallback, with the elements; a cached program; or the walk. -/
inductive TilePath where
  | dense (xs : List Byte)
  | assay
  | walk
  | fault (cls : Nat) (addr : DWord)
  | wait (ks : List Ask) (pages : List (Nat × DWord))
  deriving DecidableEq, Repr

/-- Chooses the path (R326). -/
def State.tilePath (s : State) (a : Asker) (wg : Nat) (desc : DWord) (d m : List Byte) : TilePath :=
  let t := Tile.ofBytes d
  let w := s.wgOf wg
  if tileDense t m then
    match s.tileValues a wg (16 + 8 * t.kb) t with
    | .wait k p => .wait k p
    | .fault c x => .fault c x
    | .data v => .dense (packElems (fmtBits t.fmt) (expandTile (fmtBits t.fmt) v m))
  else if (tget s.sched.assay (quadOf w.core) []).any fun x => x.ctx == (s.gridOf w.grid).ctx && x.desc == desc then .assay
  else .walk

/-- The memory keys of a run of a context's bytes, of another module's beyond those of this one (R327); none: some of the
bytes cannot be read now. -/
def State.runKeys (s : State) (wg : Nat) (a : DWord) (n : Nat) : Option (List (Nat × Nat)) :=
  let w := s.wgOf wg
  match s.places (dieOf w.core) ⟨(s.gridOf w.grid).ctx, some wg⟩ .read a.toNat n with
  | .error _ => none
  | .ok l => some (l.map fun p => match p.2.2 with
    | .loc k | .sealed k _ => (k, p.2.1)
    | .peer m d => (peerKey m d, p.2.1))

/-- The program that the assayer compiles of a tile, with the bytes that invalidate it (R326, R327): all of them are known
(log entry 116). -/
def State.assayOf (s : State) (wg : Nat) (desc : DWord) (d : List Byte) : Option Assay :=
  let t := Tile.ofBytes d
  match s.runKeys wg desc 64, s.runKeys wg t.bitmap (512 * t.kb), s.runKeys wg t.values (valueBytes t) with
  | some x, some y, some z => some { ctx := (s.gridOf (s.wgOf wg).grid).ctx, desc := desc, runs := x ++ y ++ z }
  | _, _, _ => none

/-- What the choice of a path does beside the request (R326): the expanded tile in HA's range; the use of a cached program; or
the start of a compilation of the tile whose descriptor is `d`. -/
def State.takePath (s : State) (wg : Nat) (a : ObRec) (desc : DWord) (d : List Byte) (p : TilePath) : State :=
  let w := s.wgOf wg
  let q := quadOf w.core
  let key := ((s.gridOf w.grid).ctx, desc)
  match p with
  | .dense xs => s.homeRun (dieOf w.core) (w.obase + a.off) xs
  | .assay => s.setSched fun d =>
      let l := tget d.assay q []
      { d with assay := tset d.assay q (l.filter (fun x => (x.ctx, x.desc) == key) ++ l.filter fun x => (x.ctx, x.desc) != key) }
  | .walk =>
    if s.sched.assaying.any fun x => x.1 == q && (x.2.ctx, x.2.desc) == key then s
    else match s.assayOf wg desc d with
      | some x => s.setSched fun y => { y with assaying := y.assaying ++ [(q, x)] }
      | none => s
  | _ => s

/-- Accepts an MMAS on the path of R326. What was written before is read whole (R327). -/
def State.acceptTile (s : State) (u : Nat) (st : Strand) (i : Instr) (crew : List Nat) (w : Word) (desc : DWord)
    (leader : Nat) : State :=
  let a := s.obRec st.wg (Instr.handles i).1
  let who := Asker.strand u
  let s := s.publish.tileMisses who st.wg desc
  match s.tileGet who st.wg a desc with
  | .fault c x => (s.clearAnswers who).crewTrap crew c x
  | .wait k p => s.crewWait who st.wg crew k p
  | .ok d m =>
    match s.tilePath who st.wg desc d m with
    | .wait k p => s.crewWait who st.wg crew k p
    | .fault c x => (s.clearAnswers who).crewTrap crew c x
    | p =>
      let dense := match p with
        | .dense _ => true
        | _ => false
      ((s.clearAnswers who).takePath st.wg a desc d p).acceptReq u st i crew w (passP w) desc 0 leader dense (p == .assay) (some (d, m))

/-- ACCEPTANCE (R307, R317, R322): a latch that has closed, or one strand, goes to acceptance; `u` waits there. -/
def State.mxeAccept (s : State) (u : Nat) : State :=
  match tfind s.strands u with
  | none => s
  | some st =>
    if st.block == .accept then
      let i := st.standing
      match i with
      | .accz sa =>
        let h := (st.sreg sa.toNat).toNat % 16
        let r := s.obRec st.wg h
        if !r.v || r.kind != 2 then s.takeTrap u { cls := 0x17 }
        else if s.mxeRoom st.wg then s.acceptReq u st i [u] (st.sreg sa.toNat) 1 0 0 0 false false none
        else s
      | .salient sa _ _ _ =>
        let w := st.sreg sa.toNat
        if !s.salientCheck i st.wg w then s.takeTrap u { cls := 0x17 }
        else if s.mxeRoom st.wg then s.acceptReq u st i [u] w (passP w) 0 0 0 false false none
        else s
      | _ => s
    else if st.block == .crew st.latchValue then
      let l := s.latch st
      match (if s.latchClosed st l then s.leaderOf st l else none) with
      | none => s
      | some (bit, v) =>
        match tfind s.strands v with
        | none => s
        | some lead =>
          let i := lead.standing
          let crew := l.map (·.1)
          let go := fun (sa : BitVec 6) (stream : DWord) (sbytes : Nat) (accepted : Word → State) =>
            let w := lead.sreg sa.toNat
            match s.acceptCheck i lead.wg w stream sbytes with
            | some (c, x) => s.crewTrap crew c x
            | none => if s.mxeRoom lead.wg then accepted w else s
          let plain := fun (stream : DWord) (sbytes : Nat) (w : Word) =>
            (s.rsScales lead (bit % 16) i w).acceptReq v lead i crew w (passP w) stream sbytes bit false false none
          match i with
          | .mma sa _ _ _ => go sa 0 0 (plain 0 0)
          | .mmaRs sa _ _ _ _ _ _ _ => go sa 0 0 (plain 0 0)
          | .mman sa _ _ _ _ _ _ _ _ => go sa 0 0 (plain 0 0)
          | .mmaSs sa sb sc _ _ _ =>
            let n := (lead.sreg sc.toNat).toNat
            go sa (lead.dreg sb.toNat) n (plain (lead.dreg sb.toNat) n)
          | .mmas sa sb _ _ _ => go sa 0 0 fun w => s.acceptTile v lead i crew w (lead.dreg sb.toNat) bit
          | _ => s
    else s

/-- MXE_REQUEST_ACCEPT: strand `a` waits for acceptance, for which there is room now. -/
def execMxeRequestAccept (s : State) : Out := .next (s.mxeAccept s.arg.a)

/-! ## Crew instructions (R317), SALIENT and ACCZ -/

/-- A CREW INSTRUCTION (R317): the strand arrives at the latch, which may close with it; a warp that CREW does not name
faults. -/
def crewOp (i : Instr) (uses : List Use) : State → Out :=
  issue i (fun _ => uses) noExcess fun s c st =>
    let w := s.wgOf st.wg
    let r := w.w % (s.gridAt st).hdr.gang
    if st.warps.all fun x => (crewNames w.crew).contains (r, x) then (s.wait c (.crew w.crew)).mxeAccept c.uid
    else s.takeTrap c.uid { cls := 0x17, pc := some c.pc }

/-- MMA (R318). -/
def execMma (sa : BitVec 6) (ha hb hc : BitVec 4) : State → Out := crewOp (.mma sa ha hb hc) (useS sa)

/-- The vector registers that RSEL names from a base (R320). -/
def rselUse (base : BitVec 6) (rsel : BitVec 8) : List Use :=
  (List.range 4).map fun u => (1, base.toNat + (rsel.toNat / 4 ^ u % 4))

/-- MMA.RS (R320). -/
def execMmaRs (sa sb sc : BitVec 6) (ha hb hc : BitVec 4) (sel : BitVec 1) (rsel : BitVec 8) : State → Out :=
  crewOp (.mmaRs sa sb sc ha hb hc sel rsel) (useS sa ++ rselUse sb rsel ++ rselUse sc rsel)

/-- MMA.SS (R321). -/
def execMmaSs (sa sb sc : BitVec 6) (ha hb hc : BitVec 4) : State → Out :=
  crewOp (.mmaSs sa sb sc ha hb hc) (useS sa ++ useS sb 2 ++ useS sc)

/-- MMAS (R325). -/
def execMmas (sa sb : BitVec 6) (ha hb hc : BitVec 4) : State → Out :=
  crewOp (.mmas sa sb ha hb hc) (useS sa ++ useS sb 2)

/-- MMAN (R328). -/
def execMman (sa sb sc : BitVec 6) (form : BitVec 1) (ha hb hc : BitVec 4) (sel : BitVec 1) (rsel : BitVec 8) : State → Out :=
  crewOp (.mman sa sb sc form ha hb hc sel rsel)
    (useS sa ++ if form == 1 then rselUse sb rsel ++ rselUse sc rsel else [])

/-- SALIENT (R329): one strand asks for acceptance. -/
def execSalient (sa : BitVec 6) (ha hb hc : BitVec 4) : State → Out :=
  issue (.salient sa ha hb hc) (fun _ => useS sa) noExcess fun s c _ => (s.wait c .accept).mxeAccept c.uid

/-- ACCZ (R324): one strand asks for acceptance. -/
def execAccz (sa : BitVec 6) : State → Out := issue (.accz sa) (fun _ => useS sa) noExcess fun s c _ => (s.wait c .accept).mxeAccept c.uid

/-! ## The arbiter (R308 to R310) -/

/-- A request may be granted (R310): no earlier accepted one of the workgroup has its destination. -/
def State.mxeReady (s : State) (q : Nat) (r : MxeReq) : Bool :=
  (s.tableOf q).all fun x => x.2.wg != r.wg || x.2.dest != r.dest || r.order ≤ x.2.order

/-- PRIO of a request's grid. -/
def State.mxePrio (s : State) (r : MxeReq) : Nat := (s.gridOf (s.wgOf r.wg).grid).prio

/-- `x` goes before `y` (R308). -/
def State.mxeBefore (s : State) (x y : MxeReq) : Bool :=
  let gx := x.lastGrant.getD x.acceptTick
  let gy := y.lastGrant.getD y.acceptTick
  if s.mxePrio x != s.mxePrio y then s.mxePrio y < s.mxePrio x
  else if gx != gy then gx < gy
  else x.order < y.order

/-- Clocks of a dense pass of two formats (R309). -/
def denseClocks (a b : Nat) : Nat := if a = 2 && b = 2 then 32 else if 4 ≤ a then 128 else 64

/-- Presence bits of K block `p` of a request's tile, as its bitmap was read (R327). -/
def MxeReq.blockBits (r : MxeReq) (p : Nat) : List Byte := (((r.tile.map (·.2)).getD []).drop (512 * p)).take 512

/-- MXE clocks of the next pass (R309, R324, R326, R328, R329). -/
def State.passClocks (s : State) (r : MxeReq) : Nat :=
  let i := r.instr
  let (ha, hb, _) := Instr.handles i
  let a := s.obRec r.wg ha
  let b := s.obRec r.wg hb
  let dense := denseClocks a.fmt b.fmt * (if b.split then 1 else 4)
  match i with
  | .accz _ => 16
  | .salient .. => denseClocks a.fmt a.fmt
  | .mman .. => dense * a.n / 32
  | .mmas .. =>
    if r.assay then max 8 (microOps 129 (r.blockBits (passK0 r.passw + r.done)) + 1) else dense
  | _ => dense

/-- PWRSTAT.MXECLK (R14). -/
def State.mxeclk (s : State) : Nat := (s.mod.pwrstat.extractLsb' 8 8).toNat

/-- MXE_PASS_GRANT (R308): the arbiter of quad `a` grants the next pass of one ready request of a resident gang, also one that
drains in a grid that ends (R88). -/
def execMxePassGrant (s : State) : Out :=
  let q := s.arg.a
  if (tfind s.sched.running q).isSome then .next s
  else
    let rs := (s.tableOf q).filter fun r => s.mxeReady q r.2 &&
      (match tfind (s.gridOf (s.wgOf r.2.wg).grid).gangs ((s.wgOf r.2.wg).w / (s.gridOf (s.wgOf r.2.wg).grid).hdr.gang) with
        | some g => g.st == .resident
        | none => false)
    match rs.foldl (fun (b : Option (Nat × MxeReq)) r => match b with
      | none => some r
      | some x => if s.mxeBefore r.2 x.2 then some r else some x) none with
    | none => .next s
    | some (id, r) =>
      let n := (s.passClocks r * 32 + max 1 s.mxeclk - 1) / max 1 s.mxeclk
      .next (s.setSched fun d => { d with
        running := tset d.running q (id, s.mod.clock + n)
        mxe := tmod d.mxe id fun x => { x with lastGrant := some s.mod.tick.toNat } })

/-! ## Passes (R178 to R180, R319) -/

/-- The value of an operand element (R178). -/
def elemValue (fmt x : Nat) : Fv :=
  match fmt with
  | 0 => Fmt.e4m3.decode x
  | 1 => Fmt.e5m2.decode x
  | 2 => Fmt.e2m1.decode x
  | 3 => let v := (BitVec.ofNat 8 x).toInt; .fin (decide (v < 0)) v.natAbs 0
  | 4 => Fmt.bf16.decode x
  | _ => Fmt.f16.decode x

/-- A value times the scale of a code (R165, R178); code 0xFF is NaN. -/
def scaleValue (v : Fv) (code : Nat) : Fv :=
  if code = 255 then .nan false
  else match v with
    | .fin n m e => .fin n m (e + (code : Int) - 127)
    | x => x

/-- An exact product; a zero product counts as +0 (R319). -/
def product (x y : Fv) : Fv :=
  match mulValue x y with
  | .fin n m e => if m = 0 then .fin false 0 0 else .fin n m e
  | v => v

/-- One entry of a pass on .f32 accumulators: the sum exact, one rounding (R179). -/
def passEntry (c : Nat) (ps : List Fv) : Nat :=
  if Fmt.f32.isNaN c then 0x7FC00000
  else match sumValues 0 (Fmt.f32.decode c :: ps) with
    | none => 0x7FC00000
    | some (.inl neg) => Fmt.f32.sign neg + Fmt.f32.infBits
    | some (.inr x) => (Fmt.f32.round Ctl.home x).1

/-- One entry of a pass on .i32 accumulators (R179). -/
def passEntryInt (c : Nat) (xs : List (Nat × Nat)) : Nat :=
  (BitVec.ofNat 32 c + BitVec.ofInt 32 (xs.foldl (fun (t : Int) x =>
    t + (BitVec.ofNat 8 x.1).toInt * (BitVec.ofNat 8 x.2).toInt) 0)).toNat

/-- The 128 × 32 elements of one K block of A, as bits, row by row (R312, R328). -/
def State.aBlock (s : State) (wg : Nat) (r : ObRec) (kb : Nat) : List (List Nat) :=
  let base := (s.wgOf wg).obase + r.off
  let bits := fmtBits r.fmt
  (List.range 128).map fun i =>
    if r.kind = 3 then
      let b := mread s.mem (base + (128 * kb + i) * r.rn) r.rn
      let m := BitVec.ofNat 32 (leNat (b.take 4))
      ((List.range 32).foldl (fun (x : List Nat × Nat) c =>
        if m.getLsbD c then ((if x.2 < r.n then packedAt bits (b.drop 4) x.2 else 0) :: x.1, x.2 + 1) else (0 :: x.1, x.2))
        ([], 0)).1.reverse
    else
      let b := mread s.mem (base + kb * slab r.fmt + i * (32 * bits / 8)) (32 * bits / 8)
      (List.range 32).map (packedAt bits b)

/-- The 32 × 128 elements of one K block of B, as bits, row by row (R312). -/
def State.bBlock (s : State) (wg : Nat) (r : ObRec) (kb : Nat) : List (List Nat) :=
  let bits := fmtBits r.fmt
  (List.range 32).map fun k =>
    if r.split then
      (List.range 4).flatMap fun q =>
        let base := (s.wgOf ((s.memberOn wg q).getD wg)).obase + r.off + kb * (slab r.fmt / 4)
        let b := mread s.mem (base + k * (32 * bits / 8)) (32 * bits / 8)
        (List.range 32).map (packedAt bits b)
    else
      let b := mread s.mem ((s.wgOf wg).obase + r.off + kb * slab r.fmt + k * (128 * bits / 8)) (128 * bits / 8)
      (List.range 128).map (packedAt bits b)

/-- The scale vector `t` of a record. -/
def State.scaleVec (s : State) (wg : Nat) (r : ObRec) (t : Nat) : List Nat :=
  (mread s.mem ((s.wgOf wg).obase + r.soff + 128 * t) 128).map (·.toNat)

/-- The operand bytes that a pass reads are poisoned (R19, R331); `data`, `scales`: it reads the data, the scale vectors. -/
def State.passPoison (s : State) (wg : Nat) (r : ObRec) (kb : Nat) (data scales : Bool) : Bool :=
  let n := if r.kind = 1 && r.split then r.unit / 4 else r.unit
  let t0 := 32 * kb / r.l
  (data && if r.kind = 1 && r.split then
    (List.range 4).any fun q => s.poisoned ((s.wgOf ((s.memberOn wg q).getD wg)).obase + r.off + kb * n) n
  else s.poisoned ((s.wgOf wg).obase + r.off + kb * n) n) ||
  (scales && fmtScaled r.fmt && s.poisoned ((s.wgOf wg).obase + r.soff + t0 * 128) (128 * ((32 * kb + 31) / r.l + 1 - t0)))

/-- The A rows of a pass: of an MMAS that is not dense, out of the tile (R180, R326). -/
inductive ARows where
  | rows (l : List (List Nat))
  | fault (cls : Nat) (addr : DWord)
  | wait (ks : List Ask) (pages : List (Nat × DWord))
  deriving DecidableEq, Repr

/-- Rows of 32 out of a flat list. -/
def rowsOf : Nat → List Nat → List (List Nat)
  | 0, _ => []
  | f + 1, l => l.take 32 :: rowsOf f (l.drop 32)

/-- The A rows of K block `kb` of a request: of an MMAS on the walk or the assay path out of the tile. -/
def State.passRows (s : State) (id : Nat) (r : MxeReq) (a : ObRec) (kb : Nat) : ARows :=
  match r.instr, r.tile with
  | .mmas .., some (d, m) =>
    if r.dense then .rows (s.aBlock r.wg a kb)
    else
      let t := Tile.ofBytes d
      match s.tileValues (.mxe id) r.wg (16 + 8 * t.kb) t with
      | .fault c x => .fault c x
      | .wait k p => .wait k p
      | .data v => .rows (rowsOf 128 ((expandTile (fmtBits t.fmt) v m).drop (4096 * kb)))
  | _, _ => .rows (s.aBlock r.wg a kb)

/-- The read of scale block `t` of an MMA.SS from its stream, where it has not been read before (R321). -/
def State.passStream (s : State) (id : Nat) (r : MxeReq) (a : ObRec) (t : Nat) : MatRead :=
  match r.instr, tfind r.stream t with
  | .mmaSs .., none =>
    s.matRead (.mxe id) r.wg (4096 + 8 * t) (r.addr + BitVec.ofNat 64 (256 * (t - (scaleBlocks a r.passw).1))) 256
  | _, x => .data (x.getD [])

/-- The scale codes of K position `k` of block `kb`: of the rows of A by A's blocks, of the columns of B by B's (R178, R312); of an
MMA.SS, from its stream, both by A's (R321). -/
def State.passScales (s : State) (r : MxeReq) (a b : ObRec) (kb k : Nat) : List Nat × List Nat :=
  match r.instr with
  | .mmaSs .. =>
    let x := (tget r.stream ((32 * kb + k) / a.l) []).map (·.toNat)
    (x.take 128, x.drop 128)
  | _ => (s.scaleVec r.wg a ((32 * kb + k) / a.l), s.scaleVec r.wg b ((32 * kb + k) / b.l))

/-- The new C of a pass (R179), entry by entry in row-major order. -/
def State.passResult (s : State) (r : MxeReq) (a b c : ObRec) (kb : Nat) (rows : List (List Nat)) : List Nat :=
  let bs := s.bBlock r.wg b kb
  let scaled := fmtScaled a.fmt
  let codes := (List.range 32).map (s.passScales r a b kb)
  let av := rows.map fun row => (row.zipIdx).map fun x => elemValue a.fmt x.1
  let bv := (bs.zipIdx).map fun row => row.1.map (elemValue b.fmt)
  (List.range 128).flatMap fun i => (List.range 128).map fun j =>
    let old := (s.cEntry r.wg c i j).toNat
    if a.fmt = 3 then
      passEntryInt old ((List.range 32).map fun k => ((rows.getD i []).getD k 0, (bs.getD k []).getD j 0))
    else
      passEntry old ((List.range 32).map fun k =>
        let x := (av.getD i []).getD k (.fin false 0 0)
        let y := (bv.getD k []).getD j (.fin false 0 0)
        if scaled then
          product (scaleValue x ((codes.getD k ([], [])).1.getD i 0)) (scaleValue y ((codes.getD k ([], [])).2.getD j 0))
        else product x y)

/-- The bytes of C in the order of its layout. -/
def cBytes (layout : Bool) (xs : List Nat) : List Byte :=
  (List.range 16384).flatMap fun n => leBytes 4 (xs.getD (if layout then n % 128 * 128 + n / 128 else n) 0)

/-! ## SALIENT (R329) -/

/-- How a magnitude ranks: NaN, then +∞, then finite by size. -/
def rankKey (v : Fv) : Nat × Nat × Int :=
  match v with
  | .nan _ => (2, 0, 0)
  | .inf _ => (1, 0, 0)
  | .fin _ m e => (0, m, e)

/-- `x` ranks strictly above `y`. -/
def rankAbove (x y : Fv) : Bool :=
  let a := rankKey x
  let b := rankKey y
  if a.1 != b.1 then b.1 < a.1
  else if a.1 != 0 then false
  else
    let e := min a.2.2 b.2.2
    b.2.1 * 2 ^ (b.2.2 - e).toNat < a.2.1 * 2 ^ (a.2.2 - e).toNat

/-- The `n` highest positions of a row, ties to the lower position, in ascending order. -/
def topOf (n : Nat) (vs : List Fv) : List Nat :=
  (List.range vs.length).filter fun c =>
    let v := vs.getD c (.fin false 0 0)
    ((List.range vs.length).filter fun d =>
      let w := vs.getD d (.fin false 0 0)
      rankAbove w v || (d < c && !rankAbove v w)).length < n

/-- The row records of one output block of SALIENT. -/
def State.salientBlock (s : State) (r : MxeReq) (a b c : ObRec) (kb : Nat) : List Byte :=
  let ws := s.aBlock r.wg a kb
  let gs := s.aBlock r.wg b kb
  let bits := fmtBits a.fmt
  let sc := fun (x : ObRec) (k i : Nat) => if fmtScaled x.fmt then (s.scaleVec r.wg x ((32 * kb + k) / x.l)).getD i 0 else 127
  (List.range 128).flatMap fun i =>
    let row := ws.getD i []
    let vs := (List.range 32).map fun k =>
      mulValue (scaleValue (elemValue a.fmt (row.getD k 0)) (sc a k i))
        (scaleValue (elemValue b.fmt ((gs.getD i []).getD k 0)) (sc b k i))
    let top := topOf c.n vs
    let rec_ := leBytes 4 (top.foldl (fun m k => m + 2 ^ k) 0) ++ packElems bits (top.map fun k => row.getD k 0)
    rec_ ++ List.replicate (c.rn - rec_.length) 0

/-! ## The end of a pass -/

/-- A request is over: its flag is idle, and strands that waited for it look again (R307, R313). `keep`: a fault has ended it, and
its record stays (R193). -/
def State.reqOver (s : State) (id : Nat) (r : MxeReq) (keep : Bool) : State :=
  (((((({ s with ops := tdel s.ops r.op }).clearAnswers (.mxe id)).forgetHolds (.mxe id)).setSched fun d => { d with
    mxe := if keep then tmod d.mxe id fun x => { x with ended := true } else tdel d.mxe id }).wakeRequests r.wg).accReady id)

/-- A fault of kind G during a pass is reported at the crew's wait (R331); the accumulators stay, and so does the count of
passes (R193). -/
def State.failReq (s : State) (id : Nat) (r : MxeReq) (cls : Nat) (addr : DWord) : State :=
  let o := tfind s.ops r.op
  let s := s.reqOver id r true
  match o with
  | none => s
  | some o => o.holders.foldl (fun t u => t.postAsync u
      { waitOn := [.flag o.flag], id := id, by_ := r.uid, quiet := false, cls := BitVec.ofNat 8 cls, pc := r.pc, addr := addr
        first := r.lead.1, sufn := r.lead.2, write := false }) s

/-- One pass has written its results (R319). -/
def State.passDone (s : State) (id : Nat) (r : MxeReq) : State :=
  let s := (s.clearAnswers (.mxe id)).forgetHolds (.mxe id)
  if r.done + 1 < r.total then s.setSched fun d => { d with mxe := tmod d.mxe id fun x => { x with done := x.done + 1 } }
  else s.reqOver id r false

/-- A pass waits for what it asks for (R331). -/
def State.passWait (s : State) (id : Nat) (r : MxeReq) (ks : List Ask) (pages : List (Nat × DWord)) : State × Bool :=
  (s.matAsk (.mxe id) (s.wgOf r.wg).core (s.gridOf (s.wgOf r.wg).grid).ctx ks pages, true)

/-- ACCZ (R324) and SALIENT (R329): the pass writes what it makes of the records. -/
def State.runPlain (s : State) (id : Nat) (r : MxeReq) : State :=
  let (ha, hb, hc) := Instr.handles r.instr
  let a := s.obRec r.wg ha
  let b := s.obRec r.wg hb
  let w := s.wgOf r.wg
  let kb := passK0 r.passw + r.done
  match r.instr with
  | .accz _ =>
    let c := s.obRec r.wg r.dest
    (s.homeStore (dieOf w.core) (w.obase + c.off) (List.replicate 65536 0) true).passDone id r
  | _ =>
    let c := s.obRec r.wg hc
    if s.passPoison r.wg a kb true true || s.passPoison r.wg b kb true true then s.failReq id r 0x1A 0
    else
      let s' := s.homeRun (dieOf w.core) (w.obase + c.off + 128 * r.done * c.rn) (s.salientBlock r a b c kb)
      let s' := if fmtScaled a.fmt then
        (List.range ((32 + a.l - 1) / a.l)).foldl (fun (t : State) u =>
          let n := (32 * kb / a.l) + u
          let d := 32 * r.done / a.l + u
          if d < c.nsb && n < a.nsb then
            t.homeRun (dieOf w.core) (w.obase + c.soff + 128 * d) (mread s.mem (w.obase + a.soff + 128 * n) 128)
          else t) s'
      else s'
      s'.passDone id r

/-- What a pass needs before it can be computed: the scale blocks of an MMA.SS (R321), and after a restore the tile of an MMAS,
with its path (R330). The state, the request as it then stands, and whether the pass waits or is over. -/
def State.passReads (s : State) (id : Nat) (r : MxeReq) (a : ObRec) (kb : Nat) : State × MxeReq × Option Bool :=
  let stop := fun (x : State × Bool) => (x.1, r, some x.2)
  match r.instr, r.tile with
  | .mmas .., none =>
    let s := s.tileMisses (.mxe id) r.wg r.addr
    match s.tileGet (.mxe id) r.wg a r.addr with
    | .fault c x => stop (s.failReq id r c x, false)
    | .wait k p => stop (s.passWait id r k p)
    | .ok d m =>
      match s.tilePath (.mxe id) r.wg r.addr d m with
      | .fault c x => stop (s.failReq id r c x, false)
      | .wait k p => stop (s.passWait id r k p)
      | p =>
        let dense := match p with
          | .dense _ => true
          | _ => false
        let r' := { r with tile := some (d, m), dense := dense, assay := p == .assay }
        ((s.takePath r.wg a r.addr d p).setSched fun q => { q with mxe := tset q.mxe id r' }, r', none)
  | .mmaSs .., _ =>
    let t0 := 32 * kb / a.l
    let t1 := (32 * kb + 31) / a.l
    let s := s.matMisses r.wg (r.addr + BitVec.ofNat 64 (256 * (t0 - (scaleBlocks a r.passw).1))) (256 * (t1 + 1 - t0))
    match s.passStream id r a t0, s.passStream id r a t1 with
    | .fault c x, _ => stop (s.failReq id r c x, false)
    | _, .fault c x => stop (s.failReq id r c x, false)
    | .data x, .data y =>
      let add := fun (t : Nat) (b : List Byte) (l : Tab (List Byte)) => if (tfind l t).isSome then l else tset l t b
      let r' := { r with stream := add t1 y (add t0 x r.stream) }
      (s.setSched fun q => { q with mxe := tset q.mxe id r' }, r', none)
    | .wait k p, .wait l q => stop (s.passWait id r (k ++ l) (p ++ q))
    | .wait k p, _ => stop (s.passWait id r k p)
    | _, .wait k p => stop (s.passWait id r k p)
  | _, _ => (s, r, none)

/-- The passes of a request read HA's data range: all but those of an MMAS on the walk or the assay path (R326). -/
def MxeReq.readsA (r : MxeReq) : Bool :=
  match r.instr with
  | .mmas .. => r.dense
  | _ => true

/-- A pass of an MMA, MMAS or MMAN acts (R319): the state, or that it still waits. Scratchpad and tile bytes are read whole
(R161, R327). -/
def State.runMma (s : State) (id : Nat) (r : MxeReq) : State × Bool :=
  let (ha, hb, hc) := Instr.handles r.instr
  let w := s.wgOf r.wg
  let kb := passK0 r.passw + r.done
  let a := s.obRec r.wg ha
  let b := s.obRec r.wg hb
  let c := s.obRec r.wg hc
  let ss := match r.instr with
    | .mmaSs .. => true
    | _ => false
  match s.publish.passReads id r a kb with
  | (t, _, some waits) => (t, waits)
  | (t, r, none) =>
    if t.passPoison r.wg a kb r.readsA (!ss) || t.passPoison r.wg b kb true (!ss) || t.poisoned (w.obase + c.off) 65536 then
      (t.failReq id r 0x1A 0, false)
    else
      match t.passRows id r a kb with
      | .fault k x => (t.failReq id r k x, false)
      | .wait k p => t.passWait id r k p
      | .rows l =>
        ((t.homeStore (dieOf w.core) (w.obase + c.off) (cBytes c.layout (t.passResult r a b c kb l)) true).passDone id r, false)

/-- The pass that a quad's MXE runs acts (R319, R324, R329): the state, or that it still waits. -/
def State.runPass (s : State) (id : Nat) (r : MxeReq) : State × Bool :=
  match r.instr with
  | .accz _ | .salient .. => (s.runPlain id r, false)
  | _ => if s.overflowHeld (.mxe id) (dieOf (s.wgOf r.wg).core) then (s, true) else s.runMma id r

/-- MXE_PASS_COMPLETE (R319, R330): the pass of quad `a` that has run its clocks writes its results. -/
def execMxePassComplete (s : State) : Out :=
  let q := s.arg.a
  match tfind s.sched.running q with
  | none => .next s
  | some (id, till) =>
    if s.mod.clock < till then .next s
    else match tfind s.sched.mxe id with
      | none => .next (s.setSched fun d => { d with running := tdel d.running q })
      | some r =>
        let (t, waits) := s.runPass id r
        .next (if waits then t else t.setSched fun d => { d with running := tdel d.running q })

/-- ASSAY_INSTALL (R326): the assayer of quad `a` installs the program it has compiled; of 64 entries the least recently
used one that no running request of the quad uses gives way. -/
def execAssayInstall (s : State) : Out :=
  let q := s.arg.a
  match s.sched.assaying.find? fun x => x.1 == q with
  | none => .next s
  | some (_, x) =>
    let s := s.setSched fun d => { d with assaying := d.assaying.filter (· != (q, x)) }
    let old := (tget s.sched.assay q []).filter fun y => y.ctx != x.ctx || y.desc != x.desc
    let used := fun y : Assay => s.sched.mxe.any fun z =>
      z.2.assay && !z.2.ended && quadOf (s.wgOf z.2.wg).core == q && z.2.addr == y.desc &&
        (s.gridOf (s.wgOf z.2.wg).grid).ctx == y.ctx
    let kept := if old.length < 64 then old
      else match (old.reverse.find? fun y => !used y) with
        | some y => old.filter (· != y)
        | none => old
    .next (if kept.length < 64 then s.setSched fun d => { d with assay := tset d.assay q (x :: kept) } else s)

end Sys2Proof.Machine
end

