-- ==== Sys2Proof/Machine/System.lean ====
section
/-! DEFINITION. Work pools (R95 to R97, R346), SUCC and WAITPRED (R98, R99, R348), control registers (R349 to R351), time,
timer and trace (R201, R352 to R354). -/

namespace Sys2Proof.Machine

/-! ## Work pools (R95 to R97, R346) -/

/-- A pool descriptor. -/
structure Pool where
  ring : Nat
  caps : Nat
  open_ : Nat
  head : Nat
  tail : Nat
  fulls : Nat
  deriving DecidableEq, Repr

/-- The descriptor at a memory key, or none where it breaks the limits of R95. -/
def poolRead (m : Memory) (k : Nat) : Option Pool :=
  let w := fun o n => leNat (mread m (k + o) n)
  let p : Pool := { ring := w 0 8, caps := w 8 4, open_ := w 12 4, head := w 16 8, tail := w 24 8, fulls := w 32 8 }
  if p.ring % 4096 == 0 && 4 ≤ p.caps && p.caps ≤ 20 && w 40 8 == 0 && w 48 16 == 0 then some p else none

/-- Where a pool's descriptor and the 32-byte entry with index `i` lie, or the class of the fault: a broken descriptor
or a ring that fails translation is "pool invalid" (R96). -/
def State.poolPlace (s : State) (st : Strand) (addr : DWord) : Except Bad (Nat × Pool) :=
  match s.resolve (dieOf st.core) (s.who st) (.atomic true) addr 64 with
  | .error b => .error b
  | .ok (.loc k) =>
    if addr.toNat % 64 != 0 || 2 ^ 40 ≤ k then .error (.cls 0x20)
    else match poolRead s.mem k with
      | none => .error (.cls 0x20)
      | some p => .ok (k, p)
  | .ok _ => .error (.cls 0x20)

/-- The address of the entry with index `i` of a ring. -/
def Pool.entry (p : Pool) (i : Nat) : DWord := BitVec.ofNat 64 (p.ring + i % 2 ^ p.caps * 32)

/-- Another strand's entry of this pool, at the key of its descriptor, is under way to or from another module. -/
def State.poolTaken (s : State) (u k : Nat) : Bool :=
  (s.fab.reqs.any fun r => r.2.asker != .strand u && r.2.idx == 2 ^ 67 + k) ||
    s.fab.answers.any fun a => a.asker != .strand u && a.idx == 2 ^ 67 + k

/-- The entry a pool operation writes (`data`) or reads, where it has one: where it lies, with the bytes that another module
has answered; or what the operation does first. A ring that fails translation is "pool invalid" (R96); a full miss queue
(R137) and poison in the entry read (R19) are the faults that they are elsewhere (log entry 118). -/
def State.poolEntry (s : State) (c : Issue) (st : Strand) (acc : Acc) (k : Nat) (e : DWord) (used : Bool) (data : List Byte) :
    Except State (Place × List Byte) :=
  let a := Asker.strand c.uid
  match s.resolve (dieOf st.core) (s.who st) acc e 32 with
  | .error (.ats p) => .error (s.wait c (.ats p))
  | .error (.cls 0x1A) =>
    if used then .error (s.takeTrap c.uid { cls := 0x1A, addr := e, flags := acc.flag, pc := some c.pc }) else .ok (.peer 0 0, [])
  | .error (.cls 0x12) => .error (s.takeTrap c.uid { cls := 0x12, addr := e, flags := acc.flag, pc := some c.pc })
  | .error (.cls _) => .error (s.takeTrap c.uid { cls := 0x20, pc := some c.pc })
  | .ok (.peer m d) =>
    if !used then .ok (.peer m d, [])
    else if s.poolTaken c.uid k then .error (s.wait c .remote)
    else match s.answerTo a (2 ^ 67 + k) with
      | none => .error ((s.askAll a st.core elemVc [⟨2 ^ 67 + k, if acc.writes then 2 else 1, m, d, 32, 0, data, []⟩]).wait c .remote)
      | some x => match x.fault with
        | some f =>
          .error ((s.clearAnswers a).takeTrap c.uid { cls := f.toNat, addr := e, flags := acc.flag, pc := some c.pc })
        | none => .ok (.peer m d, x.data)
  | .ok (.loc l) => .ok (.loc l, mread s.mem l 32)
  | .ok (.sealed l o) => .ok (.sealed l o, s.sealedRead (s.ctxNo st) l 32)

/-- A POOL OPERATION: the placer that owns the pool acts at once, and the status arrives with the flag. `idx` is the entry's
index; none: the operation has none. -/
def poolOp (i : Instr) (uses : List Use) (sa sb sc : BitVec 6) (acc : Acc) (idx : Pool → Nat) (used : Pool → Bool)
    (act : State → Strand → Nat → Pool → Place → List Byte → State × Nat × List Word) : State → Out :=
  issue i (fun _ => uses) noExcess fun s c st =>
    let addr := st.dreg sa.toNat
    let s := (s.releaseSync st 4).noteMiss (dieOf st.core) (s.who st) addr
    match s.poolPlace st addr with
    | .error (.ats p) => s.wait c (.ats p)
    | .error (.cls k) =>
      s.takeTrap c.uid { cls := k, addr := if k < 0x20 then addr else 0, flags := if k < 0x20 then 8 else 0, pc := some c.pc }
    | .ok (k, p) =>
      let s := s.noteMiss (dieOf st.core) (s.who st) (p.entry (idx p))
      match s.poolEntry c st acc k (p.entry (idx p)) (used p) (st.sbytes sb.toNat 32) with
      | .error t => t
      | .ok (e, b) =>
        let r := act s st k p e b
        let ws := ((r.2.2).zipIdx).map fun w => (sb.toNat + w.2, w.1)
        ((r.1.startOp c st [] ((if i == .poold sa sb sc then (List.range 8).map (sb.toNat + ·) else []) ++ [sc.toNat]) []
          (ws ++ [(sc.toNat, BitVec.ofNat 32 r.2.1)]) false none).clearAnswers (.strand c.uid)).retire c i

/-- A ring has no room for one more entry. -/
def Pool.full (p : Pool) : Bool := decide (p.head + 2 ^ p.caps ≤ p.tail)

/-- POOLP: a release at module scope; the entry and the close bit are read at issue. -/
def execPoolp (sa sb sc : BitVec 6) : State → Out :=
  poolOp (.poolp sa sb sc) (useS sc ++ useS sa 2 ++ useS sb 8) sa sb sc .write (·.tail) (fun p => !p.full) fun s st k p e _ =>
    let die := dieOf st.core
    if p.full then (s.homeStore die (k + 32) (leBytes 8 (p.fulls + 1)) false, 1, [])
    else
      let close := (st.sreg sc.toNat).getLsbD 0
      let s := match e with
        | .loc l => s.homeStore die l (st.sbytes sb.toNat 32) false
        | .sealed l o => s.sealedStore die (s.ctxNo st) o l (st.sbytes sb.toNat 32) false
        | .peer _ _ => s
      let s := s.homeStore die (k + 24) (leBytes 8 (p.tail + 1)) false
      if close && 0 < p.open_ then (s.homeStore die (k + 12) (leBytes 4 (p.open_ - 1)) false, 0, [])
      else (s, if close then 3 else 0, [])

/-- POOLD: with status 0 an acquire at module scope. -/
def execPoold (sa sb sc : BitVec 6) : State → Out :=
  poolOp (.poold sa sb sc) (useS sb 8 ++ useS sc ++ useS sa 2) sa sb sc .read (·.head) (fun p => decide (p.head < p.tail)) fun s st k p _ b =>
    if p.head < p.tail then
      let ws := (List.range 8).map fun i => BitVec.ofNat 32 (leNat ((b.drop (4 * i)).take 4))
      ((s.homeStore (dieOf st.core) (k + 16) (leBytes 8 (p.head + 1)) false).acquireAt st 4, 0, ws)
    else (s, if p.open_ = 0 then 2 else 1, [])

/-! ## SUCC and WAITPRED (R98, R99, R348) -/

/-- SCOPE of a grid's top level (R69). -/
def Grid.topScope (g : Grid) : Nat := ((g.levels.getLast?).map (·.scope)).getD 0

/-- SUCC: the workgroup has signalled; a release at the scope of the successor's top level. -/
def execSucc : State → Out :=
  issue .succ (fun _ => []) noExcess fun s c st =>
    let w := s.wgOf st.wg
    let s := match s.grids.find? fun g => g.2.pred == some w.grid with
      | some g => s.releaseSync st g.2.topScope
      | none => s
    (s.updGrid w.grid fun g =>
      { g with signalled := if g.signalled.contains w.w then g.signalled else g.signalled ++ [w.w] }).retire c .succ

/-- WAITPRED. -/
def execWaitpred : State → Out :=
  issue .waitpred (fun _ => []) noExcess fun s c st =>
    let g := s.gridAt st
    match g.pred with
    | none => s.retire c .waitpred
    | some p => match (s.gridOf p).st with
      | .done 0 => (s.acquireAt st (max g.topScope 4)).retire c .waitpred
      | .done _ => s.takeTrap c.uid { cls := 0x0A, pc := some c.pc }
      | _ => s.wait c .waitpred

/-! ## Control registers (R349 to R351) -/

/-- PORTSTAT.p (R31). -/
def Port.stat (p : Port) : DWord :=
  BitVec.ofNat 64 (p.st.toNat * 2 ^ 60 + min p.retrains 255 * 2 ^ 48 + min p.replays 0xFFFFFF * 2 ^ 24 + min p.feccor 0xFFFFFF)

/-- S-window address of a workgroup's allocation, 0 where it has none (R143). -/
def State.sbase (s : State) (k : Nat) : Nat :=
  let w := s.wgOf k
  if (s.gridOf w.grid).hdr.scratch = 0 then 0 else 2 ^ 56 + w.core * 2 ^ 20 + w.soff

/-- The share level of a workgroup's allocation (R144). -/
def State.share (s : State) (k : Nat) : Nat := ((s.home.allocs.find? fun a => a.wg == k).map (·.level.toNat)).getD 0

/-- The strand in a slot of a core. -/
def State.inSlot (s : State) (core n : Nat) : Option (Nat × Strand) := (s.strandsOn core).find? fun x => x.2.slot == n

/-- SLOTINFO.n as a handler of a workgroup reads it (R200). -/
def State.slotInfo (s : State) (st : Strand) (n : Nat) : DWord :=
  match s.inSlot st.core n with
  | none => 0
  | some (u, x) =>
    if x.wg != st.wg then 0
    else
      let e := s.eligible u x
      BitVec.ofNat 64 ((if x.isRange then 1 else 2) * 2 ^ 62 + (if e then 2 ^ 61 else 0) +
        (if e then 0 else s.reason u x) * 2 ^ 57 + (if x.isLane then x.warp else 0))

/-- The PC that a read of SLOTINFO.n samples. -/
def State.slotPcNow (s : State) (st : Strand) (n : Nat) : DWord :=
  match s.inSlot st.core n with
  | none => 0
  | some x => if x.2.wg != st.wg then 0 else (x.2.pc.extractLsb' 0 48).setWidth 64

/-- The stall account of a core withholds itself from a handler while a workgroup of another, confidential context is
on the core (R209). -/
def State.withheld (s : State) (st : Strand) : Bool :=
  (s.wgsOn st.core).any fun x => (s.gridOf x.2.grid).ctx != s.ctxNo st && (s.ctxOf (s.gridOf x.2.grid).ctx).conf

/-- Registers that only the timer handler reads (R350). -/
def csrHandler (n : Nat) : Bool :=
  n == 0x090 || (0x098 ≤ n && n ≤ 0x09F) || (0x0A0 ≤ n && n ≤ 0x0AF) || (0x400 ≤ n && n ≤ 0x7FF)

/-- The value of a control register to a strand (R350); FLAGS holds every event so far (log entry 106). -/
def State.csr (s : State) (st : Strand) (n : Nat) : DWord :=
  let w := s.wgOf st.wg
  let g := s.gridAt st
  let core := (tget s.cores st.core coreReset).caughtUp s.mod.clock
  if n == 0x000 || n == 0x001 then BitVec.ofNat 64 st.names.1
  else if n == 0x002 then BitVec.ofNat 64 st.count
  else if n == 0x003 then BitVec.ofNat 64 w.w
  else if n == 0x008 then st.tile.setWidth 64
  else if n == 0x009 then st.mode.setWidth 64
  else if n == 0x00A then ((s.strandsOf st.wg).foldl (fun f x => f ||| x.2.sticky) w.sticky).setWidth 64
  else if n == 0x00B then w.satctl.setWidth 64
  else if n == 0x00C then w.crew
  else if n == 0x00D then BitVec.ofNat 64 (s.sbase st.wg)
  else if n == 0x00E then BitVec.ofNat 64 (s.share st.wg)
  else if 0x011 ≤ n && n ≤ 0x013 then (tget st.route (n - 0x010) 0x2000).setWidth 64
  else if n == 0x020 then s.mod.tick
  else if n == 0x021 then BitVec.ofNat 64 st.core
  else if n == 0x022 then BitVec.ofNat 64 (quadOf st.core)
  else if n == 0x023 then BitVec.ofNat 64 (dieOf st.core)
  else if n == 0x024 then BitVec.ofNat 64 s.modnum
  else if 0x033 ≤ n && n ≤ 0x037 then ((g.coords w.w).getD (n - 0x033) 0).setWidth 64
  else if 0x03B ≤ n && n ≤ 0x03F then
    BitVec.ofNat 64 (if n - 0x038 < g.nlev then (g.levels.getD (n - 0x038 - 2) ⟨0, 0, 0⟩).extent else 0)
  else if n == 0x040 then w.tmvec
  else if n == 0x041 then w.trbase
  else if n == 0x042 then w.trctl
  else if n == 0x080 then s.mod.modcap
  else if n == 0x081 then s.mod.pwrstat
  else if n == 0x082 then s.mod.twcfg
  else if 0x084 ≤ n && n ≤ 0x087 then tget s.mod.qmask (n - 0x084) 0
  else if 0x088 ≤ n && n ≤ 0x08B then tget s.mod.pmask (n - 0x088) 0
  else if n == 0x090 then (if core.counting then 1 else 0)
  else if 0x098 ≤ n && n ≤ 0x09F then (if s.withheld st then 0 else BitVec.ofNat 64 (tget core.elig (n - 0x098) 0))
  else if 0x0A0 ≤ n && n ≤ 0x0AF then (if s.withheld st then 0 else BitVec.ofNat 64 (tget core.stall (n - 0x0A0) 0))
  else if 0x0C0 ≤ n && n ≤ 0x0CF then tget s.fab.dbar (n - 0x0C0) 0
  else if 0x100 ≤ n && n ≤ 0x13F then (s.port (n - 0x100)).stat
  else if 0x200 ≤ n && n ≤ 0x23F then (tget s.fab.windows (n - 0x200) windowReset).base
  else if 0x240 ≤ n && n ≤ 0x27F then (tget s.fab.windows (n - 0x240) windowReset).ctl
  else if 0x400 ≤ n && n ≤ 0x5FF then s.slotInfo st (n - 0x400)
  else match tfind core.slotPc (n - 0x600) with
    | some x => if x.1 == st.wg then x.2 else 0
    | none => 0

/-- CSRR (R349): reading SLOTINFO.n samples SLOTPC.n (R200). -/
def execCsrr (sd : BitVec 6) (num : BitVec 12) : State → Out :=
  let n := num.toNat
  issue (.csrr sd num) (fun _ => useS sd 2) noExcess fun s c st =>
    if csrHandler n && !st.isHandler then s.takeTrap c.uid { cls := 0x17, pc := some c.pc }
    else
      let v := s.csr st n
      let s := if 0x400 ≤ n && n ≤ 0x5FF then
          s.updCore st.core fun x => { x with slotPc := tset x.slotPc (n - 0x400) (st.wg, s.slotPcNow st (n - 0x400)) }
        else s
      (s.updStrand c.uid fun x => x.setD sd.toNat v).retire c (.csrr sd num)

/-- What a write of a control register does, or none where it faults (R349). Every strand of the workgroup meets the new
SATCTL or CREW at once (log entry 105). -/
def State.csrWrite (s : State) (c : Issue) (st : Strand) (n : Nat) (v : DWord) : Option State :=
  if n == 0x008 then
    if v.toNat < 1 || 5 < v.toNat then none
    else some (s.updStrand c.uid fun x => { x with tile := v.extractLsb' 0 3 })
  else if n == 0x009 then
    if 256 ≤ v.toNat || v.getLsbD 3 then none
    else some (s.updStrand c.uid fun x => { x with mode := v.extractLsb' 0 8 })
  else if n == 0x00A then
    if 128 ≤ v.toNat then none
    else some ({ s with strands := tmap s.strands fun _ x =>
        if x.wg == st.wg then { x with sticky := v.extractLsb' 0 7 } else x }.updWg st.wg fun g => { g with sticky := 0 })
  else if n == 0x00B then
    if 8 ≤ v.toNat then none else some (s.updWg st.wg fun g => { g with satctl := v.extractLsb' 0 3 })
  else if n == 0x00C then
    if s.crewBad st v then none else some (s.updWg st.wg fun g => { g with crew := v })
  else if n == 0x00E then
    if 4 < v.toNat || (v.toNat == 4 && (s.ctxOf (s.ctxNo st)).conf) then none
    else some (s.setHome fun h => { h with
      allocs := h.allocs.map fun a => if a.wg == st.wg && a.level.toNat < v.toNat then { a with level := v.extractLsb' 0 3 } else a })
  else if n == 0x040 then
    if v.toNat % 4 != 0 then none else some (s.updWg st.wg fun g => { g with tmvec := v })
  else if n == 0x041 then
    if v.toNat % 4096 != 0 then none else some (s.updWg st.wg fun g => { g with trbase := v })
  else if n == 0x042 then
    if v.extractLsb' 52 11 != 0 || v.extractLsb' 32 16 != 0 then none
    else some (s.updWg st.wg fun g => { g with trctl := v &&& ~~~(0xFFFFFFFF : DWord) })
  else if n == 0x090 then
    if !st.isHandler || 4 ≤ v.toNat then none
    else some (s.updCore st.core fun x => { x.caughtUp s.mod.clock with
      counting := v.getLsbD 0
      elig := if v.getLsbD 1 then [] else x.elig
      stall := if v.getLsbD 1 then [] else x.stall })
  else none

/-- CSRW (R349). -/
def execCsrw (sa : BitVec 6) (num : BitVec 12) : State → Out :=
  issue (.csrw sa num) (fun _ => useS sa 2) noExcess fun s c st =>
    match s.csrWrite c st num.toNat (st.dreg sa.toNat) with
    | none => s.takeTrap c.uid { cls := 0x17, pc := some c.pc }
    | some t => t.retire c (.csrw sa num)

/-! ## Time, timer and trace (R352 to R354) -/

/-- TICK. -/
def execTick (sd : BitVec 6) : State → Out :=
  issue (.tick sd) (fun _ => useS sd 2) noExcess fun s c _ =>
    (s.updStrand c.uid fun x => x.setD sd.toNat s.mod.tick).retire c (.tick sd)

/-- SLEEP. -/
def execSleep (sa : BitVec 6) : State → Out :=
  issue (.sleep sa) (fun _ => useS sa) noExcess fun s c st =>
    let n := (st.sreg sa.toNat).toNat
    if n = 0 then s.retire c (.sleep sa) else s.wait c (.sleep (s.mod.tick.toNat + n))

/-- TMARM. -/
def execTmarm (sa : BitVec 6) : State → Out :=
  issue (.tmarm sa) (fun _ => useS sa) noExcess fun s c st =>
    if (s.wgOf st.wg).tmvec = 0 then s.takeTrap c.uid { cls := 0x17, pc := some c.pc }
    else
      let n := (st.sreg sa.toNat).toNat
      (s.updWg st.wg fun g => { g with
        tmexp := if n = 0 then 0 else s.mod.tick.toNat + n
        tmArgs := (st.dreg 48, st.dreg 50) }).retire c (.tmarm sa)

/-- LOGSZ, WRAP and HEAD of TRCTL (R201). -/
def trLog (v : DWord) : Nat := (v.extractLsb' 48 4).toNat
def trWrap (v : DWord) : Bool := v.getLsbD 63
def trHead (v : DWord) : Nat := (v.extractLsb' 0 32).toNat

/-- TRACE (R354). -/
def execTrace (sa sb : BitVec 6) (code : BitVec 10) : State → Out :=
  let i : Instr := .trace sa sb code
  issue i (fun _ => useS sa 2 ++ useS sb 2) noExcess fun s c st =>
    let w := s.wgOf st.wg
    let n := 2 ^ (trLog w.trctl + 6)
    let h := trHead w.trctl
    if (trLog w.trctl = 0 && w.trbase = 0) || (!trWrap w.trctl && n ≤ h) then s.retire c i
    else
      let addr := w.trbase + BitVec.ofNat 64 (32 * (h % n))
      let data := leBytes 8 s.mod.tick.toNat ++ leBytes 2 st.core ++ leBytes 2 code.toNat ++ leBytes 4 w.w ++
        leBytes 8 (st.dreg sa.toNat).toNat ++ leBytes 8 (st.dreg sb.toNat).toNat
      s.uniformAccess c st i .write addr 32 (askWrite (fun _ => data) ⟨0, addr, 32⟩) fun x p =>
        (x.storeAll [(st.view, p, data)]).updWg st.wg fun g => { g with trctl := (g.trctl &&& ~~~(0xFFFFFFFF : DWord)) ||| BitVec.ofNat 64 ((h + 1) % 2 ^ 32) }

end Sys2Proof.Machine
end

