-- ==== Sys2Proof/Machine/Launch.lean ====
section
/-! DEFINITION. Launch records, kernel headers and workgroup areas (R54 to R56, R58, R68, R70, R73), and LAUNCH (R347). -/

namespace Sys2Proof.Machine

/-! ## The record (R54) -/

/-- Little-endian field of a list of bytes. -/
def fieldAt (b : List Byte) (o n : Nat) : Nat := leNat ((b.drop o).take n)

/-- A record of 128 bytes (R53, R54). -/
structure Rec where
  kind : Nat
  prio : Nat
  dep : Bool
  irq : Bool
  ivec : Nat
  nlev : Nat
  zero : Bool
  seq : BitVec 32
  khdr : DWord
  param : DWord
  paramsz : Nat
  /-- bits 47:0 of bytes 24 to 31 are zero -/
  paramZero : Bool
  levels : List Nat
  compaddr : DWord
  compval : DWord
  /-- bytes 96 to 127 are zero -/
  tail : Bool
  deriving DecidableEq, Repr

/-- Reads a record's fields. -/
def Rec.ofBytes (b : List Byte) : Rec :=
  let w := fieldAt b 0 8
  { kind := w / 2 ^ 60, prio := w / 2 ^ 57 % 8, dep := w / 2 ^ 56 % 2 == 1, irq := w / 2 ^ 55 % 2 == 1
    ivec := w / 2 ^ 44 % 2048, nlev := w / 2 ^ 40 % 16, zero := w / 2 ^ 32 % 256 == 0, seq := BitVec.ofNat 32 w
    khdr := BitVec.ofNat 64 (fieldAt b 8 8), param := BitVec.ofNat 64 (fieldAt b 16 8)
    paramsz := fieldAt b 24 8 / 2 ^ 48, paramZero := fieldAt b 24 8 % 2 ^ 48 == 0
    levels := (List.range 6).map fun i => fieldAt b (32 + 8 * i) 8
    compaddr := BitVec.ofNat 64 (fieldAt b 80 8), compval := BitVec.ofNat 64 (fieldAt b 88 8)
    tail := fieldAt b 96 32 == 0 }

/-- The vector that a record asks for, where it is a valid one. -/
def Rec.vector (r : Rec) : Option Nat := if r.irq && 3 ≤ r.ivec then some r.ivec else none

/-- The fields that SIGNAL and ISYNC check (R53). -/
def Rec.shortOk (r : Rec) : Bool :=
  (!r.irq || 3 ≤ r.ivec) && r.zero && r.compaddr.toNat % 16 == 0 && r.tail

/-- A level word (R54). -/
def levelOf (w : Nat) : Level := { extent := w / 2 ^ 32, domain := w / 2 ^ 29 % 8, scope := w / 2 ^ 26 % 8 }

/-- The levels in use. -/
def Rec.used (r : Rec) : List Level := (r.levels.take (r.nlev - 2)).map levelOf

/-- The rules of R54 on a LAUNCH record alone. -/
def Rec.ok (r : Rec) (prioMax : Nat) : Bool :=
  let ls := r.used
  r.kind == 1 && r.shortOk && r.prio ≤ prioMax && 3 ≤ r.nlev && r.nlev ≤ 8 && r.khdr.toNat % 64 == 0 &&
    r.param.toNat % 16 == 0 && r.paramsz % 16 == 0 && r.paramsz ≤ 32768 && r.paramZero &&
    (r.levels.drop (r.nlev - 2)).all (· == 0) && (r.levels.take (r.nlev - 2)).all (· % 2 ^ 26 == 0) &&
    ls.all (fun l => 1 ≤ l.extent && l.domain ≤ 4 && l.scope ≤ 5 && l.domain ≤ l.scope) &&
    (match ls.head? with
      | some l => l.extent ≤ 2 ^ 24 && l.domain == 0
      | none => false) &&
    (ls.zip (ls.drop 1)).all fun p => p.1.domain ≤ p.2.domain

/-! ## The kernel header (R55) -/

/-- A header of version 2, or none where it breaks a limit. -/
def headerOf2 (b : List Byte) : Option Header :=
  let f := fieldAt b
  let h : Header :=
    { format := f 6 1, gang := f 7 1, entry := BitVec.ofNat 64 (f 8 8), scratch := f 16 4, obuf := f 20 4, vblk := f 24 1
      acqmax := f 25 1, barwg := f 26 1, bargang := f 27 1, barclus := f 28 1, bargrid := f 29 1
      mode := BitVec.ofNat 8 (f 30 1), flags := BitVec.ofNat 8 (f 31 1), callarea := f 32 4, ctxarea := f 36 4
      parammin := f 40 4 }
  if f 0 4 == 0x31374B43 && f 4 2 == 2 && h.format ≤ 1 && 1 ≤ h.gang && h.gang ≤ 4 &&
      (h.format == 0 || h.entry.toNat % 64 == 0) && h.scratch % 256 == 0 && h.scratch ≤ 393216 && h.obuf % 4096 == 0 &&
      h.obuf ≤ 262144 && 1 ≤ h.vblk && h.vblk ≤ 8 && h.vblk ≤ h.acqmax && h.acqmax ≤ 8 && h.barwg ≤ 16 &&
      h.bargang ≤ 16 && h.barclus ≤ 16 && h.bargrid ≤ 16 && !h.mode.getLsbD 3 && h.flags.toNat < 4 &&
      h.callarea % 64 == 0 && h.ctxarea % 64 == 0 && f 44 20 == 0 then some h
  else none

/-- A header: version 1 is read as the 6000 series defines it. -/
def headerOf (b : List Byte) : Option Header :=
  if fieldAt b 0 4 == 0x31374B43 && fieldAt b 4 2 == 1 then headerOf2 (Config.header6000 b) else headerOf2 b

/-! ## What fits where (R68, R70, R73, R143) -/

/-- How many of a resource of `all` fit where each takes `n`. -/
def fitOf (all n cap : Nat) : Nat := if n = 0 then cap else all / n

/-- How many workgroups of a grid fit on one empty core (R70); a slice has 64 allocation entries (R143). -/
def Grid.perCore (g : Grid) : Nat :=
  let h := g.hdr
  [fitOf 512 (g.lanes * h.vblk) 512, fitOf 512 g.slots 512, fitOf 128 g.forms 512, fitOf 393216 h.scratch 512,
    fitOf 262144 h.obuf 512, fitOf 32 h.barwg 512, (if h.scratch = 0 then 512 else 64)].foldl min 512

/-- How many gangs of a grid fit on one empty quad. -/
def Grid.perQuad (g : Grid) : Nat := min (4 * g.perCore / g.hdr.gang) (fitOf 32 g.hdr.bargang 2048)

/-- How many gangs of a grid fit in an empty cluster, whole cluster instances only where one level is bound to cluster. -/
def State.perCluster (s : State) (g : Grid) (k : Nat) : Nat :=
  let quads := ((List.range 4).filter fun i => s.quadUp (4 * k + i)).length
  let room := quads * g.perQuad
  match g.bound 2 with
  | none => room
  | some l =>
    let unit := g.units (l + 1) / g.hdr.gang
    min (room / unit) (fitOf 32 g.hdr.barclus 2048) * unit

/-- How many gangs of a grid fit on an empty die, whole die instances only where one level is bound to die. -/
def State.perDie (s : State) (g : Grid) (d : Nat) : Nat :=
  let room := ((List.range 16).map fun k => s.perCluster g (16 * d + k)).foldl (· + ·) 0
  match g.bound 3 with
  | none => room
  | some l => let unit := g.units (l + 1) / g.hdr.gang; room / unit * unit

/-- The constraints of R68 on the bindings. -/
def Grid.boundOk (g : Grid) : Bool :=
  g.nwg % g.hdr.gang == 0 && (g.hdr.barclus == 0 || (g.bound 2).isSome) &&
    (List.range g.nlev).all fun k =>
      k < 3 ||
        let l := g.levels.getD (k - 2) ⟨1, 4, 0⟩
        match l.domain with
        | 0 => l.extent == 1
        | 1 => g.units (k + 1) == g.hdr.gang
        | _ => g.units (k + 1) % g.hdr.gang == 0

/-- The grounds of R73 on which a record is rejected do not hold. -/
def State.fits (s : State) (g : Grid) : Bool :=
  g.ctxMin ≤ g.hdr.ctxarea && (!g.hdr.barriers || g.warps * g.hdr.vblk ≤ 512) && 1 ≤ g.perCore && 1 ≤ g.perQuad &&
    (g.hdr.bargrid == 0 ||
      g.nwg / g.hdr.gang ≤ ((List.range 4).map fun d => s.perDie g d).foldl (· + ·) 0) &&
    (g.hdr.barclus == 0 || (List.range 64).any fun k => 0 < s.perCluster g k)

/-! ## Workgroup areas (R56) -/

/-- The lowest 64-byte aligned address of a context's pool where `n` bytes are free. -/
def Ctx.freeRun (c : Ctx) (n : Nat) : Option DWord :=
  let lo := c.waPool.toNat
  let ends := lo :: c.runs.map fun r => r.2.1.toNat + r.2.2
  let free := fun a : Nat =>
    a + n ≤ lo + c.waSize && c.runs.all fun r => a + n ≤ r.2.1.toNat || r.2.1.toNat + r.2.2 ≤ a
  ((ends.filter free).foldl (fun (m : Option Nat) a => some (m.elim a (min a))) none).map fun a => BitVec.ofNat 64 a

/-- A live grid without a run takes one where it fits; its gangs have been placeable from then on at the earliest. -/
def State.takeRun (s : State) (g : Nat) : State :=
  let gr := s.gridOf g
  if gr.area.isSome || gr.st != .live then s
  else
    let n := gr.nwg * gr.areaBytes
    match (s.ctxOf gr.ctx).freeRun n with
    | none => s
    | some a =>
      (s.updCtx gr.ctx fun c => { c with runs := c.runs ++ [(g, a, n)] }).updGrid g fun x => { x with area := some a }

/-- Every grid that waits for a run, in the order of launch. -/
def State.takeRuns (s : State) : State :=
  (s.grids.filter fun g => g.2.area.isNone && g.2.st == .live).foldl (fun t g => t.takeRun g.1) s

/-! ## Vorxus modules (R58, R60) -/

/-- A function of a module (R58): addresses of its body, stub and name, bytes of the body and its count of regions. -/
structure VFn where
  body : Nat
  len : Nat
  regions : Nat
  stub : Nat
  name : Nat
  deriving DecidableEq, Repr

/-- The stub of a function lies whole in the code heap. -/
def VFn.inHeap (f : VFn) (c : Ctx) : Bool :=
  f.stub % 32 == 0 && c.heapBase.toNat ≤ f.stub && f.stub + 32 ≤ c.heapBase.toNat + c.heapSize

/-- Entry `i` of the function table of a module at `a`, whose string table lies at `names`. -/
def fnEntry (t : List Byte) (a names i : Nat) : VFn where
  body := a + fieldAt t (32 * i) 8
  len := fieldAt t (32 * i + 8) 4
  regions := fieldAt t (32 * i + 12) 4
  stub := fieldAt t (32 * i + 16) 8
  name := names + fieldAt t (32 * i + 24) 8

/-- The functions of a module: header of 32 bytes with magic, version, count F at byte 8 and the offsets of the function
table at byte 16 and of the string table at byte 24; or how the read stands (log entry 83). -/
def State.moduleFns (s : State) (who : Asker) (ctx a : Nat) : Except HeadGot (List VFn) :=
  (s.headTry who ctx a 32).bytes.bind fun h =>
    let n := fieldAt h 8 8
    let c := s.ctxOf ctx
    if fieldAt h 0 4 != 0x58565850 || fieldAt h 4 4 != 1 || n = 0 || c.heapSize < 32 * n then .error .fails
    else (s.headTry who ctx (a + fieldAt h 16 8) (32 * n)).bytes.bind fun t =>
      let fs := (List.range n).map (fnEntry t a (a + fieldAt h 24 8))
      if fs.all fun f => f.inHeap c then .ok fs else .error .fails

/-- The foreman writes into the code heap, whose pages programs cannot write; it passes poison over (R19). -/
def State.heapWrite (s : State) (ctx : Nat) (a : Nat) (b : List Byte) : State :=
  match s.places 0 ⟨ctx, none⟩ .copy a b.length with
  | .error _ => s
  | .ok l =>
    (l.foldl (fun (r : State × Nat) p =>
      (match p.2.2 with
        | .loc k => r.1.homeStore 0 k ((b.drop r.2).take p.2.1) (p.2.1 == 64)
        | .sealed k o => r.1.sealedStore 0 ctx o k ((b.drop r.2).take p.2.1) false
        | .peer _ _ => r.1, r.2 + p.2.1)) (s, 0)).1

/-- The 32 bytes of a clause. -/
def clauseBytes (x : BitVec 256) : List Byte := leBytes 32 x.toNat

/-- Each stub starts out as a trampoline (R60). -/
def State.layStub (s : State) (ctx : Nat) (f : VFn) : State :=
  if (tfind (s.ctxOf ctx).stubs f.stub).isSome then s
  else
    (s.heapWrite ctx f.stub (clauseBytes (Config.vorxusTrampoline (BitVec.ofNat 64 f.stub)))).updCtx ctx fun c =>
      { c with
        stubs := tset c.stubs f.stub { body := BitVec.ofNat 64 f.body, len := f.len, regions := f.regions
                                       name := BitVec.ofNat 64 f.name, staged := none, committed := false }
        heapNext := max c.heapNext (f.stub + 32) }

/-! ## Accepting a launch (R54, R55, R73) -/

/-- What becomes of a launch record: rejected, a grid, or what its headers wait for. -/
inductive Taken where
  | rejected
  | grid (g : Nat)
  | waits (ks : List (Nat × Nat × Nat × Nat))
  deriving DecidableEq, Repr

/-- A launch record is accepted as a grid, or rejected: the state (with the canary event of a header that cannot be
read) and what becomes of the record. `who` asks for what lies in other modules. -/
def State.accept (s : State) (who : Asker) (ctx : Nat) (queue parent : Option Nat) (recNo prioMax : Nat)
    (pred : Option Nat) (r : Rec) : State × Taken :=
  if !r.ok prioMax || (s.ctxOf ctx).fatal then (s, .rejected)
  else match s.headTry who ctx r.khdr.toNat 64 with
    | .fails => (s.headFailed queue 3 r.seq.toNat, .rejected)
    | .waits ks => (s, .waits ks)
    | .data b =>
      match headerOf b with
      | none => (s, .rejected)
      | some h =>
        let g : Grid := { gridNone with
          ctx := ctx, queue := queue, parent := parent, recNo := recNo, prio := r.prio, nlev := r.nlev, levels := r.used
          param := r.param, paramsz := r.paramsz, compaddr := r.compaddr, compval := r.compval, seq := r.seq
          irq := r.vector, hdr := h, pred := pred, st := .live, since := s.mod.tick.toNat }
        if r.paramsz < h.parammin || !g.boundOk || !s.fits g || (s.ctxOf ctx).waSize < g.nwg * g.areaBytes then
          (s, .rejected)
        else match (if h.format = 1 then s.moduleFns who ctx h.entry.toNat else .ok []) with
          | .error (.waits ks) => (s, .waits ks)
          | .error _ => (s, .rejected)
          | .ok fs =>
            let k := s.next
            let entry := match fs.head? with
              | some f => BitVec.ofNat 64 f.stub
              | none => h.entry
            let s := fs.foldl (fun t f => t.layStub ctx f) s.fresh
            let g := { g with hdr := { h with entry := entry } }
            (({ s with grids := tset s.grids k g }).takeRun k, .grid k)

/-! ## LAUNCH (R347) -/

/-- Where the record of LAUNCH lies: 128 bytes of device memory, 64-byte aligned; or the class and address of the
fault. -/
def State.launchPlace (s : State) (st : Strand) (addr : DWord) : Except (Nat × DWord) (List Byte) :=
  let one := fun a : DWord => match s.resolve (dieOf st.core) (s.who st) .read a 64 with
    | .ok (.loc k) => if k < 2 ^ 40 then Except.ok (mread s.mem k 64) else .error (0x17, a)
    | .ok (.sealed k _) => .ok (s.sealedRead (s.ctxNo st) k 64)
    | .ok (.peer _ _) => .error (0x17, a)
    | .error (.ats _) => .error (0x17, a)
    | .error (.cls c) => .error (c, a)
  if s.offRegion st addr 64 then .error (0x10, addr)
  else if s.offRegion st (addr + 64) 64 then .error (0x10, addr + 64)
  else if addr.toNat % 64 != 0 then .error (0x11, addr)
  else match one addr, one (addr + 64) with
  | .error e, _ => .error e
  | .ok _, .error e => .error e
  | .ok x, .ok y => .ok (x ++ y)

/-- Grids that programs of a context have launched and that are not retired. -/
def State.launched (s : State) (ctx : Nat) : Nat :=
  (s.grids.filter fun g => g.2.ctx == ctx && g.2.parent.isSome && match g.2.st with
    | .done _ => false
    | _ => true).length

/-- LAUNCH. While headers lie in other modules, or host translations are awaited, the strand waits (R347). -/
def execLaunch (sa sc : BitVec 6) : State → Out :=
  let i : Instr := .launch sa sc
  issue i (fun _ => useS sc ++ useS sa 2) noExcess fun s c st =>
    let g := s.gridAt st
    let addr := st.dreg sa.toNat
    let s := s.releaseSync st 4
    let give := fun (t : State) (v : Word) =>
      ((t.updStrand c.uid fun x => x.setS sc.toNat v).retire c i).forgetAsks (.strand c.uid)
    if !g.hdr.flags.getLsbD 0 then s.takeTrap c.uid { cls := 0x17, pc := some c.pc }
    else match s.launchPlace st addr with
      | .error (k, a) => s.takeTrap c.uid { cls := k, addr := a, pc := some c.pc }
      | .ok b =>
        if 4096 ≤ s.launched g.ctx then give s 2
        else
          let r := Rec.ofBytes b
          let me := (s.wgOf st.wg).grid
          let x := if r.irq then (s, Taken.rejected)
            else s.accept (.strand c.uid) g.ctx none (some me) 0 g.prio (if r.dep then some me else none) r
          match x.2 with
          | .grid _ => give x.1 0
          | .waits ks => (x.1.headAsk (.strand c.uid) st.core ks).wait c .remote
          | .rejected => give (x.1.completion g.ctx none r.compaddr r.compval r.seq 1 none) 1

end Sys2Proof.Machine
end

