-- ==== Sys2Proof/Machine/Image.lean ====
section
/-! DEFINITION. The image of a workgroup (R89, R90, R117, R330, R386): what it holds, and how the placer writes and reads
it. -/

namespace Sys2Proof.Machine

/-! ## Records (R89, R105, R107) -/

/-- Exactly `n` bytes: cut, or filled with zeros. -/
def padTo (n : Nat) (b : List Byte) : List Byte := b.take n ++ List.replicate (n - b.length) 0

/-- The eight bytes of a run predicate (R111): the values of its runs, how many there are, and where the second and the third
begin. -/
def runBytes (r : List (Nat × Bool)) : List Byte :=
  let v := (r.zipIdx).foldl (fun n x => if x.1.2 then n + 2 ^ x.2 else n) 0
  let a := (r.headD (0, false)).1
  leBytes 8 (v + r.length * 16 + a % 2 ^ 24 * 2 ^ 8 + (a + ((r.drop 1).headD (0, false)).1) % 2 ^ 24 * 2 ^ 32)

/-- The word of a level of a strand's arrival records (R90). -/
def Strand.arrivalWord (st : Strand) (level : Nat) : Nat :=
  ((List.range 16).filterMap fun b =>
    (st.arrivals.find? fun a => a.key.level == level && a.key.b == b && (a.lanes &&& st.spanMask) != 0).map fun a =>
      2 ^ b + a.gen % 2 * 2 ^ (16 + b)).foldl (· + ·) 0

/-- How a strand stands: 0 it runs, 1 it waits, 2 it is parked, 3 it never runs again. -/
def Block.code (b : Block) : Nat :=
  match b with
  | .none => 0
  | .parked .. | .emulate .. | .translate _ => 2
  | .ended => 3
  | _ => 1

/-- The busy flags of a strand (R218). -/
def State.flagMask (s : State) (u : Nat) : Nat := ((List.range 16).filter (s.busy u)).foldl (fun n f => n + 2 ^ f) 0

/-- A strand record (R89, R90): PC; threads; kind, how it stands and its tile; how many return addresses lie on chip, and
SATCTL (R232); MODE, sticky flags and busy flags; how many entries the other stacks have; masks; route slots; CREW (R315);
uniform registers; arrival words; return stack; divergence entries on chip. -/
def State.strandRecord (s : State) (u : Nat) (st : Strand) : List Byte :=
  let k := match st.kind with
    | .range lo n => (1, lo, n)
    | .lane w m => (2, w, m.toNat)
    | .handler => (0, 0, 0)
  padTo 512
    (leBytes 8 st.pc.toNat ++ leBytes 4 k.2.1 ++ leBytes 4 k.2.2 ++ leBytes 1 (k.1 + 4 * st.block.code + 16 * st.tile.toNat) ++
      leBytes 1 (st.ret.length + 16 * (s.wgOf st.wg).satctl.toNat) ++
      leBytes 1 st.mode.toNat ++ leBytes 1 st.sticky.toNat ++ leBytes 2 (s.flagMask u) ++ leBytes 1 st.div.length ++
      leBytes 3 st.frames.length ++
      (List.range 7).flatMap (fun i =>
        if st.isRange then runBytes (st.krun (i + 1)) else leBytes 8 (st.kmask (i + 1)).toNat) ++
      (List.range 3).flatMap (fun i => leBytes 2 (tget st.route (i + 1) 0x2000).toNat) ++
      leBytes 8 (s.wgOf st.wg).crew.toNat ++
      (List.range 64).flatMap (fun r => leBytes 4 (st.sreg r).toNat) ++
      (List.range 6).flatMap (fun l => leBytes 4 (st.arrivalWord l)) ++
      padTo 64 (st.ret.flatMap fun a => leBytes 8 a.toNat) ++ leBytes 8 (st.frames.headD 0).toNat ++
      padTo 64 ((st.div.take 4).flatMap DivEntry.bytes))

/-- A form record (R107). -/
def Strand.formRecord (st : Strand) : List Byte :=
  (List.range 64).flatMap fun r => leBytes 4 (st.form r).base.toNat ++ leBytes 4 (st.form r).stride.toNat

/-- The 1,024 bytes of block `b` of a warp: registers 8b to 8b + 7, lane by lane. -/
def Warp.blockBytes (w : Warp) (b : Nat) : List Byte :=
  (List.range 8).flatMap fun r => (List.range 32).flatMap fun j => leBytes 4 (tget w.regs (32 * (8 * b + r) + j) 0).toNat

/-! ## The image (R89, R90, R117, R330) -/

/-- The entry of one barrier of a workgroup in its image (R89). -/
def State.barEntry (s : State) (wg level b : Nat) : Nat :=
  let w := s.wgOf wg
  let g := s.gridOf w.grid
  let key : BarKey := match level with
    | 1 => ⟨1, wg, 0, b⟩
    | 2 => ⟨2, w.grid, w.w / g.hdr.gang, b⟩
    | 3 => ⟨3, w.grid, (g.bound 2).elim 0 fun k => g.instanceAt k w.w, b⟩
    | 4 => ⟨4, w.grid, 0, b⟩
    | _ => ⟨5, 0, 0, b⟩
  let gen := s.gen key
  let mine := (s.strandsOf wg).filter fun x => !x.2.isHandler
  let gone := w.exited.foldl (fun n e => n + (lanesOf e.2).length) 0
  let count := mine.foldl (fun n x => n + (match x.2.arrivals.find? fun a => a.key == key && a.gen == gen with
    | some a => if x.2.isRange then x.2.count else (lanesOf (a.lanes &&& x.2.allLanes)).length
    | none => 0)) gone
  if g.hdr.declared level ≤ b then 0
  else
    (if mine.all fun x => x.2.hasArrived key gen then 2 ^ 27 else 0) + gen % 2 * 2 ^ 26 +
      (if mine.any fun x => match x.2.block with
        | .barrier ks _ => ks.any fun k => k.1 == key
        | _ => false then 2 ^ 25 else 0) + count

/-- The 64-byte record of an accepted MXE request (R330). -/
def MxeReq.image (r : MxeReq) (ord : Nat) : List Byte :=
  leBytes 4 r.word.toNat ++ leBytes 4 r.inl.toNat ++ leBytes 4 r.passw.toNat ++ leBytes 4 r.done ++
    leBytes 8 r.addr.toNat ++ leBytes 4 r.sbytes ++ leBytes 2 r.leader ++ leBytes 1 ord ++ leBytes 33 0

/-- The strands of a workgroup that its image holds. -/
def State.imageStrands (s : State) (wg : Nat) : List (Nat × Strand) := (s.strandsOf wg).filter fun x => !x.2.isHandler

/-- The image header (R89). `st`: STATE. -/
def State.imageHead (s : State) (wg st : Nat) : List Byte :=
  let w := s.wgOf wg
  let g := s.gridOf w.grid
  let saved := ((tfind g.gangs (w.w / g.hdr.gang)).map (·.since)).getD 0
  leBytes 2 1 ++ leBytes 1 st ++ leBytes 1 0 ++ leBytes 4 (s.imageStrands wg).length ++ leBytes 8 saved ++
    leBytes 2 (quadOf w.core) ++ leBytes 1 (w.core % 4) ++ leBytes 1 0 ++ leBytes 4 w.soff ++ leBytes 4 w.ooff ++
    leBytes 4 0 ++ leBytes 8 w.tmvec.toNat ++ leBytes 8 w.trbase.toNat ++ leBytes 8 w.trctl.toNat ++ leBytes 8 w.tmexp ++
    leBytes 64 0

/-- Scratchpad and operand buffer of a workgroup as its slices hold them. -/
def State.padBytes (s : State) (wg : Nat) : List Byte :=
  let w := s.wgOf wg
  let h := (s.gridOf w.grid).hdr
  mread s.mem (sKey (w.core * 2 ^ 20 + w.soff)) h.scratch ++ mread s.mem w.obase h.obuf

/-- The parts of a workgroup's image that its strands, warps and barriers give, with their offsets in the context area. -/
def State.imageParts (s : State) (wg : Nat) : List (Nat × List Byte) :=
  let w := s.wgOf wg
  let g := s.gridOf w.grid
  let own := (s.imageStrands wg).filter fun x => !x.2.borrowed
  let lent := (s.imageStrands wg).filter fun x => x.2.borrowed
  let bars := [1, 2, 3, 4, 5].flatMap fun l => (List.range 16).flatMap fun b => leBytes 4 (s.barEntry wg l b)
  let reqs := sortBy (fun a b => decide (a.2.order ≤ b.2.order)) (s.sched.mxe.filter fun r => r.2.wg == wg)
  let mxe := padTo 256 ((reqs.zipIdx).flatMap fun r => r.1.2.image r.2)
  let spill := padTo 1024 ((s.spilled wg).flatMap DivEntry.bytes)
  let warp := (List.range g.warps).flatMap fun i =>
    leBytes 4 ((List.range 16).foldl (fun v b => v + s.gen ⟨0, wg, i, b⟩ % 2 * 2 ^ b) 0)
  let slots := 0x6C0 + 64 * ((g.warps + 15) / 16)
  let forms := slots + 512 * g.slots
  let blocks := forms + 512 * g.forms
  let regs := w.warps.flatMap fun x => (List.range g.hdr.acqmax).flatMap fun b =>
    if b < x.2.blocks then x.2.blockBytes b else List.replicate 1024 0
  [(0x80, bars), (0x1C0, mxe), (0x2C0, spill), (0x6C0, warp), (slots, own.flatMap fun x => s.strandRecord x.1 x.2),
    (forms, (own.filter fun x => x.2.isRange).flatMap fun x => x.2.formRecord), (blocks, regs),
    (g.padsAt + g.hdr.scratch + g.hdr.obuf,
      lent.flatMap fun x => s.strandRecord x.1 x.2 ++
        (if x.2.isRange then x.2.formRecord else List.replicate 512 0))]

/-- STATE of the header of a workgroup's image (R89): 0 resident, 1 saving, 2 out, 4 draining. -/
def State.imageSt (s : State) (wg : Nat) : Nat :=
  let w := s.wgOf wg
  let g := s.gridOf w.grid
  match ((tfind g.gangs (w.w / g.hdr.gang)).map (·.st)).getD .resident with
  | .saving => 1
  | .out => 2
  | .dead => 2
  | _ => if (s.imageStrands wg).isEmpty then 4 else 0

/-- Stores parts of a workgroup's image, whose pages programs and the placer reach alike (R56, R89): all of them or none. -/
def State.imageStore (s : State) (wg : Nat) (ps : List (Nat × List Byte)) : Except AreaStop State :=
  let w := s.wgOf wg
  let g := s.gridOf w.grid
  match g.ctxAreaOf w.w with
  | none => .ok s
  | some a =>
    (areaAll (ps.map fun p => s.areaPlan (.image wg) (dieOf w.core) ⟨g.ctx, some wg⟩ (a + p.1, p.2))).map fun l =>
      (s.areaMisses (dieOf w.core) ⟨g.ctx, some wg⟩ (ps.map fun p => (a + p.1, p.2.length))).areaDone (dieOf w.core) g.ctx l.flatten

/-- Poisons the granules of a stored image that were poisoned in the slices (R19). -/
def State.imagePoison (s : State) (wg : Nat) : State :=
  let w := s.wgOf wg
  let g := s.gridOf w.grid
  let pad := sKey (w.core * 2 ^ 20 + w.soff)
  match g.ctxAreaOf w.w with
  | none => s
  | some a =>
    ((List.range ((g.hdr.scratch + g.hdr.obuf) / 64)).filter fun i =>
      s.poisoned (if 64 * i < g.hdr.scratch then pad + 64 * i else w.obase + (64 * i - g.hdr.scratch)) 64).foldl
      (fun (u : State) i =>
        match u.resolve (dieOf w.core) ⟨g.ctx, some wg⟩ .write (BitVec.ofNat 64 (a + g.padsAt + 64 * i)) 16 with
        | .ok (.loc k) => u.poisonAt k 64
        | _ => u) s

/-- Reads a workgroup's image: the bytes that have no poison, then scratchpad and operand buffer, whose poison stays with
them (R19, R91). -/
def State.imageRead (s : State) (wg : Nat) : Except AreaStop (List Byte) :=
  let w := s.wgOf wg
  let g := s.gridOf w.grid
  match g.ctxAreaOf w.w with
  | none => .ok []
  | some a =>
    (areaAll [s.areaGet (.image wg) (dieOf w.core) ⟨g.ctx, some wg⟩ .read (mread s.mem) a g.padsAt,
      s.areaGet (.image wg) (dieOf w.core) ⟨g.ctx, some wg⟩ .copy (mread s.mem) (a + g.padsAt) (g.hdr.scratch + g.hdr.obuf)]).map
      List.flatten

/-- The misses of a read of a workgroup's image are queued (R137). -/
def State.imageMisses (s : State) (wg : Nat) : State :=
  let w := s.wgOf wg
  let g := s.gridOf w.grid
  match g.ctxAreaOf w.w with
  | none => s
  | some a => s.areaMisses (dieOf w.core) ⟨g.ctx, some wg⟩ [(a, g.padsAt), (a + g.padsAt, g.hdr.scratch + g.hdr.obuf)]

/-- Asks other modules for what an access to a workgroup's image awaits. -/
def State.imageAsk (s : State) (wg : Nat) (ks : List Ask) : State := s.askAll (.image wg) (s.wgOf wg).core bulkVc ks

/-- The image in memory of a workgroup whose state has changed is brought up to date (R87, R90): its header, and while the
workgroup is out all of it. What cannot be written is left. -/
def State.imageSync (s : State) (wg : Nat) : State :=
  let w := s.wgOf wg
  let st := s.imageSt wg
  let ps := (0, s.imageHead wg st) :: (if st = 2 then s.imageParts wg ++ [((s.gridOf w.grid).padsAt, w.kept)] else [])
  match s.imageStore wg ps with
  | .ok t => (t.clearAnswers (.image wg)).updWg wg fun x => { x with dirty := false }
  | .error (.remote ks) => s.imageAsk wg ks
  | .error (.ats _) => s
  | .error _ => (s.clearAnswers (.image wg)).updWg wg fun x => { x with dirty := false }

/-- Brings up to date every image that is behind. -/
def State.imageSyncs (s : State) : State :=
  (s.wgs.filter fun w => w.2.dirty).foldl (fun t w => t.imageSync w.1) s

/-- The image of a workgroup that is out, or draining, is behind. -/
def State.touchImage (s : State) (wg : Nat) : State := s.updWg wg fun x => { x with dirty := true }

end Sys2Proof.Machine
end

