-- ==== Sys2Proof/Machine/ModuleEvents.lean ====
section
/-! DEFINITION. The module as a whole: reset and boot (R20 to R24), the throttle and the thermal trip (R12, R13), soft
errors (R18, R19), the fatal dump (R208), and stop on tick (R202). -/

namespace Sys2Proof.Machine

/-- An operation of another agent: one step to a next state. -/
def act (f : State → State) (s : State) : Out := .next (f s)

/-! ## Reset and boot (R20 to R24, R33) -/

/-- RESET_N: the machine as after reset, with the configuration image and the host's memory as they were (log entry 38);
a staged firmware image now runs (R48); an operation that is still to come stays. -/
def State.resetNow (s : State) : State :=
  { State.reset with
    mod := { State.reset.mod with
      image := s.mod.image, firmware := s.mod.staged.or s.mod.firmware
      modcap := State.reset.mod.modcap ||| s.mod.image.modrev.setWidth 64 }
    mem := s.mem.filter fun c => 2 ^ 64 ≤ c.1
    events := s.events }

/-- MODULE_RESET. -/
def execModuleReset : State → Out := act State.resetNow

/-- Bits set in a mask. -/
def popcount {n : Nat} (x : BitVec n) : Nat := ((List.range n).filter fun i => x.getLsbD i).length

/-- Chunks of 2 MiB in service with `c` channels per stack (R16, R20). -/
def chunksFor (c : Nat) : Nat := 12 * (30517 * c / 96)

/-- MODCAP of a boot image (R22). -/
def bootModcap (b : BootImage) : DWord :=
  let quads := (b.quads.map popcount).foldl (· + ·) 0
  let ports := (b.ports.map popcount).foldl (· + ·) 0
  BitVec.ofNat 64 (chunksFor b.channels * 2 ^ 45 + ports * 2 ^ 37 + b.channels * 2 ^ 30 + 12 * 2 ^ 26 + quads * 2 ^ 17 +
    0xF * 2 ^ 13 + b.modrev.toNat)

/-- The least counts with which firmware places a module in service (R20). -/
def bootEnough (b : BootImage) : Bool :=
  192 ≤ (b.quads.map popcount).foldl (· + ·) 0 && 88 ≤ b.channels && b.channels ≤ 96 &&
    48 ≤ (b.ports.map popcount).foldl (· + ·) 0

/-- A port of a die is in service. -/
def bootPortUp (b : BootImage) (p : Nat) : Bool := (b.ports.getD (p / 16) 0).getLsbD (p % 16)

/-- A size of the BAR2 aperture (R47): a power of two from 256 MiB to 1 TiB; any other number is the least. -/
def barSize (n : Nat) : Nat := if (List.range 13).any fun i => n == 2 ^ (28 + i) then n else 2 ^ 28

/-- Firmware fences units and writes the capability registers, TWCFG, the fenced ports' STATE, the channels' buffers and
thresholds, the size of BAR2, and the boot values of windows and domain barriers (R20 to R23, R29, R31, R33, R46, R47). -/
def State.boot (s : State) : State :=
  let b := s.mod.image
  if s.mod.booted || s.mod.failedBoot then s
  else if !bootEnough b then s.setMod fun m => { m with failedBoot := true }
  else
    let s := s.setMod fun m => { m with
      booted := true
      modcap := bootModcap b
      qmask := (List.range 4).map fun d => (d, (b.quads.getD d 0))
      pmask := (List.range 4).map fun d => (d, (b.ports.getD d 0).setWidth 64)
      twcfg := BitVec.ofNat 64 (b.modnum.toNat * 2 ^ 16 + (if b.master then 2 ^ 15 else 0)) }
    let s := s.setHost fun h => { h with bar2Size := barSize b.bar2Size }
    let s := (List.range 64).foldl (fun t p => t.updPort p fun x =>
      { x with st := if bootPortUp b p then x.st else 3, size := b.sizes, xoff := b.xoff, xon := b.xon }) s
    let s := (b.windows.filter fun w => decide (w.1 < 64)).foldl (fun t w => (t.setBase w.1 w.2.1).setCtl w.1 w.2.2) s
    (b.dbars.filter fun d => decide (d.1 < 16)).foldl (fun t d => t.setDbar d.1 d.2) s

/-- FIRMWARE_BOOT. -/
def execFirmwareBoot : State → Out := act State.boot

/-! ## The throttle (R12, R14) -/

/-- The conditions of R12 as CAUSE bits, from module watts, junction, inlet and input volts. -/
def throttleCause (r : List Nat) : Nat :=
  (if 3200 < r.getD 0 0 then 1 else 0) + (if 105 < r.getD 1 0 then 2 else 0) + (if 40 < r.getD 2 0 then 4 else 0) +
    (if r.getD 3 48 < 42 then 8 else 0)

/-- CAPINT of PWRSTAT. -/
def capint (v : DWord) : Nat := (v.extractLsb' 32 32).toNat

/-- One evaluation: the cap falls one step of 125 MHz while a condition holds, down to 1 GHz, and rises one step when
none does; CAPINT counts the intervals ended below 4 GHz. -/
def State.throttle (s : State) : State :=
  let r := s.mod.readings
  let cause := throttleCause r
  let old := s.mxeclk
  let new := if cause != 0 then max 8 (old - 1) else min 32 (old + 1)
  let caps := capint s.mod.pwrstat
  let s := s.setMod fun m => { m with
    pwrstat := BitVec.ofNat 64 ((if old < 32 then min (caps + 1) 0xFFFFFFFF else caps) * 2 ^ 32 + new * 2 ^ 8 + cause)
    thermN := cause / 2 % 2 == 0 && !m.fatal }
  if new == old then s else s.canary 0 7 0x0A 0 (new * 256 + cause)

/-- Readings that come with the operation replace the last ones. -/
def State.senseNow (s : State) : State := if s.arg.nats.isEmpty then s else s.setMod fun m => { m with readings := s.arg.nats }

/-- THROTTLE_EVALUATION. Acts on `nats`, new readings where there are any. -/
def execThrottleEvaluation : State → Out := act fun s => s.senseNow.throttle

/-! ## Soft errors (R18, R19) -/

/-- PATROL_SCRUB: an error found at device physical address `a`; `ok`: it could be corrected. Only the scrub writes event
0x08 (log entry 111). -/
def execPatrolScrub : State → Out := act fun s =>
  let a := s.arg.a
  let st := stackOf a
  if s.memTop ≤ a then s
  else if s.arg.ok then s.setMod fun m => { m with corrected := tset m.corrected st (tget m.corrected st 0 + 1) }
  else if s.home.poison.contains (a / 64) then s
  else (s.poisonAt a 1).canary (st / 3) 6 8 st (a / 64 * 64 / 256)

/-! ## The fatal dump (R208) -/

/-- The sixteen bytes of a canary event (R206). -/
def Canary.bytes (c : Canary) : List Byte :=
  leBytes 8 c.tick.toNat ++ [c.src, c.ev] ++ leBytes 2 c.unit.toNat ++ leBytes 4 c.data.toNat

/-- The 64 bytes of a fault record (R189). -/
def FaultRec.bytes (r : FaultRec) : List Byte :=
  leBytes 8 r.tick.toNat ++ leBytes 8 (r.cls.toNat * 2 ^ 56 + r.flags.toNat * 2 ^ 48 + r.pc.toNat) ++
    leBytes 4 r.first.toNat ++ leBytes 4 r.sufn.toNat ++ leBytes 4 r.wg.toNat ++
    leBytes 4 (r.core.toNat * 2 ^ 22 + r.slot.toNat * 2 ^ 12 + r.ctx.toNat * 2 ^ 4) ++
    (r.lcrd.flatMap fun x => leBytes 4 x.toNat) ++ leBytes 4 r.seq.toNat ++ leBytes 8 r.addr.toNat

/-- Offset of the dump's strand slots, after the header, canaries and fault logs of `n` contexts. -/
def dumpSlots (n : Nat) : Nat := 0x1000 + 0x400000 + 0x10000 * n

/-- Offsets of the dump's scratchpads, which follow slots, form files and lane register files, and operand buffers; and the
end. -/
def dumpAt (n : Nat) : Nat × Nat × Nat :=
  let scratch := dumpSlots n + 0x10000000 + 0x4000000 + 0x20000000
  (scratch, scratch + 0x18000000, scratch + 0x18000000 + 0x10000000)

/-- Whether a workgroup's context is confidential (R63), and which it is. -/
def State.confGrid (s : State) (g : Nat) : Option Nat :=
  let c := (s.gridOf g).ctx
  if (s.ctxOf c).conf then some c else none

/-- A scratchpad or operand-buffer byte of a confidential context as the dump holds it. -/
def State.hidden (s : State) (ctx k : Nat) : Byte := Config.sm4Byte ctx (k / 64) (mread s.mem (k / 64 * 64) 64) (k % 64)

/-- The runs of slices and operand buffers that belong to confidential contexts: memory key, bytes, context. Those of gangs
that have been saved are zero, or another's (R63). -/
def State.hiddenRuns (s : State) : List (Nat × Nat × Nat) :=
  let out := fun (a : Alloc) => (tfind (s.gridOf a.grid).gangs (a.w / (s.gridOf a.grid).hdr.gang)).any fun x =>
    x.st == .out || x.st == .dead
  ((s.home.allocs.filter fun a => !out a).filterMap fun a =>
      (s.confGrid a.grid).map fun c => (sKey (a.core * 2 ^ 20 + a.off), a.len, c)) ++
    (s.wgs.filter fun w => (s.wgsOn w.2.core).any (·.1 == w.1)).filterMap fun w =>
      (s.confGrid w.2.grid).map fun c => (w.2.obase, s.obuf w.1, c)

/-- Bytes as the dump holds them at a multiple of 64: those of a confidential context as ciphertext. -/
def cipher (ctx : Option Nat) (at_ : Nat) (b : List Byte) : List Byte :=
  match ctx with
  | none => b
  | some c => (b.zipIdx).map fun x =>
      Config.sm4Byte c ((at_ + x.2) / 64) ((b.drop (x.2 / 64 * 64)).take 64) ((at_ + x.2) % 64)

/-- A context's fault log as the dump holds it. -/
def logBytes (ctx : Nat) (c : Ctx) : List Byte :=
  cipher (if c.conf then some ctx else none) 0 (c.log.flatMap FaultRec.bytes)

/-- The records of strand slots, form files and lane register files, with their offsets in a dump of `n` contexts: a slot's
at its number; a core's forms in ascending slot, and its blocks by workgroup and warp, from the file's start (log entry 40). -/
def State.dumpRecords (s : State) (n : Nat) : List (Nat × List Byte) :=
  let base := dumpSlots n
  let hide := fun (g o : Nat) (b : List Byte) => (o, cipher (s.confGrid g) o b)
  let grid := fun st : Strand => (s.wgOf st.wg).grid
  ((s.strands.map fun x => x.2.core).eraseDups).flatMap fun c =>
    let here := sortBy (fun a b => decide (a.2.slot ≤ b.2.slot)) (s.strandsOn c)
    let blocks := (s.wgsOn c).flatMap fun w => w.2.warps.flatMap fun x => (List.range x.2.blocks).map fun b =>
      (w.2.grid, x.2.blockBytes b)
    (here.map fun x => hide (grid x.2) (base + (c * 512 + x.2.slot) * 512) (s.strandRecord x.1 x.2)) ++
      (((here.filter fun x => x.2.isRange).zipIdx).map fun x =>
        hide (grid x.1.2) (base + 0x10000000 + (c * 128 + x.2) * 512) x.1.2.formRecord) ++
      ((blocks.zipIdx).map fun x => hide x.1.1 (base + 0x14000000 + (c * 512 + x.2) * 1024) x.1.2)

/-- Where the dump holds the byte of a memory key, of `n` contexts' dump: scratchpads and operand buffers. -/
def dumpOf (n k : Nat) : Option Nat :=
  let (sc, ob, _) := dumpAt n
  if 2 ^ 40 ≤ k ∧ k < 2 ^ 40 + 2 ^ 30 then
    let o := k - 2 ^ 40
    if o % 2 ^ 20 < 393216 then some (sc + o / 2 ^ 20 * 393216 + o % 2 ^ 20) else none
  else if 2 ^ 41 ≤ k ∧ k < 2 ^ 41 + 2 ^ 28 then some (ob + (k - 2 ^ 41))
  else none

/-- The bytes of the dump that are not zero, with their offsets: header, canaries, fault logs, strand slots, form files, lane
register files, scratchpads and operand buffers. -/
def State.dumpBytes (s : State) (cause : Nat) : List (Nat × Byte) :=
  let n := s.ctxs.length
  let put := fun (o : Nat) (b : List Byte) => (b.zipIdx).map fun x => (o + x.2, x.1)
  let head := put 0 (leBytes 8 s.mod.tick.toNat ++ leBytes 8 cause ++ leBytes 8 s.mod.modcap.toNat)
  let can := (List.range 4).flatMap fun d =>
    put (0x1000 + 0x100000 * d) ((tget s.mod.canary d []).flatMap Canary.bytes)
  let logs := (s.ctxs.zipIdx).flatMap fun c => put (0x401000 + 0x10000 * c.2) (logBytes c.1.1 c.1.2)
  let runs := s.hiddenRuns
  let plain := s.mem.filterMap fun c =>
    if runs.any fun r => r.1 ≤ c.1 && c.1 < r.1 + r.2.1 then none else (dumpOf n c.1).map fun o => (o, c.2)
  let hid := runs.flatMap fun r => (List.range r.2.1).filterMap fun i =>
    (dumpOf n (r.1 + i)).map fun o => (o, s.hidden r.2.2 (r.1 + i))
  head ++ can ++ logs ++ ((s.dumpRecords n).flatMap fun r => put r.1 r.2) ++ plain ++ hid

/-- A MODULE-FATAL EVENT (R208): every context ends, every core halts, and the dump is written. -/
def State.fatalNow (s : State) (cause : Nat) : State :=
  if s.mod.fatal then s
  else
    let n := s.ctxs.length
    let base := s.mod.image.dumpBase
    let total := (dumpAt n).2.2
    let size := min s.mod.image.dumpSize total
    let kept := s.mem.filter fun c => !(base ≤ c.1 && c.1 < base + size)
    let mem := ((s.dumpBytes cause).filter fun b => b.1 < size).foldl (fun m b => mset m (base + b.1) b.2) kept
    let s := { s with mem := mem, ctxs := tmap s.ctxs fun _ c => { c with fatal := true } }
    s.setMod fun m => { m with
      fatal := true, dtick := m.tick, dbytes := size
      dflags := BitVec.ofNat 32 ((if size < total then 1 else 0) + (if s.ctxs.any (·.2.conf) then 2 else 0)) }

/-- MODULE_FATAL_EVENT. Acts on `a`, the cause. -/
def execModuleFatalEvent : State → Out := act fun s => s.fatalNow s.arg.a

/-- THERMAL_TRIP (R13): a junction at 115 °C with the MXE clock at its floor. Acts on `nats`, new readings. -/
def execThermalTrip : State → Out := act fun s =>
  let s := s.senseNow
  if s.mod.readings.getD 1 0 < 115 || 8 < s.mxeclk then s
  else (s.fatalNow 0).setMod fun m => { m with thermN := false }

/-! ## Board signals and stop on tick (R24, R202) -/

/-- RAIL_OUT_OF_REGULATION: PWRGOOD is high while every rail is in regulation. Acts on `ok`. -/
def execRailOutOfRegulation : State → Out := act fun s => s.setMod fun m => { m with pwrgood := s.arg.ok }

/-- STOPTICK_WRITE. Acts on `v`, the value. -/
def execStoptickWrite : State → Out := act fun s =>
  if s.ctxs.any (·.2.conf) then s.canary 0 7 0x0D 0 0
  else if s.arg.v.toNat ≤ s.mod.tick.toNat then s.canary 0 7 0x0D 0 1
  else s.setMod fun m => { m with stopTick := some s.arg.v }

/-- STOP_ON_TICK: at the written tick everything stops. -/
def execStopOnTick : State → Out := act fun s =>
  match s.mod.stopTick with
  | some v => if v.toNat ≤ s.mod.tick.toNat then s.setMod fun m => { m with stopped := true } else s
  | none => s

end Sys2Proof.Machine
end

