-- ==== Sys2Proof/Machine/Links.lean ====
section
/-! DEFINITION. Twiette links: flits (R25, R26), retry (R27), pause (R29), link errors (R30, R31), and messages as beats
(R35, R36). -/

namespace Sys2Proof.Machine

/-! ## Messages as beats (R35, R36) -/

/-- Data bytes of one contribution of a RED or REDB message, by the type its AOP names. -/
def msgElemBytes (m : Msg) : Nat := redBytes (m.aop.toNat / 8)

/-- How many beats follow the header, from OP, BYTES, ADDR and AOP. -/
def beatsAfter (op bytes addr aop : Nat) : Nat :=
  if op = 2 || op = 3 || op = 4 then (addr % 8 + bytes + 7) / 8
  else if op = 7 then 2
  else if op = 8 then 2 * (bytes / redBytes (aop / 8))
  else if op = 0x0A || op = 0x0B then 1
  else 0

/-- Bytes as beats, the first byte at its address position. -/
def beatsFrom (addr : Nat) (b : List Byte) : List DWord :=
  let c := List.replicate (addr % 8) 0 ++ b
  (List.range ((c.length + 7) / 8)).map fun i => BitVec.ofNat 64 (leNat ((c.drop (8 * i)).take 8))

/-- The `n` bytes that beats hold, the first at its address position. -/
def bytesFrom (addr n : Nat) (bs : List DWord) : List Byte :=
  ((bs.flatMap fun w => leBytes 8 w.toNat).drop (addr % 8)).take n

/-- A message as beats. -/
def msgBeats (m : Msg) : List DWord :=
  let a := BitVec.ofNat 64 (m.op.toNat * 2 ^ 56 + m.dmod.toNat * 2 ^ 48 + m.smod.toNat * 2 ^ 40 + m.sdie.toNat * 2 ^ 38 +
    (m.bytes - 1) % 256 * 2 ^ 28 + m.status.toNat * 2 ^ 24 + m.tag.toNat)
  let b := BitVec.ofNat 64 (m.aop.toNat * 2 ^ 56 + m.addr.toNat)
  let op := m.op.toNat
  let rest :=
    if op = 2 || op = 3 || op = 4 then beatsFrom m.addr.toNat m.data
    else if op = 7 || op = 8 then
      (m.idx.zipIdx).flatMap fun x =>
        BitVec.ofNat 64 (x.1.toNat * 2 ^ 44) ::
          beatsFrom m.addr.toNat ((m.data.drop (msgElemBytes m * x.2)).take (msgElemBytes m))
    else if op = 0x0A || op = 0x0B then beatsFrom 0 m.data
    else []
  a :: b :: rest

/-- The pairs of index and element of a RED or REDB message. -/
def pairsFrom (addr n : Nat) : List DWord → List (BitVec 20 × List Byte)
  | i :: e :: r => (i.extractLsb' 44 20, bytesFrom addr n [e]) :: pairsFrom addr n r
  | _ => []

/-- The message that header beats and the beats after them hold. -/
def msgOf (a b : DWord) (rest : List DWord) : Msg :=
  let op := (a.extractLsb' 56 8).toNat
  let addr := b.extractLsb' 0 56
  let bytes := (a.extractLsb' 28 8).toNat + 1
  let aop := b.extractLsb' 56 8
  let ps := if op = 7 || op = 8 then pairsFrom addr.toNat (redBytes (aop.toNat / 8)) rest else []
  { op := a.extractLsb' 56 8, dmod := a.extractLsb' 48 8, smod := a.extractLsb' 40 8, sdie := a.extractLsb' 38 2
    bytes := bytes, status := a.extractLsb' 24 4, tag := a.extractLsb' 0 24, aop := aop, addr := addr
    idx := ps.map (·.1)
    data :=
      if op = 2 || op = 3 || op = 4 then bytesFrom addr.toNat bytes rest
      else if op = 7 || op = 8 then ps.flatMap (·.2)
      else if op = 0x0A || op = 0x0B then bytesFrom 0 8 rest
      else [] }

/-- The whole messages at the front of a channel's beats, and the beats left over. Where a message could begin, a beat
of zeros pads the payload. -/
def takeMsgs : Nat → List DWord → List Msg × List DWord
  | 0, bs => ([], bs)
  | _, [] => ([], [])
  | _, [a] => if a = 0 then ([], []) else ([], [a])
  | f + 1, a :: b :: r =>
    if a = 0 then takeMsgs f (b :: r)
    else
      let n := beatsAfter (a.extractLsb' 56 8).toNat ((a.extractLsb' 28 8).toNat + 1) (b.extractLsb' 0 56).toNat
        (b.extractLsb' 56 8).toNat
      if r.length < n then ([], a :: b :: r)
      else
        let q := takeMsgs f (r.drop n)
        (msgOf a b (r.take n) :: q.1, q.2)

/-! ## Bridges and lanes (R9, R25) -/

/-- Two dies are joined by a bridge (R9): CD0–CD1, CD2–CD3, CD0–CD2, CD1–CD3. -/
def bridged (a b : Nat) : Bool :=
  a < 4 && b < 4 && ((a / 2 == b / 2 && a % 2 != b % 2) || (a / 2 != b / 2 && a % 2 == b % 2))

/-- The dies that traffic from die `a` to die `b` passes, both included (R9): between diagonal dies the horizontal bridge
comes first. -/
def dieRoute (a b : Nat) : List Nat :=
  if a == b then [a] else if bridged a b then [a, b] else [a, a / 2 * 2 + b % 2, b]

/-- The 256 bytes of a flit on the lanes (R25): beat `n` travels on lane `n` mod 4. -/
def toLanes (b : List Byte) : List (List Byte) :=
  (List.range 4).map fun l => (List.range 8).flatMap fun i => (b.drop (8 * (4 * i + l))).take 8

/-- The bytes of a flit from what its lanes carried. -/
def ofLanes (l : List (List Byte)) : List Byte :=
  (List.range 32).flatMap fun n => ((l.getD (n % 4) []).drop (8 * (n / 4))).take 8

/-- The four lanes of a received flit, given one after another. -/
def laneCut (b : List Byte) : List (List Byte) := (List.range 4).map fun l => (b.drop (64 * l)).take 64

/-! ## Flits (R26) -/

/-- One byte into the CRC, most significant bit first. -/
def crcByte (crc : DWord) (b : Byte) : DWord :=
  (List.range 8).foldl (fun (c : DWord) _ => if c.getLsbD 63 then (c <<< 1) ^^^ 0x42F0E1EBA9EA3693 else c <<< 1)
    (crc ^^^ (b.setWidth 64 <<< 56))

/-- CRC-64 of bytes, from zero. -/
def crc64 (bs : List Byte) : DWord := bs.foldl crcByte 0

/-- A flit's link header. -/
structure LinkHead where
  seq : BitVec 12
  ack : BitVec 12
  nak : Bool
  vc : BitVec 3
  kind : Nat
  pause : BitVec 8
  deriving DecidableEq, Repr

/-- The header as a beat. -/
def LinkHead.word (h : LinkHead) : DWord :=
  BitVec.ofNat 64 (h.seq.toNat * 2 ^ 52 + h.ack.toNat * 2 ^ 40 + (if h.nak then 2 ^ 39 else 0) + h.vc.toNat * 2 ^ 36 +
    h.kind % 16 * 2 ^ 32 + h.pause.toNat * 2 ^ 24)

/-- Reads a header. -/
def LinkHead.ofWord (w : DWord) : LinkHead where
  seq := w.extractLsb' 52 12
  ack := w.extractLsb' 40 12
  nak := w.getLsbD 39
  vc := w.extractLsb' 36 3
  kind := (w.extractLsb' 32 4).toNat
  pause := w.extractLsb' 24 8

/-- The 62 data bytes of codeword `j` of a flit: offsets ≡ j mod 4 (R26). -/
def codeData (b : List Byte) (j : Nat) : List Byte := (List.range 62).map fun i => b.getD (4 * i + j) 0

/-- The FEC parity of the 248 data bytes of a flit, for bytes 248 to 255: of codeword `j` at 248 + j and 252 + j. -/
def fecParity (d : List Byte) : List Byte :=
  let p := (List.range 4).map fun j => Config.rsParity (codeData d j)
  p.map (·.1) ++ p.map (·.2)

/-- A codeword with at most one byte corrected (R26): its data bytes and how many were corrected; none: it cannot be
corrected. -/
def rsFix (d : List Byte) (p : Byte × Byte) : Option (List Byte × Nat) :=
  let q := Config.rsParity d
  if q == p then some (d, 0)
  else if q.1 == p.1 || q.2 == p.2 then some (d, 1)
  else (((List.range 62).flatMap fun i => (List.range 256).map fun v => d.set i (BitVec.ofNat 8 v)).find?
    fun x => Config.rsParity x == p).map fun x => (x, 1)

/-- The four codewords of 256 received bytes as the FEC leaves them. -/
def fecWords (b : List Byte) : List (Option (List Byte × Nat)) :=
  (List.range 4).map fun j => rsFix (codeData b j) (b.getD (248 + j) 0, b.getD (252 + j) 0)

/-- How many bytes of a received flit the FEC corrects. -/
def fecCount (b : List Byte) : Nat := (fecWords b).foldl (fun n w => n + w.elim 0 (·.2)) 0

/-- The 248 data bytes of a flit; none: a codeword is uncorrectable. -/
def fecData (b : List Byte) : Option (List Byte) :=
  let ws := fecWords b
  if ws.all Option.isSome then
    some ((List.range 248).map fun o => (((ws.getD (o % 4) none).map (·.1)).getD []).getD (o / 4) 0)
  else none

/-- The 256 bytes of a flit: header, 29 payload beats, CRC, FEC parity. -/
def flitBytes (h : LinkHead) (beats : List DWord) : List Byte :=
  let body := (h.word :: (beats ++ List.replicate (29 - beats.length) 0)).flatMap fun w => leBytes 8 w.toNat
  let data := body ++ leBytes 8 (crc64 body).toNat
  data ++ fecParity data

/-- A good flit's header and beats (R26); none: the flit is bad. -/
def flitRead (b : List Byte) : Option (LinkHead × List DWord) :=
  match fecData b with
  | none => none
  | some d =>
    let h := LinkHead.ofWord (BitVec.ofNat 64 (fieldAt d 0 8))
    if (crc64 (d.take 240)).toNat != fieldAt d 240 8 || 3 ≤ h.kind then none
    else some (h, (List.range 29).map fun i => BitVec.ofNat 64 (fieldAt d (8 + 8 * i) 8))

/-! ## Pause (R28, R29) -/

/-- Flits of a channel that the receive buffer holds. -/
def Port.occ (x : Port) (v : Nat) : Nat := (tget x.rxBuf v []).length

/-- The channels a port pauses: set at XOFF flits, cleared at XON; channels 2 and 7 never. -/
def Port.pauses (x : Port) : BitVec 8 :=
  BitVec.ofNat 8 ((List.range 8).foldl (fun n v =>
    let o := x.occ v
    let on := v != 2 && v != 7 &&
      (decide (tget x.xoff v 128 ≤ o) || (x.pause.getLsbD v && decide (tget x.xon v 64 < o)))
    if on then n + 2 ^ v else n) 0)

/-- The port with its PAUSE bits brought up to date. -/
def Port.repause (x : Port) : Port := { x with pause := x.pauses }

/-- The oldest message of a channel's flits has been acted on: the flits that held nothing but parts of it are free, and
the one in which it ended when nothing else of it is left. -/
def flitsFreed : List (Nat × Bool) → List (Nat × Bool)
  | [] => []
  | (0, _) :: r => flitsFreed r
  | (1, false) :: r => r
  | (n + 1, t) :: r => (n, t) :: r

/-- A received message of a channel has been acted on. -/
def State.msgDone (s : State) (p vc : Nat) : State :=
  if 8 ≤ vc || (tfind s.fab.ports p).isNone then s
  else s.updPort p fun x => { x with rxBuf := tset x.rxBuf vc (flitsFreed (tget x.rxBuf vc [])) }.repause

/-! ## Retraining and loss of a link (R30, R31) -/

/-- The context that owns a request. -/
def State.ownerOf (s : State) (r : Req) : Option Nat :=
  match r.asker with
  | .strand u => (tfind s.strands u).map fun st => s.ctxNo st
  | .engine e => (tfind s.engines e).map fun x => (s.gridOf (s.wgOf x.wg).grid).ctx
  | .image w => some (s.gridOf (s.wgOf w).grid).ctx
  | .head q => some (if 0x10000 ≤ q then q - 0x10000 else (tget s.host.queues q queueReset).ctx)
  | .headOut o => (s.host.headOut.find? fun x => x.id == o).map (·.ctx)
  | .mxe m => (tfind s.sched.mxe m).map fun x => (s.gridOf (s.wgOf x.wg).grid).ctx

/-- The contexts of this module that own a message. -/
def State.ownersOf (s : State) (m : Msg) : List Nat :=
  if m.smod.toNat != s.modnum || !(m.op == 1 || m.op == 2 || m.op == 3 || m.op == 7) then []
  else match tfind s.fab.reqs m.tag.toNat with
    | some r => (s.ownerOf r).toList
    | none => []

/-- The messages of a port that are not among what it drops when it goes down: of each channel the first is, where beats of it
are in a flit that is not acknowledged. -/
def Port.unsent (x : Port) : List (BitVec 3 × Msg) :=
  let lost := (List.range 8).filter fun v => tget x.txRest v 0 != 0 && x.unacked.any fun f => f.vc.toNat == v
  (x.txq.foldl (fun (r : List (BitVec 3 × Msg) × List Nat) m =>
    if r.2.contains m.1.toNat then (r.1, r.2.filter (· != m.1.toNat)) else (r.1 ++ [m], r.2)) ([], lost)).1

/-- A port goes down: what is not acknowledged is dropped, each context that owns a message among it ends, and what
has not been sent leaves by another port, a request once its block's old path has nothing unanswered (R34). -/
def State.portDown (s : State) (p : Nat) : State :=
  let x := s.port p
  let s := s.canary (p / 16) 5 6 p x.unacked.length
  let lost := (x.unacked.flatMap (·.owners)).eraseDups
  let s := s.updPort p fun y => { y with
    st := 0, unacked := [], resend := [], txq := [], txRest := [], sameReplay := 0 }
  let s := x.unsent.foldl (fun t m =>
    if m.2.smod.toNat == t.modnum && (m.2.op == 1 || m.2.op == 2 || m.2.op == 3 || m.2.op == 7) then
      t.setFab fun b => { b with reqs := tmod b.reqs m.2.tag.toNat fun r => { r with port := none } }
    else match t.portFor (p / 16) m.2.dmod.toNat m.2.addr.toNat with
      | some q => t.sendOn q m.1 m.2
      | none => t) s
  lost.foldl State.contextFatal s

/-- A link retrains (`cause` 0 replays, 1 ACK stall), or goes down where this is the fourth time in 2^30 ticks. -/
def State.retrain (s : State) (p cause : Nat) : State :=
  let x := s.port p
  let now := s.mod.tick.toNat
  let recent := x.retrainTicks.filter fun t => now < t + 2 ^ 30
  if 3 ≤ recent.length then s.portDown p
  else
    let s := s.canary (p / 16) 5 5 p (cause * 256 + min (x.retrains + 1) 255)
    s.updPort p fun y => { y with
      st := 1, retrains := min (y.retrains + 1) 255, retrainTicks := now :: recent, sameReplay := 0, lastAck := now }

/-! ## Sending and receiving flits (R27) -/

/-- The channel that sends next: one with a message begun, then that of the oldest message; paused ones wait. -/
def Port.nextVc (x : Port) : Option (BitVec 3) :=
  let ok := fun v : Nat => !x.peerPause.getLsbD v
  match (x.txRest.find? fun e => e.2 != 0 && ok e.1) with
  | some e => some (BitVec.ofNat 3 e.1)
  | none => ((x.txq.find? fun m => ok m.1.toNat)).map (·.1)

/-- Puts a flit with this kind, sequence number and payload on the lanes. -/
def Port.emit (x : Port) (kind : Nat) (seq : BitVec 12) (vc : BitVec 3) (beats : List DWord) : Port :=
  let x := x.repause
  { x with
    sent := toLanes
      (flitBytes { seq := seq, ack := x.rxSeq - 1, nak := x.nakDue, vc := vc, kind := kind, pause := x.pause } beats)
    nakDue := false }

/-- What the next flit of a channel takes of its messages, `sent` beats of the first being gone and `room` beats free: the
beats, the messages that they are of, how many messages are then whole, and the beats sent of the next. -/
def packMsgs : List Msg → Nat → Nat → List DWord × List Msg × Nat × Nat
  | [], _, _ => ([], [], 0, 0)
  | m :: r, sent, room =>
    let b := (msgBeats m).drop sent
    if room = 0 then ([], [], 0, sent)
    else if b.length ≤ room then
      let q := packMsgs r 0 (room - b.length)
      (b ++ q.1, m :: q.2.1, q.2.2.1 + 1, q.2.2.2)
    else (b.take room, [m], 0, sent + room)

/-- A queue without its first `n` messages of a channel. -/
def dropMsgs (v : BitVec 3) : Nat → List (BitVec 3 × Msg) → List (BitVec 3 × Msg)
  | 0, l => l
  | _, [] => []
  | n + 1, m :: r => if m.1 == v then dropMsgs v n r else m :: dropMsgs v (n + 1) r

/-- FLIT_TRANSMIT: port `a` sends a flit: first what is to be replayed, then new payload while fewer than 512 flits are
unacknowledged, else an idle flit. -/
def execFlitTransmit : State → Out := act fun s =>
  let p := s.arg.a
  let x := s.port p
  if x.st != 2 then s
  else match x.resend with
    | f :: r => s.updPort p fun y => { (y.emit 1 f.seq f.vc f.beats) with resend := r }
    | [] =>
      match (if x.unacked.length < 512 then x.nextVc else none) with
      | none => s.updPort p fun y => y.emit 0 y.txSeq 0 []
      | some v =>
        let (beats, ms, n, sent) := packMsgs ((x.txq.filter fun m => m.1 == v).map (·.2)) (tget x.txRest v.toNat 0) 29
        let f : Flit := { seq := x.txSeq, vc := v, beats := beats, owners := (ms.flatMap s.ownersOf).eraseDups }
        s.updPort p fun y =>
          let y := y.emit 1 f.seq v f.beats
          { y with
            txSeq := y.txSeq + 1, unacked := y.unacked ++ [f]
            lastAck := if y.unacked.isEmpty then s.mod.tick.toNat else y.lastAck
            txq := dropMsgs v n y.txq
            txRest := tset y.txRest v.toNat sent }

/-- Flits acknowledged up to `ack` are freed. -/
def Port.freed (x : Port) (ack : BitVec 12) (tick : Nat) : Port :=
  if x.unacked.any fun f => f.seq == ack then
    let keep := (x.unacked.dropWhile fun f => f.seq != ack).drop 1
    { x with
      unacked := keep, lastAck := tick, sameReplay := 0
      resend := x.resend.filter fun f => keep.any fun g => g.seq == f.seq }
  else x

/-- The event that a message brings about at its receiver. -/
def msgEvent (m : Msg) : Option Instr :=
  match m.op.toNat with
  | 1 => some .read
  | 2 => some .write
  | 3 => some .atomic
  | 4 => some .respdata
  | 5 => some .respack
  | 6 => some .resperr
  | 7 => some .red
  | 8 => some .redb
  | 9 => some .retry
  | 0x0A => some .barrier
  | 0x0B => some .ticksync
  | _ => none

/-- A message has arrived whole: it acts next, or is discarded as a protocol error (R36). -/
def State.deliver (s : State) (p vc : Nat) (m : Msg) : State :=
  match (if m.dmod.toNat == s.modnum then msgEvent m else none) with
  | none => (s.msgDone p vc).canary (p / 16) 5 7 p (m.op.toNat * 2 ^ 24 + m.dmod.toNat * 2 ^ 16)
  | some i => { s with events := s.events ++ [⟨i, { a := p, c := vc, msg := m }⟩] }

/-- A flit that is not accepted: the first since an accepted one asks for a replay. -/
def State.discard (s : State) (p : Nat) : State :=
  s.updPort p fun x => if x.nakSent then x else { x with nakSent := true, nakDue := true }

/-- The buffer of a channel has no room for one more flit; channels 2 and 7 are sunk without condition (R28). -/
def Port.noRoom (x : Port) (v : Nat) : Bool := v != 2 && v != 7 && decide (tget x.size v 256 ≤ x.occ v)

/-- FLIT_RECEIVE: port `a` receives a flit, `bytes` what its four lanes carried, one after another. A payload flit that
its channel's buffer has no room for is not accepted. -/
def execFlitReceive : State → Out := act fun s =>
  let p := s.arg.a
  let x := s.port p
  let b := ofLanes (laneCut s.arg.bytes)
  if x.st != 2 then s
  else
    let s := s.updPort p fun y => { y with feccor := min (y.feccor + fecCount b) 0xFFFFFF }
    match flitRead b with
    | none => s.discard p
    | some (h, beats) =>
      let now := s.mod.tick.toNat
      let s := s.updPort p fun y => { (y.freed h.ack now) with peerPause := h.pause }
      let s :=
        if !h.nak then s
        else s.updPort p fun y => { y with
          replays := min (y.replays + 1) 0xFFFFFF, resend := y.unacked
          sameReplay := if y.unacked.isEmpty then 0 else y.sameReplay + 1 }
      let s :=
        if h.kind != 1 then s
        else if h.seq != x.rxSeq || x.noRoom h.vc.toNat then s.discard p
        else
          let v := h.vc.toNat
          let q := takeMsgs 64 (tget x.partials v [] ++ beats)
          let s := s.updPort p fun y => { y with
            rxSeq := y.rxSeq + 1, nakSent := false, partials := tset y.partials v q.2
            rxBuf := if q.1.isEmpty && q.2.isEmpty then y.rxBuf
              else tset y.rxBuf v (tget y.rxBuf v [] ++ [(q.1.length, !q.2.isEmpty)]) }
          let s := q.1.foldl (fun t m => t.deliver p v m) s
          s.updPort p Port.repause
      if 8 ≤ (s.port p).sameReplay then s.retrain p 0 else s

/-- ACK_STALL_TIMEOUT: port `a` holds unacknowledged flits and ACK has not advanced for 65,536 ticks. -/
def execAckStallTimeout : State → Out := act fun s =>
  let x := s.port s.arg.a
  if x.st == 2 && !x.unacked.isEmpty && decide (x.lastAck + 65536 ≤ s.mod.tick.toNat) then s.retrain s.arg.a 1 else s

/-- LINK_RETRAIN_COMPLETE: port `a` is up; the flits that the retry buffer has kept are sent again. -/
def execLinkRetrainComplete : State → Out := act fun s =>
  if (s.port s.arg.a).st == 1 then
    s.updPort s.arg.a fun x => { x with st := 2, resend := x.unacked, lastAck := s.mod.tick.toNat }
  else s

/-- PORT_BRING_UP: the foreman brings port `a` up again, with a new link; retrains before it no longer count toward the
fourth (R30 does not say; log entry 104). -/
def execPortBringUp : State → Out := act fun s =>
  if (s.port s.arg.a).st == 0 then
    s.updPort s.arg.a fun x => { portReset with
      retrains := x.retrains, replays := x.replays, feccor := x.feccor, size := x.size, xoff := x.xoff, xon := x.xon }
  else s

end Sys2Proof.Machine
end

