-- ==== Sys2Proof/Machine/Messages.lean ====
section
/-! DEFINITION. Messages at this module: requests at the home (R32, R37, R42), answers to its own requests (R37, R38, R42),
domain barriers (R305), tick alignment (R39), and the windows' registers (R40, R43, R46). -/

namespace Sys2Proof.Machine

/-! ## Requests at the home (R32, R37) -/

/-- Where a domain address lies at this module, or the STATUS of the refusal; none: the owner of the allocation is out,
and the request waits (R145). -/
def State.domainPlace (s : State) (addr n : Nat) : Option (Except Nat Nat) :=
  let d := addr % 2 ^ 48
  if d.testBit 47 then
    if d % 2 ^ 47 / 2 ^ 30 != 0 then some (.error 3)
    else match s.sCheck ⟨0, none⟩ .write true (d % 2 ^ 30) n with
      | .ok (.loc k) => some (.ok k)
      | .error (.cls 0x18) => none
      | _ => some (.error 2)
  else if d / 2 ^ 40 != 0 || s.memTop < d + n then some (.error 3)
  else if (s.confOf d).isSome then some (.error 2)
  else some (.ok d)

/-- A response to a message, from a die: OP, STATUS, data. -/
def respond (m : Msg) (modnum die op status : Nat) (data : List Byte) : Msg :=
  { op := BitVec.ofNat 8 op, dmod := m.smod, smod := BitVec.ofNat 8 modnum, sdie := BitVec.ofNat 2 die
    bytes := max 1 data.length, status := BitVec.ofNat 4 status, tag := m.tag, aop := 0, addr := m.addr, idx := []
    data := data }

/-- Sends a response on VC2; with no up port it is lost, and the requester times out. -/
def State.reply (s : State) (m : Msg) (die op status : Nat) (data : List Byte) : State :=
  match s.portFor die m.smod.toNat m.addr.toNat with
  | some p => s.sendOn p 2 (respond m s.modnum die op status data)
  | none => s

/-- A request is held until its allocation is back; it no longer counts in a port's buffer. -/
def State.holdMsg (s : State) (i : Instr) (m : Msg) : State :=
  s.setFab fun b => { b with held := b.held ++ [⟨i, { s.arg with msg := m, c := 8 }⟩] }

/-- A READ, WRITE or ATOMIC at the home: refused, held, or done at its key. -/
def State.serve (s : State) (i : Instr) (n : Nat) (f : State → Nat → State) : State :=
  let m := s.arg.msg
  let d := m.addr.toNat % 2 ^ 48
  let s := s.msgDone s.arg.a s.arg.c
  match s.domainPlace m.addr.toNat n with
  | none => s.holdMsg i m
  | some r =>
    if s.windowFailed d then s.reply m (homeDie d) 6 4 []
    else match r with
      | .error e => s.reply m (homeDie d) 6 e []
      | .ok k => f s k

/-- READ. -/
def execRead : State → Out := act fun s =>
  let m := s.arg.msg
  s.serve .read m.bytes fun t k =>
    t.reply m (homeDie k) 4 (if t.poisoned k m.bytes then 1 else 0) (mread t.mem k m.bytes)

/-- WRITE. -/
def execWrite : State → Out := act fun s =>
  let m := s.arg.msg
  s.serve .write m.data.length fun t k =>
    (t.homeStore (homeDie k) k m.data (k % 64 == 0 && m.data.length % 64 == 0)).reply m (homeDie k) 5 0 []

/-- The operation of a remote atomic on `n` bytes is one that the module has. -/
def remoteAop (aop n : Nat) : Bool := (n == 4 && decide (aop ≤ 12)) || (n == 8 && decide (aop ≤ 9))

/-- ATOMIC: the operand, then for CAS the value compared with; it answers with the old value. -/
def execAtomic : State → Out := act fun s =>
  let m := s.arg.msg
  let aop := m.aop.toNat
  let n := if aop = 9 then m.data.length / 2 else m.data.length
  s.serve .atomic n fun t k =>
    if !remoteAop aop n || k % n != 0 then t.reply m (homeDie k) 6 3 []
    else if t.poisoned k n then t.reply m (homeDie k) 6 1 []
    else
      let r := t.atomAt (homeDie k) k aop n (leNat (m.data.take n)) (leNat (m.data.drop n))
      r.1.reply m (homeDie k) 4 0 (leBytes n r.2)

/-- One contribution at the home: to a window, or where no window holds the address as an atomic of its type and
operation. -/
def State.contribAt (s : State) (m : Msg) (port : Nat) (idx : Nat) (v : List Byte) : State :=
  let d := m.addr.toNat % 2 ^ 48
  let ty := m.aop.toNat / 8
  let op := m.aop.toNat % 8
  match s.domainPlace m.addr.toNat v.length with
  | none => s.holdMsg .red m
  | some r => if s.windowFailed d then s.reply m (homeDie d) 6 4 [] else match r with
  | .error e => s.reply m (homeDie d) 6 e []
  | .ok k =>
    match s.windowAt s.modnum d with
    | none =>
      if redBad ty op || v.length != redBytes ty then s.reply m (homeDie d) 6 3 []
      else if s.poisoned k v.length then s.reply m (homeDie k) 6 1 []
      else (s.redApply k ty op v).reply m (homeDie k) 5 0 []
    | some w =>
      if s.poisoned k v.length then s.reply m (homeDie k) 6 1 []
      else
        let r := s.contribute w port (d - (s.window w).start) k idx v
        match r.2 with
        | .ack => r.1.reply m (homeDie k) 5 0 []
        | .retry => r.1.reply m (homeDie k) 9 0 []
        | .refuse => r.1.reply m (homeDie k) 6 4 []

/-- RED. -/
def execRed : State → Out := act fun s =>
  let m := s.arg.msg
  (s.msgDone s.arg.a s.arg.c).contribAt m s.arg.a ((m.idx.headD 0).toNat) m.data

/-- REDB: its pairs in turn (R42). -/
def execRedb : State → Out := act fun s =>
  let m := s.arg.msg
  let n := msgElemBytes m
  (m.idx.zipIdx).foldl (fun t x => t.contribAt { m with op := 7, idx := [x.1], data := (m.data.drop (n * x.2)).take n }
    s.arg.a x.1.toNat ((m.data.drop (n * x.2)).take n)) (s.msgDone s.arg.a s.arg.c)

/-! ## Answers to this module's requests (R37, R38, R42) -/

/-- The fault class of a response's STATUS. -/
def statusClass (st : Nat) : Option (BitVec 8) :=
  match st with
  | 0 => none
  | 1 => some 0x1A
  | 3 => some 0x10
  | _ => some 0x17

/-- The request with a TAG is answered; an answer to none is discarded. -/
def State.answered (s : State) (tag : Nat) (data : List Byte) (fault : Option (BitVec 8)) : State :=
  match tfind s.fab.reqs tag with
  | none => s
  | some r => (s.setFab fun b => { b with reqs := tdel b.reqs tag }).putAnswer ⟨r.asker, r.idx, data, fault⟩

/-- A response message answers its request. -/
def State.response (s : State) (data : List Byte) (fault : Option (BitVec 8)) : State :=
  (s.msgDone s.arg.a s.arg.c).answered s.arg.msg.tag.toNat data fault

/-- RESPDATA. -/
def execRespdata : State → Out := act fun s => s.response s.arg.msg.data (statusClass s.arg.msg.status.toNat)

/-- RESPACK. -/
def execRespack : State → Out := act fun s => s.response [] none

/-- RESPERR. -/
def execResperr : State → Out := act fun s =>
  s.response [] (some ((statusClass s.arg.msg.status.toNat).getD 0x17))

/-- RETRY: the contribution goes out again after at least 256 ticks. -/
def execRetry : State → Out := act fun s =>
  (s.msgDone s.arg.a s.arg.c).setFab fun b => { b with
    reqs := tmod b.reqs s.arg.msg.tag.toNat fun r => { r with retryAt := some (s.mod.tick.toNat + 256) } }

/-- A request goes out, with a new start of its time limit, unless an earlier message to its block is unanswered on another
path (R34). -/
def State.sendReq (s : State) (tag : Nat) (r : Req) : State :=
  match s.portFor (dieOf r.core) r.msg.dmod.toNat r.msg.addr.toNat with
  | none => s.answered tag [] (some 0x1B)
  | some p =>
    if s.heldByPath (dieOf r.core) p (some tag) r.msg.dmod.toNat r.msg.addr.toNat then s
    else
      (s.setFab fun b => { b with
        reqs := tmod b.reqs tag fun x => { x with retryAt := none, tick := s.mod.tick.toNat, port := some p } }).sendOn p r.vc r.msg

/-- Requests that have not left, since their port went down, leave by another (R34). -/
def State.sendHeld (s : State) : State :=
  (s.fab.reqs.filter fun r => r.2.port.isNone).foldl (fun t r => t.sendReq r.1 r.2) s

/-- RETRY_RESEND: the request with tag `a` goes out again. -/
def execRetryResend : State → Out := act fun s =>
  match tfind s.fab.reqs s.arg.a with
  | none => s
  | some r => match r.retryAt with
    | none => s
    | some t =>
      if s.mod.tick.toNat < t then s
      else s.sendReq s.arg.a r

/-- REMOTE_TIMEOUT: the request with tag `a` has had no response for 2^20 ticks. -/
def execRemoteTimeout : State → Out := act fun s =>
  match tfind s.fab.reqs s.arg.a with
  | none => s
  | some r =>
    if r.retryAt.isSome || r.port.isNone || s.mod.tick.toNat < r.tick + 2 ^ 20 then s else s.answered s.arg.a [] (some 0x1B)

/-! ## Domain barriers (R305) -/

/-- BARRIER: an arrival at ROOT, or a release at a participant. -/
def execBarrier : State → Out := act fun s =>
  let m := s.arg.msg
  let w := leNat m.data
  let b := w % 16
  let g := w / 16 % 2
  let s := s.msgDone s.arg.a s.arg.c
  if w / 32 % 2 = 0 then
    if dbarEn (s.dbar b) && dbarRoot (s.dbar b) == s.modnum then s.rootArrival b g m.smod.toNat else s
  else if s.gen ⟨5, 0, 0, b⟩ % 2 == g then s.advanceGen ⟨5, 0, 0, b⟩ else s

/-! ## Tick alignment (R10, R39) -/

/-- TWCFG.MASTER. -/
def State.master (s : State) : Bool := s.mod.twcfg.getLsbD 15

/-- A TICKSYNC message to the peer of a port, with this module's tick. -/
def State.sendTick (s : State) (p : Nat) : State :=
  s.sendOn p 7 { Msg.none with
    op := 0x0B, dmod := BitVec.ofNat 8 (Config.peerOf p), smod := BitVec.ofNat 8 s.modnum, sdie := BitVec.ofNat 2 (p / 16)
    bytes := 8
    data := leBytes 8 s.mod.tick.toNat }

/-- TICKSYNC_PERIOD: the master sends its tick on every up port. -/
def execTicksyncPeriod : State → Out := act fun s =>
  if s.master then ((List.range 64).filter fun p => (s.port p).st == 2).foldl State.sendTick s else s

/-- Half of a port's measured round trip. -/
def Port.delay (x : Port) : Nat := (x.roundTrip.getD 0) / 2

/-- TICK_ALIGNMENT: with no context, the foreman sets the tick to the master's tick `v` plus the delay of port `a`. -/
def execTickAlignment : State → Out := act fun s =>
  if s.master || !s.ctxs.isEmpty || (s.port s.arg.a).roundTrip.isNone then s
  else s.setMod fun m => { m with tick := s.arg.v + BitVec.ofNat 64 (s.port s.arg.a).delay }

/-- The alignment check of a TICKSYNC: a difference above 2 ticks is a TICKERR. -/
def State.tickCheck (s : State) (p : Nat) (t : DWord) : State :=
  let d : Int := (s.mod.tick.toNat : Int) - ((t.toNat + (s.port p).delay : Nat) : Int)
  if d.natAbs ≤ 2 then s
  else
    let v : Int := max (-(2 ^ 31)) (min (2 ^ 31 - 1) d)
    (s.setMod fun m => { m with twcfg := m.twcfg ||| 0x4000 }).canary (p / 16) 5 0x0C p (v % 2 ^ 32).toNat

/-- TICKSYNC: the master answers an exchange. Another module begins one where it has not measured the link, and ends the
one it has begun; at every later TICKSYNC it checks its tick, and with no context aligns it. -/
def execTicksync : State → Out := act fun s =>
  let p := s.arg.a
  let t := BitVec.ofNat 64 (leNat s.arg.msg.data)
  let s := s.msgDone p s.arg.c
  let x := s.port p
  if s.master then s.sendTick p
  else match x.roundTrip, x.syncSent with
    | none, none => (s.updPort p fun y => { y with syncSent := some s.mod.tick.toNat }).sendTick p
    | none, some t0 =>
      { (s.updPort p fun y => { y with roundTrip := some (s.mod.tick.toNat - t0), syncSent := none }) with
        events := s.events ++ [⟨.tickAlignment, { a := p, v := t }⟩] }
    | some _, _ =>
      let s := s.tickCheck p t
      if s.ctxs.isEmpty then { s with events := s.events ++ [⟨.tickAlignment, { a := p, v := t }⟩] } else s

/-! ## Windows (R40, R43) and DBAR (R46) -/

/-- WINDOW_TIMEOUT: window `a` has waited too long for the index an element expects. -/
def execWindowTimeout : State → Out := act fun s =>
  let w := s.window s.arg.a
  match (if w.failed then none else w.elems.find? fun e =>
      !e.2.held.isEmpty && decide (e.2.since + w.timeout * 1024 ≤ s.mod.tick.toNat)) with
  | none => s
  | some e =>
    (s.updWindow s.arg.a fun x => { x with failed := true, elems := tmap x.elems fun _ y => { y with held := [] } }).canary
      (homeDie (w.start + e.1)) 7 9 s.arg.a (e.1 / 4)

/-- WINBASE_WRITE. Acts on `a`, the window, and `v`. -/
def execWinbaseWrite : State → Out := act fun s =>
  if 64 ≤ s.arg.a then s else s.setBase s.arg.a s.arg.v

/-- WINCTL_WRITE. -/
def execWinctlWrite : State → Out := act fun s =>
  if 64 ≤ s.arg.a then s else s.setCtl s.arg.a s.arg.v

/-- A gang of a grid that uses grid or domain barrier `b` is resident. -/
def State.barrierUsed (s : State) (b : Nat) : Bool :=
  s.grids.any fun g => b < g.2.hdr.bargrid && g.2.gangs.any fun x => x.2.st == .resident || x.2.st == .halting || x.2.st == .saving

/-- DBAR_WRITE. Acts on `a`, the barrier, and `v`. -/
def execDbarWrite : State → Out := act fun s =>
  if 16 ≤ s.arg.a || s.barrierUsed s.arg.a then s
  else s.setDbar s.arg.a s.arg.v

end Sys2Proof.Machine
end

