-- ==== Sys2Proof/Machine/Host.lean ====
section
/-! DEFINITION. The host interface: mailbox commands (R48, R49, R60, R66, R190), BARWIN and BAR2 (R50), BAR0 registers (R46,
R51, R194), launch queues (R51 to R53), and the records of a queue (R53, R54). -/

namespace Sys2Proof.Machine

/-! ## The mailbox (R48, R49) -/

/-- The bits of MBCMD that are not reserved (R3, R48). -/
def mbcmdBits : DWord := 0xFFFF01FF0000FFFF

/-- MBSTAT.BUSY. -/
def State.mbBusy (s : State) : Bool := s.host.mbPending.isSome

/-- A mailbox or BARWIN write that is refused is counted in the canary (R48, R50). -/
def State.mbRefused (s : State) (off : Nat) : State := s.canary 0 8 0x0B 0 off

/-- The 256 bytes of MBDATA. -/
def State.mbBytes (s : State) : List Byte := (List.range 256).map fun i => tget s.host.mbdata i 0

/-- Every byte of a request outside the named ones is zero; `named`: offset and length. -/
def onlyNamed (b : List Byte) (named : List (Nat × Nat)) : Bool :=
  (b.zipIdx).all fun x => x.1 == 0 || named.any fun n => n.1 ≤ x.2 && x.2 < n.1 + n.2

/-- How a command ends: ERR, reply bytes, and a context whose end the reply awaits. -/
structure MbEnd where
  err : Nat
  reply : List Byte := []
  destroy : Option Nat := none
  deriving DecidableEq, Repr

/-- A WRITE OF MBCMD with command `op`: refused while BUSY; LEN and the bytes named are checked; then the command acts
on its request, and with an ERR it has no effect. -/
def State.mbCommand (s : State) (op least : Nat) (named : List (Nat × Nat)) (f : State → List Byte → State × MbEnd) : State :=
  let v := s.arg.v
  if (v.extractLsb' 0 16).toNat != op then s
  else if s.mbBusy then s.mbRefused 0
  else
    let len := (v.extractLsb' 32 9).toNat
    let b := s.mbBytes.take len
    let r := if 256 < len || len < least || !onlyNamed b named then (s, ({ err := 2 } : MbEnd)) else f s b
    let t := if r.2.err = 0 then r.1 else s
    t.setHost fun h => { h with
      mbcmd := v &&& mbcmdBits
      mbPending := some
        { seq := v.extractLsb' 48 16, err := r.2.err, reply := if r.2.err = 0 then r.2.reply else []
          destroy := r.2.destroy } }

/-- A command that ends with an ERR. -/
def mbErr (e : Nat) (s : State) : State × MbEnd := (s, { err := e })

/-- A code heap lies in paged space, and every 64 KiB page of it is mapped by a valid leaf with TARGET 0 and X = 1 (R49). -/
def State.heapMapped (s : State) (root : Nat) (conf : Bool) (base n : Nat) : Bool :=
  inPaged base n && (List.range (n / 0x10000)).all fun i =>
    match walkFrom s.mem conf (base + i * 0x10000) walkLevels root false with
    | .ok (e, _) => pteTarget e == 0 && pteX e
    | .error _ => false

/-- The lowest context number that is free. -/
def State.freeCtx (s : State) : Option Nat := ((List.range 255).map (· + 1)).find? fun c => (tfind s.ctxs c).isNone

/-- A power of two from 64 KiB to 1 GiB. -/
def rpSizeOk (n : Nat) : Bool := (List.range 15).any fun i => n == 2 ^ (16 + i)

/-- CREATE_CONTEXT: OP 0x01. -/
def execCreateContext : State → Out := act fun s =>
  s.mbCommand 0x01 72 [(0, 50), (56, 16)] fun s b =>
    let f := fieldAt b
    let flags := f 48 2
    let logs := flags / 2 % 4 != 0
    let conf := flags % 2 == 1
    if f 0 8 % 4096 != 0 || s.memTop < f 0 8 + 4096 || f 8 8 % 0x10000 != 0 || f 16 8 % 0x10000 != 0 || f 16 8 = 0 ||
        f 32 8 % 64 != 0 || 8 ≤ flags || flags / 2 % 4 == 3 ||
        (if logs then f 56 8 % 0x10000 != 0 || !rpSizeOk (f 64 8) else f 56 8 != 0 || f 64 8 != 0) ||
        !s.heapMapped (f 0 8) conf (f 8 8) (f 16 8) then mbErr 2 s
    else match s.freeCtx with
      | none => mbErr 3 s
      | some c =>
        let x : Ctx := { ctxNone with
          ptroot := f 0 8, heapBase := BitVec.ofNat 64 (f 8 8), heapSize := f 16 8
          waitLim := if f 24 8 = 0 then 2 ^ 32 else f 24 8
          waPool := BitVec.ofNat 64 (f 32 8), waSize := f 40 8, cflags := BitVec.ofNat 16 flags
          rpBase := BitVec.ofNat 64 (f 56 8), rpSize := f 64 8, heapNext := f 8 8 }
        ({ s with ctxs := tset s.ctxs c x }, { err := 0, reply := leBytes 8 c })

/-- Changes a queue. -/
def State.updQueue (s : State) (q : Nat) (f : Queue → Queue) : State :=
  s.setHost fun h => { h with queues := tset h.queues q (f (tget h.queues q queueReset)) }

/-- A queue. -/
def State.queue (s : State) (q : Nat) : Queue := tget s.host.queues q queueReset

/-- EN is cleared: the records that have not been read are never acted on (R52). -/
def Queue.off (x : Queue) : Queue := { x with en := false, next := if x.en then x.prod else x.next }

/-- DESTROY_CONTEXT: OP 0x02. Its queues are unbound, every grid ends with STATUS 3, and the reply waits for its gangs. -/
def execDestroyContext : State → Out := act fun s =>
  s.mbCommand 0x02 2 [(0, 2)] fun s b =>
    let c := fieldAt b 0 2
    if (tfind s.ctxs c).isNone then mbErr 2 s
    else
      let s := s.setHost fun h => { h with
        queues := tmap h.queues fun _ q => if q.ctx == c then { q with en := false, next := q.prod, ctx := 0, prev := .none, waits := [] } else q }
      let s := (s.grids.filter fun g => g.2.ctx == c).foldl (fun t g => t.endGrid g.1 3) s
      (s, { err := 0, destroy := some c })

/-- BIND_QUEUE: OP 0x03. -/
def execBindQueue : State → Out := act fun s =>
  s.mbCommand 0x03 16 [(0, 4), (8, 8)] fun s b =>
    let q := fieldAt b 0 2
    let c := fieldAt b 2 2
    let wb := fieldAt b 8 8
    if 256 ≤ q || (c != 0 && (tfind s.ctxs c).isNone) || wb % 8 != 0 || (wb / 2 ^ 56 != 0 && wb / 2 ^ 56 != 255) then mbErr 2 s
    else if (s.queue q).en then mbErr 4 s
    else (s.updQueue q fun x => { x with ctx := c, wb := BitVec.ofNat 64 wb, prev := .none }, { err := 0 })

/-- SM3 digest of the firmware image that runs (R66). -/
def State.firmwareDigest (s : State) : BitVec 256 := s.mod.firmware.elim Config.firmwareDigest Config.sm3

/-- ATTESTATION_REPORT: OP 0x04 (R66). -/
def execAttestationReport : State → Out := act fun s =>
  s.mbCommand 0x04 34 [(0, 34)] fun s b =>
    let c := fieldAt b 32 2
    match tfind s.ctxs c with
    | none => mbErr 2 s
    | some x =>
      let body := leBytes 32 s.firmwareDigest.toNat ++ leBytes 8 s.mod.modcap.toNat ++ leBytes 8 s.mod.twcfg.toNat ++
        leBytes 32 (if x.conf then x.digest.toNat else 0) ++ b.take 32
      (s, { err := 0, reply := body ++ leBytes 64 (Config.sm2Sign body).toNat })

/-- READ_DUMP_DESCRIPTOR: OP 0x05 (R190). -/
def execReadDumpDescriptor : State → Out := act fun s =>
  s.mbCommand 0x05 8 [(0, 2), (4, 4)] fun s b =>
    match tfind s.ctxs (fieldAt b 0 2) with
    | none => mbErr 2 s
    | some x =>
      let first := fieldAt b 4 4
      let lost := x.logged - x.log.length
      let head := leBytes 8 s.mod.dtick.toNat ++ leBytes 8 s.mod.image.dumpBase ++ leBytes 8 s.mod.dbytes ++
        leBytes 4 x.logged ++ leBytes 4 lost ++ leBytes 4 s.mod.dflags.toNat ++ leBytes 28 0
      let recs := if x.logged ≤ first then [] else (x.log.drop (first - lost)).take 3
      (s, { err := 0, reply := head ++ recs.flatMap FaultRec.bytes })

/-- FIRMWARE_UPDATE: OP 0x06. -/
def execFirmwareUpdate : State → Out := act fun s =>
  s.mbCommand 0x06 16 [(0, 16)] fun s b =>
    let a := fieldAt b 0 8
    let n := fieldAt b 8 8
    let image := mread s.mem a n
    if a % 0x10000 != 0 || s.memTop < a + n then mbErr 2 s
    else match Config.sm2Verify image with
      | none => mbErr 4 s
      | some v => (s.setMod fun m => { m with staged := some image }, { err := 0, reply := leBytes 4 v.toNat })

/-- A context has a resident or placeable gang. -/
def State.gangsLeft (s : State) (c : Nat) : Bool :=
  s.grids.any fun g => g.2.ctx == c && match g.2.st with
    | .done _ => false
    | _ => true

/-- RECLAIM_CODE_HEAP: OP 0x07 resets every stub to its trampoline (R60); instruction caches keep nothing of the heap. -/
def execReclaimCodeHeap : State → Out := act fun s =>
  s.mbCommand 0x07 2 [(0, 2)] fun s b =>
    let c := fieldAt b 0 2
    match tfind s.ctxs c with
    | none => mbErr 2 s
    | some x =>
      if s.gangsLeft c then mbErr 4 s
      else
        let s := x.stubs.foldl (fun t e =>
          t.heapWrite c e.1 (clauseBytes (Config.vorxusTrampoline (BitVec.ofNat 64 e.1)))) s
        let s := s.setHome fun h => { h with
          icache := h.icache.filter fun e => !(e.1 == c && x.inHeap e.2.1 4) }
        (s.updCtx c fun y => { y with
          stubs := tmap y.stubs fun _ e => { e with staged := none, committed := false }
          heapNext := y.stubs.foldl (fun n e => max n (e.1 + 32)) y.heapBase.toNat }, { err := 0 })

/-- UNKNOWN_OP: an OP outside the command table finishes with ERR 1. -/
def execUnknownOp : State → Out := act fun s =>
  let v := s.arg.v
  let op := (v.extractLsb' 0 16).toNat
  if s.mbBusy then s.mbRefused 0
  else if 1 ≤ op && op ≤ 7 then s
  else s.setHost fun h => { h with
    mbcmd := v &&& mbcmdBits
    mbPending := some { seq := v.extractLsb' 48 16, err := if 256 < (v.extractLsb' 32 9).toNat then 2 else 1, reply := [], destroy := none } }

/-- A context that is being destroyed is gone: no gang, and for a confidential one its memory is scrubbed (R48). -/
def State.removeCtx (s : State) (c : Nat) : State :=
  let ps := if (s.ctxOf c).conf then s.pages c else []
  let mine := fun k : Nat => ps.any fun p => s.localPage p.2.1 && pteEnc p.2.1 && pteAddr p.2.1 ≤ k && k < pteAddr p.2.1 + 2 ^ p.2.2
  let s := { s with
    mem := if ps.isEmpty then s.mem else s.mem.filter fun x => !mine x.1
    ctxs := tdel s.ctxs c
    cores := tmap s.cores fun _ x => { x with chunks := tdel x.chunks c, turn := tdel x.turn c } }
  let s := s.dropTlb c
  let s := s.setHome fun h => { h with icache := h.icache.filter fun e => e.1 != c }
  let s := s.setSched fun d => d.forgetCtx c
  s.setHost fun h => { h with
    queues := tmap h.queues fun _ q => { q with waits := q.waits.filter fun w => w.ctx != c }
    fsrOpen := h.fsrOpen.filter fun e => e.ctx != c
    fsrWait := h.fsrWait.filter fun e => e.ctx != c
    pageReqs := h.pageReqs.filter fun e => e.1 != c
    holds := h.holds.filter fun e => e.ctx != c }

/-- The command can finish: a context that it destroys has no gang left, and its completion records are written. -/
def State.mbReady (s : State) : Bool :=
  match s.host.mbPending with
  | none => false
  | some m => match m.destroy with
    | none => true
    | some c => !s.gangsLeft c && !(s.host.headOut.any fun o => o.ctx == c)

/-- MAILBOX_COMMAND_COMPLETE. -/
def execMailboxCommandComplete : State → Out := act fun s =>
  match s.host.mbPending with
  | none => s
  | some m =>
    if !s.mbReady then s
    else
      let s := match m.destroy with
        | some c => s.removeCtx c
        | none => s
      (s.setHost fun h => { h with
        mbstat := BitVec.ofNat 64 (m.seq.toNat * 2 ^ 48 + m.reply.length * 2 ^ 32 + m.err * 2 ^ 16)
        mbdata := (m.reply.zipIdx).foldl (fun t x => tset t x.2 x.1) h.mbdata
        mbPending := none }).raise 0

/-- MAILBOX_DATA_WRITE: bytes `bytes` at offset `a` of MBDATA. -/
def execMailboxDataWrite : State → Out := act fun s =>
  if s.mbBusy then s.mbRefused (0x100 + s.arg.a)
  else s.setHost fun h => { h with
    mbdata := (s.arg.bytes.zipIdx).foldl (fun t x => if s.arg.a + x.2 < 256 then tset t (s.arg.a + x.2) x.1 else t) h.mbdata }

/-! ## BARWIN and BAR2 (R50, R64) -/

/-- The host has resized BAR2 before the operation (R47): `nats` holds its new size where it has. -/
def State.barResized (s : State) : State :=
  match s.arg.nats with
  | n :: _ => s.setHost fun h => { h with bar2Size := if barSize n = n then n else h.bar2Size }
  | [] => s

/-- BARWIN_WRITE. Acts on `v`, the value, and `nats`, a new size of BAR2 where there is one. -/
def execBarwinWrite : State → Out := act fun s =>
  let s := s.barResized
  let v := s.arg.v
  if v.extractLsb' 40 24 != 0 || v.extractLsb' 0 28 != 0 || v.toNat % s.host.bar2Size != 0 then s.mbRefused 0x10
  else s.setHost fun h => { h with barwin := v }

/-- BAR2_ACCESS: `ok` a write of `bytes`, otherwise a read of `b` bytes, at offset `a`. -/
def execBar2Access : State → Out := act fun s =>
  let pa := s.host.barwin.toNat + s.arg.a
  let n := if s.arg.ok then s.arg.bytes.length else s.arg.b
  if s.memTop < pa + n then s.setHost fun h => { h with bar2Reply := none }
  else if s.arg.ok then
    (s.arg.bytes.zipIdx).foldl (fun t x =>
      if (t.confOf (pa + x.2)).isSome then t
      else t.homeStore (homeDie (pa + x.2)) (pa + x.2) [x.1] false)
      (s.setHome fun h => { h with poison := h.poison.filter fun g =>
        !(pa ≤ g * 64 && g * 64 + 64 ≤ pa + n && (s.confOf (g * 64)).isNone) })
  else s.setHost fun h => { h with bar2Reply := some ((List.range n).map fun i => s.stackByte (pa + i)) }

/-! ## Queues (R51, R52) -/

/-- A queue stops: ERR is set, EN cleared, vector 1 raised. -/
def State.queueStop (s : State) (q : Nat) : State := (s.updQueue q fun x => { x.off with err := true }).raise 1

/-- QCTL as it is written (R51): clearing EN drops what has not been read; setting it moves QCONS past what was dropped. -/
def Queue.control (x : Queue) (v : DWord) : Queue :=
  let y := if v.getLsbD 63 then (if !x.en && x.waits.isEmpty then { x with cons := x.next } else x)
    else if x.en then x.off else x
  { y with en := v.getLsbD 63, host := v.getLsbD 61, logsz := (v.extractLsb' 43 5).toNat, prioMax := (v.extractLsb' 40 3).toNat }

/-- QCTL_WRITE: queue `a`, value `v`. -/
def execQctlWrite : State → Out := act fun s =>
  let q := s.arg.a
  let v := s.arg.v
  if 256 ≤ q then s
  else
    let s := s.updQueue q fun x => x.control v
    let x := s.queue q
    if x.en && (x.logsz < 4 || 16 < x.logsz || x.base.toNat % 4096 != 0 || x.ctx = 0) then s.queueStop q else s

/-- QPROD_WRITE: queue `a`, value `v`. What the host has written before is visible to every grid that it launches (R163). -/
def execQprodWrite : State → Out := act fun s =>
  let q := s.arg.a
  let new := s.arg.v.extractLsb' 0 32
  if 256 ≤ q then s
  else
    let x := s.queue q
    if (new - x.cons).toNat < (x.prod - x.cons).toNat || 2 ^ x.logsz < (new - x.cons).toNat then
      (s.queueStop q).canary 0 8 0x0E q new.toNat
    else [0, 1, 2, 3].foldl State.showAll (s.updQueue q fun y => { y with prod := new })

/-- BAR0_REGISTER_WRITE: the register at offset `a` takes `v` where it has no row of its own: QBASE.q, FSRBASE, FSRCTL;
read-only registers stay. FSRBASE and LOGSZ are used as they are written (R194, log entry 110). -/
def execBar0RegisterWrite : State → Out := act fun s =>
  let a := s.arg.a
  let v := s.arg.v
  if 0x10000 ≤ a && a < 0x12000 then
    if a % 32 == 0 then s.updQueue ((a - 0x10000) / 32) fun x => { x with base := v } else s
  else if a == 0x20000 then s.setHost fun h => { h with fsrBase := v }
  else if a == 0x20008 then
    s.setHost fun h => { h with fsrEn := v.getLsbD 63, fsrLogsz := (v.extractLsb' 48 4).toNat }
  else if a < 0x200 || a == 0x20010 then s
  else s.setHost fun h => { h with bar0 := tset h.bar0 a v }

/-! ## Records of a queue (R52 to R54) -/

/-- How the read of the next record stands, for a queue that is enabled, holds work and does not wait at a SIGNAL or ISYNC;
none: there is nothing to read. -/
def State.nextRecord (s : State) (q : Nat) : Option HeadGot :=
  let x := s.queue q
  if !x.en || x.next == x.prod || !x.waits.isEmpty then none
  else
    let a := x.base.toNat + x.next.toNat % 2 ^ x.logsz * 128
    if x.host then
      if s.host.hostRefused.contains (a / 4096) || s.poisoned (hostKey a) 128 then some .fails
      else some (.data (mread s.mem (hostKey a) 128))
    else some (s.headTry (.head q) x.ctx a 128)

/-- A record that cannot be read stops the queue (R51). -/
def State.recordFails (s : State) (q : Nat) : State := ((s.queueStop q).headFailed (some q) 2 0).forgetAsks (.head q)

/-- QCONS takes a value and is written back (R51). -/
def State.consume (s : State) (q : Nat) (v : BitVec 32) : State :=
  let s := s.updQueue q fun x => { x with cons := v }
  let x := s.queue q
  if x.wb = 0 then s
  else s.fresh.headPut
    { id := s.next, ctx := x.ctx, queue := some q, addr := x.wb.toNat, bytes := leBytes 8 x.cons.toNat, kind := 1, seq := 0, irq := none }

/-- One record of queue `a`, where its KIND is one of these; while it lies in another module the read waits. `f` answers the
state, as an error where QCONS does not pass the record yet: a SIGNAL or ISYNC that waits, or headers that are awaited. -/
def State.takeRecord (s : State) (kinds : Nat → Bool) (f : State → Nat → Queue → Rec → Except State State) : State :=
  let q := s.arg.a
  if s.mod.failedBoot then s
  else match s.nextRecord q with
    | none => s
    | some .fails => s.recordFails q
    | some (.waits ks) => s.headAsk (.head q) 0 ks
    | some (.data b) =>
      if !kinds (Rec.ofBytes b).kind then s
      else match f s q (s.queue q) (Rec.ofBytes b) with
        | .error t => t
        | .ok t =>
        let v := (s.queue q).next + 1
        ((t.updQueue q fun x => { x with next := v }).consume q v).forgetAsks (.head q)

/-- A record is rejected: its completion record has STATUS 1. -/
def State.rejectRec (s : State) (q : Nat) (x : Queue) (r : Rec) : State :=
  s.completion x.ctx (some q) r.compaddr r.compval r.seq 1 r.vector

/-- LAUNCH_RECORD: queue `a` (R54, R98). -/
def execLaunchRecord : State → Out := act fun s =>
  s.takeRecord (· == 1) fun s q x r =>
    let dep : Option (Option Nat) := if !r.dep then some none else match x.prev with
      | .grid g => some (some g)
      | _ => none
    let y := match dep with
      | none => (s, Taken.rejected)
      | some p => s.accept (.head q) x.ctx (some q) none x.next.toNat x.prioMax p r
    match y.2 with
    | .waits ks => .error (y.1.headAsk (.head q) 0 ks)
    | .rejected => .ok ((y.1.updQueue q fun z => { z with prev := .rejected }).rejectRec q x r)
    | .grid g =>
      let s := y.1.updQueue q fun z => { z with prev := .grid g }
      .ok (match dep with
      | some (some p) => match (s.gridOf p).st with
        | .done st => if st = 0 then s else finishGrid (s.grids.length + 1) s g st
        | _ => s
      | _ => s)

/-- REJECTED_RECORD: a record of KIND 0 or 4 to 15. -/
def execRejectedRecord : State → Out := act fun s =>
  s.takeRecord (fun k => k == 0 || 4 ≤ k) fun s q x r => .ok (s.rejectRec q x r)

/-- The grids of a queue that have not retired. -/
def State.queueGrids (s : State) (q : Nat) : List Nat :=
  (s.grids.filter fun g => g.2.queue == some q && match g.2.st with
    | .done _ => false
    | _ => true).map (·.1)

/-- A SIGNAL or ISYNC record is checked, and waits for the earlier grids of its queue (R53). -/
def State.queueWait (s : State) (isync : Bool) (q : Nat) (x : Queue) (r : Rec) : Except State State :=
  if !r.shortOk then .ok (s.rejectRec q x r)
  else .error (s.updQueue q fun y => { y with
    next := y.next + 1
    waits := y.waits ++ [{ isync := isync, ctx := x.ctx, grids := s.queueGrids q, seq := r.seq, compaddr := r.compaddr
                           compval := r.compval, irq := r.vector }] })

/-- SIGNAL. -/
def execSignal : State → Out := act fun s => s.takeRecord (· == 2) (State.queueWait · false)

/-- ISYNC. -/
def execIsync : State → Out := act fun s => s.takeRecord (· == 3) (State.queueWait · true)

/-- The grids that a wait names have all retired. -/
def State.waitOver (s : State) (w : QWait) : Bool := w.grids.all fun g => match (s.gridOf g).st with
  | .done _ => true
  | _ => false

/-- The first wait of a kind in queue `a` that is over takes effect, and its completion record is written. -/
def State.endWait (s : State) (isync : Bool) (f : State → QWait → State) : State :=
  let q := s.arg.a
  match (s.queue q).waits.find? fun w => w.isync == isync && s.waitOver w with
  | none => s
  | some w =>
    let s := s.updQueue q fun x => { x with waits := x.waits.erase w }
    let x := s.queue q
    (((f s w).completion w.ctx (some q) w.compaddr w.compval w.seq 0 w.irq).consume q
      (if x.en then x.next else x.cons + 1)).forgetAsks (.head q)

/-- SIGNAL_COMPLETION: queue `a`; the translations cached for its context are forgotten (R136). -/
def execSignalCompletion : State → Out := act fun s => s.endWait false fun s w => s.dropTlb w.ctx

/-- The bytes of a 4 KiB page of the host as its translation gives them; empty: it has none (R138). -/
def State.hostPage (s : State) (p : Nat) : List Byte :=
  if s.host.hostRefused.contains p then []
  else if !s.host.atsOn then mread s.mem (hostKey (p * 4096)) 4096
  else match tfind s.host.ats p with
    | some (q + 1) => mread s.mem (hostKey (q * 4096)) 4096
    | _ => []

/-- The bytes of a context's executable pages, in ascending address (R66): in device memory, or in the host's (R135). -/
def State.codeBytes (s : State) (c : Nat) : List Byte :=
  ((s.pages c).filter fun p => pteX p.2.1).flatMap fun p =>
    if s.localPage p.2.1 then mread s.mem (pteAddr p.2.1) (2 ^ p.2.2)
    else if pteTarget p.2.1 == 2 then
      (List.range (2 ^ p.2.2 / 4096)).flatMap fun i => s.hostPage (pteAddr p.2.1 / 4096 + i)
    else []

/-- ISYNC_INVALIDATE: queue `a`; instruction caches, assay cache and translations of its context (R53, R57, R66, R136,
R327). -/
def execIsyncInvalidate : State → Out := act fun s =>
  s.endWait true fun s w =>
    let s := (s.dropTlb w.ctx).setHome fun h => { h with icache := h.icache.filter fun e => e.1 != w.ctx }
    let s := s.setSched fun d => d.forgetCtx w.ctx
    if (s.ctxOf w.ctx).conf then s.updCtx w.ctx fun c => { c with digest := Config.sm3 (s.codeBytes w.ctx) } else s

/-! ## Writes of the headframe that wait (R51, R54) -/

/-- A write of the headframe that waits goes on: it is done once every other module has answered, or is dropped where it
meets a fault. -/
def State.headStep (s : State) (o : HeadOut) : State :=
  let gone := fun t : State =>
    (t.setHost fun h => { h with headOut := h.headOut.filter fun x => x.id != o.id }).forgetAsks (.headOut o.id)
  match s.areaPlan (.headOut o.id) 0 ⟨o.ctx, none⟩ (o.addr, o.bytes) with
  | .error (.remote ks) => s.askAll (.headOut o.id) 0 elemVc ks
  | .error (.ats _) => s
  | .error _ => (gone s).headDropped o
  | .ok l =>
    let t := (gone s).areaDone 0 o.ctx l
    match o.irq with
    | some v => t.raise v
    | none => t

/-- Every write of the headframe that waits goes on. -/
def State.headSteps (s : State) : State := s.host.headOut.foldl State.headStep s

/-! ## Reads of BAR0 (R46, R48, R50, R51, R194, R205) -/

/-- QCTL.q as the host reads it. -/
def Queue.ctl (x : Queue) : DWord :=
  BitVec.ofNat 64 ((if x.en then 2 ^ 63 else 0) + (if x.err then 2 ^ 62 else 0) + (if x.host then 2 ^ 61 else 0) +
    x.ctx * 2 ^ 48 + x.logsz * 2 ^ 43 + x.prioMax * 2 ^ 40)

/-- MBSTAT: the last finished command, and BUSY. -/
def State.mbstatNow (s : State) : DWord := s.host.mbstat ||| (if s.mbBusy then 1 else 0)

/-- A host read of the 64-bit BAR0 register at offset `a`. It changes nothing. -/
def State.bar0Read (s : State) (a : Nat) : DWord :=
  let h := s.host
  if a == 0 then h.mbcmd
  else if a == 8 then s.mbstatNow
  else if a == 0x10 then h.barwin
  else if a < 0x100 then 0
  else if a < 0x200 then BitVec.ofNat 64 (leNat ((List.range 8).map fun i => tget h.mbdata (a - 0x100 + i) 0))
  else if 0x10000 ≤ a && a < 0x12000 then
    let q := s.queue ((a - 0x10000) / 32)
    if a % 32 == 0 then q.base
    else if a % 32 == 8 then q.ctl
    else if a % 32 == 16 then q.prod.setWidth 64
    else if a % 32 == 24 then q.cons.setWidth 64
    else 0
  else if a == 0x20000 then h.fsrBase
  else if a == 0x20008 then BitVec.ofNat 64 ((if h.fsrEn then 2 ^ 63 else 0) + h.fsrLogsz * 2 ^ 48)
  else if a == 0x20010 then BitVec.ofNat 64 h.fsrProd
  else if a == 0x20018 then BitVec.ofNat 64 h.fsrCons
  else if a == 0x20020 then 0
  else if 0x30000 ≤ a && a < 0x31000 then
    let c := s.ctxOf ((a - 0x30000) / 16)
    if a % 16 == 0 then c.rpProd else if a % 16 == 8 then c.rpCons else 0
  else if 0x40000 ≤ a && a < 0x40400 then
    let w := tget s.fab.windows ((a - 0x40000) / 16) windowReset
    if a % 16 == 0 then w.base else if a % 16 == 8 then w.ctl else 0
  else if 0x40400 ≤ a && a < 0x40480 && a % 8 == 0 then tget s.fab.dbar ((a - 0x40400) / 8) 0
  else tget h.bar0 a 0

/-! ## The replay buffer's indices (R205) -/

/-- REPLAY_INDEX_WRITE: context `a`; `b` 0 RPPROD, 1 RPCONS; value `v`. In record mode system software owns RPCONS, in
replay mode RPPROD. -/
def execReplayIndexWrite : State → Out := act fun s =>
  s.updCtx s.arg.a fun c =>
    if s.arg.b == 0 && c.replays then { c with rpProd := s.arg.v }
    else if s.arg.b == 1 && c.records then { c with rpCons := s.arg.v }
    else c

end Sys2Proof.Machine
end

