-- ==== Sys2Proof/Machine/LaneCtl.lean ====
section
/-! DEFINITION. Lane control transfers (R270 to R277), calls (R62, R126, R127), ROUTE, PART, MODE, ACQ and REL (R254,
R256, R278, R279). -/

namespace Sys2Proof.Machine

/-! ## Targets (R222) -/

/-- A target that the check of R222 refuses: not a multiple of 4, or a readable word that is no clause header. -/
def State.badTarget (s : State) (u : Nat) (st : Strand) (t : DWord) : Bool :=
  t.toNat % 4 != 0 ||
    match s.fetchWord u st t (2 ^ 66 + t.toNat) with
    | .ok (some w) => !isHeader w
    | _ => false

/-- The check of R222 waits for a word that lies in another module, or for its host translation (R37, R138). -/
def State.awaitTargets (s : State) (c : Issue) (st : Strand) (ts : List DWord) : Option State :=
  let s := ts.foldl (fun t a => t.fetchMisses st a 1) s
  let xs := (ts.filter fun t => t.toNat % 4 == 0).map fun t => (t, s.fetchWord c.uid st t (2 ^ 66 + t.toNat))
  let ks := xs.filterMap fun x =>
    match x.2, s.resolve (dieOf st.core) (s.who st) .fetch x.1 4 with
    | .ok none, .ok (.peer m d) => some (⟨2 ^ 66 + x.1.toNat, 1, m, d, 4, 0, [], []⟩ : Ask)
    | _, _ => none
  let pages := xs.filterMap fun x => match x.2 with
    | .error (.ats p) => some p
    | _ => none
  match pages, ks with
  | p :: _, _ => some (s.waitAnew c (.ats p))
  | [], [] => none
  | [], ks => some ((s.askAll (.strand c.uid) st.core elemVc ks).waitAnew c .remote)

/-- The target of a word offset (R222). -/
def offTarget {n : Nat} (pc : DWord) (off : BitVec n) : DWord := pc + 4 * off.signExtend 64

/-- The clause header after the clause under way. -/
def Strand.fall (st : Strand) : DWord := (st.clause.map Clause.stop).getD (st.pc + 4)

/-- A branch every thread takes. -/
def State.branchTo (s : State) (c : Issue) (st : Strand) (t : DWord) : State :=
  if s.badTarget c.uid st t then (s.clearAnswers (.strand c.uid)).takeTrap c.uid { cls := 0x03, pc := some c.pc }
  else (s.updStrand c.uid fun x => x.jump t s.mod.clock).clearAnswers (.strand c.uid)

/-- The outcome that goes to a target, or names a bad one. -/
def State.outcomeTo (s : State) (u : Nat) (st : Strand) (t : DWord) : Option DWord :=
  if s.badTarget u st t then none else some t

/-- The outcome of a branch with a target, which is checked, or without one, which falls through (R222). -/
def State.outcomeOf (s : State) (u : Nat) (st : Strand) : Option DWord → Option DWord
  | none => some st.fall
  | some t => s.outcomeTo u st t

/-- A branch that every thread takes, or none does: the word at its target is there first (R37, R222). -/
def State.branchAll (s : State) (c : Issue) (st : Strand) : Option DWord → State
  | none => s.updStrand c.uid fun y => y.jump st.fall s.mod.clock
  | some t => (s.awaitTargets c st [t]).getD (s.branchTo c st t)

/-- A BRANCH (R114, R222): one outcome number for each thread, and where each number goes; none: it falls through. -/
def State.branch (s : State) (c : Issue) (st : Strand) (tag : BitVec 3) (spans : List (Nat × Nat × Nat))
    (target : Nat → Option DWord) (maxRuns : Nat) : State :=
  match st.kind with
  | .range _ _ =>
    match spans with
    | [x] => s.branchAll c st (target x.2.2)
    | _ =>
      if maxRuns < spans.length then s.expandStrand c.uid
      else (s.awaitTargets c st (spans.filterMap fun x => target x.2.2)).getD
        (match s.split c.uid st c.pc (tag.setWidth 4) 0 0 (spans.map fun x =>
          { off := x.1, len := x.2.1, target := s.outcomeOf c.uid st (target x.2.2) }) with
        | .done t => t
        | .expand => s.expandStrand c.uid)
  | .lane _ m =>
    let num := fun j => ((spans.find? fun x => x.1 ≤ j && j < x.1 + x.2.1).map (·.2.2)).getD 0
    let nums := ((lanesOf m).map num).eraseDups
    match nums with
    | [k] => s.branchAll c st (target k)
    | _ =>
      (s.awaitTargets c st (nums.filterMap target)).getD
        (match s.split c.uid st c.pc (tag.setWidth 4) 0 0 (nums.map fun k =>
          { mask := maskWhere (lanesOf m) fun j => num j == k, target := s.outcomeOf c.uid st (target k) }) with
        | .done t => t
        | .expand => s)
  | .handler => s

/-- Outcome numbers of a strand's threads as spans: of a range by offset, of a warp by lane. -/
def Strand.spansBy (st : Strand) (f : Nat → Nat) : List (Nat × Nat × Nat) :=
  match st.kind with
  | .range lo n => spansOf 0 ((List.range n).map fun i => f (lo + i))
  | _ => spansOf 0 ((List.range 32).map f)

/-- The outcomes of a mask condition: 1 where the bit is set. -/
def Strand.spansOfK (st : Strand) (k : Nat) : List (Nat × Nat × Nat) :=
  match st.kind with
  | .range _ _ => (runsSpans 0 (runsJoin (st.krun k))).map fun x => (x.1, x.2.1, if x.2.2 then 1 else 0)
  | _ => st.spansBy fun j => if (st.kmask k).getLsbD j then 1 else 0

/-- VBR (R271). -/
def execVbr (k tag : BitVec 3) (off : BitVec 18) : State → Out :=
  issue (.vbr k tag off) (fun _ => useK k.toNat) noExcess fun s c st =>
    s.branch c st tag (st.spansOfK k.toNat) (fun n => if n = 1 then some (offTarget c.pc off) else none) 3

/-- VBRN (R271). -/
def execVbrn (k tag : BitVec 3) (off : BitVec 18) : State → Out :=
  issue (.vbrn k tag off) (fun _ => useK k.toNat) noExcess fun s c st =>
    s.branch c st tag (st.spansOfK k.toNat) (fun n => if n = 0 then some (offTarget c.pc off) else none) 3

/-- The case a value of VSWITCH takes, from 1; 0 falls through (R272). -/
def caseOf (cases : List Word) (v : Word) : Nat :=
  ((cases.zipIdx).find? fun x => x.1.extractLsb' 16 16 == v.extractLsb' 0 16 && v.extractLsb' 16 16 == 0).elim 0 fun x => x.2 + 1

/-- VSWITCH (R272). -/
def execVswitch (tag : BitVec 3) (va : BitVec 6) (cases : List (BitVec 32)) : State → Out :=
  issue (.vswitch tag va cases) (fun _ => useV va) noExcess fun s c st =>
    let spans := if st.isRange && (st.form va.toNat).uni then [(0, st.count, caseOf cases (st.form va.toNat).base)]
      else st.spansBy fun j => caseOf cases (s.vreg st va.toNat j)
    s.branch c st tag spans
      (fun n => if n = 0 then none else some (offTarget c.pc ((cases.getD (n - 1) 0).extractLsb' 0 16))) 3

/-- VJOIN (R118 to R121, R273). -/
def execVjoin (tag : BitVec 3) (live : BitVec 8) : State → Out :=
  issue (.vjoin tag live) (fun _ => []) noExcess fun s c st =>
    s.joinStep c.uid (tag.setWidth 4) live false (st.div.length + 1)

/-- VREFORM (R122, R273). -/
def execVreform (tag : BitVec 3) (live : BitVec 8) : State → Out :=
  issue (.vreform tag live) (fun _ => []) noExcess fun s c st =>
    s.joinStep c.uid (tag.setWidth 4) live true (st.div.length + 1)

/-! ## Calls (R126, R127, R274 to R276) -/

/-- A call whose target is a clause header: the return address is pushed, eight full entries going to a frame first (R126). -/
def State.callGo (s : State) (c : Issue) (st : Strand) (t : DWord) : State :=
  if st.ret.length < 8 then
    (s.updStrand c.uid fun y => { (y.jump t s.mod.clock) with ret := st.fall :: st.ret }).clearAnswers (.strand c.uid)
  else match s.pushFrame c.uid st st.ret with
    | .error e => s.areaStop c.uid c.pc st e
    | .ok (x, f) =>
      (x.updStrand c.uid fun y => { (y.jump t s.mod.clock) with ret := [st.fall], frames := f :: y.frames }).clearAnswers
        (.strand c.uid)

/-- A call (R126, R222). -/
def State.callTo (s : State) (c : Issue) (st : Strand) (t : DWord) : State :=
  (s.awaitTargets c st [t]).getD
    (if s.badTarget c.uid st t then (s.clearAnswers (.strand c.uid)).takeTrap c.uid { cls := 0x03, pc := some c.pc }
    else s.callGo c st t)

/-- VCALL (R274). -/
def execVcall (off : BitVec 18) : State → Out :=
  issue (.vcall off) (fun _ => []) noExcess fun s c st =>
    s.callTo c st (offTarget c.pc off)

/-- VCALLR (R62, R127, R275): one target calls; several split the strand, at most eight running at once, with a
CALLJOIN entry on every child. -/
def execVcallr (va : BitVec 6) : State → Out :=
  issue (.vcallr va) (fun _ => useV va 2) noExcess fun s c st =>
    match st.kind with
      | .range _ _ =>
        if (st.form va.toNat).uni && (st.form (va.toNat + 1)).uni then
          s.callTo c st ((st.form (va.toNat + 1)).base ++ (st.form va.toNat).base)
        else s.expandStrand c.uid
      | .lane _ m =>
        let p := pairAt va.toNat s st
        let ts := ((lanesOf m).map p).eraseDups
        match ts with
        | [t] => s.callTo c st t
        | _ =>
          (s.awaitTargets c st ts).getD <|
          let live : BitVec 8 := BitVec.ofNat 8 (2 ^ s.blocks st - 1)
          let first := ts.take 8
          let runs := first.map fun t =>
            ({ mask := maskWhere (lanesOf m) fun j => p j == t
               target := s.outcomeTo c.uid st t, stay := true } : Outcome)
          let rest := maskWhere (lanesOf m) fun j => !first.contains (p j)
          let more : List Outcome := if rest == 0 then [] else
            [{ mask := rest, target := some 0, stay := true
               parts := (ts.drop 8).map fun t => maskWhere (lanesOf m) fun j => p j == t }]
          match s.split c.uid st c.pc 8 2 live (runs ++ more) with
          | .expand => s
          | .done t =>
            { t with strands := tmap t.strands fun _ x =>
                if x.wg == st.wg && rest != 0 && x.mask == rest && x.pc == st.pc && x.block == .none && x.warp == st.warp then
                  { x with block := .target } else x }
      | .handler => s

/-- A strand returns to an address: the next target that waits at a VCALLR may start, and a child of its split reaches the tag-8
join (R62, R127, R276). -/
def State.returnTo (s : State) (c : Issue) (t : DWord) (ret : List DWord) (frames : List DWord) : State :=
  let s := (s.updStrand c.uid fun x => { (x.jump t s.mod.clock) with ret := ret, frames := frames }).clearAnswers (.strand c.uid)
  match tfind s.strands c.uid with
  | none => s
  | some st =>
    let s := s.startTargets st.wg
    match st.div with
    | e :: _ => if e.tag == 8 && e.depth == st.depth then s.joinStep c.uid 8 e.live false (st.div.length + 1) else s
    | [] => s

/-- Pops the return stack, reloading the newest frame where the chip holds none (R126, R276). -/
def State.popReturn (s : State) (c : Issue) (st : Strand) : State :=
  match st.ret, st.frames with
  | r :: rs, fs => s.returnTo c r rs fs
  | [], f :: fs =>
    match s.areaRead c.uid st f.toNat 64 with
    | .error e => s.areaStop c.uid c.pc st e
    | .ok b =>
      (s.runMisses (dieOf st.core) (s.who st) f.toNat 64).returnTo c ((frameRets b).headD 0) ((frameRets b).drop 1) fs
  | [], [] => s.takeTrap c.uid { cls := 0x07, pc := some c.pc }

/-- VRET (R276). -/
def execVret : State → Out :=
  issue .vret (fun _ => []) noExcess fun s c st =>
    s.popReturn c st

/-- VEXIT (R277). -/
def execVexit : State → Out := issue .vexit (fun _ => []) noExcess fun s c _ => s.exitThreads c.uid

/-! ## ROUTE, PART, MODE (R254, R256, R168) -/

/-- ROUTE (R254). -/
def execRoute (sd : BitVec 6) (slot kind : BitVec 2) (fill dyn : BitVec 1) (param : BitVec 6) : State → Out :=
  issue (.route sd slot kind fill dyn param) (fun _ => if dyn == 1 then useS sd else []) noExcess fun s c st =>
    let p : BitVec 6 := if dyn == 1 then ((st.sreg sd.toNat).extractLsb' 0 5).setWidth 6 else param
    (s.updStrand c.uid fun x => { x with route := tset x.route slot.toNat (kind ++ fill ++ (0 : BitVec 7) ++ p) }).retire c
      (.route sd slot kind fill dyn param)

/-- PART (R256). -/
def execPart (tile : BitVec 3) : State → Out :=
  issue (.part tile) (fun _ => []) noExcess fun s c _ =>
    (s.updStrand c.uid fun x => { x with tile := tile }).retire c (.part tile)

/-- MODE (R168): the bits of the mask take the value's. -/
def execMode (mask value : BitVec 8) : State → Out :=
  issue (.mode mask value) (fun _ => []) noExcess fun s c _ =>
    (s.updStrand c.uid fun x => { x with mode := (x.mode &&& ~~~mask) ||| (value &&& mask) }).retire c (.mode mask value)

/-! ## ACQ and REL (R278, R279) -/

/-- The warp takes blocks up to `m` (R278): they read 0. -/
def State.takeBlocks (s : State) (wg warp m : Nat) : State :=
  s.updWg wg fun g => { g with warps := tmod g.warps warp fun w =>
    { blocks := m, regs := w.regs.filter fun r => r.1 / 256 < w.blocks } }

/-- ACQ beyond ACQMAX (R185). -/
def acqExcess (m : Nat) (s : State) (st : Strand) : Option Nat :=
  if (s.gridAt st).hdr.acqmax < m then some (0x300 + m) else none

/-- ACQ (R278). -/
def execAcq (sd : BitVec 6) (wait : BitVec 1) (m : BitVec 4) : State → Out :=
  issue (.acq sd wait m) (fun _ => useS sd) (acqExcess m.toNat) fun s c st =>
    let done := fun (t : State) (v : Word) => (t.updStrand c.uid fun x => x.setS sd.toNat v).retire c (.acq sd wait m)
    match st.kind with
    | .range _ _ => s.expandStrand c.uid
    | _ =>
      if m.toNat ≤ s.blocks st then done s 0
      else if m.toNat - s.blocks st ≤ s.freeBlocks st.core then done (s.takeBlocks st.wg st.warp m.toNat) 0
      else if wait == 0 then done s 1
      else s.wait c (.acq m.toNat sd s.mod.tick.toNat)

/-- REL (R279). -/
def execRel (m : BitVec 4) : State → Out :=
  issue (.rel m) (fun _ => []) noExcess fun s c st =>
    match st.kind with
    | .lane w _ =>
      let keep := max m.toNat (s.gridAt st).hdr.vblk
      (if keep < s.blocks st then
        s.updWg st.wg fun g => { g with warps := tmod g.warps w fun x =>
          { blocks := keep, regs := x.regs.filter fun r => r.1 / 256 < keep } }
      else s).retire c (.rel m)
    | _ => s.retire c (.rel m)

end Sys2Proof.Machine
end

