-- ==== Sys2Proof/Machine/Placer.lean ====
section
/-! DEFINITION. The placers: placeable gangs and their rank (R77, R100), placement (R74 to R76, R106, R143), the head (R79,
R85), pre-emption, save and restore (R86 to R92, R330), and draining (R93, R94). -/

namespace Sys2Proof.Machine

/-! ## Gangs -/

/-- Number of gangs of a grid. -/
def Grid.ngangs (g : Grid) : Nat := g.nwg / max 1 g.hdr.gang

/-- Changes one gang. -/
def State.updGang (s : State) (g k : Nat) (f : Gang → Gang) : State :=
  s.updGrid g fun x => { x with gangs := tmod x.gangs k f }

/-- A gang that has been placed. -/
def State.gang (s : State) (g k : Nat) : Option Gang := tfind (s.gridOf g).gangs k

/-- A gang holds its reservations. -/
def GangSt.holds (x : GangSt) : Bool := x == .resident || x == .halting || x == .saving

/-- The unit that is placed, pre-empted and restored whole (R75): the gangs of it. -/
def State.unitOf (s : State) (g k : Nat) : List Nat :=
  let gr := s.gridOf g
  if gr.hdr.bargrid != 0 then List.range gr.ngangs
  else if gr.hdr.barclus != 0 then
    match gr.bound 2 with
    | some l =>
      let n := gr.units (l + 1) / gr.hdr.gang
      (List.range n).map fun i => k / n * n + i
    | none => [k]
  else [k]

/-- A strand of a gang is left. -/
def State.gangAlive (s : State) (x : Gang) : Bool := s.strands.any fun z => x.members.contains z.2.wg

/-! ## The placeable gangs and their rank (R77, R98 to R100) -/

/-- A grid's gangs are not held by dependency (R98); those of a grid that has started go on after a predecessor that failed
(R99). -/
def State.free_ (s : State) (g : Grid) : Bool :=
  match g.pred with
  | none => true
  | some p =>
    let x := s.gridOf p
    match x.st with
    | .done _ => true
    | _ =>
      x.ngangs ≤ x.nextGang && (List.range x.nwg).all fun w =>
        x.signalled.contains w || (tfind x.gangs (w / x.hdr.gang)).any fun y : Gang => y.st == .retired

/-- A candidate: grid, gang, placeable tick, and whether it awaits its restore. -/
structure Cand where
  grid : Nat
  gang : Nat
  since : Nat
  back : Bool
  deriving DecidableEq, Repr

/-- The placeable gangs: of each grid the next that has not been placed, and every one that is out. -/
def State.cands (s : State) : List Cand :=
  (s.grids.filter fun g => g.2.st == .live).flatMap fun g =>
    (if g.2.area.isSome && s.free_ g.2 && g.2.nextGang < g.2.ngangs then [⟨g.1, g.2.nextGang, g.2.since, false⟩] else []) ++
      g.2.gangs.filterMap fun k => if k.2.st == .out then some ⟨g.1, k.1, k.2.since, true⟩ else none

/-- The queue and record that a grid descends from (R77 key 3). -/
def State.rootOf : Nat → State → Nat → Nat × Nat
  | 0, _, _ => (256, 0)
  | f + 1, s, g =>
    let x := s.gridOf g
    match x.parent with
    | some p => State.rootOf f s p
    | none => (x.queue.getD 256, x.recNo)

/-- A grid precedes another in a chain of dependent launches. -/
def State.precedes : Nat → State → Nat → Nat → Bool
  | 0, _, _, _ => false
  | f + 1, s, a, b =>
    match (s.gridOf b).pred with
    | none => false
    | some p => p == a || State.precedes f s a p

/-- Effective priority (R77). -/
def State.effPrio (s : State) (c : Cand) : Nat := min 7 ((s.gridOf c.grid).prio + (s.mod.tick.toNat - c.since) / 2 ^ 20)

/-- One candidate ranks above another (R77, R100); two that tie on every key rank by the order of launch (log entry 84). -/
def State.above (s : State) (a b : Cand) : Bool :=
  let n := s.grids.length
  if State.precedes n s a.grid b.grid then true
  else if State.precedes n s b.grid a.grid then false
  else
    let pa := s.effPrio a
    let pb := s.effPrio b
    let ra := State.rootOf (n + 1) s a.grid
    let rb := State.rootOf (n + 1) s b.grid
    if pa != pb then pb < pa
    else if a.since != b.since then a.since < b.since
    else if ra.1 != rb.1 then ra.1 < rb.1
    else if ra.2 != rb.2 then ra.2 < rb.2
    else if a.gang != b.gang then a.gang < b.gang
    else a.grid < b.grid

/-- The candidates, highest rank first. -/
def State.ranked (s : State) : List Cand := sortBy s.above s.cands

/-! ## What fits (R70, R76, R143) -/

/-- Barriers reserved on a quad by resident gangs. -/
def State.quadBars (s : State) (q : Nat) : Nat :=
  s.grids.foldl (fun n g => g.2.gangs.foldl (fun m k => if k.2.st.holds && k.2.quad == q then m + g.2.hdr.bargang else m) n) 0

/-- Cluster instances of a grid with a resident gang, each with its cluster. -/
def Grid.clusterInstances (g : Grid) : List (Nat × Nat) :=
  match g.bound 2 with
  | none => []
  | some l => ((g.gangs.filter fun k => k.2.st.holds).map fun k => (g.instanceAt l (k.1 * g.hdr.gang), k.2.quad / 4)).eraseDups

/-- Barriers reserved on a cluster. -/
def State.clusterBars (s : State) (k : Nat) : Nat :=
  s.grids.foldl (fun n g => n + g.2.hdr.barclus * ((g.2.clusterInstances).filter fun i => i.2 == k).length) 0

/-- Barriers reserved on the module. -/
def State.moduleBars (s : State) : Nat :=
  s.grids.foldl (fun n g => if g.2.gangs.any fun k => k.2.st.holds then n + g.2.hdr.bargrid else n) 0

/-- The state of the gang of an allocation's owner. -/
def State.allocSt (s : State) (a : Alloc) : GangSt :=
  let g := s.gridOf a.grid
  ((tfind g.gangs (a.w / g.hdr.gang)).map (·.st)).getD .retired

/-- Byte ranges of a core's slice that are taken: of resident owners, of what outlives its gang, and, where `outs`, of
gangs that are out; but not those of the workgroups `but`. -/
def State.padTaken (s : State) (core : Nat) (outs : Bool) (but : List Nat) : List (Nat × Nat) :=
  (s.home.allocs.filter fun a => a.core == core && !but.contains a.wg &&
    match s.allocSt a with
    | .out => outs
    | .dead => false
    | _ => true).map fun a => (a.off, a.len)

/-- Byte ranges of a core's operand buffer that are taken. -/
def State.bufTaken (s : State) (core : Nat) (outs : Bool) (but : List Nat) : List (Nat × Nat) :=
  (s.wgs.filter fun w => w.2.core == core && !but.contains w.1 &&
    ((s.gangSt w.1).holds || (outs && s.gangSt w.1 == .out))).map fun w => (w.2.ooff, s.obuf w.1)

/-- The lowest aligned offset at which `n` bytes are free below `all`. -/
def freeOff (taken : List (Nat × Nat)) (unit all n : Nat) : Option Nat :=
  let free := fun o : Nat => o + n ≤ all && taken.all fun t => t.2 == 0 || o + n ≤ t.1 || t.1 + t.2 ≤ o
  let starts := 0 :: taken.map fun t => (t.1 + t.2 + unit - 1) / unit * unit
  (starts.filter free).foldl (fun (m : Option Nat) o => some (m.elim o (min o))) none

/-- A core has room for one more workgroup of a grid, offsets apart. -/
def State.coreRoom (s : State) (g : Grid) (core : Nat) : Bool :=
  g.lanes * g.hdr.vblk ≤ s.freeBlocks core && g.slots ≤ s.freeSlots core && g.forms ≤ s.freeForms core &&
    (s.wgsOn core).foldl (fun n w => n + (s.gridOf w.2.grid).hdr.barwg) 0 + g.hdr.barwg ≤ 32 &&
    (g.hdr.scratch = 0 || (s.home.allocs.filter fun a => a.core == core).length < 64)

/-- Where a workgroup of a grid fits on a core: scratchpad and operand-buffer offsets. `outs`: pre-empted gangs' bytes
are not to be taken (R76 item 4). -/
def State.fitCore (s : State) (g : Grid) (core : Nat) (outs : Bool) : Option (Nat × Nat × Nat) :=
  if !s.coreRoom g core then none
  else match freeOff (s.padTaken core outs []) 256 393216 g.hdr.scratch, freeOff (s.bufTaken core outs []) 4096 262144 g.hdr.obuf with
    | some a, some b => some (core, a, b)
    | _, _ => none

/-- How many workgroups of a grid still fit on a core, by amounts. -/
def State.coreCap (s : State) (g : Grid) (core : Nat) (outs : Bool) : Nat :=
  let h := g.hdr
  let sum := fun l : List (Nat × Nat) => l.foldl (fun n x => n + x.2) 0
  [fitOf (s.freeBlocks core) (g.lanes * h.vblk) 512, fitOf (s.freeSlots core) g.slots 512, fitOf (s.freeForms core) g.forms 512,
    fitOf (32 - (s.wgsOn core).foldl (fun n w => n + (s.gridOf w.2.grid).hdr.barwg) 0) h.barwg 512,
    fitOf (393216 - sum (s.padTaken core outs [])) h.scratch 512, fitOf (262144 - sum (s.bufTaken core outs [])) h.obuf 512,
    if h.scratch = 0 then 512 else 64 - (s.home.allocs.filter fun a => a.core == core).length].foldl min 512

/-- The quad is the target of the head, and this gang is not in the head's unit (R76 item 3, R79). -/
def State.barred (s : State) (g k q : Nat) : Bool :=
  match s.sched.head with
  | none => false
  | some (hg, hk, _, t) =>
    (match t with
      | .quad x => x == q
      | .cluster x => x == q / 4
      | .whole => true) && !(hg == g && (s.unitOf hg hk).contains k)

/-- This gang is in the head's unit, and the quad on the head's target. -/
def State.headed (s : State) (g k q : Nat) : Bool :=
  match s.sched.head with
  | none => false
  | some (hg, hk, _, t) =>
    (match t with
      | .quad x => x == q
      | .cluster x => x == q / 4
      | .whole => true) && hg == g && (s.unitOf hg hk).contains k

/-- The cores that a replay log names, as far as it has been written (R204). -/
def State.loggedCores (s : State) (ctx : Nat) : Nat → Nat → List Nat
  | 0, _ => []
  | f + 1, x =>
    if (s.ctxOf ctx).rpProd.toNat < x + 16 then []
    else match s.ringRead ctx x 2 with
      | none => []
      | some b => fieldAt b 8 2 :: s.loggedCores ctx f (x + 16 + 8 * fieldAt b 12 4)

/-- A gang fits on a quad (R76): its members' cores and offsets. It takes the cores with the most room, so that as many gangs
fit as can (R75). -/
def State.fitQuad (s : State) (gk k q : Nat) : Option (List (Nat × Nat × Nat)) :=
  let g := s.gridOf gk
  let c := s.ctxOf g.ctx
  let clusterNew := g.hdr.barclus != 0 &&
    !((g.bound 2).any fun l => (g.clusterInstances).contains (g.instanceAt l (k * g.hdr.gang), q / 4))
  if !s.quadUp q || s.barred gk k q || 32 < s.quadBars q + g.hdr.bargang ||
      (clusterNew && 32 < s.clusterBars (q / 4) + g.hdr.barclus) ||
      (!(g.gangs.any fun x => x.2.st.holds) && 64 < s.moduleBars + g.hdr.bargrid) then none
  else
    let cores := (List.range 4).map fun i => 4 * q + i
    let cores := if c.replays then cores.filter fun x => (s.loggedCores g.ctx 4096 c.rpCons.toNat).contains x else cores
    let outs := !s.headed gk k q
    let ok := cores.filterMap fun x => (s.fitCore g x outs).map fun y => (s.coreCap g x outs, y)
    let best := (sortBy (fun a b => decide (b.1 < a.1) || (a.1 == b.1 && decide (a.2.1 ≤ b.2.1))) ok).take g.hdr.gang
    if best.length < g.hdr.gang then none
    else some (sortBy (fun a b => decide (a.1 ≤ b.1)) (best.map (·.2)))

/-- The quads that the bindings leave a gang (R68): those of the cluster or die of its instance's first gang. -/
def State.allowed (s : State) (gk k : Nat) : List Nat :=
  let g := s.gridOf gk
  let mates := fun l : Nat => g.gangs.find? fun x => x.1 != k && g.instanceAt l (x.1 * g.hdr.gang) == g.instanceAt l (k * g.hdr.gang)
  let cl := (g.bound 2).bind mates
  let di := (g.bound 3).bind mates
  (List.range 256).filter fun q =>
    (match cl with
      | some x => x.2.quad / 4 == q / 4
      | none => true) &&
    (match di with
      | some x => x.2.quad / 64 == q / 64
      | none => true)

/-! ## Placing (R74, R76, R106, R143) -/

/-- The strands with which a workgroup starts (R106). -/
def State.startStrands (s : State) (wg : Nat) : State :=
  let w := s.wgOf wg
  let g := s.gridOf w.grid
  let base : Strand :=
    { wg := wg, core := w.core, slot := 0, borrowed := false, split := false, parkedOut := false, kind := .handler
      forms := [], runs := [], masks := [], s := [], pc := g.hdr.entry, clause := none, div := [], ret := [], frames := []
      route := [], tile := 5, mode := g.hdr.mode, sticky := 0, arrivals := [], gaveWay := [], doneLanes := 0, doneCount := 0
      asBarw := false, caps := none, async := [], park := parkNone, block := .none, waitTick := 0, yieldUntil := 0
      lastIssue := 0, issueTick := 0, placed := s.mod.tick.toNat }
  let base := (base.setD 48 (BitVec.ofNat 64 (((g.callAreaOf w.w).getD 0) + g.hdr.callarea))).setD 50 0x0200000000000000
  let add := fun (t : State) (k : SKind) =>
    let u := t.next
    { t with next := u + 1, strands := tset t.strands u { base with kind := k, slot := t.slotNumber w.core } }
  if g.hdr.rangeStart then add s (.range 0 g.threads)
  else (List.range g.warps).foldl (fun t j =>
    add (t.updWg wg fun x => { x with warps := tset x.warps j ⟨g.hdr.vblk, []⟩ }) (.lane j (g.existing j))) s

/-- An applied write that a die does not see yet, where the die reads zero in a byte range. -/
def Unseen.zeroed (u : Unseen) (k n : Nat) : Unseen :=
  { u with old := u.old.mapIdx fun i b => if k ≤ u.loc + i && u.loc + i < k + n then 0 else b }

/-- A byte range of a slice or operand buffer as its next owner finds it: zero at every die, without poison, no write under
way to it, no arrival word in it (R143, R311). -/
def State.zeroRange (s : State) (k n : Nat) : State :=
  (s.clearRange k n).setHome fun h => { h with
    unseen := tmap h.unseen fun _ l => l.map fun u => u.zeroed k n
    writes := h.writes.filter fun w => !(w.2.loc < k + n && k < w.2.loc + w.2.bytes.length)
    poison := h.poison.filter fun g => !(g * 64 < k + n && k < g * 64 + 64)
    words := h.words.filter fun w => !(k ≤ w && w < k + n) }

/-- A gang takes its reservations, and its members' workgroups are there; their strands are not. -/
def State.reserve (s : State) (gk k q : Nat) (places : List (Nat × Nat × Nat)) : State :=
  let g := s.gridOf gk
  let r := (places.zipIdx).foldl (fun (r : State × List Nat) p =>
    let wg := r.1.next
    let w := k * g.hdr.gang + p.2
    let x := wgStart gk w p.1.1 p.1.2.1 p.1.2.2
    let t := { r.1 with next := wg + 1, wgs := tset r.1.wgs wg x }
    let t := (t.zeroRange (sKey (p.1.1 * 2 ^ 20 + p.1.2.1)) g.hdr.scratch).zeroRange x.obase g.hdr.obuf
    let t := if g.hdr.scratch = 0 then t else
      { t with
        home := { t.home with
          allocs := { core := p.1.1, off := p.1.2.1, len := g.hdr.scratch, wg := wg, grid := gk, w := w, level := 0 } :: t.home.allocs } }
    (t, r.2 ++ [wg])) (s, [])
  let now := s.mod.tick.toNat
  r.1.updGrid gk fun x => { x with
    gangs := tset x.gangs k { st := .resident, quad := q, placed := now, since := now, reqTick := 0, members := r.2 }
    nextGang := max x.nextGang (k + 1) }

/-- The first gang of a list is placed on the first quad that it fits on, then the next. -/
def State.reserveAll (gk : Nat) (quads : List Nat) : List Nat → State → Option State
  | [], s => some s
  | k :: r, s =>
    let ok := (s.allowed gk k).filter quads.contains
    match ok.findSome? fun q => (s.fitQuad gk k q).map fun p => (q, p) with
    | none => none
    | some (q, p) => State.reserveAll gk quads r (s.reserve gk k q p)

/-- Groups of gangs, each within one of the regions. -/
def State.reserveGroups (gk : Nat) (regions : List (List Nat)) (f : List Nat → List Nat → State → Option State) :
    List (List Nat) → State → Option State
  | [], s => some s
  | ks :: r, s =>
    match regions.findSome? fun q => f q ks s with
    | none => none
    | some t => State.reserveGroups gk regions f r t

/-- The gangs of a list in runs of one instance of a level. -/
def Grid.groups (g : Grid) (level : Option Nat) (ks : List Nat) : List (List Nat) :=
  match level with
  | none => [ks]
  | some l => ((ks.map fun k => g.instanceAt l (k * g.hdr.gang)).eraseDups).map fun i =>
      ks.filter fun k => g.instanceAt l (k * g.hdr.gang) == i

/-- The clusters and dies as lists of quads. -/
def clusterQuads (quads : List Nat) : List (List Nat) :=
  ((quads.map (· / 4)).eraseDups).map fun c => quads.filter fun q => q / 4 == c
/-- The dies as lists of quads. -/
def dieQuads : List (List Nat) := (List.range 4).map fun d => (List.range 64).map fun i => 64 * d + i

/-- Reserves a gang, or the whole unit that R75 places with it; none: it does not fit. -/
def State.reserveUnit (s : State) (gk : Nat) (ks : List Nat) : Option State :=
  let g := s.gridOf gk
  let inRegion := fun (quads ks : List Nat) (s : State) =>
    match g.bound 2 with
    | none => State.reserveAll gk quads ks s
    | some _ => State.reserveGroups gk (clusterQuads quads) (State.reserveAll gk) (g.groups (g.bound 2) ks) s
  match g.bound 3 with
  | none => inRegion (List.range 256) ks s
  | some _ => State.reserveGroups gk dieQuads inRegion (g.groups (g.bound 3) ks) s

/-- The dies that a unit's gangs lie on may place again only 2 ticks later for each gang (R76). -/
def State.rateAfter (s : State) (gk : Nat) (ks : List Nat) : State :=
  ks.foldl (fun t k => match t.gang gk k with
    | none => t
    | some x => t.setSched fun d => { d with
        ready := tset d.ready (x.quad / 64) (max (tget d.ready (x.quad / 64) 0) t.mod.tick.toNat + 2) }) s

/-- Every die that a unit would use may place now. -/
def State.mayPlace (s t : State) (gk : Nat) (ks : List Nat) : Bool :=
  ks.all fun k => match t.gang gk k with
    | none => true
    | some x => decide (tget s.sched.ready (x.quad / 64) 0 ≤ s.mod.tick.toNat)

/-- The unit of a candidate that is still to be placed or restored: for a restore every gang of it that was pre-empted
(R75). -/
def State.candUnit (s : State) (c : Cand) : List Nat :=
  (s.unitOf c.grid c.gang).filter fun k => match s.gang c.grid k with
    | none => !c.back
    | some x => c.back && x.st == .out

/-! ## Restoring (R91, R92) -/

/-- A gang that is out fits on its home quad again: reserved resources, and its own offsets. -/
def State.fitsHome (s : State) (gk k : Nat) : Bool :=
  match s.gang gk k with
  | none => false
  | some x =>
    let g := s.gridOf gk
    let apart := fun (l : List (Nat × Nat)) (o n : Nat) => n == 0 || l.all fun t => t.2 == 0 || o + n ≤ t.1 || t.1 + t.2 ≤ o
    !s.barred gk k x.quad && s.quadBars x.quad + g.hdr.bargang ≤ 32 &&
      (g.hdr.barclus == 0 ||
        ((g.bound 2).any fun l => (g.clusterInstances).contains (g.instanceAt l (k * g.hdr.gang), x.quad / 4)) ||
        s.clusterBars (x.quad / 4) + g.hdr.barclus ≤ 32) &&
      ((g.gangs.any fun y => y.2.st.holds) || s.moduleBars + g.hdr.bargrid ≤ 64) &&
      x.members.all fun m =>
        let w := s.wgOf m
        s.coreRoom { g with hdr := { g.hdr with scratch := 0 } } w.core &&
          apart (s.padTaken w.core (!s.headed gk k x.quad) [m]) w.soff g.hdr.scratch &&
          apart (s.bufTaken w.core (!s.headed gk k x.quad) [m]) w.ooff g.hdr.obuf

/-- A unit that is out fits: each gang on its home quad, one after the other. -/
def State.fitsBack (gk : Nat) : List Nat → State → Bool
  | [], _ => true
  | k :: r, s => s.fitsHome gk k && State.fitsBack gk r (s.updGang gk k fun x => { x with st := .resident })

/-! ## What the placers do next (R76, R77, R79) -/

/-- A candidate that can be placed now, as a state in which it holds its reservations; a restore keeps the state. -/
def State.tryCand (s : State) (c : Cand) : Option State :=
  let ks := s.candUnit c
  if c.back then
    (if (s.unitOf c.grid c.gang).all (fun k => (s.gang c.grid k).all fun x : Gang => x.st != .halting && x.st != .saving) &&
        State.fitsBack c.grid ks s then some s else none)
  else s.reserveUnit c.grid ks

/-- The highest-ranked candidate that fits and whose dies may place, and the highest-ranked one that does not fit. -/
def State.scan (s : State) : List Cand → Option (Cand × State) × Option Cand
  | [] => (none, none)
  | c :: r =>
    match s.tryCand c with
    | none => ((s.scan r).1, some c)
    | some t => if s.mayPlace t c.grid (s.candUnit c) then (some (c, t), none) else s.scan r

/-- What the placers do next. -/
def State.nextMove (s : State) : Option (Cand × State) × Option Cand := s.scan s.ranked

/-- A state in which some quads have no resident gang and no head holds them. -/
def State.emptied (s : State) (quads : Nat → Bool) : State :=
  { s with
    grids := tmap s.grids fun _ g => { g with gangs := tmap g.gangs fun _ k => if k.st.holds && quads k.quad then { k with st := .out } else k }
    sched := { s.sched with head := none } }

/-- The target of a head (R79): the first quad or cluster whose resident gangs, once gone, would leave it room. -/
def State.targetFor (s : State) (c : Cand) : Option Target :=
  let g := s.gridOf c.grid
  let try_ := fun (t : Target) (quads : Nat → Bool) =>
    let e := (s.emptied quads).setSched fun d => { d with head := some (c.grid, c.gang, 0, t) }
    if (if c.back then State.fitsBack c.grid (s.candUnit c) e else (State.reserveUnit e c.grid (s.candUnit c)).isSome) then some t else none
  if g.hdr.bargrid != 0 then some .whole
  else if g.hdr.barclus != 0 then (List.range 64).findSome? fun k => try_ (.cluster k) fun q => q / 4 == k
  else if c.back then (s.gang c.grid c.gang).map fun x => .quad x.quad
  else (List.range 256).findSome? fun q => try_ (.quad q) fun x => x == q

/-- A head is chosen where there is none; one whose grid is over, or that has been placed, is forgotten. -/
def State.chooseHead (s : State) (miss : Option Cand) : State :=
  let live := match s.sched.head with
    | none => false
    | some (g, k, _, _) => s.cands.any fun c => c.grid == g && (s.unitOf g k).contains c.gang
  if live then s
  else
    let s := s.setSched fun d => { d with head := none }
    match miss with
    | none => s
    | some c => match s.targetFor c with
      | none => s
      | some t => s.setSched fun d => { d with head := some (c.grid, c.gang, s.mod.tick.toNat, t) }

/-- GANG_PLACEMENT: the highest-ranked gang or unit that fits and has not been placed starts, and sees what was released to
it (R152, R163, R347); the highest-ranked one that fits nowhere becomes the head. -/
def execGangPlacement : State → Out := act fun s =>
  let m := s.nextMove
  let s' := match m.1 with
    | some (c, t) =>
      if c.back then s
      else
        let ks := s.candUnit c
        let t := ks.foldl (fun (x : State) k => ((x.gang c.grid k).elim [] fun y => y.members).foldl State.startStrands x) t
        let t := ks.foldl (fun (x : State) k => (x.gang c.grid k).elim x fun y => x.showAll (y.quad / 64)) t
        t.rateAfter c.grid ks
    | none => s
  s'.chooseHead m.2

/-! ## Pre-emption (R85 to R90) -/

/-- Requests the pre-emption of a gang and of the unit it belongs to (R85): resident ones that do not drain. -/
def State.preempt (s : State) (gk k : Nat) : State :=
  (s.unitOf gk k).foldl (fun t j => match t.gang gk j with
    | none => t
    | some x =>
      if x.st == .resident && t.gangAlive x then
        t.updGang gk j fun y => { y with st := .halting, reqTick := t.mod.tick.toNat }
      else t) s

/-- A resident gang on the head's target that may give way: grid, gang. -/
def State.victims (s : State) (quads : Nat → Bool) (prio : Nat) : List (Nat × Nat) :=
  (s.grids.filter fun g => g.2.st == .live).flatMap fun g =>
    g.2.gangs.filterMap fun k =>
      if k.2.st == .resident && quads k.2.quad && s.gangAlive k.2 && g.2.prio < prio then some (g.1, k.1) else none

/-- The order in which victims are compared (R85): lower PRIO, later placement, lower queue and record, lower index. -/
def State.victimKey (s : State) (v : Nat × Nat) : List Nat :=
  let r := State.rootOf (s.grids.length + 1) s v.1
  [(s.gridOf v.1).prio, 2 ^ 64 - ((s.gang v.1 v.2).map (·.placed)).getD 0, r.1, r.2, v.2]

/-- Lexicographic order of lists of numbers. -/
def lexLe : List Nat → List Nat → Bool
  | [], _ => true
  | _, [] => false
  | x :: r, y :: t => x < y || (x == y && lexLe r t)

/-- The unions of units that have `n` gangs in all. -/
def chooseUnits : List (List (Nat × Nat)) → Nat → List (List (Nat × Nat))
  | [], n => if n = 0 then [[]] else []
  | u :: r, n => (if u.length ≤ n then (chooseUnits r (n - u.length)).map (u ++ ·) else []) ++ chooseUnits r n

/-- The state without some gangs, and without those that are being pre-empted already: does the head then fit? -/
def State.frees (s : State) (c : Cand) (vs : List (Nat × Nat)) : Bool :=
  let e := { s with grids := tmap s.grids fun g x => { x with
    gangs := tmap x.gangs fun k y =>
      if y.st.holds && (vs.contains (g, k) || y.st == .halting || y.st == .saving) then { y with st := .out } else y } }
  if c.back then State.fitsBack c.grid (e.candUnit c) e else (State.reserveUnit e c.grid (e.candUnit c)).isSome

/-- The resident gangs of the unit of a victim (R75, R85), in the order in which they are compared. -/
def State.victimUnit (s : State) (v : Nat × Nat) : List (Nat × Nat) :=
  sortBy (fun a b => lexLe (s.victimKey a) (s.victimKey b))
    (((s.unitOf v.1 v.2).filter fun k => (s.gang v.1 k).any fun y : Gang => y.st == .resident).map fun k => (v.1, k))

/-- The set of gangs to pre-empt for the head (R85): least in number, every gang of a unit counted, then first in order. -/
def State.victimSet (s : State) (c : Cand) (quads : Nat → Bool) : Option (List (Nat × Nat)) :=
  let le := fun a b => lexLe (s.victimKey a) (s.victimKey b)
  let units := ((s.victims quads (s.effPrio c)).map s.victimUnit).eraseDups
  let total := units.foldl (fun n u => n + u.length) 0
  (List.range (total + 1)).findSome? fun n =>
    let sets := ((chooseUnits units n).filter fun l => s.frees c l).map (sortBy le)
    sets.foldl (fun (m : Option (List (Nat × Nat))) l => match m with
      | none => some l
      | some x => if lexLe (x.flatMap s.victimKey) (l.flatMap s.victimKey) then some x else some l) none

/-- HEAD_WAIT_EXPIRY: the head has waited 2^20 ticks. -/
def execHeadWaitExpiry : State → Out := act fun s =>
  match s.sched.head with
  | none => s
  | some (g, k, t, target) =>
    if s.mod.tick.toNat < t + 2 ^ 20 then s
    else match s.cands.find? fun c => c.grid == g && (s.unitOf g k).contains c.gang with
      | none => s
      | some c =>
        let quads : Nat → Bool := match target with
          | .quad q => fun x => x == q
          | .cluster q => fun x => x / 4 == q
          | .whole => fun _ => true
        match s.victimSet c quads with
        | none => s
        | some vs => vs.foldl (fun t v => t.preempt v.1 v.2) s

/-- Gangs that wait in WAITPRED on a quad give way to a predecessor's gang whose home it is (R85, R100). -/
def State.yieldToPred (s : State) : State :=
  s.grids.foldl (fun t g => g.2.gangs.foldl (fun t k =>
    if k.2.st == .resident && (t.strands.any fun z => k.2.members.contains z.2.wg && z.2.block == .waitpred) &&
        (g.2.pred.any fun p => (t.gridOf p).gangs.any fun y => y.2.st == .out && y.2.quad == k.2.quad) then
      t.preempt g.1 k.1
    else t) t) s

/-- GANG_HALT: gang `b` of grid `a`, whose pre-emption is requested, has halted; open capsules become adoptable, or are GONE
where the grid ends (R87, R191). A gang with no strand left drains instead (R88). -/
def execGangHalt : State → Out := act fun s =>
  match s.gang s.arg.a s.arg.b with
  | none => s
  | some x =>
    if x.st != .halting then s
    else if !s.gangAlive x then s.updGang s.arg.a s.arg.b fun y => { y with st := .resident }
    else
      let us := s.strands.filter fun z => x.members.contains z.2.wg
      let mark := if (s.gridOf s.arg.a).st == .live then 2 else 3
      let s := us.foldl (fun t z => t.capsMark z.2 mark) s
      let s := x.members.foldl State.touchImage s
      s.updGang s.arg.a s.arg.b fun y => { y with st := .saving }

/-! ## Saving (R86, R89) -/

/-- A workgroup's image can be neither written nor read: class 0x17 is recorded for its lowest thread, and the grid
ends (R56, R91). -/
def State.abandon (s : State) (wg : Nat) : State :=
  let w := s.wgOf wg
  let g := s.gridOf w.grid
  let first := ((s.strandsOf wg).map (·.2)).foldl (fun (m : Option Strand) x =>
    match m with
    | none => some x
    | some y => if x.names.1 < y.names.1 then some x else some y) none
  let s := match first with
    | none => s
    | some st => s.logRecord g.ctx (s.record st
        { cls := 0x17, flags := 16, who := some (st.names.1, if st.isRange then 1 else 2 ^ lowLane st.mask), fatal := true })
  (s.updWg wg fun x => { x with lost := true }).endGrid w.grid 2

/-- An engine command in progress writes into a workgroup's slice or operand buffer (R86 step 4). -/
def State.engTargets (s : State) (wg : Nat) (e : Engine) : Bool :=
  let w := s.wgOf wg
  let g := s.gridOf w.grid
  let pad := sKey (w.core * 2 ^ 20 + w.soff)
  let mine := fun k n : Nat => n != 0 && ((k < pad + g.hdr.scratch && pad < k + n) || (k < w.obase + g.hdr.obuf && w.obase < k + n))
  let key := fun a : DWord => if a.extractLsb' 56 8 == 1 then sKey (a.toNat % 2 ^ 56) else 0
  match e.kind with
  | .tcopy _ segs .. => segs.any fun x => mine x.2.2 x.2.1
  | .mcopy _ _ ts _ _ => ts.any fun x => x.1.any fun g => mine g.2.2 g.2.1
  | .bcopy _ _ d c n rowb nkey => mine (key d) (n * rowb) || mine (key c) (4 * nkey)
  | .chain _ d el _ ot _ _ _ => mine (key d) (chainSize ot * el * e.total)
  | .redw a v .. => mine (key a) v.length

/-- What the placer does at an access to an image that does not go through: pages that are not present are asked for, and the
save or restore waits, as it does for other modules, host translations, and a full queue of misses (R137); any other fault
abandons that workgroup's image (R56, R91, R195). -/
def State.imageStop (s : State) (wg : Nat) : AreaStop → State
  | .remote ks => s.imageAsk wg ks
  | .ats _ => s
  | .full _ => s.abandon wg
  | .fault c a write =>
    let ctx := (s.gridOf (s.wgOf wg).grid).ctx
    let s := s.noteMiss (dieOf (s.wgOf wg).core) ⟨ctx, some wg⟩ (BitVec.ofNat 64 a)
    if c = 0x12 then s.hold (.image wg) c ctx (a / 0x10000)
    else if c = 0x13 && s.host.fsrEn && (s.holdFault (.image wg) c ctx (a / 0x10000)).isNone then
      (s.hold (.image wg) c ctx (a / 0x10000)).askPage c ctx (a / 0x10000) (if write then 1 else 0)
    else ((s.forgetHolds (.image wg)).forgetAsks (.image wg)).abandon wg

/-- The same for the members of a gang or unit. -/
def State.imageStops (s : State) (l : List (Nat × AreaStop)) : State := l.foldl (fun t x => t.imageStop x.1 x.2) s

/-- The stop of an access, where there is one. -/
def stopOf {α : Type} (wg : Nat) : Except AreaStop α → Option (Nat × AreaStop)
  | .ok _ => none
  | .error e => some (wg, e)

/-- A write that its home has yet to apply goes to a workgroup's slice. -/
def State.landing (s : State) (wg : Nat) : Bool :=
  let w := s.wgOf wg
  let pad := sKey (w.core * 2 ^ 20 + w.soff)
  s.home.writes.any fun x => x.2.loc < pad + (s.gridOf w.grid).hdr.scratch && pad < x.2.loc + x.2.bytes.length

/-- The whole image of a workgroup as it is saved. -/
def State.wholeImage (s : State) (wg : Nat) : List (Nat × List Byte) :=
  (0, s.imageHead wg 2) :: s.imageParts wg ++ [((s.gridOf (s.wgOf wg).grid).padsAt, s.padBytes wg)]

/-- A workgroup's image is written into its context area; poison goes with the bytes (R19, R89), and the placer watches its
arrival words there (R87). -/
def State.saveImage (s : State) (wg : Nat) : State :=
  let w := s.wgOf wg
  let g := s.gridOf w.grid
  let pad := sKey (w.core * 2 ^ 20 + w.soff)
  let t := match s.imageStore wg (s.wholeImage wg) with
    | .ok t => t.imagePoison wg
    | .error _ => s
  let mine := t.home.words.filter fun x => pad ≤ x && x < pad + g.hdr.scratch
  let bytes := t.padBytes wg
  (((t.setHome fun h => { h with words := h.words.filter fun x => !(pad ≤ x && x < pad + g.hdr.scratch) }).updWg wg fun x =>
    { x with words := mine, kept := bytes, dirty := false }).forgetAsks (.image wg)).forgetHolds (.image wg)

/-- A confidential context's operand-buffer bytes are zeroed, and its scratchpad bytes where they are free (R63). -/
def State.scrubWg (s : State) (pads : Bool) (wg : Nat) : State :=
  let w := s.wgOf wg
  let g := s.gridOf w.grid
  if !(s.ctxOf g.ctx).conf then s
  else
    let t := s.clearRange w.obase g.hdr.obuf
    if pads then t.clearRange (sKey (w.core * 2 ^ 20 + w.soff)) g.hdr.scratch else t

/-- What stops the storing of the images of some workgroups. -/
def State.saveStops (s : State) (ms : List Nat) : List (Nat × AreaStop) :=
  ms.filterMap fun m => stopOf m (s.imageStore m (s.wholeImage m))

/-- A copy of a thread writes into a workgroup's slice (R86 step 4). -/
def State.copyTargets (s : State) (wg : Nat) (c : VCp) : Bool :=
  let w := s.wgOf wg
  let pad := sKey (w.core * 2 ^ 20 + w.soff)
  c.failed.isNone && decide (c.dst < pad + (s.gridOf w.grid).hdr.scratch) && decide (pad < c.dst + c.size)

/-- What still writes into a workgroup's slice or operand buffer (R86 step 4): writes on their way to their homes, engine
commands and copies. -/
def State.written (s : State) (wg : Nat) : Bool :=
  s.landing wg || (s.engines.any fun e => s.engTargets wg e.2) || s.copies.any fun c => s.copyTargets wg c.2

/-- A member of a gang that overflowed the miss queue waits until it holds fewer than 2,048 requests (R137). -/
def State.imageHeld (s : State) (ms : List Nat) : Bool :=
  ms.any fun m => s.overflowHeld (.image m) (dieOf (s.wgOf m).core)

/-- SAVE_COMPLETE: gang `b` of grid `a`, which has halted, is written out, once nothing writes into its slices and no
pass of it runs; its resources are then free. A member whose image is given up (R56) does not keep the others from theirs. -/
def execSaveComplete : State → Out := act fun s =>
  let gk := s.arg.a
  let k := s.arg.b
  match s.gang gk k with
  | none => s
  | some x =>
    let live := x.members.filter fun m => !(s.wgOf m).lost
    if x.st != .saving || x.members.any s.written || s.imageHeld live ||
        (s.sched.running.any fun r => (tfind s.sched.mxe r.2.1).any fun q => x.members.contains q.wg) then s
    else
      let now := s.mod.tick.toNat
      let ended := fun (t : State) =>
        let t := x.members.foldl (fun t m => t.scrubWg true m) t
        let t := { t with strands := tmap t.strands fun _ z =>
          if x.members.contains z.wg && z.borrowed then { z with parkedOut := true, placed := now } else z }
        let t := t.updGang gk k fun y => { y with st := if (t.gridOf gk).st == .live then .out else .dead, since := now }
        (t.canary (x.quad / 64) 1 3 x.quad ((t.gridOf gk).ctx * 2 ^ 24 + k % 2 ^ 24)).settle gk
      let p := s.updGang gk k fun y => { y with since := now }
      match p.saveStops live with
      | [] => ended (live.foldl State.saveImage p)
      | l => s.imageStops l

/-! ## Restore (R91, R92, R280) -/

/-- The poison of an image's scratchpad and operand buffer goes into the slices (R19). -/
def State.reloadPoison (s : State) (wg : Nat) : State :=
  let w := s.wgOf wg
  let g := s.gridOf w.grid
  let pad := sKey (w.core * 2 ^ 20 + w.soff)
  match g.ctxAreaOf w.w with
  | none => s
  | some a =>
    (List.range ((g.hdr.scratch + g.hdr.obuf) / 64)).foldl (fun (u : State) i =>
      match s.resolve (dieOf w.core) ⟨g.ctx, some wg⟩ .copy (BitVec.ofNat 64 (a + g.padsAt + 64 * i)) 16 with
      | .ok (.loc k) =>
        if s.poisoned k 64 then
          u.poisonAt (if 64 * i < g.hdr.scratch then pad + 64 * i else w.obase + (64 * i - g.hdr.scratch)) 64
        else u
      | _ => u) s

/-- The slices of a workgroup take the bytes of its image, its arrival words are watched again, and its MMAS requests read
their tiles again (R91, R330). An ACQ that waited issues again (R280), and an emulation begins again (R197). -/
def State.reload (s : State) (wg : Nat) : State :=
  let w := s.wgOf wg
  let h := (s.gridOf w.grid).hdr
  let pad := sKey (w.core * 2 ^ 20 + w.soff)
  let s := (s.zeroRange pad h.scratch).zeroRange w.obase h.obuf
  let s := { s with
    mem := mwrite (mwrite s.mem pad (w.kept.take h.scratch)) w.obase (w.kept.drop h.scratch)
    strands := tmap s.strands fun _ z => match z.block with
      | .acq .. => if z.wg == wg then { z with block := .none } else z
      | .emulate word vd m _ => if z.wg == wg then { z with block := .emulate word vd m [] } else z
      | _ => z }
  let s := s.reloadPoison wg
  let s := s.setSched fun d => { d with mxe := tmap d.mxe fun _ r =>
    if r.wg == wg then { r with tile := none, dense := false, assay := false, stream := [] } else r }
  (((s.setHome fun h => { h with words := h.words ++ w.words }).updWg wg fun x =>
    { x with words := [], kept := [], dirty := true }).forgetAsks (.image wg)).forgetHolds (.image wg)

/-- Arrivals that the image took while its gang was out release their waiters (R87, R148). -/
def State.wakeWords (s : State) (wg : Nat) : State :=
  let w := s.wgOf wg
  let pad := sKey (w.core * 2 ^ 20 + w.soff)
  (s.home.words.filter fun x => pad ≤ x && x < pad + (s.gridOf w.grid).hdr.scratch).foldl State.wakeWord s

/-- Strands whose acquired blocks cannot be had stay in the image (R280). -/
def State.parkShort (s : State) (wg : Nat) : State :=
  let w := s.wgOf wg
  let v := (s.gridOf w.grid).hdr.vblk
  (w.warps.filter fun x => v < x.2.blocks).foldl (fun t x =>
    if t.usedBlocks w.core ≤ 512 then t
    else { t with strands := tmap t.strands fun _ z =>
      if z.wg == wg && z.isLane && z.warp == x.1 then { z with parkedOut := true } else z }) s

/-- The images of some workgroups show STATE 3: they are being restored (R89). -/
def State.backHeads (s : State) (ms : List Nat) : State :=
  ms.foldl (fun t m => match t.imageStore m [(0, t.imageHead m 3)] with
    | .ok u => u
    | .error _ => t) s

/-- What stops the reading of the images of some workgroups. -/
def State.backStops (s : State) (ms : List Nat) : List (Nat × AreaStop) :=
  ms.filterMap fun m => stopOf m (areaAll [(s.imageStore m [(0, s.imageHead m 3)]).map fun _ => ([] : List Byte), s.imageRead m])

/-- GANG_RESTORE: the highest-ranked candidate awaits its restore and fits: its gangs come back onto their home quads, once
their images have been read. -/
def execGangRestore : State → Out := act fun s =>
  match s.nextMove.1 with
  | none => s
  | some (c, _) =>
    if !c.back then s
    else
      let ks := s.candUnit c
      let ms := ks.flatMap fun k => ((s.gang c.grid k).map (·.members)).getD []
      if s.imageHeld ms then s
      else
      let s := s.backHeads ms
      match s.backStops ms with
      | x :: l => s.imageStops (x :: l)
      | [] =>
        if ms.any fun m => (s.wgOf m).dirty then s
        else
        let now := s.mod.tick.toNat
        let s := ms.foldl State.reload (ms.foldl State.imageMisses s)
        let s := ks.foldl (fun t k =>
          let t := t.updGang c.grid k fun x => { x with st := .resident, placed := now }
          match t.gang c.grid k with
          | none => t
          | some x => t.canary (x.quad / 64) 1 4 x.quad ((t.gridOf c.grid).ctx * 2 ^ 24 + k % 2 ^ 24)) s
        let s := ms.foldl State.wakeWords s
        let s := ms.foldl State.parkShort s
        let s := (s.strands.filter fun z => ms.contains z.2.wg && z.2.caps.isSome && !z.2.parkedOut).foldl (fun t z =>
          match z.2.block with
          | .parked .. | .ended | .emulate .. => t
          | _ => t.reclaim z.1) s
        (s.rateAfter c.grid ks).chooseHead none

/-- The strand that has been where it is the longest; of several the first in record order, which is the order of the image
(R89, R92). -/
def oldest (l : List (Nat × Strand)) : Option (Nat × Strand) :=
  l.foldl (fun m x => match m with
    | none => some x
    | some y => if x.2.placed < y.2.placed then some x else some y) none

/-- The slot of a strand that comes back from the image, once a slot, a form entry and blocks are there for it (R70, R92,
R280): its reserved one; a reserved lane or split slot of its workgroup that is free; or a borrowed one. -/
def State.backSlot (s : State) (st : Strand) : Option (Bool × Bool) :=
  let mine := s.strandsOf st.wg
  let held := !st.isLane || mine.any fun x => x.2.isLane && x.2.warp == st.warp && !x.2.parkedOut
  if !held && 512 < s.usedBlocks st.core + (s.blocks st - (s.gridAt st).hdr.vblk) then none
  else if !st.borrowed then some (st.split, false)
  else match s.slotFor st.wg st.isRange false, (if st.isLane then s.slotFor st.wg false true else none) with
    | some (true, _), _ => some (true, false)
    | _, some (_, false) => some (false, false)
    | _, _ => if 0 < s.freeSlots st.core && (!st.isRange || 0 < s.freeForms st.core) then some (false, true) else none

/-- A strand leaves its slot for another (R92): it lies in an overflow record. -/
def State.sendOut (s : State) (u : Nat) : State :=
  s.updStrand u fun x => { x with parkedOut := true, borrowed := true, split := false, placed := s.mod.tick.toNat }

/-- The strand waits at a join or at a barrier. -/
def Block.idle (b : Block) : Bool :=
  match b with
  | .join .. | .barrier .. => true
  | _ => false

/-- A parked strand of a workgroup that comes in, the oldest of them, and the strand that leaves for it (R92): once every 2^16
ticks the one outside the reserved slots that has run longest; before that one that waits at a join or barrier, for a strand
that does not. -/
def State.exchange (s : State) (wg : Nat) (force : Bool) : Option (Nat × Option Nat) :=
  let mine := s.strandsOf wg
  let out := mine.filter (·.2.parkedOut)
  match oldest out with
  | none => none
  | some (u, st) =>
    if (s.backSlot st).isSome then some (u, none)
    else
      let gives : Strand → Nat × Strand → Bool := fun y x =>
        !x.2.parkedOut && !x.2.isHandler && ((s.sendOut x.1).backSlot y).any fun k =>
          x.2.borrowed || (y.borrowed && !k.2) || s.mayBorrow wg
      match (if force then oldest (mine.filter fun x => x.2.borrowed && gives st x) else none) with
      | some x => some (u, some x.1)
      | none =>
        match oldest (out.filter fun y => !y.2.block.idle) with
        | none => none
        | some (v, y) => (oldest (mine.filter fun x => x.2.block.idle && gives y x)).map fun x => (v, some x.1)

/-- OVERFLOW_STRAND_EXCHANGE: workgroup `a`; `ok`: the period of 2^16 ticks has passed. -/
def execOverflowStrandExchange : State → Out := act fun s =>
  if s.gangSt s.arg.a != .resident then s
  else match s.exchange s.arg.a s.arg.ok with
    | none => s
    | some (u, v) =>
      let s := match v with
        | some w => s.sendOut w
        | none => s
      let core := ((tfind s.strands u).map (·.core)).getD 0
      let n := s.slotNumber core
      let k := (tfind s.strands u).bind s.backSlot
      (s.updStrand u fun x => { x with
        parkedOut := false, slot := n, placed := s.mod.tick.toNat
        split := (k.map (·.1)).getD x.split, borrowed := (k.map (·.2)).getD x.borrowed }).reclaim u

/-! ## Draining (R93, R94) -/

/-- Everything that a workgroup began is complete. -/
def State.quiet (s : State) (wg : Nat) : Bool :=
  (s.strandsOf wg).isEmpty && (s.home.writes.all fun w => w.2.wg != wg) && (s.engines.all fun e => e.2.wg != wg) &&
    (s.copies.all fun c => c.2.wg != wg) && s.sched.mxe.all fun r => r.2.wg != wg || r.2.ended

/-- A gang retires: what it held is free, but for allocations that are shared more widely (R94, R145). -/
def State.retireGang (s : State) (gk k : Nat) : State :=
  match s.gang gk k with
  | none => s
  | some x =>
    let s := x.members.foldl (fun t m => t.scrubWg false m) s
    let s := s.updGang gk k fun y => { y with st := .retired }
    let g := s.gridOf gk
    let gone : Nat → Bool := match g.bound 2 with
      | none => fun _ => false
      | some l => fun i => (List.range g.ngangs).all fun j =>
          g.instanceAt l (j * g.hdr.gang) != i || (tfind g.gangs j).any fun y : Gang => y.st == .retired
    let s := s.freeAllocs g.ctx fun a => a.grid == gk &&
      ((x.members.contains a.wg && a.level.toNat ≤ 1) ||
        (a.level == 2 && (g.bound 2).any fun l => gone (g.instanceAt l a.w)))
    let s := { s with
      wgs := s.wgs.filter fun w => !x.members.contains w.1
      ops := s.ops.filter fun o => !x.members.contains o.2.wg
      sched := { s.sched with mxe := s.sched.mxe.filter fun r => !x.members.contains r.2.wg }
      bars := s.bars.filter fun b =>
        !((b.1.level ≤ 1 && x.members.contains b.1.owner) || (b.1.level == 2 && b.1.owner == gk && b.1.sub == k)) }
    let g := s.gridOf gk
    if g.st == .live && g.ngangs ≤ g.nextGang && g.gangs.all fun y => y.2.st == .retired then
      finishGrid (s.grids.length + 1) s gk 0
    else s.settle gk

/-- WORKGROUP_DRAIN_COMPLETE: workgroup `a`; with the last member of its gang, the gang retires. -/
def execWorkgroupDrainComplete : State → Out := act fun s =>
  let wg := s.arg.a
  match tfind s.wgs wg with
  | none => s
  | some w =>
    if w.drained || !s.quiet wg || !(s.gangSt wg).holds then s
    else
      let s := s.updWg wg fun x => { x with drained := true }
      let k := w.w / (s.gridOf w.grid).hdr.gang
      match s.gang w.grid k with
      | none => s
      | some x => if x.members.all fun m => (s.wgOf m).drained then s.retireGang w.grid k else s

/-! ## Expansion, joins and ACQ (R119, R123, R124, R278) -/

/-- EXPANSION_CURSOR_ADVANCE: strand `a` waits behind its cursor; the cursors of its resident workgroup advance, lowest first
(R124, R125). -/
def execExpansionCursorAdvance : State → Out := act fun s =>
  match tfind s.strands s.arg.a with
  | some st =>
    if st.block == .expand && s.gangSt st.wg == .resident && !st.parkedOut then s.advanceCursors st.wg else s
  | none => s

/-- JOIN_WAIT_TIMEOUT: strand `a` has waited 65,536 clocks at a join; everything that waits there is released. -/
def execJoinWaitTimeout : State → Out := act fun s =>
  match tfind s.strands s.arg.a with
  | some st => match st.joinAt with
    | some (_, _, _, _, since) =>
      if since + 65536 ≤ s.mod.clock && s.gangSt st.wg == .resident then s.releaseJoin st else s
    | none => s
  | none => s

/-- A waiting ACQ ends with this condition code. -/
def State.acqEnds (s : State) (u : Nat) (sd : BitVec 6) (v : Word) : State :=
  s.updStrand u fun x => (x.setS sd.toNat v).complete s.mod.clock

/-- ACQ_GRANT: strand `a` takes its blocks whole once enough are free. -/
def execAcqGrant : State → Out := act fun s =>
  match tfind s.strands s.arg.a with
  | some st => match st.block with
    | .acq m sd _ =>
      if s.gangSt st.wg != .resident then s
      else if m ≤ s.blocks st then s.acqEnds s.arg.a sd 0
      else if m - s.blocks st ≤ s.freeBlocks st.core then (s.takeBlocks st.wg st.warp m).acqEnds s.arg.a sd 0
      else s
    | _ => s
  | none => s

/-- ACQ_WAIT_TIMEOUT: strand `a` has waited 65,536 ticks. -/
def execAcqWaitTimeout : State → Out := act fun s =>
  match tfind s.strands s.arg.a with
  | some st => match st.block with
    | .acq _ sd since => if since + 65536 ≤ s.mod.tick.toNat && s.gangSt st.wg == .resident then s.acqEnds s.arg.a sd 1 else s
    | _ => s
  | none => s

end Sys2Proof.Machine
end

