-- ==== Sys2Proof/Machine/Resolve.lean ====
section
/-! DEFINITION. What resolves a wait: replays of faults of kind P (R130, R137, R138, R195), the fault-service ring's answers
(R194, R195), the foreman's emulation (R196), deadlines and the wait limit (R187, R293), the timer (R199) and SLEEP
(R352). -/

namespace Sys2Proof.Machine

/-! ## Replays (R88, R130, R145) -/

/-- What a parked strand waits for: class, lane and address of every element (R189, R195). -/
def Strand.parkedElems (st : Strand) : List (Nat × Nat × Nat) :=
  match st.block with
  | .parked cls _ a _ => if st.park.elems.isEmpty then [(cls.toNat, 0, a)] else st.park.elems
  | _ => []

/-- The fault of one element has been resolved: room in the miss queue, an answer of the host, or an owner that is back. -/
def State.elemResolved (s : State) (st : Strand) (ctx flags cls addr : Nat) : Bool :=
  if cls = 0x12 then decide ((tget s.home.misses (dieOf st.core) []).length < 2048)
  else if cls = 0x13 then
    !((s.host.fsrOpen ++ s.host.fsrWait).any fun e => e.ctx == ctx && e.page == addr / 0x10000 && e.kind == fsKind flags)
  else if cls = 0x18 then
    if addr / 2 ^ 56 == 1 then s.sCheck (s.who st) .write false (addr % 2 ^ 56) 1 != .error (.cls 0x18)
    else s.sCheck (s.who st) .write true (addr % 2 ^ 30) 1 != .error (.cls 0x18)
  else !(s.host.pageReqs.contains (ctx, addr / 0x10000))

/-- A fault that a strand is parked on has been resolved. -/
def State.resolved (s : State) (st : Strand) : Bool :=
  match st.block with
  | .parked _ ctx _ flags => st.parkedElems.any fun e => s.elemResolved st ctx flags e.1 e.2.2
  | _ => false

/-- The elements of a strand whose faults are still to be resolved. -/
def State.unresolved (s : State) (st : Strand) : List (Nat × Nat × Nat) :=
  match st.block with
  | .parked _ ctx _ flags => st.parkedElems.filter fun e => !s.elemResolved st ctx flags e.1 e.2.2
  | _ => []

/-- A strand executes its instruction again, for the elements whose faults have been resolved; the others stay parked
(R195). -/
def State.replay (s : State) (u : Nat) : State :=
  match tfind s.strands u with
  | none => s
  | some st => (s.unpark u).updStrand u fun x => { x with park := { x.park with elems := s.unresolved st } }

/-- FAULT_REPLAY: strand `a` executes its instruction again, for the threads that are parked; of a gang that is out it is
ready in the image (R88). -/
def execFaultReplay : State → Out := act fun s =>
  match tfind s.strands s.arg.a with
  | some st => if s.resolved st then (s.replay s.arg.a).touchOut else s
  | none => s

/-- Every strand that `p` picks goes on with the elements whose faults have been resolved. -/
def State.unparkAll (s : State) (p : Strand → Bool) : State :=
  ((s.strands.filter fun x => p x.2 && s.resolved x.2).foldl (fun t x => t.replay x.1) s).touchOut

/-- A strand is parked on a page with this class. -/
def Strand.parkedOn (st : Strand) (cls ctx page : Nat) : Bool :=
  match st.block with
  | .parked _ c _ _ => c == ctx && st.parkedElems.any fun e => e.1 == cls && e.2.2 / 0x10000 == page
  | _ => false

/-- PAGE_WALK_COMPLETE: a walker of die `a` ends the oldest walk of the miss queue; a valid translation is cached. -/
def execPageWalkComplete : State → Out := act fun s =>
  match tget s.home.misses s.arg.a [] with
  | [] => s
  | (c, p) :: r =>
    (s.setHome fun h => { h with misses := tset h.misses s.arg.a r }).cacheWalk c (p * 0x10000)

/-- TRANSLATION_OVERFLOW_REPLAY: die `a` replays what overflowed once its queue holds fewer than 2,048 requests. -/
def execTranslationOverflowReplay : State → Out := act fun s =>
  if 2048 ≤ (tget s.home.misses s.arg.a []).length then s
  else s.unparkAll fun st => dieOf st.core == s.arg.a && st.parkedElems.any fun e => e.1 == 0x12

/-! ## Host translations (R138) -/

/-- The elements of a strand that are parked on a page become faults of kind G (R195, R138): the record names their lanes. -/
def State.failParked (s : State) (u old cls page : Nat) : State :=
  match tfind s.strands u with
  | none => s
  | some st => match st.block with
    | .parked _ _ a f =>
      let bad := st.park.elems.filter fun e => e.1 == old && e.2.2 / 0x10000 == page
      let m := bad.foldl (fun m e => m + 2 ^ e.2.1) 0
      s.takeTrap u
        { cls := cls, addr := BitVec.ofNat 64 ((bad.map (·.2.2)).headD a), flags := f % 32, fatal := true, pc := some st.park.pc
          who := if st.isLane && !bad.isEmpty then some (32 * st.warp + (bad.map (·.2.1)).headD 0, m) else st.park.who }
    | _ => s

/-- The elements of other agents that are parked on a page become faults (R195). -/
def State.failHolds (s : State) (cls ctx page : Nat) : State :=
  s.setHost fun h => { h with
    holds := h.holds.map fun x => if x.cls == cls && x.ctx == ctx && x.page == page then { x with failed := true } else x }

/-- The elements of other agents that are parked on a page go on. -/
def State.freeHolds (s : State) (cls ctx page : Nat) : State :=
  s.setHost fun h => { h with holds := h.holds.filter fun x => !(x.cls == cls && x.ctx == ctx && x.page == page) }

/-- PAGE_REQUEST_RESPONSE: the host answers for page `b` of context `a`; `ok`: with success. -/
def execPageRequestResponse : State → Out := act fun s =>
  let ctx := s.arg.a
  let page := s.arg.b
  if !s.host.pageReqs.contains (ctx, page) then s
  else
    let s' := s.setHost fun h => { h with
      pageReqs := h.pageReqs.filter fun e => e != (ctx, page)
      ats := if s.arg.ok then h.ats.filter fun e => e.2 != 0 else h.ats }
    if s.arg.ok then (s'.freeHolds 0x19 ctx page).unparkAll fun st => st.parkedOn 0x19 ctx page
    else
      ((s'.strands.filter fun x => x.2.parkedOn 0x19 ctx page).foldl (fun t x => t.failParked x.1 0x19 0x17 page) s').failHolds 0x19 ctx page

/-- ATS_TRANSLATION_COMPLETION: the host answers for its page `a`: it refuses it (`ok` false), reports it not present (`b`
0), or gives the page number `b` - 1, which is cached. -/
def execAtsTranslationCompletion : State → Out := act fun s =>
  let p := s.arg.a
  let s := s.setHost fun h => if s.arg.ok then { h with ats := tset h.ats p s.arg.b }
    else { h with hostRefused := if h.hostRefused.contains p then h.hostRefused else p :: h.hostRefused }
  { s with strands := tmap s.strands fun _ st => if st.block == .ats p then { st with block := .none } else st }

/-! ## The fault-service ring (R194, R195) -/

/-- An entry is answered: its elements replay, or become faults of class 0x13 with REPLAY 0, as they do where a confidential
context has not registered the page (R209). -/
def State.fsrAnswer (s : State) (e : FsEntry) (fail : Bool) : State :=
  let fail := fail || ((s.ctxOf e.ctx).conf && !Config.registered e.ctx e.page e.serial)
  let s := s.setHost fun h => { h with fsrOpen := h.fsrOpen.filter fun x => x.serial != e.serial }
  let hit : Strand → Bool := fun st => st.parkedOn 0x13 e.ctx e.page && match st.block with
    | .parked _ _ _ f => fsKind f == e.kind
    | _ => false
  if fail then
    ((s.strands.filter fun x => hit x.2).foldl (fun t x => t.failParked x.1 0x13 0x13 e.page) s).failHolds 0x13 e.ctx e.page
  else
    let s := s.setHome fun h => { h with tlb := h.tlb.filter fun t => !(t.1 == e.ctx && t.2.1 == e.page) }
    (s.freeHolds 0x13 e.ctx e.page).unparkAll hit

/-- FSRDONE_WRITE: value `v`, FAIL and SERIAL. -/
def execFsrdoneWrite : State → Out := act fun s =>
  match s.host.fsrOpen.find? fun e => e.serial % 2 ^ 32 == (s.arg.v.extractLsb' 0 32).toNat with
  | none => s
  | some e => s.fsrAnswer e (s.arg.v.getLsbD 63)

/-- FSRCONS_WRITE: value `v`; the entries that waited for room are written. -/
def execFsrconsWrite : State → Out := act fun s =>
  s.host.fsrWait.foldl State.fsrPush (s.setHost fun h => { h with fsrCons := s.arg.v.toNat, fsrWait := [] })

/-- FAULT_SERVICE_TIMEOUT: the entry with serial `a` has had no answer within its context's wait limit. -/
def execFaultServiceTimeout : State → Out := act fun s =>
  match s.host.fsrOpen.find? fun e => e.serial == s.arg.a with
  | none => s
  | some e => if s.mod.tick.toNat ≤ e.tick + (s.ctxOf e.ctx).waitLim then s else s.fsrAnswer e true

/-! ## Emulation (R196, R197) -/

/-- The foreman begins the emulation of a strand again (R197): it reads the word at the strand's PC, and a page that is not
present is resolved first; a failed resolution is class 0x13 on the strand (R198). -/
def State.emulAgain (s : State) (u : Nat) (st : Strand) (word : Word) (vd : BitVec 6) (m : BitVec 32) : State :=
  let ctx := s.ctxNo st
  let page := st.wordPc.toNat / 0x10000
  let trap := fun k : Nat =>
    (s.forgetHolds (.strand u)).takeTrap u { cls := k, addr := st.wordPc, flags := 4, pc := some st.wordPc, fatal := true }
  let go := (s.forgetHolds (.strand u)).updStrand u fun x => { x with block := .emulate word vd m (s.emulStage st word m) }
  if s.home.icache.any fun e => e.1 == ctx && e.2.1 == st.wordPc.toNat then go
  else match s.resolve (dieOf st.core) (s.who st) .fetch st.wordPc 4 with
    | .ok _ => go
    | .error (.ats _) => s
    | .error (.cls 0x12) => s
    | .error (.cls 0x13) =>
      if !s.host.fsrEn || (s.holdFault (.strand u) 0x13 ctx page).isSome then trap 0x13
      else (s.hold (.strand u) 0x13 ctx page).askPage 0x13 ctx page 2
    | .error (.cls k) => trap k

/-- EMULATION_COMMIT: the foreman commits what it staged for strand `a` in one step, and the strand goes on. A strand that
is saved begins again after its restore. -/
def execEmulationCommit : State → Out := act fun s =>
  match tfind s.strands s.arg.a with
  | none => s
  | some st => match st.block with
    | .emulate word vd m staged =>
      if s.gangSt st.wg != .resident then s
      else if staged.isEmpty then s.emulAgain s.arg.a st word vd m
      else
        let s := if vd.toNat / 8 < s.blocks st then
            s.updWg st.wg fun g => (lanesOf m).foldl (fun g j => g.setLane st.warp vd.toNat j (staged.getD j 0)) g
          else s
        (s.updStrand s.arg.a fun x => { (x.complete s.mod.clock) with mode := Config.emulMode word x.mode }).reclaim s.arg.a
    | _ => s

/-! ## Deadlines (R187, R293, R352) -/

/-- AWAIT_DEADLINE: the deadline of strand `a` has passed; AWAIT answers 1. -/
def execAwaitDeadline : State → Out := act fun s =>
  match tfind s.strands s.arg.a with
  | none => s
  | some st => match st.block with
    | .await k _ (some d) sc =>
      if s.mod.tick.toNat < d || s.gangSt st.wg != .resident then s
      else (s.updStrand s.arg.a fun x => (x.setS sc.toNat 1).complete s.mod.clock).countWaiters k
    | _ => s

/-- A wait that the wait limit ends (R187, R307, R342, R343). -/
def Block.limited (b : Block) : Bool :=
  match b with
  | .await _ _ Option.none _ | .barrier _ _ | .crew _ | .accept | .capsule _ | .reply => true
  | _ => false

/-- WAIT_TIMEOUT: strand `a` has waited longer than its context's wait limit. -/
def execWaitTimeout : State → Out := act fun s =>
  match tfind s.strands s.arg.a with
  | none => s
  | some st =>
    if !st.block.limited || s.gangSt st.wg != .resident || s.mod.tick.toNat ≤ st.waitTick + (s.ctxOf (s.ctxNo st)).waitLim then s
    else
      let t := s.takeTrap s.arg.a { cls := 0x09 }
      match st.block with
      | .await k _ _ _ => t.countWaiters k
      | _ => t

/-- SLEEP_EXPIRY: the tick has reached the end of the SLEEP of strand `a`. -/
def execSleepExpiry : State → Out := act fun s =>
  match tfind s.strands s.arg.a with
  | none => s
  | some st => match st.block with
    | .sleep t => if s.mod.tick.toNat < t then s else s.updStrand s.arg.a fun x => x.complete s.mod.clock
    | _ => s

/-! ## The timer (R199) -/

/-- The handler strand of a workgroup as it starts. -/
def State.handlerStart (s : State) (wg : Nat) : State :=
  let w := s.wgOf wg
  let h : Strand :=
    { wg := wg, core := w.core, slot := 512, borrowed := false, split := false, parkedOut := false, kind := .handler
      forms := [], runs := [], masks := [], s := [], pc := w.tmvec, clause := none, div := [], ret := [], frames := []
      route := [], tile := 5, mode := (s.gridOf w.grid).hdr.mode, sticky := 0, arrivals := [], gaveWay := [], doneLanes := 0
      doneCount := 0, asBarw := false, caps := none, async := [], park := parkNone, block := .none, waitTick := 0, yieldUntil := 0
      lastIssue := 0, issueTick := 0, placed := s.mod.tick.toNat }
  { s with next := s.next + 1, strands := tset s.strands s.next ((h.setD 48 w.tmArgs.1).setD 50 w.tmArgs.2) }

/-- A handler of a core may start: none runs there. -/
def State.handlerFree (s : State) (core : Nat) : Bool :=
  !(s.strands.any fun x => x.2.isHandler && x.2.core == core && s.gangSt x.2.wg == .resident)

/-- TIMER_EXPIRY: the armed timer of workgroup `a` has expired: the timer is disarmed and its expiry queued; then the
core's handler slot, if free, takes the oldest expiry of a resident workgroup. -/
def execTimerExpiry : State → Out := act fun s =>
  let wg := s.arg.a
  let w := s.wgOf wg
  let s :=
    if w.tmexp = 0 || s.mod.tick.toNat < w.tmexp || s.gangSt wg != .resident then s
    else (s.updWg wg fun g => { g with tmexp := 0 }).updCore w.core fun c =>
      { c with expired := if c.expired.contains wg then c.expired else c.expired ++ [wg] }
  if !s.handlerFree w.core then s
  else match (tget s.cores w.core coreReset).expired.find? fun k => s.gangSt k == .resident with
    | none => s
    | some k => (s.updCore w.core fun c => { c with expired := c.expired.filter (· != k) }).handlerStart k

end Sys2Proof.Machine
end

