-- ==== Sys2Proof/Machine/Complete.lean ====
section
/-! DEFINITION. What completes in the background: writes at their homes and their visibility (R154, R155), set-A operations
(R218, R87), per-thread copies (R149, R290), and the run-ahead split (R287). -/

namespace Sys2Proof.Machine

/-! ## Writes (R153 to R155) -/

/-- HOME_WRITE_APPLY: the home applies write `a`, once no write of its die must come before it. -/
def execHomeWriteApply : State → Out := act fun s =>
  match tfind s.home.writes s.arg.a with
  | none => s
  | some w => if s.canApply s.arg.a w && !s.buffered w then s.applyWrite s.arg.a else s

/-- WRITE_VISIBILITY: die `a` sees every write that has been applied, those of one instruction together (R161, R162). -/
def execWriteVisibility : State → Out := act fun s => s.showAll s.arg.a

/-! ## Set-A operations (R87, R218) -/

/-- A result for lane `j`, or for every thread of the range strands that hold the operation (`j` 32). -/
def State.deliverV (s : State) (o : Op) (r : Nat × Nat × Word) : State :=
  if r.1 < 32 then s.updWg o.wg fun g => g.setLane o.warp r.2.1 r.1 r.2.2
  else o.holders.foldl (fun t u => t.updStrand u fun x =>
    if x.isRange then { x with forms := tset x.forms r.2.1 ⟨r.2.2, 0⟩ } else x) s

/-- Results for uniform registers of the strands that hold the operation. -/
def State.deliverS (s : State) (o : Op) (r : Nat × Word) : State :=
  o.holders.foldl (fun t u => t.updStrand u fun x => x.setS r.1 r.2) s

/-- MEMORY_OPERATION_COMPLETE: operation `a` delivers the results of lanes `nats`, or where that is empty all of them; with
the last its flag is idle. -/
def execMemoryOperationComplete : State → Out := act fun s =>
  match tfind s.ops s.arg.a with
  | none => s
  | some o =>
    if o.external then s
    else
      let all := s.arg.nats.isEmpty
      let now := o.res.filter fun r => all || s.arg.nats.contains r.1
      let rest := o.res.filter fun r => !(all || s.arg.nats.contains r.1)
      let s := (now.foldl (fun t r => t.deliverV o r) s).touchOut
      if rest.isEmpty then { (o.sres.foldl (fun t r => t.deliverS o r) s) with ops := tdel s.ops s.arg.a }
      else { s with ops := tset s.ops s.arg.a { o with res := rest } }

/-! ## Per-thread copies (R149, R190, R290) -/

/-- A copy as a command of one element, for the checks that it shares with engines. -/
def State.copyEngine (s : State) (c : VCp) : Engine where
  op := 0
  uid := c.uid
  wg := c.wg
  core := (s.wgOf c.wg).core
  flag := 15
  names := (c.thread, 1)
  kind := .mcopy c.src c.size [] 0 none
  next := 0
  total := 1
  arr := none
  pc := c.pc
  failed := none

/-- A copy has left its batch: strands that wait for it look again (R149), and images follow (R87). -/
def State.copyGone (s : State) (id : Nat) : State :=
  let s := ((s.clearAnswers (.engine id)).forgetHolds (.engine id))
  let s := ({ s with copies := tdel s.copies id }).touchOut
  { s with strands := tmap s.strands fun _ st => match st.block with
    | .bwait t =>
      if s.batchBusy st t then st
      else if st.async.any (st.inBatch t) then { st with block := .none } else st.complete s.mod.clock
    | _ => st }

/-- The fault of a copy joins what its strand is to report for the same VCOPY (R190). -/
def Strand.addCopyFault (st : Strand) (a : AsyncFault) : Strand :=
  match st.async.find? fun b => b.id == a.id with
  | none => { st with async := st.async ++ [a] }
  | some b =>
    let low := if a.first < b.first then a else b
    let n := if st.isRange then max (a.first + a.sufn) (b.first + b.sufn) - min a.first b.first
      else (BitVec.ofNat 32 a.sufn ||| BitVec.ofNat 32 b.sufn).toNat
    let c := { low with
      sufn := n, waitOn := b.waitOn ++ a.waitOn.filter fun w => !b.waitOn.contains w, threads := b.threads ++ a.threads }
    { st with async := st.async.map fun x => if x.id == a.id then c else x }

/-- A sealed copy that has failed is reported by the strand that holds its thread, active or deferred, at the BWAIT that
covers it. -/
def State.copyFails (s : State) (id : Nat) (c : VCp) (t : BitVec 3) (f : Nat × DWord × Bool) : State :=
  match s.strands.find? fun x => x.2.wg == c.wg && x.2.holdsAny c.thread with
  | none => s.copyGone id
  | some (u, st) =>
    (s.updStrand u fun x => x.addCopyFault
      { waitOn := [.batch t], id := 2 ^ 64 + c.inst * 2 ^ 32 + u, by_ := u, quiet := false, cls := BitVec.ofNat 8 f.1, pc := c.pc
        addr := f.2.1, first := c.thread, sufn := if st.isRange then 1 else 2 ^ (c.thread % 32), write := f.2.2
        threads := [c.thread] }).copyGone id

/-- A fault of kind G that a copy has met. -/
def State.copyFault (s : State) (id cls : Nat) (addr : DWord) (write : Bool) : State :=
  { s with copies := tmod s.copies id fun c => { c with failed := some (cls, addr, write) } }

/-- A copy reads its source, whose poison is a fault, and writes its destination. -/
def State.copyStep (s : State) (id : Nat) (c : VCp) : State :=
  let e := s.copyEngine c
  let s := (if c.valid = 0 then s else (s.engSees id e [(c.src, c.valid)]).noteMiss (dieOf e.core) (s.engWho e) c.src).noteMiss
    (dieOf e.core) (s.engWho e) (EngDst.key c.dst).at_
  let got := if c.valid = 0 then EngGot.data [] false else s.engGet id e 0 c.src c.valid
  match s.engHold id e [(got, c.src)] false with
  | some t => t
  | none => match got with
    | .fault k => s.copyFault id k c.src false
    | .data b p =>
      if p then s.copyFault id 0x1A c.src false
      else
        let bytes := b.take c.valid ++ List.replicate (c.size - min c.valid b.length) 0
        let put := s.engPut id e 1 (.key c.dst) bytes
        match s.engHold id e [(put, (EngDst.key c.dst).at_)] true with
        | some t => t
        | none => match put with
          | .fault k => s.copyFault id k (EngDst.key c.dst).at_ true
          | .place (.loc k) => (s.homeStore (dieOf e.core) k bytes (c.size == 64)).copyGone id
          | .place (.sealed k o) => (s.sealedStore (dieOf e.core) (s.engWho e).ctx o k bytes (c.size == 64)).copyGone id
          | _ => s.copyGone id
    | _ => s

/-- VCOPY_COMPLETION: copy `a` completes, or is reported once it is sealed. -/
def execVcopyCompletion : State → Out := act fun s =>
  match tfind s.copies s.arg.a with
  | none => s
  | some c => match c.failed, c.batch with
    | some f, some t => s.copyFails s.arg.a c t f
    | some _, none =>
      if s.strands.any fun x => x.2.wg == c.wg && x.2.holdsAny c.thread then s else s.copyGone s.arg.a
    | none, _ => if s.overflowHeld (.engine s.arg.a) (dieOf (s.wgOf c.wg).core) then s else s.copyStep s.arg.a c

/-! ## The run-ahead split (R287) -/

/-- Lanes whose elements an operation has not delivered. -/
def Op.pending (o : Op) : BitVec 32 := BitVec.ofNat 32 ((o.res.map (·.1)).eraseDups.foldl (fun m j => m + 2 ^ j) 0)

/-- The run-ahead split that a strand may make at the clause header where it stands: the flag, the tag, and the lanes that
wait. -/
def State.aheadSplit (s : State) (u : Nat) (st : Strand) : Option (BitVec 4 × BitVec 3 × BitVec 32) :=
  match st.clause with
  | none => none
  | some c =>
    if c.started || !st.isLane || st.block != .none then none
    else
      let mine := s.opsOf u
      match mine.find? fun o => o.2.ahead.isSome && decide (o.2.flag.toNat < 12) && c.wait.getLsbD o.2.flag.toNat with
      | none => none
      | some (_, o) => match o.ahead with
        | none => none
        | some a =>
          let same := mine.filter fun x => x.2.flag == o.flag
          let wait := same.foldl (fun m x => m ||| x.2.pending) 0 &&& st.mask
          if st.lastIssue + 16 * a.win ≤ s.mod.clock && (mine.all fun x => x.2.setB || x.2.flag == o.flag) &&
              (same.all fun x => !x.2.setB && !x.2.res.isEmpty) && (a.lanes &&& st.mask &&& ~~~wait) != 0 && wait != 0 then
            some (o.flag, a.tag, wait)
          else none

/-- The strands of a run-ahead split: the one with the lower lane keeps the slot and the deferred lanes, the other takes slot
`k`; flag `f` stays busy for the lanes that wait (R114, R287). -/
def State.aheadCut (s : State) (u : Nat) (st : Strand) (f : BitVec 4) (tag : BitVec 3) (wait : BitVec 32) (k : Bool × Bool) :
    State :=
  let ready := st.mask &&& ~~~wait
  let low := if wait.getLsbD (lowLane st.mask) then wait else ready
  let e := groupEntry (tag.setWidth 4) (s.wgOf st.wg).group 0 st.depth 0
  let gone := if low == ready then u else s.next
  let t := s.updWg st.wg fun g => { g with group := g.group + 1 }
  let t := t.updStrand u fun y => { y with kind := .lane st.warp low, div := e :: y.div }
  let t := t.addStrand u
    { st with kind := .lane st.warp (st.mask &&& ~~~low), div := e :: st.div.map DivEntry.emptied } k
  { t with ops := tmap t.ops fun _ o =>
      if o.holders.contains u && o.flag == f then { o with holders := o.holders.filter (· != gone), ahead := none } else o }

/-- RUN_AHEAD_SPLIT: strand `a` splits into the lanes that have their elements and the lanes that wait, where a slot, a
spill entry and frames can be had. -/
def execRunAheadSplit : State → Out := act fun s =>
  let u := s.arg.a
  match tfind s.strands u with
  | none => s
  | some st => match s.aheadSplit u st, s.slotFor st.wg false false with
    | some (f, tag, wait), some k =>
      match s.areaFor u st ((s.aheadCut u st f tag wait k).spillWrite st) 1 with
      | .error (.remote ks) => s.askAll (.strand u) st.core elemVc ks
      | .error _ => s
      | .ok (s', fr) =>
        ((s'.aheadCut u st f tag wait k).giveFrames ((List.replicate fr.length s'.next).zip fr)).clearAnswers (.strand u)
    | _, _ => s

end Sys2Proof.Machine
end

