-- ==== Sys2Proof/Machine/Code.lean ====
section
/-! DEFINITION. Code and its translation: CLAUSE_FETCH (R219), Vorxus (R59, R60); record and replay (R203 to R205); the stall
account (R101, R102). -/

namespace Sys2Proof.Machine

/-- CLAUSE_FETCH: strand `a` fetches the clause at its PC. -/
def execClauseFetch : State → Out := act fun s => s.fetchClause s.arg.a

/-- A word of a context in the instruction cache (R57). -/
def State.cachedWord (s : State) (ctx : Nat) (pc : DWord) : Option Word :=
  (s.home.icache.find? fun e => e.1 == ctx && e.2.1 == pc.toNat).map (·.2.2)

/-- The clause at a strand's PC lies whole in the instruction cache: its fetch is no miss (R80, R101). -/
def State.clauseHit (s : State) (st : Strand) : Bool :=
  let ctx := s.ctxNo st
  st.clause.isNone && st.block == .none && match s.cachedWord ctx st.pc with
  | none => false
  | some h => (List.range ((h.extractLsb' 24 4).toNat + 1)).all fun i =>
      (s.cachedWord ctx (st.pc + 4 + 4 * BitVec.ofNat 64 i)).isSome

/-- Strands whose next clause the instruction cache holds have it at once. -/
def State.fetchHits (s : State) : State :=
  (s.strands.filter fun x => s.gangSt x.2.wg == .resident && !x.2.parkedOut && s.clauseHit x.2).foldl
    (fun t x => t.fetchClause x.1) s

/-! ## Translation of Vorxus functions (R58 to R60) -/

/-- A body is `n` regions, the count of its function's entry (R58), of kinds that R59 defines; a region's length counts its
record (log entry 85). -/
def regionsOk : Nat → List Byte → Bool
  | 0, b => b.isEmpty
  | n + 1, b =>
    let w := fieldAt b 0 8
    let l := w / 2 ^ 32 % 2 ^ 28
    w / 2 ^ 60 ≤ 5 && 8 ≤ l && l ≤ b.length && regionsOk n (b.drop l)

/-- The translator is at work on a function (R60): code is staged that is not committed. -/
def State.translating (s : State) : Bool := s.ctxs.any fun c => c.2.stubs.any fun x => x.2.staged.isSome && !x.2.committed

/-- Every strand parked at a stub takes a trap. -/
def State.stubTrap (s : State) (ctx : Nat) (stub : DWord) (cls : Nat) : State :=
  (s.strands.filter fun x => x.2.block == .translate stub && s.ctxNo x.2 == ctx).foldl (fun t x => t.takeTrap x.1 { cls := cls }) s

/-- Changes one stub of a context. -/
def State.updStub (s : State) (ctx stub : Nat) (f : Stub → Stub) : State :=
  s.updCtx ctx fun c => { c with stubs := tmod c.stubs stub f }

/-- VORXUS_TRANSLATION: stub `b` of context `a`: the code is staged in the heap, or the calls that wait end with "Vorxus
invalid" or "code heap exhausted". -/
def execVorxusTranslation : State → Out := act fun s =>
  let ctx := s.arg.a
  let stub := s.arg.b
  let c := s.ctxOf ctx
  match tfind c.stubs stub with
  | none => s
  | some x =>
    if x.committed || s.translating then s
    else match s.headTry (ctxAsker ctx) ctx x.body.toNat x.len with
      | .waits ks => s.headAsk (ctxAsker ctx) 0 ks
      | .fails => (s.clearAnswers (ctxAsker ctx)).stubTrap ctx (BitVec.ofNat 64 stub) 0x31
      | .data body =>
        let s := s.clearAnswers (ctxAsker ctx)
        match (if regionsOk x.regions body then Config.vorxusCode body else none) with
        | none => s.stubTrap ctx (BitVec.ofNat 64 stub) 0x31
        | some code =>
          if c.heapBase.toNat + c.heapSize < c.heapNext + code.length then s.stubTrap ctx (BitVec.ofNat 64 stub) 0x30
          else
            ((s.heapWrite ctx c.heapNext code).updStub ctx stub fun y => { y with staged := some (BitVec.ofNat 64 c.heapNext) }).updCtx
              ctx fun y => { y with heapNext := c.heapNext + (code.length + 31) / 32 * 32 }

/-- TRANSLATION_COMMIT: one 32-byte write replaces the trampoline of stub `b` of context `a`, and the strands that wait
there go on at the new code. -/
def execTranslationCommit : State → Out := act fun s =>
  let ctx := s.arg.a
  let stub := s.arg.b
  match tfind (s.ctxOf ctx).stubs stub with
  | none => s
  | some x => match x.staged with
    | none => s
    | some code =>
      if x.committed then s
      else
        let at_ : DWord := BitVec.ofNat 64 stub
        let s := (s.heapWrite ctx stub (clauseBytes (Config.vorxusBranch at_ code))).updStub ctx stub fun y =>
          { y with committed := true }
        let s := s.setHome fun h => { h with
          icache := h.icache.filter fun e => !(e.1 == ctx && decide (stub ≤ e.2.1) && decide (e.2.1 < stub + 32)) }
        (s.strands.filter fun x => x.2.block == .translate at_ && s.ctxNo x.2 == ctx).foldl (fun t x => t.unpark x.1) s

/-! ## Record and replay (R203 to R205) -/

end Sys2Proof.Machine

namespace Sys2Proof

/-- Instructions that close a chunk (R203): they wait, release or acquire, perform an atomic, or issue an engine
command. -/
def Instr.closesChunk : Instr → Bool
  | .bara .. | .barw .. | .bars .. | .vjoin .. | .vreform .. | .acq .. | .vexit | .exit | .await .. | .awinit .. | .bwait ..
  | .bseal .. | .vcopy .. | .waitpred | .succ | .sleep .. | .fence .. | .poolp .. | .poold .. | .launch .. | .capb .. | .capeStep
  | .capeEnd | .crew .. | .obres .. | .obrel .. | .accrd .. => true
  | .vatom .. | .satom .. => true
  | i => i.setsB

end Sys2Proof

namespace Sys2Proof.Machine

/-- A context whose cores run its strands in chunks. -/
def Ctx.chunked (c : Ctx) : Bool := c.records || c.replays

/-- Changes a core's chunk of a context. -/
def State.updChunk (s : State) (core ctx : Nat) (f : Chunk → Chunk) : State :=
  s.updCore core fun x => { x with chunks := tmod x.chunks ctx f }

/-- A chunk begins: memory as it stands. -/
def State.openChunk (s : State) (core ctx : Nat) : State :=
  if (s.chunkOf core ctx).isSome then s
  else s.updCore core fun x => { x with chunks := tset x.chunks ctx { count := 0, beats := [], view := s.mem, closed := false } }

/-- The next entry of a replay log that is wholly there (R205): its core, instruction count and number of beats. -/
def State.nextEntry (s : State) (ctx : Nat) : Option (Nat × Nat × Nat) :=
  let c := s.ctxOf ctx
  if c.rpProd.toNat < c.rpCons.toNat + 16 then none
  else match s.ringRead ctx c.rpCons.toNat 2 with
    | none => none
    | some b =>
      let n := fieldAt b 12 4
      if c.rpProd.toNat < c.rpCons.toNat + 16 + 8 * n then none else some (fieldAt b 8 2, fieldAt b 10 2, n)

/-- Writes bytes into a context's replay buffer from byte index `x` on; none: a word cannot be written. -/
def State.ringWrite (s : State) (ctx x : Nat) : List DWord → Option State
  | [] => some s
  | w :: r =>
    match s.headWrite ctx ((s.ctxOf ctx).rpBase.toNat + x % max 8 (s.ctxOf ctx).rpSize) (leBytes 8 w.toNat) with
    | none => none
    | some t => t.ringWrite ctx (x + 8) r

/-- A core's chunk is gone, and its buffered writes reach their homes in one step. -/
def State.closeChunk (s : State) (core ctx : Nat) : State :=
  (s.updCore core fun x => { x with chunks := tdel x.chunks ctx }).applyAll fun w =>
    w.core == core && (s.gridOf (s.wgOf w.wg).grid).ctx == ctx

/-- The entry of a chunk: commit tick, core, count and number of beats; then the beats. -/
def State.chunkWords (s : State) (core : Nat) (k : Chunk) : List DWord :=
  s.mod.tick :: BitVec.ofNat 64 (core + k.count * 2 ^ 16 + k.beats.length * 2 ^ 32) :: k.beats

/-- The grid of a chunk ends with class 0x17 (R205): that of the core's lowest strand of the context; where the core has
none, the context's first grid that lives, with a record that names the core (log entry 86). -/
def State.chunkFails (s : State) (core ctx : Nat) : State :=
  match s.strands.find? fun x => x.2.core == core && s.ctxNo x.2 == ctx && x.2.block != .ended with
  | some (u, _) => s.takeTrap u { cls := 0x17 }
  | none => match s.grids.find? fun g => g.2.ctx == ctx && g.2.st == .live with
    | some g =>
      (s.logRecord ctx
        { tick := s.mod.tick, cls := 0x17, flags := 0, pc := 0, first := 0, sufn := 0, wg := 0, core := BitVec.ofNat 10 core
          slot := 0, ctx := BitVec.ofNat 8 ctx, lcrd := List.replicate 5 0, seq := g.2.seq, addr := 0 }).endGrid g.1 2
    | none => s

/-- A chunk commits with its log entry, or its core stalls. -/
def State.commitChunk (s : State) (core ctx : Nat) : State :=
  let c := s.ctxOf ctx
  match s.chunkOf core ctx with
  | none => s
  | some k =>
    if k.count = 0 then s.closeChunk core ctx
    else if c.records then
      let ws := s.chunkWords core k
      if c.rpCons.toNat + c.rpSize < c.rpProd.toNat + 8 * ws.length then s
      else match s.ringWrite ctx c.rpProd.toNat ws with
        | none => s
        | some t => (t.updCtx ctx fun x => { x with rpProd := x.rpProd + BitVec.ofNat 64 (8 * ws.length) }).closeChunk core ctx
    else match s.nextEntry ctx with
      | none => s
      | some (e, _, n) =>
        if e != core then s
        else if n != k.beats.length then (s.closeChunk core ctx).chunkFails core ctx
        else (s.updCtx ctx fun x => { x with rpCons := x.rpCons + BitVec.ofNat 64 (16 + 8 * n) }).closeChunk core ctx

/-- A strand of a context on a core that may still issue in its chunk. -/
def State.chunkRuns (s : State) (core ctx : Nat) : Bool :=
  s.strands.any fun x => x.2.core == core && s.ctxNo x.2 == ctx && !x.2.parkedOut && x.2.block == .none &&
    s.gangSt x.2.wg == .resident

/-- No gang of a context waits to be placed or restored, and no record of its queues waits to be read: a core that holds none
of its gangs now will hold none before the log goes on (R204, R205). -/
def State.gangsPlaced (s : State) (ctx : Nat) : Bool :=
  let live := s.grids.filter fun g => g.2.ctx == ctx && g.2.st == .live
  !live.isEmpty && (live.all fun g => g.2.area.isSome && g.2.ngangs ≤ g.2.nextGang &&
    g.2.gangs.all fun k => k.2.st == .resident || k.2.st == .retired) &&
    s.host.queues.all fun q => q.2.ctx != ctx || !q.2.en || q.2.next == q.2.prod

/-- The log of a context goes on with an entry that names core `e`, on which the context holds no gang (R205). -/
def State.misplaced (s : State) (ctx e : Nat) : Bool :=
  s.gangsPlaced ctx && !(s.wgs.any fun w => w.2.core == e && (s.gridOf w.2.grid).ctx == ctx)

/-- CHUNK_COMMIT: core `a` commits its chunk of context `b`, once it has closed or no strand is left to go on in it. In
replay an entry that names a core without a gang of the context ends a grid (R205). -/
def execChunkCommit : State → Out := act fun s =>
  let core := s.arg.a
  let ctx := s.arg.b
  match s.chunkOf core ctx with
  | some k => if k.closed || !s.chunkRuns core ctx then s.commitChunk core ctx else s
  | none =>
    if !(s.ctxOf ctx).replays then s
    else match s.nextEntry ctx with
      | none => s
      | some (e, _, _) =>
        if e == core && s.misplaced ctx e then s.chunkFails core ctx else s

/-! ## The stall account (R101, R102) -/

/-- A route selector of the instruction's word is not zero (R211). -/
def routedWord (w : Word) : Bool :=
  match (w.extractLsb' 28 4).toNat with
  | 0 => w.extractLsb' 0 4 != 0
  | 1 => w.extractLsb' 10 2 != 0
  | 2 => w.extractLsb' 0 5 != 0
  | _ => false

/-- Instructions that the picker never fuses (R83). -/
def neverFused (i : Instr) : Bool :=
  match i with
  | .vvote .. | .vscan .. | .vred .. | .vmatch .. | .vcompact .. | .vkmov .. | .vjoin .. | .vreform .. | .vcallr .. | .vexit => true
  | _ => routedWord ((encode i).headD 0)

/-- The instruction at which a strand stands may be fused (R83). -/
def Strand.mayFuse (st : Strand) : Bool :=
  match st.clause with
  | none => false
  | some c => match c.find st.pc with
    | .instr i _ _ => !neverFused i
    | .illegal _ => false

/-- The instruction at which a strand stands is for the lane or form pipe (R81, R210): bit 31 of its word is 0. -/
def Strand.lanePipe (st : Strand) : Bool :=
  match st.clause with
  | none => false
  | some c =>
    let ws := c.wordsFrom st.pc
    let w := if (prefixOf (ws.headD 0)).isSome then ws.getD 1 0 else ws.headD 0
    !w.getLsbD 31

/-- Two lane strands may issue together (R82, R83): of different warps of one workgroup, at the same PC, over disjoint lanes,
with equal PART and MODE, at an instruction that is fused. -/
def Strand.fuses (x y : Strand) : Bool :=
  x.mayFuse && y.mayFuse && x.wg == y.wg && x.warp != y.warp && x.pc == y.pc && (x.mask &&& y.mask) == 0 && x.tile == y.tile && x.mode == y.mode

/-- The issue group that a lane strand leads among candidates (R82): it and up to three that issue with each other. -/
def fuseGroup (x : Nat × Strand) (l : List (Nat × Strand)) : List (Nat × Strand) :=
  l.foldl (fun g y => if g.length < 4 && g.all fun z => z.1 != y.1 && z.2.fuses y.2 then g ++ [y] else g) [x]

/-- The distinct issue groups of lane strands (R82, R101). -/
def issueGroups : Nat → List (Nat × Strand) → List (List (Nat × Strand))
  | 0, _ => []
  | _, [] => []
  | f + 1, x :: r =>
    let g := fuseGroup x r
    g :: issueGroups f (r.filter fun y => !(g.any fun z => z.1 == y.1))

/-- The resident strand that was placed longest ago, ties broken by the lower slot (R101). -/
def longest (l : List (Nat × Strand)) : Option (Nat × Strand) :=
  l.foldl (fun m x => match m with
    | none => some x
    | some y => if x.2.placed < y.2.placed || (x.2.placed == y.2.placed && x.2.slot < y.2.slot) then some x else some y) none

/-- One clock of a core's account. -/
def State.account (s : State) (core : Nat) : State :=
  let l := s.strandsOn core
  let ok := l.filter fun x => s.eligible x.1 x.2
  let idle := ok.isEmpty && !(s.strands.any fun x => x.2.isHandler && x.2.core == core && s.eligible x.1 x.2)
  let lanes := ok.filter fun x => x.2.isLane && x.2.lanePipe
  let n := (issueGroups lanes.length lanes).length
  s.updCore core fun c =>
    let c := c.caughtUp (s.mod.clock - 1)
    if !c.counting then { c with upto := s.mod.clock }
    else { c with
      elig := countUp c.elig (min n 7) 1
      stall := if idle then countUp c.stall ((longest l).elim 0 fun x => s.reason x.1 x.2) 1 else c.stall
      upto := s.mod.clock }

/-- The cores that have a strand. -/
def State.busyCores (s : State) : List Nat := (s.strands.map fun x => x.2.core).eraseDups

/-- STALL_ACCOUNT_CLOCK: one clock of the account of every core that has a strand; the others' accounts catch up when they
are next looked at. -/
def execStallAccountClock : State → Out := act fun s => s.busyCores.foldl State.account s

end Sys2Proof.Machine
end

