-- ==== Sys2Proof/Machine/Retired.lean ====
section
/-! DEFINITION. The retired opcodes, LR ops 48 to 51 (R8, R184, R196 to R198): decoded, and left to the foreman. -/

namespace Sys2Proof.Machine

/-- A RETIRED OPCODE (R188 item 2, R196, R198): a range strand expands first, whatever its predicate (R226); a word with a field that the 6000
series did not define raises class 0x0B; otherwise the strand parks for the foreman. -/
def retiredOp (i : Instr) (s : State) : Out :=
  let word := (encode i).headD 0
  match s.cur with
  | none => .fault .noIssuer
  | some c =>
    match tfind s.strands c.uid with
    | none => .fault .noIssuer
    | some st =>
      if st.clauseBreach c i || st.isHandler then
        .next { s.takeTrap c.uid { cls := 0x01, pc := some c.pc } with cur := none }
      else
        let s := s.updStrand c.uid fun x => x.issued s.mod.clock s.mod.tick.toNat
        let t :=
          if st.isRange then s.expandStrand c.uid
          else if !Config.emulDefined word then s.takeTrap c.uid { cls := 0x0B, pc := some c.pc }
          else s.takeEmulation c.uid word (st.active c.pred.toNat)
        .next { t with cur := none }

/-- VSHFL.IDX. -/
def execVshflIdx (x : BitVec 22) : State → Out := retiredOp (.vshflIdx x)
/-- VSHFL.UP. -/
def execVshflUp (x : BitVec 22) : State → Out := retiredOp (.vshflUp x)
/-- VSHFL.DN. -/
def execVshflDn (x : BitVec 22) : State → Out := retiredOp (.vshflDn x)
/-- VSHFL.XOR. -/
def execVshflXor (x : BitVec 22) : State → Out := retiredOp (.vshflXor x)

end Sys2Proof.Machine
end

