-- ==== Sys2Proof/Machine/Uniform.lean ====
section
/-! DEFINITION. Uniform ALU and constant instructions (R332 to R336) and uniform control (R339). -/

namespace Sys2Proof.Machine

/-- A UNIFORM ALU INSTRUCTION (R332): one value, its events, and its destination. -/
def uniformOp (i : Instr) (uses : List Use) (f : Env → Issue → Strand → (Strand → Strand) × Ev) : State → Out :=
  issue i (fun _ => uses) noExcess fun s c st =>
    let (w, ev) := f (s.env st) c st
    if trapsOn st.mode ev then s.fpTrap c ev none
    else ((s.updStrand c.uid w).addEvents c.uid ev).retire c i

/-- Two 32-bit sources and a 32-bit destination. -/
def uni2 (i : Instr) (sd sa sb : BitVec 6) (f : Word → Word → Word) : State → Out :=
  uniformOp i (useS sd ++ useS sa ++ useS sb) fun _ _ st =>
    (fun x => x.setS sd.toNat (f (st.sreg sa.toNat) (st.sreg sb.toNat)), 0)

/-- One 32-bit source. -/
def uni1 (i : Instr) (sd sa : BitVec 6) (f : Word → Word) : State → Out :=
  uniformOp i (useS sd ++ useS sa) fun _ _ st => (fun x => x.setS sd.toNat (f (st.sreg sa.toNat)), 0)

/-- Two 64-bit sources and a 64-bit destination. -/
def uni64 (i : Instr) (sd sa sb : BitVec 6) (f : DWord → DWord → DWord) : State → Out :=
  uniformOp i (useS sd 2 ++ useS sa 2 ++ useS sb 2) fun _ _ st =>
    (fun x => x.setD sd.toNat (f (st.dreg sa.toNat) (st.dreg sb.toNat)), 0)

/-- 1 or 0. -/
def bit32 (b : Bool) : Word := if b then 1 else 0

/-- Sign extension of a 12-bit immediate (R335). -/
def imm12 (i : BitVec 12) : Word := i.signExtend 32

/-- Unsigned quotient (R334). -/
def divN (a b : Word) : Word := if b == 0 then 0xFFFFFFFF else BitVec.ofNat 32 (a.toNat / b.toNat)
/-- Unsigned remainder (R334). -/
def remN (a b : Word) : Word := if b == 0 then a else BitVec.ofNat 32 (a.toNat % b.toNat)
/-- Signed quotient, toward zero (R334). -/
def divI (a b : Word) : Word :=
  if b == 0 then 0xFFFFFFFF
  else ofI (if (a.toInt < 0) == (b.toInt < 0) then ((a.toInt.natAbs / b.toInt.natAbs : Nat) : Int)
    else -((a.toInt.natAbs / b.toInt.natAbs : Nat) : Int))
/-- Signed remainder with the sign of the dividend (R334). -/
def remI (a b : Word) : Word :=
  if b == 0 then a
  else ofI (if a.toInt < 0 then -((a.toInt.natAbs % b.toInt.natAbs : Nat) : Int) else ((a.toInt.natAbs % b.toInt.natAbs : Nat) : Int))

/-! ## UR (R333) -/

/-- Sadd (R333). -/
def execSadd (sd sa sb : BitVec 6) : State → Out := uni2 (.sadd sd sa sb) sd sa sb (fun a b => a + b)

/-- Ssub (R333). -/
def execSsub (sd sa sb : BitVec 6) : State → Out := uni2 (.ssub sd sa sb) sd sa sb (fun a b => a - b)

/-- Smul (R333). -/
def execSmul (sd sa sb : BitVec 6) : State → Out := uni2 (.smul sd sa sb) sd sa sb (fun a b => a * b)

/-- SmulhI32 (R333). -/
def execSmulhI32 (sd sa sb : BitVec 6) : State → Out := uni2 (.smulhI32 sd sa sb) sd sa sb (mulhI)

/-- SmulhN32 (R333). -/
def execSmulhN32 (sd sa sb : BitVec 6) : State → Out := uni2 (.smulhN32 sd sa sb) sd sa sb (mulhN)

/-- SminI32 (R333). -/
def execSminI32 (sd sa sb : BitVec 6) : State → Out := uni2 (.sminI32 sd sa sb) sd sa sb (minI)

/-- SminN32 (R333). -/
def execSminN32 (sd sa sb : BitVec 6) : State → Out := uni2 (.sminN32 sd sa sb) sd sa sb (minN)

/-- SmaxI32 (R333). -/
def execSmaxI32 (sd sa sb : BitVec 6) : State → Out := uni2 (.smaxI32 sd sa sb) sd sa sb (maxI)

/-- SmaxN32 (R333). -/
def execSmaxN32 (sd sa sb : BitVec 6) : State → Out := uni2 (.smaxN32 sd sa sb) sd sa sb (maxN)

/-- Sand (R333). -/
def execSand (sd sa sb : BitVec 6) : State → Out := uni2 (.sand sd sa sb) sd sa sb (fun a b => a &&& b)

/-- Sor (R333). -/
def execSor (sd sa sb : BitVec 6) : State → Out := uni2 (.sor sd sa sb) sd sa sb (fun a b => a ||| b)

/-- Sxor (R333). -/
def execSxor (sd sa sb : BitVec 6) : State → Out := uni2 (.sxor sd sa sb) sd sa sb (fun a b => a ^^^ b)

/-- Sshl (R333). -/
def execSshl (sd sa sb : BitVec 6) : State → Out := uni2 (.sshl sd sa sb) sd sa sb (shlW)

/-- Sshr (R333). -/
def execSshr (sd sa sb : BitVec 6) : State → Out := uni2 (.sshr sd sa sb) sd sa sb (shrW)

/-- Ssar (R333). -/
def execSsar (sd sa sb : BitVec 6) : State → Out := uni2 (.ssar sd sa sb) sd sa sb (sarW)

/-- SdivN32 (R333). -/
def execSdivN32 (sd sa sb : BitVec 6) : State → Out := uni2 (.sdivN32 sd sa sb) sd sa sb (divN)

/-- SremN32 (R333). -/
def execSremN32 (sd sa sb : BitVec 6) : State → Out := uni2 (.sremN32 sd sa sb) sd sa sb (remN)

/-- SdivI32 (R333). -/
def execSdivI32 (sd sa sb : BitVec 6) : State → Out := uni2 (.sdivI32 sd sa sb) sd sa sb (divI)

/-- SremI32 (R333). -/
def execSremI32 (sd sa sb : BitVec 6) : State → Out := uni2 (.sremI32 sd sa sb) sd sa sb (remI)

/-- Smov (R333). -/
def execSmov (sd sa : BitVec 6) : State → Out := uni1 (.smov sd sa) sd sa (fun a => a)

/-- Spopc (R333). -/
def execSpopc (sd sa : BitVec 6) : State → Out := uni1 (.spopc sd sa) sd sa (popc)

/-- Sclz (R333). -/
def execSclz (sd sa : BitVec 6) : State → Out := uni1 (.sclz sd sa) sd sa (clzW)

/-- SCMP (R333). -/
def execScmp (sd sa sb : BitVec 6) (fn : BitVec 4) : State → Out :=
  uni2 (.scmp sd sa sb fn) sd sa sb fun a b => bit32 (cmpOp fn.toNat ⟨0, 0⟩ a b).1

/-- SSEL: the destination is the condition (R333). -/
def execSsel (sd sa sb : BitVec 6) : State → Out :=
  uniformOp (.ssel sd sa sb) (useS sd ++ useS sa ++ useS sb) fun _ _ st =>
    (fun x => x.setS sd.toNat (if st.sreg sd.toNat != 0 then st.sreg sa.toNat else st.sreg sb.toNat), 0)

/-- SFADD (R333). -/
def execSfadd (sd sa sb : BitVec 6) : State → Out :=
  uniformOp (.sfadd sd sa sb) (useS sd ++ useS sa ++ useS sb) fun e _ st =>
    let r := lane32 (Fmt.f32.add e.ctl32 (st.sreg sa.toNat).toNat (st.sreg sb.toNat).toNat)
    (fun x => x.setS sd.toNat r.1, r.2)

/-- SFMUL (R333). -/
def execSfmul (sd sa sb : BitVec 6) : State → Out :=
  uniformOp (.sfmul sd sa sb) (useS sd ++ useS sa ++ useS sb) fun e _ st =>
    let r := lane32 (Fmt.f32.mul e.ctl32 (st.sreg sa.toNat).toNat (st.sreg sb.toNat).toNat)
    (fun x => x.setS sd.toNat r.1, r.2)

/-- SFFMA: a · b + s(sd), one rounding (R333). -/
def execSffma (sd sa sb : BitVec 6) : State → Out :=
  uniformOp (.sffma sd sa sb) (useS sd ++ useS sa ++ useS sb) fun e _ st =>
    let r := lane32 (Fmt.f32.fma e.ctl32 (st.sreg sa.toNat).toNat (st.sreg sb.toNat).toNat (st.sreg sd.toNat).toNat)
    (fun x => x.setS sd.toNat r.1, r.2)

/-- SFCMP: fn 0 to 4 are VCMP fn 6 to 10 (R333). -/
def execSfcmp (sd sa sb : BitVec 6) (fn : BitVec 4) : State → Out :=
  uniformOp (.sfcmp sd sa sb fn) (useS sd ++ useS sa ++ useS sb) fun e _ st =>
    let r := cmpOp (fn.toNat + 6) e (st.sreg sa.toNat) (st.sreg sb.toNat)
    (fun x => x.setS sd.toNat (bit32 r.1), r.2)

/-- SCVT (R333, R247). -/
def execScvt (sd sa sb : BitVec 6) (fn : BitVec 4) : State → Out :=
  uniformOp (.scvt sd sa sb fn) (useS sd ++ useS sa) fun e _ st =>
    let r := cvtOp fn.toNat e (st.sreg sa.toNat)
    (fun x => x.setS sd.toNat r.1, r.2)

/-- SADD64 (R333). -/
def execSadd64 (sd sa sb : BitVec 6) : State → Out := uni64 (.sadd64 sd sa sb) sd sa sb (· + ·)

/-- SSUB64 (R333). -/
def execSsub64 (sd sa sb : BitVec 6) : State → Out := uni64 (.ssub64 sd sa sb) sd sa sb (· - ·)

/-- SMULW: the whole unsigned product (R333). -/
def execSmulw (sd sa sb : BitVec 6) : State → Out :=
  uniformOp (.smulw sd sa sb) (useS sd 2 ++ useS sa ++ useS sb) fun _ _ st =>
    (fun x => x.setD sd.toNat ((st.sreg sa.toNat).setWidth 64 * (st.sreg sb.toNat).setWidth 64), 0)

/-! ## UI (R335) -/

/-- Saddi (R335). -/
def execSaddi (sd sa : BitVec 6) (imm : BitVec 12) : State → Out := uni1 (.saddi sd sa imm) sd sa (fun a => a + imm12 imm)

/-- Smuli (R335). -/
def execSmuli (sd sa : BitVec 6) (imm : BitVec 12) : State → Out := uni1 (.smuli sd sa imm) sd sa (fun a => a * imm12 imm)

/-- Sandi (R335). -/
def execSandi (sd sa : BitVec 6) (imm : BitVec 12) : State → Out := uni1 (.sandi sd sa imm) sd sa (fun a => a &&& imm12 imm)

/-- Sori (R335). -/
def execSori (sd sa : BitVec 6) (imm : BitVec 12) : State → Out := uni1 (.sori sd sa imm) sd sa (fun a => a ||| imm12 imm)

/-- Sxori (R335). -/
def execSxori (sd sa : BitVec 6) (imm : BitVec 12) : State → Out := uni1 (.sxori sd sa imm) sd sa (fun a => a ^^^ imm12 imm)

/-- Sshli (R335). -/
def execSshli (sd sa : BitVec 6) (imm : BitVec 12) : State → Out := uni1 (.sshli sd sa imm) sd sa (fun a => a <<< imm.toNat)

/-- Sshri (R335). -/
def execSshri (sd sa : BitVec 6) (imm : BitVec 12) : State → Out := uni1 (.sshri sd sa imm) sd sa (fun a => a >>> imm.toNat)

/-- Ssari (R335). -/
def execSsari (sd sa : BitVec 6) (imm : BitVec 12) : State → Out := uni1 (.ssari sd sa imm) sd sa (fun a => a.sshiftRight imm.toNat)

/-- SltiI32 (R335). -/
def execSltiI32 (sd sa : BitVec 6) (imm : BitVec 12) : State → Out := uni1 (.sltiI32 sd sa imm) sd sa (fun a => bit32 (a.slt (imm12 imm)))

/-- SltiN32 (R335). -/
def execSltiN32 (sd sa : BitVec 6) (imm : BitVec 12) : State → Out := uni1 (.sltiN32 sd sa imm) sd sa (fun a => bit32 (a.ult (imm12 imm)))

/-- Seqi (R335). -/
def execSeqi (sd sa : BitVec 6) (imm : BitVec 12) : State → Out := uni1 (.seqi sd sa imm) sd sa (fun a => bit32 (a == imm12 imm))

/-- SADD64I (R335). -/
def execSadd64i (sd sa : BitVec 6) (imm : BitVec 12) : State → Out :=
  uniformOp (.sadd64i sd sa imm) (useS sd 2 ++ useS sa 2) fun _ _ st =>
    (fun x => x.setD sd.toNat (st.dreg sa.toNat + imm.signExtend 64), 0)

/-! ## UK constants (R336) -/

/-- SMOVI. -/
def execSmovi (sd : BitVec 6) (imm : BitVec 18) : State → Out :=
  uniformOp (.smovi sd imm) (useS sd) fun _ _ _ => (fun x => x.setS sd.toNat (imm.signExtend 32), 0)

/-- SHII: the high 18 bits, over the low 14 of the register. -/
def execShii (sd : BitVec 6) (imm : BitVec 18) : State → Out :=
  uniformOp (.shii sd imm) (useS sd) fun _ _ st =>
    (fun x => x.setS sd.toNat (imm ++ (st.sreg sd.toNat).extractLsb' 0 14), 0)

/-- SADDPC: the address of this word plus a word offset. -/
def execSaddpc (sd : BitVec 6) (imm : BitVec 18) : State → Out :=
  uniformOp (.saddpc sd imm) (useS sd 2) fun _ c _ => (fun x => x.setD sd.toNat (offTarget c.pc imm), 0)

/-! ## UB (R339) -/

/-- JMP. -/
def execJmp (off : BitVec 24) : State → Out :=
  issue (.jmp off) (fun _ => []) noExcess fun s c st => s.branchAll c st (some (offTarget c.pc off))

/-- BRZ. -/
def execBrz (sa : BitVec 6) (off : BitVec 18) : State → Out :=
  issue (.brz sa off) (fun _ => useS sa) noExcess fun s c st =>
    s.branchAll c st (if st.sreg sa.toNat == 0 then some (offTarget c.pc off) else none)

/-- BRNZ. -/
def execBrnz (sa : BitVec 6) (off : BitVec 18) : State → Out :=
  issue (.brnz sa off) (fun _ => useS sa) noExcess fun s c st =>
    s.branchAll c st (if st.sreg sa.toNat != 0 then some (offTarget c.pc off) else none)

/-- CALL: as VCALL, with idle flags (R274). -/
def execCall (off : BitVec 24) : State → Out :=
  issue (.call off) (fun _ => []) noExcess fun s c st =>
    s.callTo c st (offTarget c.pc off)

/-- CALLR: one target for the whole strand. -/
def execCallr (sa : BitVec 6) : State → Out :=
  issue (.callr sa) (fun _ => useS sa 2) noExcess fun s c st =>
    s.callTo c st (st.dreg sa.toNat)

/-- RET: as VRET. -/
def execRet : State → Out :=
  issue .ret (fun _ => []) noExcess fun s c st =>
    s.popReturn c st

/-- EXIT: every active thread of the strand exits (R277). -/
def execExit : State → Out := issue .exit (fun _ => []) noExcess fun s c _ => s.exitThreads c.uid

/-- YIELD: not eligible for the next 16 clocks (R80). -/
def execYield : State → Out :=
  issue .yield (fun _ => []) noExcess fun s c _ =>
    (s.retire c .yield).updStrand c.uid fun x => { x with yieldUntil := s.mod.clock + 17 }

/-- NOP. -/
def execNop (code : BitVec 16) : State → Out := issue (.nop code) (fun _ => []) noExcess fun s c _ => s.retire c (.nop code)

/-- TRAP: class 0x0C, AUX the code. -/
def execTrap (code : BitVec 16) : State → Out :=
  issue (.trap code) (fun _ => []) noExcess fun s c _ =>
    s.takeTrap c.uid { cls := 0x0C, addr := code.setWidth 64, pc := some c.pc }

/-- BRK: class 0x0D, AUX the code. -/
def execBrk (code : BitVec 16) : State → Out :=
  issue (.brk code) (fun _ => []) noExcess fun s c _ =>
    s.takeTrap c.uid { cls := 0x0D, addr := code.setWidth 64, pc := some c.pc }

/-- ERET: the timer handler ends (R199); elsewhere illegal instruction. -/
def execEret : State → Out := issue .eret (fun _ => []) noExcess fun s c _ => s.handlerReturn c.uid

end Sys2Proof.Machine
end

