-- ==== Sys2Proof/Machine/Dispatch.lean ====
section
/-! DEFINITION. The meaning of every constructor of Instr: one arm each. -/

namespace Sys2Proof.Machine

/-- The one dispatch from instructions and operations to their meanings. -/
def exec (i : Instr) (s : State) : Host.Outcome State Fault Refusal :=
  match i with
  | .vadd vd va vb ra rb => Sys2Proof.Machine.execVadd vd va vb ra rb s
  | .vsub vd va vb ra rb => Sys2Proof.Machine.execVsub vd va vb ra rb s
  | .vmul vd va vb ra rb => Sys2Proof.Machine.execVmul vd va vb ra rb s
  | .vmulhI32 vd va vb ra rb => Sys2Proof.Machine.execVmulhI32 vd va vb ra rb s
  | .vmulhN32 vd va vb ra rb => Sys2Proof.Machine.execVmulhN32 vd va vb ra rb s
  | .vminI32 vd va vb ra rb => Sys2Proof.Machine.execVminI32 vd va vb ra rb s
  | .vminN32 vd va vb ra rb => Sys2Proof.Machine.execVminN32 vd va vb ra rb s
  | .vmaxI32 vd va vb ra rb => Sys2Proof.Machine.execVmaxI32 vd va vb ra rb s
  | .vmaxN32 vd va vb ra rb => Sys2Proof.Machine.execVmaxN32 vd va vb ra rb s
  | .vand vd va vb ra rb => Sys2Proof.Machine.execVand vd va vb ra rb s
  | .vor vd va vb ra rb => Sys2Proof.Machine.execVor vd va vb ra rb s
  | .vxor vd va vb ra rb => Sys2Proof.Machine.execVxor vd va vb ra rb s
  | .vandn vd va vb ra rb => Sys2Proof.Machine.execVandn vd va vb ra rb s
  | .vshl vd va vb ra rb => Sys2Proof.Machine.execVshl vd va vb ra rb s
  | .vshr vd va vb ra rb => Sys2Proof.Machine.execVshr vd va vb ra rb s
  | .vsar vd va vb ra rb => Sys2Proof.Machine.execVsar vd va vb ra rb s
  | .vrotl vd va vb ra rb => Sys2Proof.Machine.execVrotl vd va vb ra rb s
  | .vaddsI32 vd va vb ra rb => Sys2Proof.Machine.execVaddsI32 vd va vb ra rb s
  | .vsubsI32 vd va vb ra rb => Sys2Proof.Machine.execVsubsI32 vd va vb ra rb s
  | .vabsdN32 vd va vb ra rb => Sys2Proof.Machine.execVabsdN32 vd va vb ra rb s
  | .vmov vd va ra => Sys2Proof.Machine.execVmov vd va ra s
  | .vfaddF32 vd va vb ra rb => Sys2Proof.Machine.execVfaddF32 vd va vb ra rb s
  | .vfsubF32 vd va vb ra rb => Sys2Proof.Machine.execVfsubF32 vd va vb ra rb s
  | .vfmulF32 vd va vb ra rb => Sys2Proof.Machine.execVfmulF32 vd va vb ra rb s
  | .vfminF32 vd va vb ra rb => Sys2Proof.Machine.execVfminF32 vd va vb ra rb s
  | .vfmaxF32 vd va vb ra rb => Sys2Proof.Machine.execVfmaxF32 vd va vb ra rb s
  | .vfscaleF32 vd va vb ra rb => Sys2Proof.Machine.execVfscaleF32 vd va vb ra rb s
  | .vfaddBf16x2 vd va vb ra rb => Sys2Proof.Machine.execVfaddBf16x2 vd va vb ra rb s
  | .vfmulBf16x2 vd va vb ra rb => Sys2Proof.Machine.execVfmulBf16x2 vd va vb ra rb s
  | .vfaddF16x2 vd va vb ra rb => Sys2Proof.Machine.execVfaddF16x2 vd va vb ra rb s
  | .vfmulF16x2 vd va vb ra rb => Sys2Proof.Machine.execVfmulF16x2 vd va vb ra rb s
  | .vfaddE4m3x4 vd va vb ra rb => Sys2Proof.Machine.execVfaddE4m3x4 vd va vb ra rb s
  | .vfmulE4m3x4 vd va vb ra rb => Sys2Proof.Machine.execVfmulE4m3x4 vd va vb ra rb s
  | .vfaddE5m2x4 vd va vb ra rb => Sys2Proof.Machine.execVfaddE5m2x4 vd va vb ra rb s
  | .vfmulE5m2x4 vd va vb ra rb => Sys2Proof.Machine.execVfmulE5m2x4 vd va vb ra rb s
  | .vdot4I8 vd va vb ra rb => Sys2Proof.Machine.execVdot4I8 vd va vb ra rb s
  | .vdot2Bf16 vd va vb ra rb => Sys2Proof.Machine.execVdot2Bf16 vd va vb ra rb s
  | .vshflIdx x => Sys2Proof.Machine.execVshflIdx x s
  | .vshflUp x => Sys2Proof.Machine.execVshflUp x s
  | .vshflDn x => Sys2Proof.Machine.execVshflDn x s
  | .vshflXor x => Sys2Proof.Machine.execVshflXor x s
  | .vaddi vd va ra imm => Sys2Proof.Machine.execVaddi vd va ra imm s
  | .vsubri vd va ra imm => Sys2Proof.Machine.execVsubri vd va ra imm s
  | .vmuli vd va ra imm => Sys2Proof.Machine.execVmuli vd va ra imm s
  | .vandi vd va ra imm => Sys2Proof.Machine.execVandi vd va ra imm s
  | .vori vd va ra imm => Sys2Proof.Machine.execVori vd va ra imm s
  | .vxori vd va ra imm => Sys2Proof.Machine.execVxori vd va ra imm s
  | .vshli vd va ra imm => Sys2Proof.Machine.execVshli vd va ra imm s
  | .vshri vd va ra imm => Sys2Proof.Machine.execVshri vd va ra imm s
  | .vsari vd va ra imm => Sys2Proof.Machine.execVsari vd va ra imm s
  | .vminiI32 vd va ra imm => Sys2Proof.Machine.execVminiI32 vd va ra imm s
  | .vmaxiI32 vd va ra imm => Sys2Proof.Machine.execVmaxiI32 vd va ra imm s
  | .vmovi vd imm => Sys2Proof.Machine.execVmovi vd imm s
  | .vmad vd va vb vc ra rb rc => Sys2Proof.Machine.execVmad vd va vb vc ra rb rc s
  | .vfmaF32 vd va vb vc ra rb rc => Sys2Proof.Machine.execVfmaF32 vd va vb vc ra rb rc s
  | .vfmaBf16x2 vd va vb vc ra rb rc => Sys2Proof.Machine.execVfmaBf16x2 vd va vb vc ra rb rc s
  | .vfmaF16x2 vd va vb vc ra rb rc => Sys2Proof.Machine.execVfmaF16x2 vd va vb vc ra rb rc s
  | .vdot4aI8 vd va vb vc ra rb rc => Sys2Proof.Machine.execVdot4aI8 vd va vb vc ra rb rc s
  | .vdot2aBf16 vd va vb vc ra rb rc => Sys2Proof.Machine.execVdot2aBf16 vd va vb vc ra rb rc s
  | .vbfi vd va vb vc ra rb rc => Sys2Proof.Machine.execVbfi vd va vb vc ra rb rc s
  | .vld vd va k sz off => Sys2Proof.Machine.execVld vd va k sz off s
  | .vst vs va k sz off => Sys2Proof.Machine.execVst vs va k sz off s
  | .vldc vd va k sz off => Sys2Proof.Machine.execVldc vd va k sz off s
  | .vpref hint va k off => Sys2Proof.Machine.execVpref hint va k off s
  | .vcmp d a b fn => Sys2Proof.Machine.execVcmp d a b fn s
  | .vsel d a b k => Sys2Proof.Machine.execVsel d a b k s
  | .vvote d a fn => Sys2Proof.Machine.execVvote d a fn s
  | .vscan d a fn => Sys2Proof.Machine.execVscan d a fn s
  | .vred d a fn => Sys2Proof.Machine.execVred d a fn s
  | .vmatch d a fn => Sys2Proof.Machine.execVmatch d a fn s
  | .vcompact d a b fn => Sys2Proof.Machine.execVcompact d a b fn s
  | .vform d a fn => Sys2Proof.Machine.execVform d a fn s
  | .vstride d a => Sys2Proof.Machine.execVstride d a s
  | .vindex d fn => Sys2Proof.Machine.execVindex d fn s
  | .vpopc d a => Sys2Proof.Machine.execVpopc d a s
  | .vclz d a => Sys2Proof.Machine.execVclz d a s
  | .vbrev d a => Sys2Proof.Machine.execVbrev d a s
  | .vbfe d a b sgn => Sys2Proof.Machine.execVbfe d a b sgn s
  | .vfrcpF32 d a => Sys2Proof.Machine.execVfrcpF32 d a s
  | .vfrsqF32 d a => Sys2Proof.Machine.execVfrsqF32 d a s
  | .vfsqrtF32 d a => Sys2Proof.Machine.execVfsqrtF32 d a s
  | .vfexp2F32 d a => Sys2Proof.Machine.execVfexp2F32 d a s
  | .vflog2F32 d a => Sys2Proof.Machine.execVflog2F32 d a s
  | .vfsinpiF32 d a => Sys2Proof.Machine.execVfsinpiF32 d a s
  | .vfcospiF32 d a => Sys2Proof.Machine.execVfcospiF32 d a s
  | .vftanhF32 d a => Sys2Proof.Machine.execVftanhF32 d a s
  | .vfclass d a fn => Sys2Proof.Machine.execVfclass d a fn s
  | .vunary d a fn => Sys2Proof.Machine.execVunary d a fn s
  | .vcvt d a fn => Sys2Proof.Machine.execVcvt d a fn s
  | .vcvtb d a fn => Sys2Proof.Machine.execVcvtb d a fn s
  | .vpack d a b fn => Sys2Proof.Machine.execVpack d a b fn s
  | .vunpack d a b fn => Sys2Proof.Machine.execVunpack d a b fn s
  | .vkmov d a b fn => Sys2Proof.Machine.execVkmov d a b fn s
  | .vbr k tag off => Sys2Proof.Machine.execVbr k tag off s
  | .vbrn k tag off => Sys2Proof.Machine.execVbrn k tag off s
  | .vjoin tag live => Sys2Proof.Machine.execVjoin tag live s
  | .vreform tag live => Sys2Proof.Machine.execVreform tag live s
  | .vcall off => Sys2Proof.Machine.execVcall off s
  | .vcallr va => Sys2Proof.Machine.execVcallr va s
  | .vswitch tag va cases => Sys2Proof.Machine.execVswitch tag va cases s
  | .vmovl vd imm => Sys2Proof.Machine.execVmovl vd imm s
  | .vatom vd va vb aop w nr vc disp => Sys2Proof.Machine.execVatom vd va vb aop w nr vc disp s
  | .vcopy vd va vb logsz => Sys2Proof.Machine.execVcopy vd va vb logsz s
  | .vldg vd va vb sz scale ahead tag win disp => Sys2Proof.Machine.execVldg vd va vb sz scale ahead tag win disp s
  | .sadd sd sa sb => Sys2Proof.Machine.execSadd sd sa sb s
  | .ssub sd sa sb => Sys2Proof.Machine.execSsub sd sa sb s
  | .smul sd sa sb => Sys2Proof.Machine.execSmul sd sa sb s
  | .smulhI32 sd sa sb => Sys2Proof.Machine.execSmulhI32 sd sa sb s
  | .smulhN32 sd sa sb => Sys2Proof.Machine.execSmulhN32 sd sa sb s
  | .sminI32 sd sa sb => Sys2Proof.Machine.execSminI32 sd sa sb s
  | .sminN32 sd sa sb => Sys2Proof.Machine.execSminN32 sd sa sb s
  | .smaxI32 sd sa sb => Sys2Proof.Machine.execSmaxI32 sd sa sb s
  | .smaxN32 sd sa sb => Sys2Proof.Machine.execSmaxN32 sd sa sb s
  | .sand sd sa sb => Sys2Proof.Machine.execSand sd sa sb s
  | .sor sd sa sb => Sys2Proof.Machine.execSor sd sa sb s
  | .sxor sd sa sb => Sys2Proof.Machine.execSxor sd sa sb s
  | .sshl sd sa sb => Sys2Proof.Machine.execSshl sd sa sb s
  | .sshr sd sa sb => Sys2Proof.Machine.execSshr sd sa sb s
  | .ssar sd sa sb => Sys2Proof.Machine.execSsar sd sa sb s
  | .scmp sd sa sb fn => Sys2Proof.Machine.execScmp sd sa sb fn s
  | .ssel sd sa sb => Sys2Proof.Machine.execSsel sd sa sb s
  | .smov sd sa => Sys2Proof.Machine.execSmov sd sa s
  | .spopc sd sa => Sys2Proof.Machine.execSpopc sd sa s
  | .sclz sd sa => Sys2Proof.Machine.execSclz sd sa s
  | .sdivN32 sd sa sb => Sys2Proof.Machine.execSdivN32 sd sa sb s
  | .sremN32 sd sa sb => Sys2Proof.Machine.execSremN32 sd sa sb s
  | .sdivI32 sd sa sb => Sys2Proof.Machine.execSdivI32 sd sa sb s
  | .sremI32 sd sa sb => Sys2Proof.Machine.execSremI32 sd sa sb s
  | .sfadd sd sa sb => Sys2Proof.Machine.execSfadd sd sa sb s
  | .sfmul sd sa sb => Sys2Proof.Machine.execSfmul sd sa sb s
  | .sffma sd sa sb => Sys2Proof.Machine.execSffma sd sa sb s
  | .sfcmp sd sa sb fn => Sys2Proof.Machine.execSfcmp sd sa sb fn s
  | .scvt sd sa sb fn => Sys2Proof.Machine.execScvt sd sa sb fn s
  | .sadd64 sd sa sb => Sys2Proof.Machine.execSadd64 sd sa sb s
  | .ssub64 sd sa sb => Sys2Proof.Machine.execSsub64 sd sa sb s
  | .smulw sd sa sb => Sys2Proof.Machine.execSmulw sd sa sb s
  | .saddi sd sa imm => Sys2Proof.Machine.execSaddi sd sa imm s
  | .smuli sd sa imm => Sys2Proof.Machine.execSmuli sd sa imm s
  | .sandi sd sa imm => Sys2Proof.Machine.execSandi sd sa imm s
  | .sori sd sa imm => Sys2Proof.Machine.execSori sd sa imm s
  | .sxori sd sa imm => Sys2Proof.Machine.execSxori sd sa imm s
  | .sshli sd sa imm => Sys2Proof.Machine.execSshli sd sa imm s
  | .sshri sd sa imm => Sys2Proof.Machine.execSshri sd sa imm s
  | .ssari sd sa imm => Sys2Proof.Machine.execSsari sd sa imm s
  | .sltiI32 sd sa imm => Sys2Proof.Machine.execSltiI32 sd sa imm s
  | .sltiN32 sd sa imm => Sys2Proof.Machine.execSltiN32 sd sa imm s
  | .seqi sd sa imm => Sys2Proof.Machine.execSeqi sd sa imm s
  | .sadd64i sd sa imm => Sys2Proof.Machine.execSadd64i sd sa imm s
  | .smovi sd imm => Sys2Proof.Machine.execSmovi sd imm s
  | .shii sd imm => Sys2Proof.Machine.execShii sd imm s
  | .saddpc sd imm => Sys2Proof.Machine.execSaddpc sd imm s
  | .route sd slot kind fill dyn param => Sys2Proof.Machine.execRoute sd slot kind fill dyn param s
  | .part tile => Sys2Proof.Machine.execPart tile s
  | .mode mask value => Sys2Proof.Machine.execMode mask value s
  | .acq sd wait m => Sys2Proof.Machine.execAcq sd wait m s
  | .rel m => Sys2Proof.Machine.execRel m s
  | .sld sd sa sz off => Sys2Proof.Machine.execSld sd sa sz off s
  | .sst ss sa sz off => Sys2Proof.Machine.execSst ss sa sz off s
  | .sldc sd sa sz off => Sys2Proof.Machine.execSldc sd sa sz off s
  | .jmp off => Sys2Proof.Machine.execJmp off s
  | .brz sa off => Sys2Proof.Machine.execBrz sa off s
  | .brnz sa off => Sys2Proof.Machine.execBrnz sa off s
  | .call off => Sys2Proof.Machine.execCall off s
  | .callr sa => Sys2Proof.Machine.execCallr sa s
  | .nop code => Sys2Proof.Machine.execNop code s
  | .trap code => Sys2Proof.Machine.execTrap code s
  | .brk code => Sys2Proof.Machine.execBrk code s
  | .tcopy sa sb sc => Sys2Proof.Machine.execTcopy sa sb sc s
  | .tcopyx sa sb sc e1 e0 ss1 e2 row0 ss2 m2 m1 m0 => Sys2Proof.Machine.execTcopyx sa sb sc e1 e0 ss1 e2 row0 ss2 m2 m1 m0 s
  | .mcopy sa sb sc => Sys2Proof.Machine.execMcopy sa sb sc s
  | .bcopy sa sb sc nkey rowb creg nreg => Sys2Proof.Machine.execBcopy sa sb sc nkey rowb creg nreg s
  | .chain sa sb sc ops kb ot it => Sys2Proof.Machine.execChain sa sb sc ops kb ot it s
  | .bseal t => Sys2Proof.Machine.execBseal t s
  | .bwait t => Sys2Proof.Machine.execBwait t s
  | .awinit sa sb => Sys2Proof.Machine.execAwinit sa sb s
  | .await sa sb sc => Sys2Proof.Machine.execAwait sa sb sc s
  | .obres sa sb sc h kind fmt lb split layout ns => Sys2Proof.Machine.execObres sa sb sc h kind fmt lb split layout ns s
  | .obrel sa => Sys2Proof.Machine.execObrel sa s
  | .crew sa => Sys2Proof.Machine.execCrew sa s
  | .mma sa ha hb hc => Sys2Proof.Machine.execMma sa ha hb hc s
  | .mmaRs sa sb sc ha hb hc sel rsel => Sys2Proof.Machine.execMmaRs sa sb sc ha hb hc sel rsel s
  | .mmaSs sa sb sc ha hb hc => Sys2Proof.Machine.execMmaSs sa sb sc ha hb hc s
  | .mmas sa sb ha hb hc => Sys2Proof.Machine.execMmas sa sb ha hb hc s
  | .mman sa sb sc form ha hb hc sel rsel => Sys2Proof.Machine.execMman sa sb sc form ha hb hc sel rsel s
  | .salient sa ha hb hc => Sys2Proof.Machine.execSalient sa ha hb hc s
  | .accrd sa sb sc => Sys2Proof.Machine.execAccrd sa sb sc s
  | .accz sa => Sys2Proof.Machine.execAccz sa s
  | .capb sa sb sc => Sys2Proof.Machine.execCapb sa sb sc s
  | .satom sa sb sc aop w nr cmp disp => Sys2Proof.Machine.execSatom sa sb sc aop w nr cmp disp s
  | .redw sa sb sc ty op x => Sys2Proof.Machine.execRedw sa sb sc ty op x s
  | .poolp sa sb sc => Sys2Proof.Machine.execPoolp sa sb sc s
  | .poold sa sb sc => Sys2Proof.Machine.execPoold sa sb sc s
  | .launch sa sc => Sys2Proof.Machine.execLaunch sa sc s
  | .bara level b => Sys2Proof.Machine.execBara level b s
  | .barw level b => Sys2Proof.Machine.execBarw level b s
  | .bars level b => Sys2Proof.Machine.execBars level b s
  | .fence kind scope => Sys2Proof.Machine.execFence kind scope s
  | .csrr sd num => Sys2Proof.Machine.execCsrr sd num s
  | .csrw sa num => Sys2Proof.Machine.execCsrw sa num s
  | .tick sd => Sys2Proof.Machine.execTick sd s
  | .sleep sa => Sys2Proof.Machine.execSleep sa s
  | .tmarm sa => Sys2Proof.Machine.execTmarm sa s
  | .trace sa sb code => Sys2Proof.Machine.execTrace sa sb code s
  | .moduleReset => Sys2Proof.Machine.execModuleReset s
  | .firmwareBoot => Sys2Proof.Machine.execFirmwareBoot s
  | .throttleEvaluation => Sys2Proof.Machine.execThrottleEvaluation s
  | .thermalTrip => Sys2Proof.Machine.execThermalTrip s
  | .moduleFatalEvent => Sys2Proof.Machine.execModuleFatalEvent s
  | .patrolScrub => Sys2Proof.Machine.execPatrolScrub s
  | .tickAlignment => Sys2Proof.Machine.execTickAlignment s
  | .ticksyncPeriod => Sys2Proof.Machine.execTicksyncPeriod s
  | .ticksync => Sys2Proof.Machine.execTicksync s
  | .stoptickWrite => Sys2Proof.Machine.execStoptickWrite s
  | .stopOnTick => Sys2Proof.Machine.execStopOnTick s
  | .flitTransmit => Sys2Proof.Machine.execFlitTransmit s
  | .flitReceive => Sys2Proof.Machine.execFlitReceive s
  | .ackStallTimeout => Sys2Proof.Machine.execAckStallTimeout s
  | .linkRetrainComplete => Sys2Proof.Machine.execLinkRetrainComplete s
  | .portBringUp => Sys2Proof.Machine.execPortBringUp s
  | .read => Sys2Proof.Machine.execRead s
  | .write => Sys2Proof.Machine.execWrite s
  | .atomic => Sys2Proof.Machine.execAtomic s
  | .respdata => Sys2Proof.Machine.execRespdata s
  | .respack => Sys2Proof.Machine.execRespack s
  | .resperr => Sys2Proof.Machine.execResperr s
  | .red => Sys2Proof.Machine.execRed s
  | .redb => Sys2Proof.Machine.execRedb s
  | .retry => Sys2Proof.Machine.execRetry s
  | .retryResend => Sys2Proof.Machine.execRetryResend s
  | .barrier => Sys2Proof.Machine.execBarrier s
  | .remoteTimeout => Sys2Proof.Machine.execRemoteTimeout s
  | .windowTimeout => Sys2Proof.Machine.execWindowTimeout s
  | .winbaseWrite => Sys2Proof.Machine.execWinbaseWrite s
  | .winctlWrite => Sys2Proof.Machine.execWinctlWrite s
  | .dbarWrite => Sys2Proof.Machine.execDbarWrite s
  | .bar0RegisterWrite => Sys2Proof.Machine.execBar0RegisterWrite s
  | .createContext => Sys2Proof.Machine.execCreateContext s
  | .destroyContext => Sys2Proof.Machine.execDestroyContext s
  | .bindQueue => Sys2Proof.Machine.execBindQueue s
  | .attestationReport => Sys2Proof.Machine.execAttestationReport s
  | .readDumpDescriptor => Sys2Proof.Machine.execReadDumpDescriptor s
  | .firmwareUpdate => Sys2Proof.Machine.execFirmwareUpdate s
  | .reclaimCodeHeap => Sys2Proof.Machine.execReclaimCodeHeap s
  | .mailboxCommandComplete => Sys2Proof.Machine.execMailboxCommandComplete s
  | .mailboxDataWrite => Sys2Proof.Machine.execMailboxDataWrite s
  | .barwinWrite => Sys2Proof.Machine.execBarwinWrite s
  | .bar2Access => Sys2Proof.Machine.execBar2Access s
  | .qctlWrite => Sys2Proof.Machine.execQctlWrite s
  | .qprodWrite => Sys2Proof.Machine.execQprodWrite s
  | .launchRecord => Sys2Proof.Machine.execLaunchRecord s
  | .signal => Sys2Proof.Machine.execSignal s
  | .signalCompletion => Sys2Proof.Machine.execSignalCompletion s
  | .isync => Sys2Proof.Machine.execIsync s
  | .isyncInvalidate => Sys2Proof.Machine.execIsyncInvalidate s
  | .vorxusTranslation => Sys2Proof.Machine.execVorxusTranslation s
  | .translationCommit => Sys2Proof.Machine.execTranslationCommit s
  | .gangPlacement => Sys2Proof.Machine.execGangPlacement s
  | .headWaitExpiry => Sys2Proof.Machine.execHeadWaitExpiry s
  | .gangHalt => Sys2Proof.Machine.execGangHalt s
  | .saveComplete => Sys2Proof.Machine.execSaveComplete s
  | .gangRestore => Sys2Proof.Machine.execGangRestore s
  | .overflowStrandExchange => Sys2Proof.Machine.execOverflowStrandExchange s
  | .workgroupDrainComplete => Sys2Proof.Machine.execWorkgroupDrainComplete s
  | .expansionCursorAdvance => Sys2Proof.Machine.execExpansionCursorAdvance s
  | .joinWaitTimeout => Sys2Proof.Machine.execJoinWaitTimeout s
  | .faultReplay => Sys2Proof.Machine.execFaultReplay s
  | .pageWalkComplete => Sys2Proof.Machine.execPageWalkComplete s
  | .translationOverflowReplay => Sys2Proof.Machine.execTranslationOverflowReplay s
  | .pageRequestResponse => Sys2Proof.Machine.execPageRequestResponse s
  | .fsrdoneWrite => Sys2Proof.Machine.execFsrdoneWrite s
  | .faultServiceTimeout => Sys2Proof.Machine.execFaultServiceTimeout s
  | .homeWriteApply => Sys2Proof.Machine.execHomeWriteApply s
  | .writeVisibility => Sys2Proof.Machine.execWriteVisibility s
  | .memoryOperationComplete => Sys2Proof.Machine.execMemoryOperationComplete s
  | .vcopyCompletion => Sys2Proof.Machine.execVcopyCompletion s
  | .copyRowCompletion => Sys2Proof.Machine.execCopyRowCompletion s
  | .awaitDeadline => Sys2Proof.Machine.execAwaitDeadline s
  | .waitTimeout => Sys2Proof.Machine.execWaitTimeout s
  | .emulationCommit => Sys2Proof.Machine.execEmulationCommit s
  | .timerExpiry => Sys2Proof.Machine.execTimerExpiry s
  | .sleepExpiry => Sys2Proof.Machine.execSleepExpiry s
  | .chunkCommit => Sys2Proof.Machine.execChunkCommit s
  | .replayIndexWrite => Sys2Proof.Machine.execReplayIndexWrite s
  | .clauseFetch => Sys2Proof.Machine.execClauseFetch s
  | .acqGrant => Sys2Proof.Machine.execAcqGrant s
  | .acqWaitTimeout => Sys2Proof.Machine.execAcqWaitTimeout s
  | .runAheadSplit => Sys2Proof.Machine.execRunAheadSplit s
  | .mxeRequestAccept => Sys2Proof.Machine.execMxeRequestAccept s
  | .mxePassGrant => Sys2Proof.Machine.execMxePassGrant s
  | .mxePassComplete => Sys2Proof.Machine.execMxePassComplete s
  | .assayInstall => Sys2Proof.Machine.execAssayInstall s
  | .vexpand => Sys2Proof.Machine.execVexpand s
  | .vret => Sys2Proof.Machine.execVret s
  | .vexit => Sys2Proof.Machine.execVexit s
  | .ret => Sys2Proof.Machine.execRet s
  | .exit => Sys2Proof.Machine.execExit s
  | .yield => Sys2Proof.Machine.execYield s
  | .eret => Sys2Proof.Machine.execEret s
  | .capeStep => Sys2Proof.Machine.execCapeStep s
  | .capeEnd => Sys2Proof.Machine.execCapeEnd s
  | .succ => Sys2Proof.Machine.execSucc s
  | .waitpred => Sys2Proof.Machine.execWaitpred s
  | .stallAccountClock => Sys2Proof.Machine.execStallAccountClock s
  | .fsrconsWrite => Sys2Proof.Machine.execFsrconsWrite s
  | .atsTranslationCompletion => Sys2Proof.Machine.execAtsTranslationCompletion s
  | .rejectedRecord => Sys2Proof.Machine.execRejectedRecord s
  | .unknownOp => Sys2Proof.Machine.execUnknownOp s
  | .railOutOfRegulation => Sys2Proof.Machine.execRailOutOfRegulation s

end Sys2Proof.Machine
end

