-- ==== Sys2Proof/Machine/Issue.lean ====
section
/-! DEFINITION. What the machine does by itself: the operations of other agents that are due on a clock, the picker's choice
(R81, R203), and how the pipe finds the instruction of a strand that it has picked (R188, R190, R216). -/

namespace Sys2Proof.Machine

/-! ## Operations that are due -/

/-- An operation that acts on one or two numbers. -/
def ev (i : Instr) (a : Nat := 0) (b : Nat := 0) : Event := ⟨i, { a := a, b := b }⟩

/-- The events of `l` whose condition holds. -/
def evs {α : Type} (l : List (Nat × α)) (p : Nat → α → Bool) (i : Instr) : List Event :=
  (l.filter fun x => p x.1 x.2).map fun x => ev i x.1

/-- Of the module (R12, R13, R39, R202). -/
def State.dueModule (s : State) : List Event :=
  let edge := s.mod.phase == 0 && s.mod.tick != 0
  (if edge && s.mod.tick.toNat % 65536 = 0 then [ev .throttleEvaluation] else []) ++
    (if 115 ≤ s.mod.readings.getD 1 0 && s.mxeclk ≤ 8 && !s.mod.fatal then [ev .thermalTrip] else []) ++
    (if edge && s.master && s.mod.tick.toNat % 2 ^ 20 = 0 then [ev .ticksyncPeriod] else []) ++
    (if s.mod.stopTick.any fun t => t.toNat ≤ s.mod.tick.toNat then [ev .stopOnTick] else [])

/-- Of the ports and the fabric (R27, R30, R38, R42, R43). -/
def State.dueFabric (s : State) : List Event :=
  let now := s.mod.tick.toNat
  evs s.fab.ports (fun _ x => x.st == 2) .flitTransmit ++
    evs s.fab.ports (fun _ x => x.st == 2 && !x.unacked.isEmpty && decide (x.lastAck + 65536 ≤ now)) .ackStallTimeout ++
    evs s.fab.reqs (fun _ r => r.retryAt.any (· ≤ now)) .retryResend ++
    evs s.fab.reqs (fun _ r => r.retryAt.isNone && r.port.isSome && decide (r.tick + 2 ^ 20 ≤ now)) .remoteTimeout ++
    evs s.fab.windows (fun _ w => !w.failed && w.elems.any fun e =>
      !e.2.held.isEmpty && decide (e.2.since + w.timeout * 1024 ≤ now)) .windowTimeout

/-- The operation that reads the next record of a queue (R53); a record that cannot be read, or not yet, is LAUNCH_RECORD's. -/
def recordOp (r : HeadGot) : Instr :=
  match r with
  | .data b =>
    let k := (Rec.ofBytes b).kind
    if k = 1 then .launchRecord else if k = 2 then .signal else if k = 3 then .isync else .rejectedRecord
  | _ => .launchRecord

/-- Of the headframe (R48, R51, R53). -/
def State.dueHost (s : State) : List Event :=
  (if s.mbReady then [ev .mailboxCommandComplete] else []) ++
    (s.host.queues.filterMap fun q => (s.nextRecord q.1).map fun r => ev (recordOp r) q.1) ++
    evs s.host.queues (fun _ q => q.waits.any fun w => !w.isync && s.waitOver w) .signalCompletion ++
    evs s.host.queues (fun _ q => q.waits.any fun w => w.isync && s.waitOver w) .isyncInvalidate ++
    (s.host.fsrOpen.filter fun e => decide (e.tick + (s.ctxOf e.ctx).waitLim < s.mod.tick.toNat)).map fun e =>
      ev .faultServiceTimeout e.serial

/-- Of homes, caches, engines and the MXEs (R137, R154, R155, R218, R294, R308, R319, R326). -/
def State.dueMemory (s : State) : List Event :=
  evs s.home.writes (fun i w => s.canApply i w && !s.buffered w) .homeWriteApply ++
    evs s.home.unseen (fun _ l => !l.isEmpty) .writeVisibility ++
    evs s.home.misses (fun _ l => !l.isEmpty) .pageWalkComplete ++
    evs s.ops (fun _ o => !o.external) .memoryOperationComplete ++
    evs s.copies (fun _ _ => true) .vcopyCompletion ++
    evs s.engines (fun _ _ => true) .copyRowCompletion ++
    (((s.sched.mxe.filter fun r => !r.2.ended).map fun r => quadOf (s.wgOf r.2.wg).core).eraseDups.map fun q =>
      ev (if (tfind s.sched.running q).isSome then .mxePassComplete else .mxePassGrant) q) ++
    ((s.sched.assaying.map (·.1)).eraseDups.map fun q => ev .assayInstall q)

/-- Of the placers (R76, R79, R85 to R93). -/
def State.duePlacer (s : State) : List Event :=
  let gangs := fun (st : GangSt) (i : Instr) => s.grids.flatMap fun g =>
    (g.2.gangs.filter fun k => k.2.st == st).map fun k => ev i g.1 k.1
  let period := s.mod.phase == 0 && s.mod.tick.toNat % 65536 == 0
  (if s.cands.isEmpty then []
    else [ev (if s.nextMove.1.any (·.1.back) then .gangRestore else .gangPlacement)]) ++
    (match s.sched.head with
      | some (_, _, t, _) => if t + 2 ^ 20 ≤ s.mod.tick.toNat then [ev .headWaitExpiry] else []
      | none => []) ++
    gangs .halting .gangHalt ++ gangs .saving .saveComplete ++
    (s.wgs.filter fun w => (s.strandsOf w.1).any fun x => x.2.parkedOut).map (fun w =>
      ⟨.overflowStrandExchange, { a := w.1, ok := period }⟩) ++
    evs s.wgs (fun k w => !w.drained && s.quiet k && (s.gangSt k).holds) .workgroupDrainComplete ++
    evs s.wgs (fun k w => s.gangSt k == .resident && ((w.tmexp != 0 && decide (w.tmexp ≤ s.mod.tick.toNat)) ||
      ((tget s.cores w.core coreReset).expired.contains k && s.handlerFree w.core))) .timerExpiry

/-- Of one strand. -/
def State.dueStrand (s : State) (u : Nat) (st : Strand) : List Event :=
  let now := s.mod.tick.toNat
  let here := s.gangSt st.wg == .resident && !st.parkedOut
  let when_ := fun (p : Bool) (i : Instr) => if p then [ev i u] else []
  match st.block with
  | .none =>
    when_ (here && st.clause.isNone) .clauseFetch ++ when_ (here && (s.aheadSplit u st).isSome) .runAheadSplit
  | .join _ _ _ _ since => when_ (here && since + 65536 ≤ s.mod.clock) .joinWaitTimeout
  | .expand => when_ here .expansionCursorAdvance
  | .acq m _ since =>
    when_ (here && (m ≤ s.blocks st || m - s.blocks st ≤ s.freeBlocks st.core)) .acqGrant ++
      when_ (here && since + 65536 ≤ now) .acqWaitTimeout
  | .sleep t => when_ (here && t ≤ now) .sleepExpiry
  | .await _ _ d _ =>
    when_ (here && d.any (· ≤ now)) .awaitDeadline ++
      when_ (here && d.isNone && st.waitTick + (s.ctxOf (s.ctxNo st)).waitLim < now) .waitTimeout
  | .crew _ | .accept =>
    when_ here .mxeRequestAccept ++ when_ (here && st.waitTick + (s.ctxOf (s.ctxNo st)).waitLim < now) .waitTimeout
  | .barrier .. | .capsule _ | .reply => when_ (here && st.waitTick + (s.ctxOf (s.ctxNo st)).waitLim < now) .waitTimeout
  | .parked .. => when_ (s.resolved st) .faultReplay
  | .emulate .. => when_ here .emulationCommit
  | _ => []

/-- Of the translator, and the chunks of record and replay mode (R60, R203). -/
def State.dueCode (s : State) : List Event :=
  (s.ctxs.flatMap fun c => c.2.stubs.flatMap fun x =>
    if x.2.committed then []
    else if x.2.staged.isSome then [ev .translationCommit c.1 x.1]
    else if s.strands.any fun z => z.2.block == .translate (BitVec.ofNat 64 x.1) && s.ctxNo z.2 == c.1 then
      [ev .vorxusTranslation c.1 x.1]
    else []) ++
  (s.cores.flatMap fun c => (c.2.chunks.filter fun k => k.2.closed || !s.chunkRuns c.1 k.1).map fun k => ev .chunkCommit c.1 k.1) ++
  ((s.ctxs.filter fun c => c.2.replays).filterMap fun c =>
    (s.nextEntry c.1).bind fun e =>
      if s.misplaced c.1 e.1 then some (ev .chunkCommit e.1 c.1) else none)

/-- Every operation that is due. -/
def State.due (s : State) : List Event :=
  s.dueModule ++ s.dueFabric ++ s.dueHost ++ s.dueMemory ++ s.duePlacer ++ (s.strands.flatMap fun x => s.dueStrand x.1 x.2) ++
    s.dueCode

/-! ## The picker (R81, R203, R204) -/

/-- A strand is blocked until other strands act, or for good: the picker of record mode does not wait for it (log entry 33). -/
def Block.onOthers (b : Block) : Bool :=
  match b with
  | .join .. | .barrier _ _ | .crew _ | .await _ _ _ _ | .waitpred | .acq _ _ _ | .expand | .capsule _ | .reply | .target | .ended =>
    true
  | _ => false

/-- In record and replay mode a strand's turn has come: it is the next of its core and context in ascending slot order, and
the picker waits until that one is eligible; in replay the next entry of the log names its core. -/
def State.inTurn (s : State) (st : Strand) : Bool :=
  let ctx := s.ctxNo st
  let c := s.ctxOf ctx
  if !c.chunked then true
  else
    let t := tget (tget s.cores st.core coreReset).turn ctx 1023
    let rank := fun x : Strand => (x.slot + 2047 - t) % 1024
    (s.strands.all fun x => x.2.core != st.core || s.ctxNo x.2 != ctx || x.2.parkedOut || x.2.block.onOthers ||
      s.gangSt x.2.wg != .resident || decide (rank st ≤ rank x.2)) &&
      (!c.replays || (s.nextEntry ctx).any fun e => e.1 == st.core)

/-- The candidate that issued least recently, then the lower slot (R81). -/
def leastRecent (l : List (Nat × Strand)) : Option Nat :=
  (l.foldl (fun m x => match m with
    | none => some x
    | some y => if x.2.lastIssue < y.2.lastIssue || (x.2.lastIssue == y.2.lastIssue && x.2.slot < y.2.slot) then some x
      else some y) (none : Option (Nat × Strand))).map (·.1)

/-- The lane strands that issue together with a candidate (R82, R83), none before it. -/
def fusedWith (l : List (Nat × Strand)) (u : Nat) : List Nat :=
  match l.find? fun x => x.1 == u with
  | none => []
  | some x => (fuseGroup x (l.filter fun y => y.1 != u)).map (·.1)

/-- What the picker of a core takes: one issue group for the lane pipe, and one strand for each of the other two. -/
def State.picks (s : State) (core : Nat) : List Nat :=
  let l := s.strands.filter fun x => x.2.core == core && s.eligible x.1 x.2 && s.inTurn x.2
  let lanes := l.filter fun x => x.2.isLane && x.2.lanePipe
  (leastRecent lanes).toList.flatMap (fusedWith lanes) ++
    (leastRecent (l.filter fun x => x.2.isRange && x.2.lanePipe)).toList ++
    (leastRecent (l.filter fun x => !x.2.lanePipe || x.2.isHandler)).toList

/-! ## A module that has halted (R13, R20, R202, R208) -/

/-- Nothing runs until the module is reset: it has stopped on a tick (R202), halted after a fatal event (R13, R208), or
failed its boot (R20). -/
def State.halted (s : State) : Bool := s.mod.stopped || s.mod.fatal || s.mod.failedBoot

/-- The host's requests with which it reads a dump: the mailbox's descriptor (R190) and the BAR2 window (R50). -/
def readsDump (i : Instr) : Bool :=
  match i with
  | .readDumpDescriptor | .mailboxCommandComplete | .mailboxDataWrite | .barwinWrite | .bar2Access => true
  | _ => false

/-- A halted module acts on a reset alone; after a fatal event it still answers those who read the dump. -/
def State.drops (s : State) (i : Instr) : Bool :=
  s.halted && i != .moduleReset && (s.mod.stopped || s.mod.failedBoot || !readsDump i)

/-! ## A clock (R10) -/

/-- The clock and, every fourth clock, the tick. -/
def State.advance (s : State) : State :=
  s.setMod fun m => { m with
    clock := m.clock + 1, phase := m.phase + 1, tick := if m.phase == 3 then m.tick + 1 else m.tick }

/-- Strands that waited for their set-A flags go on once those are idle (R116). -/
def State.wakeFlags (s : State) : State :=
  { s with strands := tmap s.strands fun u st => if st.block == .flags && !s.busyA u then { st with block := .none } else st }

/-- Grids whose gangs wait for a predecessor or a run of areas are placeable from the clock on which they no longer do
(R77). -/
def State.touchGrids (s : State) : State :=
  { s with grids := tmap s.grids fun _ g =>
      if g.st == .live && (g.area.isNone || !s.free_ g) then { g with since := s.mod.tick.toNat } else g }

/-- Targets of a VCALLR that wait start where one has ended (R62). -/
def State.startAll (s : State) : State :=
  (((s.strands.filter fun x => x.2.block == .target).map fun x => x.2.wg).eraseDups).foldl State.startTargets s

/-- What follows on each clock from what has happened: joins end, answers arrive, requests for a slice whose owner was out
are tried again, areas are handed out, gangs give way to predecessors, domain barriers are looked at, what the headframe has
to write goes on, images that are behind follow, and cached clauses are there. -/
def State.settleClock (s : State) : State :=
  let s := s.wakeFlags.wakeRemote.sendHeld.releaseJoins.startAll.takeReplies.touchGrids.takeRuns.yieldToPred
  let s := s.checkDomain.headSteps.imageSyncs.fetchHits
  { s with events := s.events ++ s.fab.held, fab := { s.fab with held := [] } }

/-- A CLOCK EDGE: the clock advances, what is due comes next, and the pickers choose. -/
def State.clockEdge (s : State) : State :=
  let s := s.advance.settleClock
  let s := { s with events := s.events ++ s.due, issueQ := s.busyCores.flatMap s.picks }
  s.busyCores.foldl State.account s

/-! ## Issue -/

/-- What the pipe does with a strand that the picker has chosen. -/
inductive Pick where
  /-- an instruction issues in this state, which names it -/
  | run (i : Instr) (s : State)
  /-- the step ends without an instruction -/
  | done (s : State)
  deriving DecidableEq, Repr

/-- An instruction of a strand issues; in record and replay mode in its core's chunk, which an instruction that closes a
chunk does not share (R203). -/
def State.launchIssue (s : State) (u : Nat) (st : Strand) (i : Instr) (pc : DWord) (k : BitVec 3) : Pick :=
  let ctx := s.ctxNo st
  let t := { s with cur := some ⟨u, pc, k⟩ }
  if !(s.ctxOf ctx).chunked then .run i t
  else if i.closesChunk && (s.chunkOf st.core ctx).any (fun c => c.count != 0) then
    .done (s.updChunk st.core ctx fun c => { c with closed := true })
  else .run i (t.openChunk st.core ctx)

/-- A strand that was picked: if it is still eligible, its wait reports what it covers (R190), or the instruction at its PC
issues. -/
def State.pick (s : State) (u : Nat) : Pick :=
  match tfind s.strands u with
  | none => .done s
  | some st =>
    if !s.eligible u st then .done s
    else match st.clause with
      | none => .done s
      | some c =>
        if !c.started && st.async.any c.covers then .done (s.reportAsync u c.covers)
        else match c.find st.pc with
          | .illegal pc => .done (s.takeTrap u { cls := 0x01, pc := some pc })
          | .instr i pc k => s.launchIssue u st i pc k

/-- The strand did not complete the instruction that it issued. -/
def Block.again (b : Block) : Bool :=
  match b with
  | .remote | .ats _ | .flags | .expand | .requests | .waitpred | .capsule _ | .parked _ _ _ _ | .barrier _ false => true
  | _ => false

/-- The chunk's account of an instruction that has issued: `s` the state before, `t` after (R203). An instruction that asks
another module closes the chunk: what came before it commits first, and it issues anew. -/
def State.noteChunk (s t : State) (i : Instr) : State :=
  match s.cur.bind fun c => (tfind s.strands c.uid).map fun st => (c.uid, st) with
  | none => t
  | some (u, st) =>
    let ctx := s.ctxNo st
    if !(s.ctxOf ctx).chunked then t
    else if t.fab.nextTag != s.fab.nextTag && (s.chunkOf st.core ctx).any fun c => c.count != 0 then
      { (s.updChunk st.core ctx fun c => { c with closed := true }) with cur := none }
    else
      let peer := s.fab.answers.any fun a => a.asker == .strand u
      let t := t.updCore st.core fun x => { x with turn := tset x.turn ctx st.slot }
      if (tfind t.strands u).any fun x => x.block.again then t
      else
        let most := if (t.ctxOf ctx).replays then ((t.nextEntry ctx).elim 4096 fun e => e.2.1) else 4096
        let far := t.home.writes.any fun w => w.2.core == st.core && decide (2 ^ 64 ≤ w.2.loc)
        let t := t.updChunk st.core ctx fun c => { c with
          count := c.count + 1, closed := c.closed || i.closesChunk || decide (most ≤ c.count + 1) || !c.beats.isEmpty || far || peer }
        if i.closesChunk then t.commitChunk st.core ctx else t

end Sys2Proof.Machine
end

