-- ==== Sys2Proof/Machine/Step.lean ====
section
/-! DEFINITION. One step of the machine, and where it fetches an instruction. -/

namespace Sys2Proof.Machine

/-- The first operation that waits, taken off the list: it and the state that names what it acts on. -/
def State.takeEvent (s : State) : Option (Instr × State) :=
  match s.events with
  | [] => none
  | e :: r => some (e.op, { s with events := r, arg := e.arg })

/-- An instruction of a strand acts; in record and replay mode its chunk counts it (R203). -/
def State.runInstr (i : Instr) (t : State) : Host.Outcome State Fault Refusal :=
  match exec i t with
  | .next v => .next (t.noteChunk v i)
  | .fault f => .fault f
  | .refused r => .refused r

/-- ONE STEP: a waiting operation of another agent acts; else firmware boots the module; else a strand that the pickers have
chosen issues one instruction; else a clock passes. -/
def step (s : State) : Host.Outcome State Fault Refusal :=
  match s.takeEvent with
  | some (i, t) => if s.drops i then .next t else exec i t
  | none =>
    if s.halted then .next s
    else if !s.mod.booted then exec .firmwareBoot s
    else match s.issueQ with
      | [] => .next s.clockEdge
      | u :: r => match State.pick { s with issueQ := r } u with
        | .done t => .next t
        | .run i t => t.runInstr i

/-- The words of a table word: as many as its instruction takes. -/
def placedWords (nbits w : Nat) : List Word :=
  let ws := tableWords (w % 2 ^ nbits)
  match decodeWords ws with
  | some i => ws.take (1 + i.inlineCount)
  | none => ws.take 1

/-- The kernel header of the grid that withFetchWord places: one workgroup of one warp on core 0. -/
def fetchHeader : Header :=
  { headerNone with gang := 1, vblk := 8, acqmax := 1, barwg := 16, scratch := 1024, obuf := 4096 }

/-- The grid that withFetchWord places. -/
def fetchGrid : Grid :=
  { gridNone with
    ctx := 1, nlev := 3, levels := [⟨32, 0, 0⟩, ⟨1, 0, 4⟩], hdr := fetchHeader, area := some 0x100000, st := .live
    nextGang := 1
    gangs := [(0, { st := .resident, quad := 0, placed := 0, since := 0, reqTick := 0, members := [0] })] }

/-- The strand that withFetchWord places: warp 0 whole, with a fetched clause of the words given. -/
def fetchStrand (ws : List Word) : Strand where
  wg := 0
  core := 0
  slot := 0
  borrowed := false
  split := false
  parkedOut := false
  kind := .lane 0 0xFFFFFFFF
  forms := []
  runs := []
  masks := []
  s := []
  pc := 0x10004
  clause := some { base := 0x10000, words := ws, wait := 0, setA := 0, setB := 1, yield := false, started := false, dst := [] }
  div := []
  ret := []
  frames := []
  route := []
  tile := 5
  mode := 0
  sticky := 0
  arrivals := []
  gaveWay := []
  doneLanes := 0
  doneCount := 0
  asBarw := false
  caps := none
  async := []
  park := parkNone
  block := .none
  waitTick := 0
  yieldUntil := 0
  lastIssue := 0
  issueTick := 0
  placed := 0

/-- A state whose next step issues the instruction of a table word (log entry 2): the module in service, one strand on core
0 picked, whose fetched clause holds the instruction's words. -/
def State.withFetchWord (s : State) (nbits w : Nat) : State :=
  { s with
    mod := { s.mod with booted := true, failedBoot := false, fatal := false, stopped := false }
    ctxs := [(1, ctxNone)]
    grids := [(0, fetchGrid)]
    wgs := [(0, { wgStart 0 0 0 0 0 with warps := [(0, ⟨8, []⟩)] })]
    strands := [(0, fetchStrand (placedWords nbits w))]
    ops := []
    copies := []
    engines := []
    cores := []
    home := { s.home with allocs := [⟨0, 0, 1024, 0, 0, 0, 0⟩] }
    events := []
    issueQ := [0]
    next := 1 }

end Sys2Proof.Machine
end

