-- ==== Sys2Proof/Safety.lean ====
section
/-! DEFINITION. What a safe run is, and the terms that claims use. -/

namespace Sys2Proof.Machine

/-! ## Runs -/

/-- The invariant of the model's own data: memory is in canonical form. -/
def State.Inv (s : State) : Prop := s.mem.wf

/-- The machine answers a next state to a step. -/
def State.goesOn (s : State) : Prop := ∃ t, step s = .next t

/-- No run from a state ends in a fault or a refusal. -/
def State.Safe (s : State) : Prop := ∀ n, ∃ t, Host.Core.run Sys2Proof.core n s = .next t

/-! ## One instruction -/

/-- Step has named strand `st` and its instruction `i`, which names the registers `uses`, and nothing stops it at issue
(R188 items 2 to 4). -/
abbrev State.Issues (s : State) (c : Issue) (st : Strand) (i : Instr) (uses : List Use) : Prop :=
  s.cur = some c ∧ tfind s.strands c.uid = some st ∧ s.gate c st i uses none = none

/-- The address of the instruction after the one under way. -/
def Issue.nextPc (c : Issue) (i : Instr) : DWord := c.pc + 4 * BitVec.ofNat 64 (1 + i.inlineCount)

/-- The strand as its instruction finds it. -/
def State.at_ (s : State) (st : Strand) : Strand := st.issued s.mod.clock s.mod.tick.toNat

/-- The state in which the instruction acts: its strand has issued. -/
def State.begun (s : State) (c : Issue) : State := s.updStrand c.uid fun x => x.issued s.mod.clock s.mod.tick.toNat

/-- The instruction is over: step names no strand. -/
def State.ended (s : State) : State := { s with cur := none }

/-- The state after an instruction that changes nothing but its own strand: `f`, then its place and the moment of its
issue. -/
def State.stepped (s : State) (c : Issue) (i : Instr) (f : Strand → Strand) : State :=
  { s with
    cur := none
    strands := tmod s.strands c.uid fun x => (f (s.at_ x)).goTo (c.nextPc i) s.mod.clock }

/-- The state after a control transfer of a whole strand. -/
def State.jumped (s : State) (c : Issue) (t : DWord) (f : Strand → Strand) : State :=
  { s with
    cur := none
    strands := tmod s.strands c.uid fun x => f ((s.at_ x).jump t s.mod.clock) }

/-- The state after a trap: the strand has issued, the trap is taken, and the instruction is over. -/
def State.trapped (s : State) (c : Issue) (t : Trap) : State := ((s.begun c).takeTrap c.uid t).ended

/-- `t` is `s` after a lane instruction `i` of strand `st` that gives v(r) the values `v` in the lanes where it answers
one, and adds events `ev` to the strand's flags: nothing else differs but the strand's place and moment of issue. -/
def State.LanesWritten (s t : State) (c : Issue) (st : Strand) (i : Instr) (r : Nat) (v : Nat → Option Word) (ev : Ev) : Prop :=
  { t with wgs := s.wgs } = s.stepped c i (fun x => { x with sticky := x.sticky ||| ev }) ∧
  (∀ k, k ≠ st.wg → tfind t.wgs k = tfind s.wgs k) ∧
  { t.wgOf st.wg with warps := [] } = { s.wgOf st.wg with warps := [] } ∧
  (∀ w, (tfind (t.wgOf st.wg).warps w).map (·.blocks) = (tfind (s.wgOf st.wg).warps w).map (·.blocks)) ∧
  ∀ w q j, j < 32 → (t.wgOf st.wg).lane w q j =
    if w = st.warp ∧ q = r then (v j).getD ((s.wgOf st.wg).lane w q j) else (s.wgOf st.wg).lane w q j

/-- `t` is `s` after a lane instruction `i` that gives the lanes of `act` in k(r) the bits `p`, and adds events `ev` to the
strand's flags. -/
def State.MaskWritten (s t : State) (c : Issue) (i : Instr) (r : Nat) (act : BitVec 32) (p : Nat → Bool) (ev : Ev) : Prop :=
  ∃ m : BitVec 32, (∀ j < 32, act.getLsbD j = true → m.getLsbD j = p j) ∧
    t = s.stepped c i fun x =>
      { x with masks := tset x.masks r ((x.kmask r &&& ~~~act) ||| (m &&& act)), sticky := x.sticky ||| ev }

/-! ## Memory accesses -/

/-- The address pair at a thread (R4). -/
def State.pairV (s : State) (st : Strand) (r j : Nat) : DWord := s.vreg st (r + 1) j ++ s.vreg st r j

/-- Every element of a lane access passes its checks in this module: the one of thread j lies at key j; no lane of the
strand waits for a fault of the instruction to be resolved (R195). -/
def State.Lands (s : State) (st : Strand) (acc : Acc) (ts : List Touch) (key : Nat → Nat) : Prop :=
  st.park.elems = [] ∧
    (State.checkAll (dieOf st.core) (s.who st) acc st.isRange ts s).2 = ts.map fun t => (t, .ok (.loc (key t.j)))

/-- `t` is `s` after an access of strand `c`: its own strand changed by `f`, its place and the moment of issue, and beside
that at most an operation in flight, the misses of walks and answers that have been used. -/
def State.Touched (s t : State) (c : Issue) (i : Instr) (f : Strand → Strand) : Prop :=
  { t with ops := s.ops, next := s.next, home := s.home, fab := s.fab } = s.stepped c i f ∧
  { t.home with misses := s.home.misses } = s.home ∧ { t.fab with answers := s.fab.answers } = s.fab

/-! ## Commands -/

/-- The state after an engine command `k` of `total` movements that the stream unit has taken: the clause's set-B flag is
busy, the unit holds the command, and the strand goes on. -/
def State.commanded (s : State) (c : Issue) (st : Strand) (i : Instr) (k : EngKind) (total : Nat) (arr : Option Nat) : State :=
  let x := (k.words ++ arr.toList).foldl State.watchWord ((s.begun c).flushDie (dieOf st.core))
  let flag := (st.clause.map (·.setB)).getD 15
  (State.retire { x with
    ops := tset x.ops x.next
      { flag := flag, setB := true, holders := [c.uid], wg := st.wg, warp := st.warp, dstV := [], dstS := [], res := []
        sres := [], external := true, ahead := none }
    engines := tset x.engines (x.next + 1)
      { op := x.next, uid := c.uid, wg := st.wg, core := st.core, flag := flag, names := st.names, kind := k, next := 0
        total := total, arr := arr, pc := c.pc, failed := none }
    next := x.next + 2 } c i).ended

/-- No write waits for its home, and no arrival word is watched. -/
def State.Settled (s : State) : Prop := s.home.writes = [] ∧ s.home.words = []

/-- The bytes of memory outside some ranges, each an address and a length, are the same in both states. -/
def State.SameBut (s t : State) (l : List (Nat × Nat)) : Prop :=
  ∀ a, (∀ r ∈ l, a < r.1 ∨ r.1 + r.2 ≤ a) → mget t.mem a = mget s.mem a

end Sys2Proof.Machine
end

