-- ==== Sys2Proof/Certificates/Slice0/Obligations.lean ====
section
/-! DEFINITION. The statements for the provers. -/

/-! ## Terms of the matrix statements -/

/-- The instruction gives the scales of its tiles in registers (R320, R328). -/
def Sys2Proof.Instr.givesScales : Sys2Proof.Instr → Bool
  | .mmaRs .. => true
  | .mman _ _ _ form .. => form == 1
  | _ => false

namespace Sys2Proof.Machine

/-- What a crew instruction asks for out of its leader's registers: the pass register, and for MMA.SS the address and the
bytes of the scale stream. -/
def Strand.asks (lead : Strand) : Instr → Option (BitVec 6 × DWord × Nat)
  | .mma sa _ _ _ | .mmaRs sa _ _ _ _ _ _ _ | .mmas sa _ _ _ _ | .mman sa _ _ _ _ _ _ _ _ => some (sa, 0, 0)
  | .mmaSs sa sb sc _ _ _ => some (sa, lead.dreg sb.toNat, (lead.sreg sc.toNat).toNat)
  | _ => none

/-- Rows 1 to 6 of R322 hold of a crew instruction `i` with pass word `w`: the handles are reserved with the kinds and the
formats that the instruction takes, the passes lie in both tiles, the accumulator shares no byte with them, scales in
registers cover at most four blocks, and a scale stream is aligned and of the stated length. -/
def State.RowsHold (s : State) (i : Instr) (wg : Nat) (w : Word) (addr : DWord) (n : Nat) : Prop :=
  let a := s.obRec wg (Instr.handles i).1
  let b := s.obRec wg (Instr.handles i).2.1
  let d := s.obRec wg (Instr.handles i).2.2
  let p := w.toNat % 65536
  let k0 := w.toNat / 65536
  let t0 := 32 * k0 / a.l
  let t1 := (32 * (k0 + p) - 1) / a.l
  (a.v = true ∧ b.v = true ∧ d.v = true ∧ b.kind = 1 ∧ d.kind = 2 ∧
    a.kind = match i with
      | .mman .. => 3
      | _ => 0) ∧
  pairFormat a.fmt b.fmt = some d.fmt ∧
  (p ≠ 0 ∧ k0 + p ≤ a.kb ∧ k0 + p ≤ b.kb) ∧
  (d.clash a = false ∧ d.clash b = false) ∧
  (i.givesScales = true → a.fmt ≤ 2 ∧ t1 - t0 ≤ 3) ∧
  (∀ sa sb sc ha hb hc, i = .mmaSs sa sb sc ha hb hc → addr.toNat % 16 = 0 ∧ n = 256 * (t1 - t0 + 1))

end Sys2Proof.Machine

namespace Sys2Proof.Claims

open Sys2Proof.Machine

/-- A strand at a latch that has closed: `i` is the instruction of the leader `lead`, its pass word is `w`, the crew is
`crew`, there is room, the rows of R322 hold, and the tile of an MMAS can be read (R317, R322, R325). -/
def CrewReady (x : State) (u : Nat) (i : Instr) (lead : Strand) (crew : List Nat) (w : Word) : Prop :=
  (x.strands.map (·.1)).Nodup ∧ x.home.words = [] ∧
  ∃ (st : Strand) (bit v : Nat) (sa : BitVec 6) (addr : DWord) (n : Nat),
    tfind x.strands u = some st ∧ st.block = .crew st.latchValue ∧ x.latchClosed st (x.latch st) = true ∧
    x.leaderOf st (x.latch st) = some (bit, v) ∧ tfind x.strands v = some lead ∧ lead.standing = i ∧
    crew = (x.latch st).map (·.1) ∧ x.mxeRoom lead.wg = true ∧ lead.asks i = some (sa, addr, n) ∧ w = lead.sreg sa.toNat ∧
    x.RowsHold i lead.wg w addr n ∧
    ∀ (pa sb : BitVec 6) (ha hb hc : BitVec 4), i = .mmas pa sb ha hb hc →
      let y := x.publish.tileMisses (.strand v) lead.wg (lead.dreg sb.toNat)
      ∃ d m, y.tileGet (.strand v) lead.wg (x.obRec lead.wg ha.toNat) (lead.dreg sb.toNat) = .ok d m ∧
        (tileDense (Tile.ofBytes d) m = true →
          ∃ vals, y.tileValues (.strand v) lead.wg (16 + 8 * (Tile.ofBytes d).kb) (Tile.ofBytes d) = .data vals)

/-- SALIENT or ACCZ of one strand passes its checks with pass word `w` (R324, R329). -/
def SoloReady (s : State) (i : Instr) (wg : Nat) (w : Word) : Prop :=
  (∀ sa, i = .accz sa → (s.obRec wg (w.toNat % 16)).v = true ∧ (s.obRec wg (w.toNat % 16)).kind = 2) ∧
  (∀ sa ha hb hc, i = .salient sa ha hb hc → s.salientCheck i wg w = true)

/-- A request of `total` passes has been accepted (R307): one new request and the operation whose set-B flag it holds; every
strand of the crew goes on at its next instruction, and no other strand changes. -/
def RequestTaken (x t : State) (lead : Strand) (i : Instr) (crew : List Nat) (w : Word) (total : Nat) : Prop :=
  (∃ r, tfind t.sched.mxe (x.next + 1) = some r ∧ r.wg = lead.wg ∧ r.word = (encode i).headD 0 ∧ r.inl = (encode i).getD 1 0 ∧
    r.passw = w ∧ r.done = 0 ∧ r.total = total ∧ r.op = x.next ∧ r.lastGrant = none ∧ r.ended = false) ∧
  (∀ k, k ≠ x.next + 1 → tfind t.sched.mxe k = tfind x.sched.mxe k) ∧
  (∃ o, tfind t.ops x.next = some o ∧ o.setB = true ∧ o.external = true ∧ o.holders = crew ∧
    o.flag = (lead.clause.map (·.setB)).getD 15) ∧
  (∀ k, k ≠ x.next → tfind t.ops k = tfind x.ops k) ∧ t.next = x.next + 2 ∧
  ∀ u, tfind t.strands u = (tfind x.strands u).map fun y => if u ∈ crew then y.complete x.mod.clock else y

/-! ## Terms of the uniform statements -/

/-- A uniform instruction with two 32-bit sources gives `f` of them, and nothing but its strand's destination, place and
moment of issue changes. -/
def Uni2 (op : BitVec 6 → BitVec 6 → BitVec 6 → Instr) (f : Word → Word → Word) : Prop :=
  ∀ (s : State) (c : Issue) (st : Strand) (sd sa sb : BitVec 6),
    s.Issues c st (op sd sa sb) (useS sd ++ useS sa ++ useS sb) →
    exec (op sd sa sb) s =
      .next (s.stepped c (op sd sa sb) fun x => x.setS sd.toNat (f (st.sreg sa.toNat) (st.sreg sb.toNat)))

/-- The same with one source. -/
def Uni1 (op : BitVec 6 → BitVec 6 → Instr) (f : Word → Word) : Prop :=
  ∀ (s : State) (c : Issue) (st : Strand) (sd sa : BitVec 6), s.Issues c st (op sd sa) (useS sd ++ useS sa) →
    exec (op sd sa) s = .next (s.stepped c (op sd sa) fun x => x.setS sd.toNat (f (st.sreg sa.toNat)))

/-- The same with a source and a 12-bit immediate. -/
def UniImm (op : BitVec 6 → BitVec 6 → BitVec 12 → Instr) (f : Word → BitVec 12 → Word) : Prop :=
  ∀ imm : BitVec 12, Uni1 (fun sd sa => op sd sa imm) fun a => f a imm

/-- The same on 64-bit pairs. -/
def Uni64 (op : BitVec 6 → BitVec 6 → BitVec 6 → Instr) (f : DWord → DWord → DWord) : Prop :=
  ∀ (s : State) (c : Issue) (st : Strand) (sd sa sb : BitVec 6),
    s.Issues c st (op sd sa sb) (useS sd 2 ++ useS sa 2 ++ useS sb 2) →
    exec (op sd sa sb) s =
      .next (s.stepped c (op sd sa sb) fun x => x.setD sd.toNat (f (st.dreg sa.toNat) (st.dreg sb.toNat)))

/-- A uniform floating-point instruction: without an event that MODE traps it writes `f`'s value and adds `f`'s events to
the strand's flags; with one it takes the floating-point trap, and its destination stays. -/
def UniFp (i : Instr) (sd : BitVec 6) (uses : List Use) (f : Env → Strand → Word × Ev) : Prop :=
  ∀ (s : State) (c : Issue) (st : Strand), s.Issues c st i uses →
    (trapsOn st.mode (f (s.env st) st).2 = false →
      exec i s = .next (s.stepped c i fun x =>
        { x.setS sd.toNat (f (s.env st) st).1 with sticky := x.sticky ||| (f (s.env st) st).2 })) ∧
    (trapsOn st.mode (f (s.env st) st).2 = true →
      exec i s = .next (((s.begun c).addEvents c.uid (f (s.env st) st).2).takeTrap c.uid { cls := 0x08, pc := some c.pc }).ended)

/-- A uniform instruction writes at most the uniform registers `ds`, MODE where `modes` and the flags where `flags`, and goes
on to the next instruction; nothing else that a program can read changes. -/
def UniFrame (i : Instr) (uses : List Use) (ds : List Nat) (modes flags : Bool) : Prop :=
  ∀ (s : State) (c : Issue) (st : Strand), s.Issues c st i uses → (flags = true → ∀ ev, trapsOn st.mode ev = false) →
    ∃ (t : State) (a : Strand), exec i s = .next t ∧ tfind t.strands c.uid = some a ∧
      (∀ k, k ∉ ds → a.sreg k = st.sreg k) ∧ (modes = false → a.mode = st.mode) ∧ (flags = false → a.sticky = st.sticky) ∧
      a.pc = c.pc + 4 * BitVec.ofNat 64 (1 + i.inlineCount) ∧ a.kind = st.kind ∧ a.forms = st.forms ∧ a.runs = st.runs ∧
      a.masks = st.masks ∧ a.route = st.route ∧ a.tile = st.tile ∧ a.ret = st.ret ∧ a.frames = st.frames ∧ a.div = st.div ∧
      a.arrivals = st.arrivals ∧ a.caps.map (·.held) = st.caps.map (·.held) ∧
      (∀ u, u ≠ c.uid → tfind t.strands u = tfind s.strands u) ∧
      t.wgs = s.wgs ∧ t.grids = s.grids ∧ t.ctxs = s.ctxs ∧ t.ops = s.ops ∧ t.cores = s.cores ∧ t.mod = s.mod ∧
      ∀ (w : View) (k : Nat), t.viewByte w k = s.viewByte w k

/-! ## Terms of the lane statements -/

/-- An elementwise instruction with registers `srcs` as sources, each with its route. On a lane strand where no active
lane raises an event that MODE traps, every active lane of v(vd) takes `f` of the lane's sources, and the events of all of
them enter the strand's flags. On a range strand it does nothing where its predicate is false for every thread, expands the
strand where the predicate is mixed, and with sources that all count as UNI acts once and gives UNI (R109, R112). -/
def Lane (i : Instr) (vd : BitVec 6) (srcs : List Src) (f : Env → List Word → Word × Ev) : Prop :=
  ∀ (s : State) (c : Issue) (st : Strand), s.Issues c st i (useV vd ++ srcs.flatMap fun x => st.useSrc x.1 x.2) →
    (∀ w m, st.kind = .lane w m →
      let act := m &&& st.kmask c.pred.toNat
      let r := fun j => f (s.env st) (srcs.map fun x => s.src st act x.1.toNat x.2 j)
      (∀ j < 32, act.getLsbD j → trapsOn st.mode (r j).2 = false) →
      ∃ t, exec i s = .next t ∧
        s.LanesWritten t c st i vd.toNat (fun j => if act.getLsbD j then some (r j).1 else none)
          ((lanesOf act).foldl (fun e j => e ||| (r j).2) 0)) ∧
    (∀ lo n, st.kind = .range lo n →
      (st.constPred c.pred.toNat = some false → exec i s = .next (s.stepped c i id)) ∧
      (st.constPred c.pred.toNat = none → exec i s = .next ((s.begun c).expandStrand c.uid).ended) ∧
      (st.constPred c.pred.toNat = some true → (∀ x ∈ srcs, st.uniSrc x.1.toNat x.2 = true) →
        let r := f (s.env st) (srcs.map fun x => (st.form x.1.toNat).base)
        trapsOn st.mode r.2 = false →
        exec i s = .next (s.stepped c i fun x =>
          { x with forms := tset x.forms vd.toNat (uniOf r.1), sticky := x.sticky ||| r.2 })))

/-- A format LR instruction (R211): two routed sources. -/
def LaneR (op : BitVec 6 → BitVec 6 → BitVec 6 → BitVec 2 → BitVec 2 → Instr) (f : Env → Word → Word → Word × Ev) : Prop :=
  ∀ vd va vb ra rb, Lane (op vd va vb ra rb) vd [(va, ra.toNat), (vb, rb.toNat)] fun e x => f e (x.getD 0 0) (x.getD 1 0)

/-- A format LI instruction: one routed source and the sign-extended immediate. -/
def LaneI (op : BitVec 6 → BitVec 6 → BitVec 2 → BitVec 10 → Instr) (f : Word → BitVec 10 → Word) : Prop :=
  ∀ vd va ra imm, Lane (op vd va ra imm) vd [(va, ra.toNat)] fun _ x => (f (x.getD 0 0) imm, 0)

/-- A format LT instruction: three routed sources among v0 to v31. -/
def LaneT (op : BitVec 5 → BitVec 5 → BitVec 5 → BitVec 5 → BitVec 2 → BitVec 2 → BitVec 1 → Instr)
    (f : Env → Word → Word → Word → Word × Ev) : Prop :=
  ∀ vd va vb vc ra rb rc, Lane (op vd va vb vc ra rb rc) (vd.setWidth 6)
    [(va.setWidth 6, ra.toNat), (vb.setWidth 6, rb.toNat), (vc.setWidth 6, rc.toNat)]
    fun e x => f e (x.getD 0 0) (x.getD 1 0) (x.getD 2 0)

/-- A format LX instruction with one direct source. -/
def LaneX (op : BitVec 6 → BitVec 6 → Instr) (f : Env → Word → Word × Ev) : Prop :=
  ∀ d a, Lane (op d a) d [(a, 0)] fun e x => f e (x.getD 0 0)

/-- Two pure sources. -/
def pure2 (f : Word → Word → Word) : Env → Word → Word → Word × Ev := fun _ a b => (f a b, 0)

/-- A .f32 operation on words. -/
def on32 (f : Ctl → Nat → Nat → Nat × Ev) : Env → Word → Word → Word × Ev := fun e a b =>
  (BitVec.ofNat 32 (f e.ctl32 a.toNat b.toNat).1, (f e.ctl32 a.toNat b.toNat).2)

/-- A packed operation with `n` sub-elements of `w` bits: element k of the result is `f` of the elements k, and the events
are those of every element (R175, R239). -/
def Packs (w n : Nat) (f : Nat → Nat → Nat × Ev) (a b : Word) (r : Word × Ev) : Prop :=
  (∀ k < n, (r.1.extractLsb' (w * k) w).toNat = (f (a.extractLsb' (w * k) w).toNat (b.extractLsb' (w * k) w).toNat).1 % 2 ^ w) ∧
  r.2 = (List.range n).foldl (fun e k => e ||| (f (a.extractLsb' (w * k) w).toNat (b.extractLsb' (w * k) w).toNat).2) 0

/-- A register-only instruction that keeps a range strand whole (R108): where `cond` holds of the source forms, the result
form gives every thread `f` of that thread's own values. -/
def Kept (i : Instr) (vd : BitVec 6) (rs : List (BitVec 6)) (cond : List Form → Prop) (f : List Word → Word) : Prop :=
  ∀ (s : State) (c : Issue) (st : Strand) (lo n : Nat), s.Issues c st i (useV vd ++ rs.flatMap fun x => useV x) →
    st.kind = .range lo n → st.constPred c.pred.toNat = some true → cond (rs.map fun x => st.form x.toNat) →
    ∃ r : Form, exec i s = .next (s.stepped c i fun x => { x with forms := tset x.forms vd.toNat r }) ∧
      ∀ j, lo ≤ j → r.base + r.stride * BitVec.ofNat 32 (j - lo) = f (rs.map fun x => s.vreg st x.toNat j)

/-- An instruction that expands a range strand where `cond` holds, unless its predicate is false of every thread. -/
def Expands (i : Instr) (uses : Strand → List Use) (cond : Strand → Prop) : Prop :=
  ∀ (s : State) (c : Issue) (st : Strand) (lo n : Nat), s.Issues c st i (uses st) → st.kind = .range lo n → cond st →
    (st.constPred c.pred.toNat ≠ some false → exec i s = .next ((s.begun c).expandStrand c.uid).ended) ∧
    (st.constPred c.pred.toNat = some false → exec i s = .next (s.stepped c i id))

/-- A side of a logical operation that R108 admits: UNI, all zeros or all ones. -/
def constSide (f : Form) : Prop := f.stride = 0 ∧ (f.base = 0 ∨ f.base = BitVec.allOnes 32)

/-- How often the truth of `f` changes among the numbers below `n`. -/
def changes (f : Nat → Bool) (n : Nat) : Nat := ((List.range (n - 1)).filter fun j => f j != f (j + 1)).length

/-- A lane instruction on a lane strand some of whose active lanes j raise an event, of `r` j, that MODE traps. -/
def EventTrap (i : Instr) (uses : Strand → List Use) (r : State → Strand → BitVec 32 → Nat → Ev) : Prop :=
  ∀ (s : State) (c : Issue) (st : Strand) (w : Nat) (m : BitVec 32), s.Issues c st i (uses st) → st.kind = .lane w m →
    let act := m &&& st.kmask c.pred.toNat
    let bad := (lanesOf act).filter fun j => trapsOn st.mode (r s st act j)
    bad ≠ [] →
    ∃ mask : BitVec 32, (∀ j < 32, mask.getLsbD j = decide (j ∈ bad)) ∧
      exec i s = .next (((s.begun c).addEvents c.uid ((lanesOf act).foldl (fun e j => e ||| r s st act j) 0)).takeTrap c.uid
        { cls := 0x08, who := some (32 * w + bad.headD 0, mask.toNat), pc := some c.pc }).ended

/-- An elementwise instruction that raises an event that MODE traps: in some active lanes of a lane strand, or on a range
strand whose sources all count as UNI. -/
def LaneTrap (i : Instr) (vd : BitVec 6) (srcs : List Src) (f : Env → List Word → Word × Ev) : Prop :=
  let uses := fun st : Strand => useV vd ++ srcs.flatMap fun x => st.useSrc x.1 x.2
  EventTrap i uses (fun s st act j => (f (s.env st) (srcs.map fun x => s.src st act x.1.toNat x.2 j)).2) ∧
  ∀ (s : State) (c : Issue) (st : Strand) (lo n : Nat), s.Issues c st i (uses st) → st.kind = .range lo n →
    st.constPred c.pred.toNat = some true → (∀ x ∈ srcs, st.uniSrc x.1.toNat x.2 = true) →
    let r := f (s.env st) (srcs.map fun x => (st.form x.1.toNat).base)
    trapsOn st.mode r.2 = true →
    exec i s = .next (((s.begun c).addEvents c.uid r.2).takeTrap c.uid { cls := 0x08, pc := some c.pc }).ended

/-- A lane instruction that gives each active lane j of v(d) a word with property `p`. -/
def OnLanes (i : Instr) (uses : List Use) (d : BitVec 6) (p : State → Strand → BitVec 32 → Nat → Word → Prop) : Prop :=
  ∀ (s : State) (c : Issue) (st : Strand) (w : Nat) (m : BitVec 32), s.Issues c st i uses → st.kind = .lane w m →
    let act := m &&& st.kmask c.pred.toNat
    ∃ (t : State) (v : Nat → Word), exec i s = .next t ∧
      s.LanesWritten t c st i d.toNat (fun j => if act.getLsbD j then some (v j) else none) 0 ∧
      ∀ j < 32, act.getLsbD j = true → p s st act j (v j)

/-- A lane instruction that gives each active lane's bit of k(d) the truth of `p`. -/
def OnMask (i : Instr) (uses : List Use) (d : BitVec 6) (p : State → Strand → BitVec 32 → Nat → Bool) : Prop :=
  ∀ (s : State) (c : Issue) (st : Strand) (w : Nat) (m : BitVec 32), s.Issues c st i uses → st.kind = .lane w m →
    let act := m &&& st.kmask c.pred.toNat
    ∃ t, exec i s = .next t ∧ s.MaskWritten t c i d.toNat act (fun j => p s st act j) 0

/-- The active lanes of lane j's tile, ascending (R104, R257). -/
def mates (st : Strand) (act : BitVec 32) (j : Nat) : List Nat :=
  (List.range 32).filter fun x => act.getLsbD x && x / 2 ^ st.tile.toNat == j / 2 ^ st.tile.toNat

/-- The operation over a list from its first element on, with the events of every application; 0 of none (R261). -/
def prefixOp (op : Word → Word → Word × Ev) (xs : List Word) : Word × Ev :=
  (xs.drop 1).foldl (fun r x => ((op r.1 x).1, r.2 ||| (op r.1 x).2)) (xs.headD 0, 0)

/-- The condition of VCMP (R258) and its events. -/
def compare (fn : Nat) (e : Env) (a b : Word) : Bool × Ev :=
  match fn with
  | 0 => (decide (a = b), 0)
  | 1 => (decide (a ≠ b), 0)
  | 2 => (decide (a.toInt < b.toInt), 0)
  | 3 => (decide (a.toInt ≤ b.toInt), 0)
  | 4 => (decide (a.toNat < b.toNat), 0)
  | 5 => (decide (a.toNat ≤ b.toNat), 0)
  | _ => fcmp fn e.ftz a.toNat b.toNat

/-- A lane load (R113, R282): on a lane strand of the active lanes that have not completed, on a range strand with a UNI
address of one element whose value goes to every thread (lane 32 of the operation), nothing where its predicate is false of
every thread, and an expansion otherwise. In record and replay mode a value of the host is logged too, so there the elements
lie in this module. -/
def Loads (i : Instr) (vd : BitVec 6) (sz : BitVec 3) (uses : List Use) (k : Issue → Nat) (uni : Strand → Bool)
    (addr : State → Strand → Nat → DWord) (ahead : Option (BitVec 3 × Nat)) : Prop :=
  ∀ (s : State) (c : Issue) (st : Strand) (key : Nat → Nat), s.Issues c st i uses →
    let n := szBytes sz
    let near := fun ts : List Touch => s.chunkOf st.core (s.ctxNo st) = none ∨ ∀ x ∈ ts, key x.j < 2 ^ 64
    let flies := fun (ts : List Touch) (lane : Nat → Nat) (run : Option Ahead) =>
      ∃ (t : State) (res : List (Nat × Nat × Word)), exec i s = .next t ∧
        t.ops = tset s.ops s.next
          { flag := (st.clause.map (·.setA)).getD 15, setB := false, holders := [c.uid], wg := st.wg, warp := st.warp
            dstV := (List.range (szRegs sz)).map (vd.toNat + ·), dstS := [], res := res, sres := [], external := false
            ahead := run } ∧
        (∀ (j r : Nat) (w : Word), (j, r, w) ∈ res ↔ ∃ x ∈ ts, lane x.j = j ∧
          ∃ q, r = vd.toNat + q ∧ (extend sz (s.view (st.viewAt x.j) (key x.j) n))[q]? = some w) ∧
        s.Touched t c i fun x => { x with clause := x.clause.map fun y =>
          { y with dst := y.dst ++ (List.range (szRegs sz)).map fun q => (1, vd.toNat + q) } }
    (∀ w m, st.kind = .lane w m →
      let ts := st.laneTouches (k c) n (addr s st)
      s.Lands st .read ts key → near ts → flies ts id (ahead.map fun a => ⟨a.1, a.2, m &&& st.kmask (k c)⟩)) ∧
    (∀ lo m, st.kind = .range lo m →
      (st.constPred (k c) = some false → exec i s = .next (s.stepped c i id)) ∧
      (st.constPred (k c) = none → exec i s = .next ((s.begun c).expandStrand c.uid).ended)) ∧
    (∀ lo m, st.kind = .range lo m → st.constPred (k c) = some true →
      (uni st = true → s.Lands st .read [⟨lo, addr s st lo, n⟩] key → near [⟨lo, addr s st lo, n⟩] →
        flies [⟨lo, addr s st lo, n⟩] (fun _ => 32) none) ∧
      (uni st = false → exec i s = .next ((s.begun c).expandStrand c.uid).ended))

/-- A control transfer of a whole strand to `t`, which also changes the strand by `f` (R222): a target whose word is no
clause header, or that is not a multiple of 4, traps instead; a word that lies in another module, or waits for a host
translation, is awaited first. -/
def Transfers (i : Instr) (s : State) (c : Issue) (st : Strand) (uses : List Use) (t : DWord) (f : Strand → Strand) : Prop :=
  s.Issues c st i uses →
    let awaited := (s.begun c).awaitTargets c (s.at_ st) [t]
    (∀ x, awaited = some x → exec i s = .next x.ended) ∧
    (awaited = none →
      (s.badTarget c.uid st t = false → exec i s = .next ((s.jumped c t f).clearAnswers (.strand c.uid))) ∧
      (s.badTarget c.uid st t = true → exec i s =
        .next (((s.begun c).clearAnswers (.strand c.uid)).takeTrap c.uid { cls := 0x03, pc := some c.pc }).ended))

/-- Split strands that a strand's workgroup has (R70). -/
def splitsOf (s : State) (st : Strand) : Nat := ((s.strandsOf st.wg).filter (·.2.split)).length

/-- A strand without busy set-A flags or frames may split in `n` with no entry of its workgroup spilled (R116, R117). -/
def MaySplit (s : State) (c : Issue) (st : Strand) (n : Nat) : Prop :=
  c.uid < s.next ∧ s.busyA c.uid = false ∧ st.frames = [] ∧ (tfind s.wgs st.wg).isSome ∧
  (∀ x ∈ s.strands, x.2.wg = st.wg → x.2.div.length ≤ 4) ∧
  (st.div.length + n ≤ 4 ∨ st.div.length ≤ 3 ∧ splitsOf s st + n ≤ 33)

/-- What a split into `p` more strands keeps: every other strand, every byte and every warp; a busy flag of the parent is
busy in each new strand too (R116), and the workgroup's next group number is one more. -/
def SplitFrame (s t : State) (c : Issue) (st : Strand) (p : Nat) : Prop :=
  (∀ u, u ≠ c.uid → u < s.next ∨ s.next + p ≤ u → tfind t.strands u = tfind s.strands u) ∧
  t.ops = (tmap s.ops fun _ o =>
    if o.holders.contains c.uid then { o with holders := o.holders ++ (List.range p).map (s.next + ·) } else o) ∧
  (t.wgOf st.wg).warps = (s.wgOf st.wg).warps ∧ (t.wgOf st.wg).group = (s.wgOf st.wg).group + 1 ∧ t.mem = s.mem

/-- A child of a strand: its own PC, clause and stack, and the rest as the parent had it (R114). -/
def ChildOf (st a : Strand) (pc : DWord) (cl : Option Clause) (div : List DivEntry) : Prop :=
  a.pc = pc ∧ a.clause = cl ∧ a.div = div ∧ a.block = .none ∧ a.wg = st.wg ∧ a.s = st.s ∧ a.mode = st.mode ∧
  a.ret = st.ret ∧ a.route = st.route ∧ a.tile = st.tile

/-- A lane strand of warp `w` splits into `parts`, each its lanes, PC and clause (R114, R115): the first keeps the strand,
`p` more have strands of their own, and the rest wait in DEFER entries, the earliest on top. -/
def LaneSplit (s t : State) (c : Issue) (st : Strand) (w : Nat) (tag : BitVec 4) (parts : List (BitVec 32 × DWord × Option Clause))
    (g : BitVec 32 → DivEntry) (live : BitVec 8) : Prop :=
  ∃ p, p < parts.length ∧ SplitFrame s t c st p ∧
    (splitsOf s st + parts.length ≤ 33 → p + 1 = parts.length) ∧ (s.slotFor st.wg false false = none → p = 0) ∧
    ∀ n ≤ p, ∃ m pc cl a, parts[n]? = some (m, pc, cl) ∧ tfind t.strands (if n = 0 then c.uid else s.next + (n - 1)) = some a ∧
      a.kind = .lane w m ∧ a.masks = st.masks ∧
      ChildOf st a pc cl (if n = 0 then (parts.drop (p + 1)).map (fun x => deferEntry tag x.1 x.2.1 x.2.2 (s.at_ st) live) ++ g m :: st.div
        else g m :: st.div.map DivEntry.emptied)

/-- A range strand [lo, lo + n) splits into the runs `sp` (offset, length, outcome), the first keeping the strand, each with
the values and predicates its threads had (R114, R107, R111). -/
def RangeSplit (s t : State) (c : Issue) (st : Strand) (lo : Nat) (g : DivEntry) (sp : List (Nat × Nat × Nat)) (dest : Nat → DWord) :
    Prop :=
  SplitFrame s t c st (sp.length - 1) ∧
  ∀ i o n k, sp[i]? = some (o, n, k) → ∃ a, tfind t.strands (if i = 0 then c.uid else s.next + (i - 1)) = some a ∧
    a.kind = .range (lo + o) n ∧ ChildOf st a (dest k) none (g :: if i = 0 then st.div else st.div.map DivEntry.emptied) ∧
    (∀ r j, lo + o ≤ j → t.vreg a r j = s.vreg st r j) ∧
    ∀ r j, r ≠ 0 → j < n → runsAt j (a.krun r) = runsAt (o + j) (st.krun r)

/-- A BRANCH whose outcomes differ (R114, R115): `num` numbers a lane's outcome and `sp` the runs of a range strand's;
outcome k goes to `target k`, or falls through. -/
def Diverges (i : Instr) (uses : List Use) (tag : BitVec 3) (num : State → Strand → Nat → Nat)
    (sp : State → Strand → List (Nat × Nat × Nat)) (target : Issue → Nat → Option DWord) : Prop :=
  ∀ (s : State) (c : Issue) (st : Strand), s.Issues c st i uses →
    let fall := (st.clause.map Clause.stop).getD (st.pc + 4)
    let dest := fun k => (target c k).getD fall
    let g := groupEntry (tag.setWidth 4) (s.wgOf st.wg).group 0 st.depth 0
    let good := fun ks : List Nat => (s.begun c).awaitTargets c (s.at_ st) (ks.filterMap (target c)) = none ∧
      ∀ k ∈ ks, ∀ a, target c k = some a → (s.begun c).badTarget c.uid (s.at_ st) a = false
    let held := ((s.begun c).updStrand c.uid fun x => { x with block := .flags }).ended
    (∀ w m, st.kind = .lane w m →
      let ks := ((lanesOf m).map (num s st)).eraseDups
      2 ≤ ks.length → good ks →
      (s.busyA c.uid = true → exec i s = .next held) ∧
      (MaySplit s c st ks.length → ∃ t, exec i s = .next t ∧
        LaneSplit s t c st w (tag.setWidth 4)
          (ks.map fun k => (maskWhere (lanesOf m) fun j => num s st j == k, dest k, none)) (fun _ => g) 0)) ∧
    ∀ lo n, st.kind = .range lo n →
      let runs := sp s st
      (3 < runs.length → exec i s = .next ((s.begun c).expandStrand c.uid).ended) ∧
      (2 ≤ runs.length → runs.length ≤ 3 → good (runs.map (·.2.2)) →
        (s.busyA c.uid = true → exec i s = .next held) ∧
        (MaySplit s c st 1 → ∃ t, exec i s = .next t ∧
          (RangeSplit s t c st lo g runs dest ∨ t = ((s.begun c).expandStrand c.uid).ended) ∧
          (s.slotFor st.wg true false = none → t = ((s.begun c).expandStrand c.uid).ended) ∧
          (splitsOf s st + runs.length ≤ 33 →
            ((s.strandsOf st.wg).filter fun x => x.2.split && x.2.isRange).length + runs.length ≤ 17 →
            s.rangesOf st.wg + runs.length ≤ (s.gridAt st).forms + 1 → RangeSplit s t c st lo g runs dest)))

/-! ## Terms of floating point (R164, R169 to R172) -/

/-- The exponent field of a bit pattern. -/
def expOf (f : Fmt) (x : Nat) : Nat := x / 2 ^ f.fw % 2 ^ f.ew

/-- The sign bit is set. -/
def negative (f : Fmt) (x : Nat) : Bool := x / 2 ^ (f.ew + f.fw) % 2 == 1

/-- A NaN pattern. -/
def isNan (f : Fmt) (x : Nat) : Bool :=
  if f.hasInf then expOf f x == 2 ^ f.ew - 1 && x % 2 ^ f.fw != 0 else f == .e4m3 && x % 128 == 127

/-- A signalling NaN: its quiet bit is clear. -/
def isSignalling (f : Fmt) (x : Nat) : Bool := f.hasInf && isNan f x && x / 2 ^ (f.fw - 1) % 2 == 0

/-- An infinity. -/
def isInf (f : Fmt) (x : Nat) : Bool := f.hasInf && expOf f x == 2 ^ f.ew - 1 && x % 2 ^ f.fw == 0

/-- A pattern of the format with a number as value. -/
abbrev isNum (f : Fmt) (x : Nat) : Prop := x < 2 ^ f.width ∧ isNan f x = false ∧ isInf f x = false

/-- The value of such a pattern (R164). -/
def num (f : Fmt) (x : Nat) : ℚ :=
  (if negative f x then -1 else 1) * (x % 2 ^ f.fw + if expOf f x = 0 then 0 else 2 ^ f.fw : Nat) *
    2 ^ ((max 1 (expOf f x) : Int) - f.bias - f.fw)

/-- The value that an operand has: under FTZ a subnormal is zero (R170). -/
def numIn (f : Fmt) (ftz : Bool) (x : Nat) : ℚ := if ftz && expOf f x == 0 then 0 else num f x

/-- The largest finite value. -/
def maxOf (f : Fmt) : ℚ := f.top.1 * 2 ^ f.top.2

/-- `y` is the multiple of 2^q to which the rounding of RND takes `v` (R169). -/
def Nearest (rnd : Nat) (q : Int) (v y : ℝ) : Prop :=
  ∃ n : Int, y = n * 2 ^ q ∧ |y - v| < 2 ^ q ∧
    match rnd with
    | 0 => 2 * |y - v| ≤ 2 ^ q ∧ (2 * |y - v| = 2 ^ q → n % 2 = 0)
    | 1 => |y| ≤ |v|
    | 2 => y ≤ v
    | _ => v ≤ y

/-- `r` holds the exact result `v` rounded once to a format, with the rules of overflow and of subnormals, and its events;
`zero`: the sign of an exact zero (R169 to R171). -/
def RoundsTo (f : Fmt) (c : Ctl) (v : ℝ) (zero : Bool) (r : Nat × Ev) : Prop :=
  (v = 0 → r = (f.sign zero, 0)) ∧
  ∀ (t : Int) (u y : ℝ), 2 ^ t ≤ |v| → |v| < 2 ^ (t + 1) → Nearest c.rnd (t - f.fw) v u →
    Nearest c.rnd (max (t - f.fw) (f.emin - f.fw)) v y →
    let sign := f.sign (decide (v < 0))
    let tiny := |u| < 2 ^ f.emin
    (c.ftz = true → tiny → r = (sign, evUF ||| evNX)) ∧
    (c.ftz = false ∨ ¬ tiny →
      (maxOf f < |y| → r =
        if c.sat = true ∨ f = .e2m1 then (sign + f.topBits, evOF ||| evNX ||| evSA)
        else if f = .e4m3 then (sign + 0x7F, evOF ||| evNX)
        else (sign + (if c.rnd = 0 ∨ c.rnd = 2 ∧ v < 0 ∨ c.rnd = 3 ∧ 0 < v then f.infBits else f.topBits), evOF ||| evNX)) ∧
      (|y| ≤ maxOf f → isNum f r.1 ∧ negative f r.1 = decide (v < 0) ∧ (num f r.1 : ℝ) = y ∧
        r.2 = (if y = v then 0 else evNX) ||| if tiny ∧ y ≠ v then evUF else 0))

/-- The sign of an exact zero sum of terms with these signs (R236). -/
def zeroSign (rnd : Nat) (l : List Bool) : Bool := l.all id || (l.any id && rnd == 2)

/-- The events of NaN operands (R172). -/
def nanEv (f : Fmt) (l : List Nat) : Ev := evNI ||| if l.any (isSignalling f) then evNV else 0

/-- A NaN with its quiet bit set. -/
def quieted (f : Fmt) (x : Nat) : Nat := if f.hasInf && x / 2 ^ (f.fw - 1) % 2 == 0 then x + 2 ^ (f.fw - 1) else x

/-- Spans that are the maximal runs of `f`, from offset 0 on. -/
def MaximalRuns (f : Nat → Nat) (sp : List (Nat × Nat × Nat)) : Prop :=
  (∀ x, sp.head? = some x → x.1 = 0) ∧ (∀ x ∈ sp, 0 < x.2.1 ∧ ∀ i, x.1 ≤ i → i < x.1 + x.2.1 → f i = x.2.2) ∧
  ∀ i x y, sp[i]? = some x → sp[i + 1]? = some y → y.1 = x.1 + x.2.1 ∧ x.2.2 ≠ y.2.2

end Sys2Proof.Claims

open Sys2Proof Sys2Proof.Machine Sys2Proof.Claims

/-! ## Encoding and the step -/

/-- Words written out from the encoding tables of R211, R214, R223 and R224 decode to the instructions they stand for, one
or two of each class. -/
def Obligations.WordsOfTheSpecDecode : Prop :=
  decodeWords [0xA018002A] = some (.smovi 6 0x2A) ∧
  decodeWords [0xA5000301] = some (.mode 3 1) ∧
  decodeWords [0xA4000003] = some (.part 3) ∧
  decodeWords [0xA3012001] = some (.route 0 1 0 1 0 1) ∧
  decodeWords [0xE1900000] = some (.tick 16) ∧
  decodeWords [0xE1C90000] = some (.sleep 9) ∧
  decodeWords [0b0000_000000_000001_000010_000011_00_00] = some (.vadd 1 2 3 0 0) ∧
  decodeWords [0b0001_0000_000101_000110_01_1111111111] = some (.vaddi 5 6 1 0x3FF) ∧
  decodeWords [0b0010_001_00001_00010_00011_00100_00_01_1] = some (.vfmaF32 1 2 3 4 0 1 1) ∧
  decodeWords [0b0011_0001_000111_001000_010_100_111111] = some (.vst 7 8 2 4 0x3F) ∧
  decodeWords [0b0100_000000_000001_000010_000011_0010] = some (.vcmp 1 2 3 2) ∧
  decodeWords [0b0101_0000_011_010_111111111111111110] = some (.vbr 3 2 0x3FFFE) ∧
  decodeWords [0b0110_000000_000100_000000_000000_0001, 0xDEADBEEF] = some (.vmovl 4 0xDEADBEEF) ∧
  decodeWords [0b1000_000000_000101_000110_000111_0000] = some (.sadd 5 6 7) ∧
  decodeWords [0b1001_0000_000101_000110_100000000000] = some (.saddi 5 6 0x800) ∧
  decodeWords [0b1011_0000_000100_000110_100_000000010] = some (.sld 4 6 4 2) ∧
  decodeWords [0b1100_0110_000000000000000000000000] = some .exit ∧
  decodeWords [0b1101_010010_000010_000100_000110_0000] = some (.capb 2 4 6) ∧
  decodeWords [0b1110_000000_001_0011_000000000000000] = some (.bara 1 3) ∧
  decodeWords [0x70000000] = none ∧ decodeWords [0xF0000000] = none

/-- DECODE UNDOES ENCODE: the bytes of a well-formed instruction, whatever bytes follow, decode to it. -/
def Obligations.DecodingEncodedBytes : Prop :=
  ∀ (i : Instr) (r : List Byte), i.wf = true → encode i ≠ [] → decode ((encode i).flatMap bytesOfWord ++ r) = some i

/-- EVERY WORD HAS ONE MEANING: what decodes to an instruction begins with that instruction's own words, so no bit of an
encoding is ignored. -/
def Obligations.DecodedWordsAreTheEncoding : Prop :=
  ∀ (ws : List Word) (i : Instr), decodeWords ws = some i → ∃ r, ws = encode i ++ r

/-- A STEP RUNS THE DECODED INSTRUCTION. With no operation of another agent waiting, a module in service whose pickers have
chosen an eligible strand runs what the fetched words at its PC decode to: without a prefix, unpredicated; with one, the
instruction after it under its mask (R220). In record and replay mode the instruction runs in its core's chunk. -/
def Obligations.StepRunsTheDecodedInstruction : Prop :=
  ∀ (s : State) (u : Nat) (r : List Nat) (st : Strand) (k : Clause) (i : Instr),
    s.events = [] → s.halted = false → s.mod.booted = true → s.issueQ = u :: r → tfind s.strands u = some st →
    s.eligible u st = true → st.clause = some k → (k.started = true ∨ st.async.any k.covers = false) →
    let ws := k.wordsFrom st.pc
    let runs := fun (c : Issue) =>
      ((s.ctxOf (s.ctxNo st)).chunked = false → step s = exec i { s with issueQ := r, cur := some c }) ∧
      ((s.ctxOf (s.ctxNo st)).chunked = true →
        (i.closesChunk = false ∨ (s.chunkOf st.core (s.ctxNo st)).all (fun k => k.count == 0) = true) →
        step s = State.runInstr i (State.openChunk { s with issueQ := r, cur := some c } st.core (s.ctxNo st)))
    (prefixOf (ws.headD 0) = none → decodeWords ws = some i → runs ⟨u, st.pc, 0⟩) ∧
    (∀ p, prefixOf (ws.headD 0) = some p → takesPrefix ((ws.drop 1).headD 0) = true → decodeWords (ws.drop 1) = some i →
      runs ⟨u, st.pc + 4, p⟩)

/-- The fetch fills a clause with the words that memory holds (R57, R215, R219): a strand without a clause whose header and
words are read takes them, and stands at the first word. The words that the instruction cache does not hold are the four
bytes at the translated address. -/
def Obligations.ClauseFetchReadsMemory : Prop :=
  (∀ (s : State) (st : Strand) (h : Word) (ws : List Word),
    tfind s.strands s.arg.a = some st → st.clause = none → st.block = .none →
    (tfind (s.ctxOf (s.ctxNo st)).stubs st.pc.toNat).any (!·.committed) = false →
    let n := (h.extractLsb' 24 4).toNat + 1
    let x := s.fetchMisses st st.pc 1
    x.fetchWords s.arg.a st 1 st.pc 0 = .ok (some [h]) → isHeader h = true → h.extractLsb' 0 3 = 0 →
    (x.fetchMisses st (st.pc + 4) n).fetchWords s.arg.a st n (st.pc + 4) 1 = .ok (some ws) →
    ∃ t st', exec .clauseFetch s = .next t ∧ t.mem = s.mem ∧ tfind t.strands s.arg.a = some st' ∧ st'.pc = st.pc + 4 ∧
      st'.clause = some
        { base := st.pc, words := ws, wait := h.extractLsb' 12 12, setA := h.extractLsb' 8 4, setB := h.extractLsb' 4 4
          yield := h.getLsbD 3, started := false, dst := [] } ∧
      { st' with pc := st.pc, clause := none } = st) ∧
  ∀ (s : State) (u : Nat) (st : Strand) (pc : DWord) (n k : Nat),
    (s.home.icache.find? fun e => e.1 == s.ctxNo st && e.2.1 == pc.toNat) = none →
    s.resolve (dieOf st.core) (s.who st) .fetch pc 4 = .ok (.loc k) →
    s.fetchWord u st pc n = .ok (some (BitVec.ofNat 32 (leNat (mread s.mem k 4))))

/-! ## Reset, memory, and the module's stops -/

/-- WHAT RESET LEAVES of the values that the spec states: MODCAP with STACKS 12 and DIES 0b1111 and its boot fields zero
(R22), TWCFG zero (R33), the tick at zero (R24), every port in STATE 1 (R31), no grid, no context. -/
def Obligations.ResetLeavesTheStatedValues : Prop :=
  State.reset.mod.tick = 0 ∧ State.reset.mod.modcap.extractLsb' 26 4 = 12 ∧ State.reset.mod.modcap.extractLsb' 13 4 = 0xF ∧
  State.reset.mod.modcap.extractLsb' 8 5 = 0 ∧ State.reset.mod.twcfg = 0 ∧ State.reset.mod.booted = false ∧
  (∀ p, (State.reset.port p).st = 1) ∧ (∀ n, tfind State.reset.ctxs n = none) ∧ State.reset.grids = [] ∧
  State.reset.strands = [] ∧ State.reset.events = []

/-- The memory of the machine after reset is in canonical form. -/
def Obligations.ResetMemoryIsCanonical : Prop := State.reset.Inv

/-- EVERY STEP KEEPS MEMORY IN CANONICAL FORM: addresses strictly rising, no entry equal to what an unlisted address reads
as. -/
def Obligations.EveryStepKeepsMemoryCanonical : Prop := ∀ s t, s.Inv → step s = .next t → t.Inv

/-- A module that has stopped on a tick, halted after a fatal event or failed its boot does nothing more (R202, R208, R20):
with no operation waiting a step changes nothing, and a waiting operation other than a reset is dropped; but after a fatal
event alone the host still reads the dump's descriptor and the window onto memory (R190; log entry 40). -/
def Obligations.StoppedModuleStandsStill : Prop :=
  ∀ s : State, s.halted = true →
    (s.events = [] → step s = .next s) ∧
    (∀ e r, s.events = e :: r → e.op ≠ .moduleReset →
      (s.mod.stopped = true ∨ s.mod.failedBoot = true ∨ readsDump e.op = false → step s = .next { s with events := r, arg := e.arg }) ∧
      (s.mod.stopped = false → s.mod.failedBoot = false →
        e.op = .readDumpDescriptor ∨ e.op = .mailboxCommandComplete ∨ e.op = .mailboxDataWrite ∨ e.op = .barwinWrite ∨ e.op = .bar2Access →
        step s = exec e.op { s with events := r, arg := e.arg })) ∧
    (∀ e r, s.events = e :: r → e.op = .moduleReset →
      ∃ t, step s = .next t ∧ t.halted = false ∧ t.mod.tick = 0 ∧ t.strands = [])

/-! ## Uniform instructions -/

/-- The integer, logic, shift and comparison results of R333 and R335, with the frame: nothing but the destination register
and the strand's place and moment of issue changes.
64-bit results (R333, R335) and bit counts: the pairs are whole 64-bit values, SMULW is the whole unsigned product,
SPOPC counts the set bits and SCLZ the zeros above the highest set bit. -/
def Obligations.UniformIntegerResults : Prop :=
  (Uni2 .sadd (fun a b => a + b) ∧ Uni2 .ssub (fun a b => a - b) ∧ Uni2 .smul (fun a b => a * b) ∧
  Uni2 .smulhI32 (fun a b => BitVec.ofInt 32 (a.toInt * b.toInt / 2 ^ 32)) ∧
  Uni2 .smulhN32 (fun a b => BitVec.ofNat 32 (a.toNat * b.toNat / 2 ^ 32)) ∧
  Uni2 .sminI32 (fun a b => if a.toInt < b.toInt then a else b) ∧
  Uni2 .sminN32 (fun a b => if a.toNat < b.toNat then a else b) ∧
  Uni2 .smaxI32 (fun a b => if a.toInt < b.toInt then b else a) ∧
  Uni2 .smaxN32 (fun a b => if a.toNat < b.toNat then b else a) ∧
  Uni2 .sand (fun a b => a &&& b) ∧ Uni2 .sor (fun a b => a ||| b) ∧ Uni2 .sxor (fun a b => a ^^^ b) ∧
  Uni2 .sshl (fun a b => if 32 ≤ b.toNat then 0 else a <<< b.toNat) ∧
  Uni2 .sshr (fun a b => if 32 ≤ b.toNat then 0 else a >>> b.toNat) ∧
  Uni2 .ssar (fun a b => if 32 ≤ b.toNat then (if a.toInt < 0 then BitVec.allOnes 32 else 0) else a.sshiftRight b.toNat) ∧
  (∀ fn : BitVec 4, Uni2 (fun sd sa sb => .scmp sd sa sb fn) fun a b =>
    if (match fn.toNat with
      | 0 => decide (a = b)
      | 1 => decide (a ≠ b)
      | 2 => decide (a.toInt < b.toInt)
      | 3 => decide (a.toInt ≤ b.toInt)
      | 4 => decide (a.toNat < b.toNat)
      | _ => decide (a.toNat ≤ b.toNat)) then 1 else 0) ∧
  (∀ (s : State) (c : Issue) (st : Strand) (sd sa sb : BitVec 6),
    s.Issues c st (.ssel sd sa sb) (useS sd ++ useS sa ++ useS sb) →
    exec (.ssel sd sa sb) s = .next (s.stepped c (.ssel sd sa sb) fun x =>
      x.setS sd.toNat (if st.sreg sd.toNat ≠ 0 then st.sreg sa.toNat else st.sreg sb.toNat))) ∧
  Uni1 .smov (fun a => a) ∧
  UniImm .saddi (fun a i => a + i.signExtend 32) ∧ UniImm .smuli (fun a i => a * i.signExtend 32) ∧
  UniImm .sandi (fun a i => a &&& i.signExtend 32) ∧ UniImm .sori (fun a i => a ||| i.signExtend 32) ∧
  UniImm .sxori (fun a i => a ^^^ i.signExtend 32) ∧
  UniImm .sshli (fun a i => a <<< i.toNat) ∧ UniImm .sshri (fun a i => a >>> i.toNat) ∧
  UniImm .ssari (fun a i => a.sshiftRight i.toNat) ∧
  UniImm .sltiI32 (fun a i => if a.toInt < i.toInt then 1 else 0) ∧
  UniImm .sltiN32 (fun a i => if a.toNat < (i.signExtend 32).toNat then 1 else 0) ∧
  UniImm .seqi (fun a i => if a = i.signExtend 32 then 1 else 0)) ∧
  (Uni64 .sadd64 (fun a b => a + b) ∧ Uni64 .ssub64 (fun a b => a - b) ∧
  (∀ (s : State) (c : Issue) (st : Strand) (sd sa sb : BitVec 6),
    s.Issues c st (.smulw sd sa sb) (useS sd 2 ++ useS sa ++ useS sb) →
    exec (.smulw sd sa sb) s = .next (s.stepped c (.smulw sd sa sb) fun x =>
      x.setD sd.toNat (BitVec.ofNat 64 ((st.sreg sa.toNat).toNat * (st.sreg sb.toNat).toNat)))) ∧
  (∀ (s : State) (c : Issue) (st : Strand) (sd sa : BitVec 6) (imm : BitVec 12),
    s.Issues c st (.sadd64i sd sa imm) (useS sd 2 ++ useS sa 2) →
    exec (.sadd64i sd sa imm) s = .next (s.stepped c (.sadd64i sd sa imm) fun x =>
      x.setD sd.toNat (st.dreg sa.toNat + imm.signExtend 64))) ∧
  (∀ (x : Strand) (r k : Nat) (v : DWord), (x.setD r v).dreg r = v ∧
    (k ≠ r → k ≠ r + 1 → (x.setD r v).sreg k = x.sreg k)) ∧
  Uni1 .spopc (fun a => BitVec.ofNat 32 ((List.range 32).countP fun k => a.getLsbD k)) ∧
  ∃ clz : Word → Word, Uni1 .sclz clz ∧
    ∀ a, (a = 0 → clz a = 32) ∧
      (a ≠ 0 → (clz a).toNat < 32 ∧ a.getLsbD (31 - (clz a).toNat) = true ∧
        ∀ k, 31 - (clz a).toNat < k → a.getLsbD k = false))

/-- Division (R334): truncates toward zero, a remainder takes the sign of the dividend, a zero divisor gives all ones and
the dividend, the one overflow gives 0x8000_0000 and 0; no flag changes and nothing traps. -/
def Obligations.UniformDivisionTruncates : Prop :=
  Uni2 .sdivN32 (fun a b => if b = 0 then 0xFFFFFFFF else BitVec.ofNat 32 (a.toNat / b.toNat)) ∧
  Uni2 .sremN32 (fun a b => if b = 0 then a else BitVec.ofNat 32 (a.toNat % b.toNat)) ∧
  Uni2 .sdivI32 (fun a b => if b = 0 then 0xFFFFFFFF else BitVec.ofInt 32 (a.toInt.tdiv b.toInt)) ∧
  Uni2 .sremI32 (fun a b => if b = 0 then a else BitVec.ofInt 32 (a.toInt.tmod b.toInt)) ∧
  BitVec.ofInt 32 ((0x80000000 : Word).toInt.tdiv (0xFFFFFFFF : Word).toInt) = 0x80000000 ∧
  BitVec.ofInt 32 ((0x80000000 : Word).toInt.tmod (0xFFFFFFFF : Word).toInt) = 0

/-- Constants and MODE (R336): SMOVI, SHII, SADDPC and MODE, SMOVI then SHII makes any 32-bit value, an odd destination of
SADDPC and a MODE mask with bit 3 are illegal, a MODE word with sd or bits 17:16 not zero is no instruction, and the two example
words decode. -/
def Obligations.UniformConstants : Prop :=
  (∀ (s : State) (c : Issue) (st : Strand) (sd : BitVec 6) (imm : BitVec 18),
    (s.Issues c st (.smovi sd imm) (useS sd) →
      exec (.smovi sd imm) s = .next (s.stepped c (.smovi sd imm) fun x => x.setS sd.toNat (imm.signExtend 32))) ∧
    (s.Issues c st (.shii sd imm) (useS sd) →
      exec (.shii sd imm) s = .next (s.stepped c (.shii sd imm) fun x =>
        x.setS sd.toNat ((imm.setWidth 32 <<< 14) ||| (st.sreg sd.toNat &&& 0x3FFF)))) ∧
    (s.Issues c st (.saddpc sd imm) (useS sd 2) →
      exec (.saddpc sd imm) s = .next (s.stepped c (.saddpc sd imm) fun x =>
        x.setD sd.toNat (c.pc + 4 * imm.signExtend 64)))) ∧
  (∀ (s : State) (c : Issue) (st : Strand) (mask value : BitVec 8), s.Issues c st (.mode mask value) [] →
    exec (.mode mask value) s = .next (s.stepped c (.mode mask value) fun x =>
      { x with mode := (x.mode &&& ~~~mask) ||| (value &&& mask) })) ∧
  (∀ v : Word, ((v.extractLsb' 14 18).setWidth 32 <<< 14) |||
    (((v.extractLsb' 0 14).setWidth 18).signExtend 32 &&& 0x3FFF) = v) ∧
  (∀ (s : State) (c : Issue) (st : Strand) (sd : BitVec 6) (imm : BitVec 18) (mask value : BitVec 8),
    s.cur = some c → tfind s.strands c.uid = some st →
    (sd.toNat % 2 = 1 → exec (.saddpc sd imm) s =
      .next { s.takeTrap c.uid { cls := 0x01, pc := some c.pc } with cur := none }) ∧
    (mask.getLsbD 3 = true → exec (.mode mask value) s =
      .next { s.takeTrap c.uid { cls := 0x01, pc := some c.pc } with cur := none })) ∧
  (∀ (sd : BitVec 6) (imm : BitVec 18), (sd ≠ 0 ∨ imm.extractLsb' 16 2 ≠ 0) →
    decodeWords [(0xA5 : BitVec 8) ++ sd ++ imm] = none) ∧
  decodeWords [0xA018002A] = some (.smovi 6 0x2A) ∧ decodeWords [0xA5000301] = some (.mode 0x03 0x01)

/-- Uniform floating point (R333): the results are those of the lane instructions under the strand's MODE and its
workgroup's SATCTL, events enter the flags, and an enabled event traps with nothing written (R174). -/
def Obligations.UniformFloatResults : Prop :=
  ∀ (sd sa sb : BitVec 6) (fn : BitVec 4),
    let u := useS sd ++ useS sa ++ useS sb
    UniFp (.sfadd sd sa sb) sd u (fun e st => on32 Fmt.f32.add e (st.sreg sa.toNat) (st.sreg sb.toNat)) ∧
    UniFp (.sfmul sd sa sb) sd u (fun e st => on32 Fmt.f32.mul e (st.sreg sa.toNat) (st.sreg sb.toNat)) ∧
    UniFp (.sffma sd sa sb) sd u (fun e st =>
      let r := Fmt.f32.fma e.ctl32 (st.sreg sa.toNat).toNat (st.sreg sb.toNat).toNat (st.sreg sd.toNat).toNat
      (BitVec.ofNat 32 r.1, r.2)) ∧
    UniFp (.sfcmp sd sa sb fn) sd u (fun e st =>
      let r := fcmp (fn.toNat + 6) e.ftz (st.sreg sa.toNat).toNat (st.sreg sb.toNat).toNat
      (if r.1 then 1 else 0, r.2)) ∧
    UniFp (.scvt sd sa sb fn) sd (useS sd ++ useS sa) (fun e st => cvtOp fn.toNat e (st.sreg sa.toNat))

/-- THE FRAME of each uniform ALU and constant instruction (R332 to R336) and of MODE, read through the machine's own
accessors: beside the registers that it writes it leaves every uniform register, the vector forms, masks, routes, tile,
stacks and capsule of its strand, MODE but for a MODE, the flags but for a floating-point instruction; and every other
strand, every workgroup, grid and context, and the byte that any reader sees at any address. -/
def Obligations.UniformFrame : Prop :=
  (∀ op ∈ [Instr.sadd, .ssub, .smul, .smulhI32, .smulhN32, .sminI32, .sminN32, .smaxI32, .smaxN32, .sand, .sor, .sxor, .sshl,
      .sshr, .ssar, .sdivN32, .sremN32, .sdivI32, .sremI32, .ssel], ∀ sd sa sb : BitVec 6,
    UniFrame (op sd sa sb) (useS sd ++ useS sa ++ useS sb) [sd.toNat] false false) ∧
  (∀ op ∈ [Instr.sfadd, .sfmul, .sffma], ∀ sd sa sb : BitVec 6,
    UniFrame (op sd sa sb) (useS sd ++ useS sa ++ useS sb) [sd.toNat] false true) ∧
  (∀ (sd sa sb : BitVec 6) (fn : BitVec 4),
    UniFrame (.scmp sd sa sb fn) (useS sd ++ useS sa ++ useS sb) [sd.toNat] false false ∧
    UniFrame (.sfcmp sd sa sb fn) (useS sd ++ useS sa ++ useS sb) [sd.toNat] false true ∧
    UniFrame (.scvt sd sa sb fn) (useS sd ++ useS sa) [sd.toNat] false true ∧
    UniFrame (.smulw sd sa sb) (useS sd 2 ++ useS sa ++ useS sb) [sd.toNat, sd.toNat + 1] false false) ∧
  (∀ op ∈ [Instr.smov, .spopc, .sclz], ∀ sd sa : BitVec 6,
    UniFrame (op sd sa) (useS sd ++ useS sa) [sd.toNat] false false) ∧
  (∀ op ∈ [Instr.sadd64, .ssub64], ∀ sd sa sb : BitVec 6,
    UniFrame (op sd sa sb) (useS sd 2 ++ useS sa 2 ++ useS sb 2) [sd.toNat, sd.toNat + 1] false false) ∧
  (∀ op ∈ [Instr.saddi, .smuli, .sandi, .sori, .sxori, .sshli, .sshri, .ssari, .sltiI32, .sltiN32, .seqi],
    ∀ (sd sa : BitVec 6) (imm : BitVec 12), UniFrame (op sd sa imm) (useS sd ++ useS sa) [sd.toNat] false false) ∧
  (∀ (sd sa : BitVec 6) (imm : BitVec 12),
    UniFrame (.sadd64i sd sa imm) (useS sd 2 ++ useS sa 2) [sd.toNat, sd.toNat + 1] false false) ∧
  (∀ (sd : BitVec 6) (imm : BitVec 18), UniFrame (.smovi sd imm) (useS sd) [sd.toNat] false false ∧
    UniFrame (.shii sd imm) (useS sd) [sd.toNat] false false ∧
    UniFrame (.saddpc sd imm) (useS sd 2) [sd.toNat, sd.toNat + 1] false false) ∧
  ∀ mask value : BitVec 8, UniFrame (.mode mask value) [] [] true false

/-! ## Elementwise lane instructions -/

/-- Integer results of R234 and R240 to R243 in every active lane of a lane strand, through any routed source, and once on
UNI sources of a range strand; every other lane and register, the flags and memory stay.
Immediate and constant results of R235 and R251 in every active lane. -/
def Obligations.LaneIntegerResults : Prop :=
  (LaneR .vadd (pure2 fun a b => a + b) ∧ LaneR .vsub (pure2 fun a b => a - b) ∧ LaneR .vmul (pure2 fun a b => a * b) ∧
  LaneR .vmulhI32 (pure2 fun a b => BitVec.ofInt 32 (a.toInt * b.toInt / 2 ^ 32)) ∧
  LaneR .vmulhN32 (pure2 fun a b => BitVec.ofNat 32 (a.toNat * b.toNat / 2 ^ 32)) ∧
  LaneR .vminI32 (pure2 fun a b => if a.toInt < b.toInt then a else b) ∧
  LaneR .vminN32 (pure2 fun a b => if a.toNat < b.toNat then a else b) ∧
  LaneR .vmaxI32 (pure2 fun a b => if a.toInt < b.toInt then b else a) ∧
  LaneR .vmaxN32 (pure2 fun a b => if a.toNat < b.toNat then b else a) ∧
  LaneR .vand (pure2 fun a b => a &&& b) ∧ LaneR .vor (pure2 fun a b => a ||| b) ∧ LaneR .vxor (pure2 fun a b => a ^^^ b) ∧
  LaneR .vandn (pure2 fun a b => a &&& ~~~b) ∧
  LaneR .vshl (pure2 fun a b => if 32 ≤ b.toNat then 0 else a <<< b.toNat) ∧
  LaneR .vshr (pure2 fun a b => if 32 ≤ b.toNat then 0 else a >>> b.toNat) ∧
  LaneR .vsar (pure2 fun a b => if 32 ≤ b.toNat then (if a.toInt < 0 then BitVec.allOnes 32 else 0) else a.sshiftRight b.toNat) ∧
  LaneR .vrotl (pure2 fun a b => (a <<< (b.toNat % 32)) ||| (a >>> (32 - b.toNat % 32))) ∧
  LaneR .vaddsI32 (pure2 fun a b => BitVec.ofInt 32 (max (-2 ^ 31) (min (2 ^ 31 - 1) (a.toInt + b.toInt)))) ∧
  LaneR .vsubsI32 (pure2 fun a b => BitVec.ofInt 32 (max (-2 ^ 31) (min (2 ^ 31 - 1) (a.toInt - b.toInt)))) ∧
  LaneR .vabsdN32 (pure2 fun a b => if a.toNat < b.toNat then b - a else a - b) ∧
  LaneR .vdot4I8 (pure2 fun a b => BitVec.ofInt 32
    (((List.range 4).map fun k => (a.extractLsb' (8 * k) 8).toInt * (b.extractLsb' (8 * k) 8).toInt).sum)) ∧
  (∀ vd va ra, Lane (.vmov vd va ra) vd [(va, ra.toNat)] fun _ x => (x.getD 0 0, 0)) ∧
  LaneT .vmad (fun _ a b c => (a * b + c, 0)) ∧
  LaneT .vdot4aI8 (fun _ a b c => (BitVec.ofInt 32
    (((List.range 4).map fun k => (a.extractLsb' (8 * k) 8).toInt * (b.extractLsb' (8 * k) 8).toInt).sum) + c, 0)) ∧
  LaneX .vpopc (fun _ a => (BitVec.ofNat 32 ((List.range 32).countP fun k => a.getLsbD k), 0)) ∧
  LaneX .vclz (fun _ a => (clzW a, 0)) ∧
  (∃ rev : Word → Word, LaneX .vbrev (fun _ a => (rev a, 0)) ∧ ∀ a k, k < 32 → (rev a).getLsbD k = a.getLsbD (31 - k)) ∧
  (∃ ins : Word → Word → Word → Word, LaneT .vbfi (fun _ a b c => (ins a b c, 0)) ∧
    ∀ a b c : Word, ∀ k < 32,
      let p := c.toNat % 32
      let w := min (c.toNat / 256 % 64) (32 - p)
      (ins a b c).getLsbD k = if p ≤ k ∧ k < p + w then b.getLsbD (k - p) else a.getLsbD k) ∧
  (∀ sgn : BitVec 1, ∃ ext : Word → Word → Word,
    (∀ d a b, Lane (.vbfe d a b sgn) d [(a, 0), (b, 0)] fun _ x => (ext (x.getD 0 0) (x.getD 1 0), 0)) ∧
    ∀ a c : Word, ∀ k < 32,
      let p := c.toNat % 32
      let w := min (c.toNat / 256 % 64) (32 - p)
      (ext a c).getLsbD k = if k < w then a.getLsbD (p + k) else decide (sgn = 1 ∧ 0 < w) && a.getLsbD (p + w - 1))) ∧
  (LaneI .vaddi (fun a i => a + i.signExtend 32) ∧ LaneI .vsubri (fun a i => i.signExtend 32 - a) ∧
  LaneI .vmuli (fun a i => a * i.signExtend 32) ∧ LaneI .vandi (fun a i => a &&& i.signExtend 32) ∧
  LaneI .vori (fun a i => a ||| i.signExtend 32) ∧ LaneI .vxori (fun a i => a ^^^ i.signExtend 32) ∧
  LaneI .vshli (fun a i => a <<< i.toNat) ∧ LaneI .vshri (fun a i => a >>> i.toNat) ∧
  LaneI .vsari (fun a i => a.sshiftRight i.toNat) ∧
  LaneI .vminiI32 (fun a i => if a.toInt < i.toInt then a else i.signExtend 32) ∧
  LaneI .vmaxiI32 (fun a i => if a.toInt < i.toInt then i.signExtend 32 else a) ∧
  (∀ vd imm, Lane (.vmovi vd imm) vd [] fun _ _ => (imm.signExtend 32, 0)) ∧
  (∀ vd imm, Lane (.vmovl vd imm) vd [] fun _ _ => (imm, 0)))

/-- Floating-point results of R236 to R241, R244, R175: .f32 under SAT32 and FTZ, packed formats element by element under
SAT16 and SAT8.
SPECIAL OPERANDS (R172, R181, R238, R258): a NaN operand gives the first one, quieted, with NI, and NV for a signalling one;
an invalid operation the default NaN with NV; an infinity is exact; the special functions have the cases of R181's table. The
other results of the special functions are those of the model's fixed-point work with 640 fraction bits, rounded once: the
model's choice (log entry 20). -/
def Obligations.LaneFloatResults : Prop :=
  (∀ (f : Fmt) (c : Ctl) (a b d : Nat), f ≠ .e2m1 → a < 2 ^ f.width → b < 2 ^ f.width → d < 2 ^ f.width →
    let inf := fun neg : Bool => f.sign neg + f.infBits
    let bad := (f.defaultNaN, evNV)
    let zeroInf := isInf f a = true ∧ isNum f b ∧ numIn f c.ftz b = 0 ∨ isInf f b = true ∧ isNum f a ∧ numIn f c.ftz a = 0
    (isNan f a = true ∨ isNan f b = true →
      let r := (quieted f (if isNan f a then a else b), nanEv f [a, b])
      f.add c a b = r ∧ f.sub c a b = r ∧ f.mul c a b = r) ∧
    (isNan f a = true ∨ isNan f b = true ∨ isNan f d = true → f.fma c a b d =
      (quieted f (if isNan f a then a else if isNan f b then b else d), nanEv f [a, b, d] ||| if zeroInf then evNV else 0)) ∧
    (isInf f a = true → isNum f b → f.add c a b = (inf (negative f a), 0) ∧ f.sub c a b = (inf (negative f a), 0) ∧
      f.add c b a = (inf (negative f a), 0) ∧ f.sub c b a = (inf !negative f a, 0)) ∧
    (isInf f a = true → isInf f b = true →
      f.add c a b = (if negative f a = negative f b then (inf (negative f a), 0) else bad) ∧
      f.sub c a b = (if negative f a = negative f b then bad else (inf (negative f a), 0))) ∧
    (zeroInf → f.mul c a b = bad ∧ (isNan f d = false → f.fma c a b d = bad)) ∧
    (isInf f a = true ∨ isInf f b = true → isNan f a = false → isNan f b = false → ¬ zeroInf →
      let x := negative f a != negative f b
      f.mul c a b = (inf x, 0) ∧
      (isNum f d → f.fma c a b d = (inf x, 0)) ∧
      (isInf f d = true → f.fma c a b d = if x = negative f d then (inf x, 0) else bad)) ∧
    (isNum f a → isNum f b → isInf f d = true → f.fma c a b d = (inf (negative f d), 0))) ∧
  (∀ (c : Ctl) (a b : Nat) (k : Int) (fn : Nat), a < 2 ^ 32 → b < 2 ^ 32 →
    let nan := isNan .f32 a || isNan .f32 b
    (isNan .f32 a = true → fscale c a k = (quieted .f32 a, nanEv .f32 [a])) ∧
    (isInf .f32 a = true → fscale c a k = (a, 0)) ∧
    (nan = true → fn = 6 ∨ fn = 7 ∨ fn = 10 → fcmp fn c.ftz a b = (decide (fn ≠ 6), nanEv .f32 [a, b])) ∧
    (nan = true → fn = 8 ∨ fn = 9 → fcmp fn c.ftz a b = (false, evNI ||| evNV)) ∧
    (nan = false → fn = 10 → fcmp fn c.ftz a b = (false, 0)) ∧
    ∀ g : Bool, (isNan .f32 a = true → isNan .f32 b = true → Fmt.f32.minmax g c a b = (quieted .f32 a, nanEv .f32 [a, b])) ∧
      (isNan .f32 a = true → isNan .f32 b = false → Fmt.f32.minmax g c a b = (Fmt.f32.flush c.ftz b, nanEv .f32 [a, b])) ∧
      (isNan .f32 a = false → isNan .f32 b = true → Fmt.f32.minmax g c a b = (Fmt.f32.flush c.ftz a, nanEv .f32 [a, b])) ∧
      (isNum .f32 a → isNum .f32 b → (Fmt.f32.minmax g c a b).2 = 0 ∧
        let x := numIn .f32 c.ftz a
        let y := numIn .f32 c.ftz b
        num .f32 (Fmt.f32.minmax g c a b).1 = (if g then max x y else min x y) ∧
        (x = y → x = 0 → negative .f32 (Fmt.f32.minmax g c a b).1 =
          if g then negative .f32 a && negative .f32 b else negative .f32 a || negative .f32 b))) ∧
  (∀ (c : Ctl) (g : Sfn) (a : Nat), a < 2 ^ 32 →
    let neg := negative .f32 a
    let inf := fun n : Bool => Fmt.f32.sign n + 0x7F800000
    let bad := ((0x7FC00000 : Nat), evNV)
    (isNan .f32 a = true → g.apply c a = (quieted .f32 a, nanEv .f32 [a])) ∧
    (isInf .f32 a = true → g.apply c a = match g with
      | .rcp => (Fmt.f32.sign neg, 0)
      | .rsq => if neg then bad else (0, 0)
      | .sqrt | .log2 => if neg then bad else (inf false, 0)
      | .exp2 => if neg then (0, 0) else (inf false, 0)
      | .sinpi | .cospi => bad
      | .tanh => (Fmt.f32.sign neg + 0x3F800000, 0)) ∧
    (isNum .f32 a → numIn .f32 c.ftz a = 0 → g.apply c a = match g with
      | .rcp | .rsq => (inf neg, evDZ)
      | .sqrt | .sinpi | .tanh => (Fmt.f32.sign neg, 0)
      | .exp2 | .cospi => (0x3F800000, 0)
      | .log2 => (inf true, evDZ)) ∧
    (isNum .f32 a → numIn .f32 c.ftz a < 0 → g = .rsq ∨ g = .sqrt ∨ g = .log2 → g.apply c a = bad) ∧
    (isNum .f32 a → ∀ n : Int, n ≠ 0 → numIn .f32 c.ftz a = n → Sfn.sinpi.apply c a = (Fmt.f32.sign neg, 0)) ∧
    (isNum .f32 a → ∀ n : Int, numIn .f32 c.ftz a = n + 1 / 2 → Sfn.cospi.apply c a = (0, 0)) ∧
    (isNum .f32 a → ∀ n : Int, -126 ≤ n → n ≤ 127 → numIn .f32 c.ftz a = n → (Sfn.exp2.apply c a).2 = 0 ∧
      num .f32 (Sfn.exp2.apply c a).1 = 2 ^ n) ∧
    (isNum .f32 a → ∀ n : Int, numIn .f32 c.ftz a = 2 ^ n → (Sfn.log2.apply c a).2 = 0 ∧
      num .f32 (Sfn.log2.apply c a).1 = n)) ∧
  LaneR .vfaddF32 (on32 Fmt.f32.add) ∧ LaneR .vfsubF32 (on32 Fmt.f32.sub) ∧ LaneR .vfmulF32 (on32 Fmt.f32.mul) ∧
  LaneR .vfminF32 (on32 (Fmt.f32.minmax false)) ∧ LaneR .vfmaxF32 (on32 (Fmt.f32.minmax true)) ∧
  LaneR .vfscaleF32 (fun e a b => (BitVec.ofNat 32 (fscale e.ctl32 a.toNat b.toInt).1, (fscale e.ctl32 a.toNat b.toInt).2)) ∧
  LaneT .vfmaF32 (fun e a b c =>
    (BitVec.ofNat 32 (Fmt.f32.fma e.ctl32 a.toNat b.toNat c.toNat).1, (Fmt.f32.fma e.ctl32 a.toNat b.toNat c.toNat).2)) ∧
  LaneR .vdot2Bf16 (fun e a b =>
    let r := dot2 e.ctl32 (a.toNat % 2 ^ 16) (a.toNat / 2 ^ 16) (b.toNat % 2 ^ 16) (b.toNat / 2 ^ 16) none
    (BitVec.ofNat 32 r.1, r.2)) ∧
  LaneT .vdot2aBf16 (fun e a b c =>
    let r := dot2 e.ctl32 (a.toNat % 2 ^ 16) (a.toNat / 2 ^ 16) (b.toNat % 2 ^ 16) (b.toNat / 2 ^ 16) (some c.toNat)
    (BitVec.ofNat 32 r.1, r.2)) ∧
  LaneR .vfaddBf16x2 (fun e => packed 16 (Fmt.bf16.add e.ctl16)) ∧ LaneR .vfmulBf16x2 (fun e => packed 16 (Fmt.bf16.mul e.ctl16)) ∧
  LaneR .vfaddF16x2 (fun e => packed 16 (Fmt.f16.add e.ctl16)) ∧ LaneR .vfmulF16x2 (fun e => packed 16 (Fmt.f16.mul e.ctl16)) ∧
  LaneR .vfaddE4m3x4 (fun e => packed 8 (Fmt.e4m3.add e.ctl8)) ∧ LaneR .vfmulE4m3x4 (fun e => packed 8 (Fmt.e4m3.mul e.ctl8)) ∧
  LaneR .vfaddE5m2x4 (fun e => packed 8 (Fmt.e5m2.add e.ctl8)) ∧ LaneR .vfmulE5m2x4 (fun e => packed 8 (Fmt.e5m2.mul e.ctl8)) ∧
  LaneT .vfmaBf16x2 (fun e => packed3 (Fmt.bf16.fma e.ctl16)) ∧ LaneT .vfmaF16x2 (fun e => packed3 (Fmt.f16.fma e.ctl16)) ∧
  LaneX .vfrcpF32 (fun e a => lane32 (Sfn.rcp.apply e.ctl32 a.toNat)) ∧
  LaneX .vfrsqF32 (fun e a => lane32 (Sfn.rsq.apply e.ctl32 a.toNat)) ∧
  LaneX .vfsqrtF32 (fun e a => lane32 (Sfn.sqrt.apply e.ctl32 a.toNat)) ∧
  LaneX .vfexp2F32 (fun e a => lane32 (Sfn.exp2.apply e.ctl32 a.toNat)) ∧
  LaneX .vflog2F32 (fun e a => lane32 (Sfn.log2.apply e.ctl32 a.toNat)) ∧
  LaneX .vfsinpiF32 (fun e a => lane32 (Sfn.sinpi.apply e.ctl32 a.toNat)) ∧
  LaneX .vfcospiF32 (fun e a => lane32 (Sfn.cospi.apply e.ctl32 a.toNat)) ∧
  LaneX .vftanhF32 (fun e a => lane32 (Sfn.tanh.apply e.ctl32 a.toNat))

/-- FLOATING-POINT ARITHMETIC ROUNDS THE EXACT RESULT ONCE (R169 to R171, R176, R236 to R241, R246 to R249): on operands that
are numbers, sums, products, fused sums, scalings, dot products, reciprocals, square roots and narrowings deliver the exact
result rounded once by RND, with the rules of overflow, saturation, subnormals and flushing, and their events; comparisons
compare the values; widenings are exact; roundings to an integer are exact but for the range. The bit patterns of the
largest values, infinities and default NaNs are those of R164 and R172.
A packed operation computes each sub-element by itself (R175): element k of the result is the scalar result of the
elements k, whatever the others are, and the events are those of every element. The results of the narrow formats fit
their element, so this holds of every packed instruction.
The worked line of R175: `vfadd.e4m3x4` of 0xC07F_7E38 and 0x3838_7038 gives 0xB87F_7F40 with OF, NX and NI, and under
saturation 0xB87F_7E40 with SA too. -/
def Obligations.FloatingPointRoundsOnce : Prop :=
  (∀ (f : Fmt) (c : Ctl), c.rnd < 4 →
    (∀ a b, isNum f a → isNum f b →
      let x : ℝ := numIn f c.ftz a
      let y : ℝ := numIn f c.ftz b
      let na := negative f a
      let nb := negative f b
      RoundsTo f c (x + y) (zeroSign c.rnd [na, nb]) (f.add c a b) ∧
      RoundsTo f c (x - y) (zeroSign c.rnd [na, !nb]) (f.sub c a b) ∧
      RoundsTo f c (x * y) (na != nb) (f.mul c a b) ∧
      ∀ d, isNum f d → RoundsTo f c (x * y + numIn f c.ftz d) (zeroSign c.rnd [na != nb, negative f d]) (f.fma c a b d)) ∧
    ∀ a, isNum .f32 a →
      let flush := c.ftz && (f == .bf16 || f == .f16)
      RoundsTo f { c with ftz := flush } (numIn .f32 c.ftz a) (negative .f32 a) (f.narrow c a)) ∧
  (∀ (c : Ctl) (a : Nat), c.rnd < 4 → isNum .f32 a →
    let x : ℝ := numIn .f32 c.ftz a
    (∀ k : Int, RoundsTo .f32 c (x * 2 ^ k) (negative .f32 a) (fscale c a k)) ∧
    (x ≠ 0 → RoundsTo .f32 c (1 / x) false (Sfn.rcp.apply c a)) ∧
    (0 < x → RoundsTo .f32 c (Real.sqrt x) false (Sfn.sqrt.apply c a) ∧
      RoundsTo .f32 c (1 / Real.sqrt x) false (Sfn.rsq.apply c a)) ∧
    (∀ y, Nearest c.rnd 0 x y →
      let r := frint c.rnd c.ftz a
      isNum .f32 r.1 ∧ (num .f32 r.1 : ℝ) = y ∧ negative .f32 r.1 = negative .f32 a ∧ r.2 = 0) ∧
    (∀ (signed : Bool) (n : Int), Nearest c.rnd 0 x n →
      let lo : Int := if signed then -2 ^ 31 else 0
      let hi : Int := if signed then 2 ^ 31 - 1 else 2 ^ 32 - 1
      toInt32 signed c.rnd c.ftz a =
        if n < lo then ((lo % 2 ^ 32).toNat, evNV) else if hi < n then ((hi % 2 ^ 32).toNat, evNV)
        else ((n % 2 ^ 32).toNat, if (n : ℝ) = x then 0 else evNX)) ∧
    ∀ b, isNum .f32 b →
      let y : ℝ := numIn .f32 c.ftz b
      (fcmp 6 c.ftz a b).2 = 0 ∧ (fcmp 7 c.ftz a b).2 = 0 ∧ (fcmp 8 c.ftz a b).2 = 0 ∧ (fcmp 9 c.ftz a b).2 = 0 ∧
      ((fcmp 6 c.ftz a b).1 = true ↔ x = y) ∧ ((fcmp 7 c.ftz a b).1 = true ↔ x ≠ y) ∧
      ((fcmp 8 c.ftz a b).1 = true ↔ x < y) ∧ ((fcmp 9 c.ftz a b).1 = true ↔ x ≤ y)) ∧
  (∀ (c : Ctl) (p q r t : Nat), c.rnd < 4 → isNum .bf16 p → isNum .bf16 q → isNum .bf16 r → isNum .bf16 t →
    let v : Nat → ℝ := fun x => numIn .bf16 c.ftz x
    let signs := [negative .bf16 p != negative .bf16 r, negative .bf16 q != negative .bf16 t]
    RoundsTo .f32 c (v p * v r + v q * v t) (zeroSign c.rnd signs) (dot2 c p q r t none) ∧
    ∀ d, isNum .f32 d → RoundsTo .f32 c (v p * v r + v q * v t + numIn .f32 c.ftz d)
      (zeroSign c.rnd (signs ++ [negative .f32 d])) (dot2 c p q r t (some d))) ∧
  (∀ (c : Ctl) (v : Int), c.rnd < 4 → RoundsTo .f32 { c with ftz := false, sat := false } v false (ofInt c v)) ∧
  (∀ (f : Fmt) (ftz : Bool) (x : Nat), isNum f x →
    isNum .f32 (f.widen ftz x).1 ∧ num .f32 (f.widen ftz x).1 = numIn f (ftz && f == .bf16) x ∧
    negative .f32 (f.widen ftz x).1 = negative f x ∧ (f.widen ftz x).2 = 0) ∧
  ([Fmt.f32, .bf16, .f16, .e5m2, .e4m3, .e2m1].map fun f => (f.topBits, num f f.topBits, maxOf f)) =
    [(0x7F7FFFFF, (2 ^ 24 - 1) * 2 ^ 104, (2 ^ 24 - 1) * 2 ^ 104), (0x7F7F, 255 * 2 ^ 120, 255 * 2 ^ 120), (0x7BFF, 65504, 65504),
      (0x7B, 57344, 57344), (0x7E, 448, 448), (7, 6, 6)] ∧
  ([Fmt.f32, .bf16, .f16, .e5m2].map fun f => (f.infBits, f.defaultNaN)) =
    [(0x7F800000, 0x7FC00000), (0x7F80, 0x7FC0), (0x7C00, 0x7E00), (0x7C, 0x7E)] ∧
  Fmt.e4m3.defaultNaN = 0x7F ∧
  ((∀ (f : Nat → Nat → Nat × Ev) (a b : Word), (∀ x y, (f x y).1 < 2 ^ 16) → Packs 16 2 f a b (packed 16 f a b)) ∧
  (∀ (f : Nat → Nat → Nat × Ev) (a b : Word), (∀ x y, (f x y).1 < 2 ^ 8) → Packs 8 4 f a b (packed 8 f a b)) ∧
  (∀ (f : Nat → Nat → Nat → Nat × Ev) (a b c : Word), (∀ x y z, (f x y z).1 < 2 ^ 16) →
    let r := packed3 f a b c
    r.1.toNat % 2 ^ 16 = (f (a.toNat % 2 ^ 16) (b.toNat % 2 ^ 16) (c.toNat % 2 ^ 16)).1 ∧
    r.1.toNat / 2 ^ 16 = (f (a.toNat / 2 ^ 16) (b.toNat / 2 ^ 16) (c.toNat / 2 ^ 16)).1 ∧
    r.2 = (f (a.toNat % 2 ^ 16) (b.toNat % 2 ^ 16) (c.toNat % 2 ^ 16)).2 |||
      (f (a.toNat / 2 ^ 16) (b.toNat / 2 ^ 16) (c.toNat / 2 ^ 16)).2) ∧
  (∀ (f : Fmt) (c : Ctl) (a b d : Nat), f = .bf16 ∨ f = .f16 ∨ f = .e5m2 ∨ f = .e4m3 →
    a < 2 ^ f.width → b < 2 ^ f.width → d < 2 ^ f.width →
    (f.add c a b).1 < 2 ^ f.width ∧ (f.mul c a b).1 < 2 ^ f.width ∧ (f.fma c a b d).1 < 2 ^ f.width)) ∧
  (packed 8 (Fmt.e4m3.add ⟨0, false, false⟩) 0xC07F7E38 0x38387038 = (0xB87F7F40, evOF ||| evNX ||| evNI) ∧
  packed 8 (Fmt.e4m3.add ⟨0, false, true⟩) 0xC07F7E38 0x38387038 = (0xB87F7E40, evOF ||| evNX ||| evNI ||| evSA))

/-- VFCLASS, VUNARY and the conversions of R245 to R250 in every active lane, at every fn the tables list. -/
def Obligations.LaneConversionResults : Prop :=
  (∀ fn, LaneX (fun d a => .vfclass d a fn) fun _ a =>
    let f := classFmt fn.toNat
    (BitVec.ofNat 32 (f.classify (a.toNat % 2 ^ f.width)), 0)) ∧
  (∀ fn, LaneX (fun d a => .vunary d a fn) fun e a =>
    match fn.toNat with
    | 0 => (0 - a, 0)
    | 1 => (if a.toInt < 0 then 0 - a else a, 0)
    | 2 => (~~~a, 0)
    | 3 => (a ^^^ 0x80000000, 0)
    | 4 => (a &&& 0x7FFFFFFF, 0)
    | 5 => lane32 (frint e.rnd e.ftz a.toNat)
    | 6 => lane32 (frint 2 e.ftz a.toNat)
    | 7 => lane32 (frint 3 e.ftz a.toNat)
    | _ => lane32 (frint 1 e.ftz a.toNat)) ∧
  (∀ fn, LaneX (fun d a => .vcvt d a fn) fun e a =>
    match fn.toNat with
    | 0 => lane32 (ofInt e.ctl32 a.toInt)
    | 1 => lane32 (ofInt e.ctl32 a.toNat)
    | 2 => lane32 (toInt32 true e.rnd e.ftz a.toNat)
    | 3 => lane32 (toInt32 false e.rnd e.ftz a.toNat)
    | 4 => lane32 (toInt32 true 1 e.ftz a.toNat)
    | _ => lane32 (toInt32 false 1 e.ftz a.toNat)) ∧
  (∀ fn, LaneX (fun d a => .vcvtb d a fn) fun e a =>
    let half := fun k => a.toNat / 2 ^ (16 * k) % 2 ^ 16
    let byte := fun k => (a.extractLsb' (8 * k) 8)
    if fn.toNat < 2 then lane32 (Fmt.bf16.widen e.ftz (half fn.toNat))
    else if fn.toNat < 4 then lane32 (Fmt.f16.widen e.ftz (half (fn.toNat - 2)))
    else if fn.toNat < 8 then lane32 (Fmt.e4m3.widen e.ftz (byte (fn.toNat - 4)).toNat)
    else if fn.toNat < 12 then lane32 (Fmt.e5m2.widen e.ftz (byte (fn.toNat - 8)).toNat)
    else lane32 (ofInt Ctl.home (byte (fn.toNat - 12)).toInt)) ∧
  (∀ d a b fn, Lane (.vpack d a b fn) d (if fn.toNat % 8 < 2 then [(a, 0), (b, 0)] else [(a, 0), (b, 0), (d, 0)]) fun e x =>
    let f := packFmt (fn.toNat % 8)
    let c : Ctl := ⟨e.rnd, e.ftz, fn.toNat / 8 == 1⟩
    let lo := f.narrow c (x.getD 0 0).toNat
    let hi := f.narrow c (x.getD 1 0).toNat
    let p : Word := BitVec.ofNat 32 (lo.1 + hi.1 * 2 ^ f.width)
    (if f.width = 16 then p
     else if f.width = 8 then ((x.getD 2 0) >>> 16) ||| (p <<< 16)
     else ((x.getD 2 0) >>> 8) ||| (p <<< 24), lo.2 ||| hi.2)) ∧
  (∀ d a b fn, Lane (.vunpack d a b fn) d [(a, 0), (b, 0)] fun e x =>
    let w := x.getD 0 0
    let sc := (x.getD 1 0).toNat % 256
    if fn.toNat < 8 then lane32 (Fmt.e2m1.unpack e.ctl32 (w.toNat / 2 ^ (4 * fn.toNat) % 16) sc)
    else if fn.toNat < 12 then lane32 (Fmt.e4m3.unpack e.ctl32 (w.extractLsb' (8 * (fn.toNat - 8)) 8).toNat sc)
    else lane32 (Fmt.e5m2.unpack e.ctl32 (w.extractLsb' (8 * (fn.toNat - 12)) 8).toNat sc))

/-- THE FORM PIPE (R107, R108). An instruction of the table of R108 with a predicate that is true of every thread and
operands of the table keeps a range strand whole, and its result form gives every thread exactly the word that the thread
would have computed alone; nothing but the destination's form, the place and the moment of issue changes. The table's last
row, every source UNI, is a clause of each elementwise instruction's own result. -/
def Obligations.FormsGiveEveryThreadItsOwnResult : Prop :=
  let any : List Form → Prop := fun _ => True
  let oneUni : List Form → Prop := fun f => (f.getD 0 ⟨0, 0⟩).stride = 0 ∨ (f.getD 1 ⟨0, 0⟩).stride = 0
  let edge : Form → Prop := fun x => x.stride = 0 ∧ (x.base = 0 ∨ x.base = BitVec.allOnes 32)
  let oneEdge : List Form → Prop := fun f => edge (f.getD 0 ⟨0, 0⟩) ∨ edge (f.getD 1 ⟨0, 0⟩)
  let immEdge : BitVec 10 → List Form → Prop := fun i f => i = 0 ∨ i = BitVec.allOnes 10 ∨ edge (f.getD 0 ⟨0, 0⟩)
  let imm := fun i : BitVec 10 => i.signExtend 32
  (∀ d a b, Kept (.vadd d a b 0 0) d [a, b] any fun x => x.getD 0 0 + x.getD 1 0) ∧
  (∀ d a b, Kept (.vsub d a b 0 0) d [a, b] any fun x => x.getD 0 0 - x.getD 1 0) ∧
  (∀ d a b, Kept (.vmul d a b 0 0) d [a, b] oneUni fun x => x.getD 0 0 * x.getD 1 0) ∧
  (∀ d a b c, Kept (.vmad d a b c 0 0 0) (d.setWidth 6) [a.setWidth 6, b.setWidth 6, c.setWidth 6] oneUni
    fun x => x.getD 0 0 * x.getD 1 0 + x.getD 2 0) ∧
  (∀ d a b, Kept (.vshl d a b 0 0) d [a, b] (fun f => (f.getD 1 ⟨0, 0⟩).stride = 0) fun x =>
    if 32 ≤ (x.getD 1 0).toNat then 0 else x.getD 0 0 <<< (x.getD 1 0).toNat) ∧
  (∀ d a b, Kept (.vand d a b 0 0) d [a, b] oneEdge fun x => x.getD 0 0 &&& x.getD 1 0) ∧
  (∀ d a b, Kept (.vor d a b 0 0) d [a, b] oneEdge fun x => x.getD 0 0 ||| x.getD 1 0) ∧
  (∀ d a b, Kept (.vxor d a b 0 0) d [a, b] oneEdge fun x => x.getD 0 0 ^^^ x.getD 1 0) ∧
  (∀ d a b, Kept (.vandn d a b 0 0) d [a, b] oneEdge fun x => x.getD 0 0 &&& ~~~x.getD 1 0) ∧
  (∀ d a, Kept (.vmov d a 0) d [a] any fun x => x.getD 0 0) ∧
  (∀ d a i, Kept (.vaddi d a 0 i) d [a] any fun x => x.getD 0 0 + imm i) ∧
  (∀ d a i, Kept (.vsubri d a 0 i) d [a] any fun x => imm i - x.getD 0 0) ∧
  (∀ d a i, Kept (.vmuli d a 0 i) d [a] any fun x => x.getD 0 0 * imm i) ∧
  (∀ d a i, Kept (.vandi d a 0 i) d [a] (immEdge i) fun x => x.getD 0 0 &&& imm i) ∧
  (∀ d a i, Kept (.vori d a 0 i) d [a] (immEdge i) fun x => x.getD 0 0 ||| imm i) ∧
  (∀ d a i, Kept (.vxori d a 0 i) d [a] (immEdge i) fun x => x.getD 0 0 ^^^ imm i) ∧
  (∀ d a i, Kept (.vshli d a 0 i) d [a] any fun x => x.getD 0 0 <<< i.toNat) ∧
  (∀ d i, Kept (.vmovi d i) d [] any fun _ => imm i) ∧
  (∀ d v, Kept (.vmovl d v) d [] any fun _ => v) ∧
  (∀ (d : BitVec 6) (s : State) (c : Issue) (st : Strand) (lo n : Nat), s.Issues c st (.vindex d 0) (useV d) →
    st.kind = .range lo n → st.constPred c.pred.toNat = some true →
    exec (.vindex d 0) s = .next (s.stepped c (.vindex d 0) fun x =>
      { x with forms := tset x.forms d.toNat ⟨BitVec.ofNat 32 lo, 1⟩ }) ∧
    ∀ j, lo ≤ j → BitVec.ofNat 32 lo + 1 * BitVec.ofNat 32 (j - lo) = BitVec.ofNat 32 j) ∧
  (∀ (d a b : BitVec 6) (k : BitVec 3) (s : State) (c : Issue) (st : Strand) (lo n : Nat),
    s.Issues c st (.vsel d a b k) (useV d ++ useV a ++ useV b ++ useK k.toNat) → st.kind = .range lo n →
    st.constPred c.pred.toNat = some true → ∀ v, st.constPred k.toNat = some v →
    ∃ r : Form, exec (.vsel d a b k) s = .next (s.stepped c (.vsel d a b k) fun x => { x with forms := tset x.forms d.toNat r }) ∧
      ∀ j, lo ≤ j → r.base + r.stride * BitVec.ofNat 32 (j - lo) = s.vreg st (if v then a else b).toNat j)

/-- WHAT EXPANDS A RANGE STRAND (R109 to R111, R265, R266): an instruction outside the table of R108 with a source that does
not count as UNI; one of the table whose operands it does not admit: two AFF factors, an AFF count, logic on an AFF source
without a side of all zeros or all ones, a routed source that is not UNI, a mixed select mask, an index beyond one warp or
tile; a condition or mask of more than three runs; and every instruction that reads across lanes. None does where its
predicate is false of every thread. -/
def Obligations.OtherSourcesExpandARange : Prop :=
  (∀ (op : BitVec 6 → BitVec 6 → BitVec 6 → BitVec 2 → BitVec 2 → Instr) (d a b : BitVec 6) (ra rb : BitVec 2),
    op ∈ [Instr.vminI32, .vminN32, .vmaxI32, .vmaxN32, .vmulhI32, .vmulhN32, .vshr, .vsar, .vrotl, .vaddsI32, .vsubsI32,
      .vabsdN32, .vfaddF32, .vfsubF32, .vfmulF32, .vfminF32, .vfmaxF32, .vfscaleF32, .vfaddBf16x2, .vfmulBf16x2, .vfaddF16x2,
      .vfmulF16x2, .vfaddE4m3x4, .vfmulE4m3x4, .vfaddE5m2x4, .vfmulE5m2x4, .vdot4I8, .vdot2Bf16] →
    Expands (op d a b ra rb) (fun st => useV d ++ st.useSrc a ra.toNat ++ st.useSrc b rb.toNat) fun st =>
      st.uniSrc a.toNat ra.toNat = false ∨ st.uniSrc b.toNat rb.toNat = false) ∧
  (∀ (op : BitVec 6 → BitVec 6 → BitVec 2 → BitVec 10 → Instr) (d a : BitVec 6) (ra : BitVec 2) (i : BitVec 10),
    op ∈ [Instr.vshri, .vsari, .vminiI32, .vmaxiI32] →
    Expands (op d a ra i) (fun st => useV d ++ st.useSrc a ra.toNat) fun st => st.uniSrc a.toNat ra.toNat = false) ∧
  (∀ (op : BitVec 6 → BitVec 6 → Instr) (d a : BitVec 6),
    op ∈ [Instr.vpopc, .vclz, .vbrev, .vfrcpF32, .vfrsqF32, .vfsqrtF32, .vfexp2F32, .vflog2F32, .vfsinpiF32, .vfcospiF32,
      .vftanhF32] →
    Expands (op d a) (fun _ => useV d ++ useV a) fun st => (st.form a.toNat).stride ≠ 0) ∧
  (∀ (op : BitVec 6 → BitVec 6 → BitVec 4 → Instr) (d a : BitVec 6) (fn : BitVec 4),
    op ∈ [Instr.vfclass, .vunary, .vcvt, .vcvtb] →
    Expands (op d a fn) (fun _ => useV d ++ useV a) fun st => (st.form a.toNat).stride ≠ 0) ∧
  (∀ d a b, Expands (.vmul d a b 0 0) (fun _ => useV d ++ useV a ++ useV b) fun st =>
    (st.form a.toNat).stride ≠ 0 ∧ (st.form b.toNat).stride ≠ 0) ∧
  (∀ (op : BitVec 5 → BitVec 5 → BitVec 5 → BitVec 5 → BitVec 2 → BitVec 2 → BitVec 1 → Instr) (d a b x : BitVec 5)
      (ra rb : BitVec 2) (rx : BitVec 1),
    let uses := fun st : Strand => useV (d.setWidth 6) ++ st.useSrc (a.setWidth 6) ra.toNat ++ st.useSrc (b.setWidth 6) rb.toNat ++
      st.useSrc (x.setWidth 6) rx.toNat
    let notUni := fun st : Strand => st.uniSrc a.toNat ra.toNat = false ∨ st.uniSrc b.toNat rb.toNat = false ∨
      st.uniSrc x.toNat rx.toNat = false
    (op ∈ [Instr.vfmaF32, .vfmaBf16x2, .vfmaF16x2, .vdot4aI8, .vdot2aBf16, .vbfi] →
      Expands (op d a b x ra rb rx) uses notUni) ∧
    Expands (.vmad d a b x ra rb rx) uses fun st =>
      (st.form a.toNat).stride ≠ 0 ∧ (st.form b.toNat).stride ≠ 0 ∨ (ra ≠ 0 ∨ rb ≠ 0 ∨ rx ≠ 0) ∧ notUni st) ∧
  (∀ (op : BitVec 6 → BitVec 6 → BitVec 6 → BitVec 2 → BitVec 2 → Instr) (d a b : BitVec 6) (ra rb : BitVec 2),
    op ∈ [Instr.vadd, .vsub, .vmul, .vshl, .vand, .vor, .vxor, .vandn] → ra ≠ 0 ∨ rb ≠ 0 →
    Expands (op d a b ra rb) (fun st => useV d ++ st.useSrc a ra.toNat ++ st.useSrc b rb.toNat) fun st =>
      st.uniSrc a.toNat ra.toNat = false ∨ st.uniSrc b.toNat rb.toNat = false) ∧
  (∀ (d a : BitVec 6) (ra : BitVec 2) (i : BitVec 10), ra ≠ 0 →
    Expands (.vmov d a ra) (fun st => useV d ++ st.useSrc a ra.toNat) (fun st => st.uniSrc a.toNat ra.toNat = false) ∧
    ∀ op ∈ [Instr.vaddi, .vsubri, .vmuli, .vandi, .vori, .vxori, .vshli],
      Expands (op d a ra i) (fun st => useV d ++ st.useSrc a ra.toNat) fun st => st.uniSrc a.toNat ra.toNat = false) ∧
  (∀ d a b, Expands (.vshl d a b 0 0) (fun _ => useV d ++ useV a ++ useV b) fun st => (st.form b.toNat).stride ≠ 0) ∧
  (∀ op ∈ [Instr.vand, .vor, .vxor, .vandn], ∀ d a b : BitVec 6,
    Expands (op d a b 0 0) (fun _ => useV d ++ useV a ++ useV b) fun st =>
      ¬ constSide (st.form a.toNat) ∧ ¬ constSide (st.form b.toNat) ∧
        ((st.form a.toNat).stride ≠ 0 ∨ (st.form b.toNat).stride ≠ 0)) ∧
  (∀ op ∈ [Instr.vandi, .vori, .vxori], ∀ (d a : BitVec 6) (i : BitVec 10), i ≠ 0 → i ≠ BitVec.allOnes 10 →
    Expands (op d a 0 i) (fun _ => useV d ++ useV a) fun st => (st.form a.toNat).stride ≠ 0) ∧
  (∀ (d a b : BitVec 6) (sgn : BitVec 1) (fn : BitVec 4) (k : BitVec 3),
    let aff := fun (r : BitVec 6) (st : Strand) => (st.form r.toNat).stride ≠ 0
    let at_ := fun (r : BitVec 6) (st : Strand) j => (st.form r.toNat).base + (st.form r.toNat).stride * BitVec.ofNat 32 j
    Expands (.vbfe d a b sgn) (fun _ => useV d ++ useV a ++ useV b) (fun st => aff a st ∨ aff b st) ∧
    Expands (.vunpack d a b fn) (fun _ => useV d ++ useV a ++ useV b) (fun st => aff a st ∨ aff b st) ∧
    Expands (.vpack d a b fn) (fun _ => useV d ++ useV a ++ useV b ++ if fn.toNat % 8 < 2 then [] else useV d)
      (fun st => aff a st ∨ aff b st ∨ 2 ≤ fn.toNat % 8 ∧ aff d st) ∧
    (6 ≤ fn.toNat → Expands (.vcmp d a b fn) (fun _ => useK d.toNat ++ useV a ++ useV b) (fun st => aff a st ∨ aff b st)) ∧
    (fn.toNat < 6 → Expands (.vcmp d a b fn) (fun _ => useK d.toNat ++ useV a ++ useV b) fun st =>
      2 < changes (fun j => (compare fn.toNat ⟨0, 0⟩ (at_ a st j) (at_ b st j)).1) st.count) ∧
    Expands (.vsel d a b k) (fun _ => useV d ++ useV a ++ useV b ++ useK k.toNat) (fun st => st.constPred k.toNat = none) ∧
    (fn = 1 ∨ fn = 3 → Expands (.vindex d fn) (fun _ => useV d) fun st =>
      st.names.1 / 32 ≠ (st.names.1 + st.count - 1) / 32) ∧
    Expands (.vindex d 2) (fun _ => useV d) (fun st =>
      st.names.1 / 2 ^ st.tile.toNat ≠ (st.names.1 + st.count - 1) / 2 ^ st.tile.toNat) ∧
    Expands (.vkmov d a b 0) (fun _ => useV d ++ useK a.toNat) (fun _ => True) ∧
    Expands (.vkmov d a b 1) (fun _ => useK d.toNat ++ useV a) (fun st => aff a st ∨
      2 < changes (fun j => (st.form a.toNat).base.getLsbD ((st.names.1 + j) % 32 % 2 ^ st.tile.toNat)) st.count)) ∧
  (∀ d a fn, Expands (.vvote d a fn) (fun _ => useK d.toNat ++ (if fn == 2 then useV a else useK a.toNat)) fun _ => True) ∧
  (∀ d a fn, Expands (.vscan d a fn) (fun _ => useV d ++ useV a) fun _ => True) ∧
  (∀ d a fn, Expands (.vred d a fn) (fun _ => useV d ++ useV a) fun _ => True) ∧
  (∀ d a fn, Expands (.vmatch d a fn) (fun _ => (if fn == 0 then useV d else useK d.toNat) ++ useV a) fun _ => True) ∧
  (∀ d a b fn, Expands (.vcompact d a b fn) (fun _ => useV d ++ useV a ++ useK b.toNat) fun _ => True) ∧
  Expands .vexpand (fun _ => []) fun _ => True

/-- EXPANSION GIVES EVERY LANE ITS FORM'S VALUE (R107, R123): filling the lanes of a warp that holds its blocks from a range
strand's forms leaves in every lane of the mask the word that the form gives at that thread, and every other lane as it
was. -/
def Obligations.ExpansionFillsTheLanes : Prop :=
  ∀ (s : State) (st : Strand) (lo n w : Nat) (m : BitVec 32) (x : Warp), st.kind = .range lo n →
    tfind (s.wgOf st.wg).warps w = some x → (tfind s.wgs st.wg).isSome →
    let t := s.fillLanes st w m
    (∀ r j, r < 8 * x.blocks → m.getLsbD j = true → (t.wgOf st.wg).lane w r j = s.vreg st r (32 * w + j)) ∧
    (∀ q r j, j < 32 → (q ≠ w ∨ 8 * x.blocks ≤ r ∨ m.getLsbD j = false) →
      (t.wgOf st.wg).lane q r j = (s.wgOf st.wg).lane q r j) ∧
    { t with wgs := s.wgs } = s

/-! ## Traps at issue -/

/-- A RESERVED ENCODING IS ILLEGAL (R188 item 2, R225): every instruction of a strand whose operands break a limit of its
entry traps with class 0x01 and has no other effect, whatever else is wrong with it; a retired opcode has no such
operand. -/
def Obligations.IllegalOperandsTrap : Prop :=
  ∀ (i : Instr) (s : State) (c : Issue) (st : Strand), encode i ≠ [] → i.wf = false → s.cur = some c →
    tfind s.strands c.uid = some st →
    exec i s = .next { s.takeTrap c.uid { cls := 0x01, pc := some c.pc } with cur := none }

/-- THE ORDER OF THE CHECKS AT ISSUE (R188 items 2 to 4, R216 to R218, R341). A clause or handler breach is illegal and
comes first; then a vector register beyond the warp's blocks, with 0x100 and its number as AUX; then a hazard, with the
register as AUX or, of an instruction that needs idle flags, 0; then a capsule violation. An instruction that passes
acts.
A register that an operation in flight will write, or that a set-A operation of the strand's own clause writes, is a
hazard (R186): AUX is the file in bits 15:8 and the number below; without one there is none. -/
def Obligations.GateOrder : Prop :=
  (∀ (s : State) (c : Issue) (st : Strand) (i : Instr) (uses : List Use),
    (st.clauseBreach c i = true → s.gate c st i uses none = some (0x01, 0)) ∧
    (st.isHandler = true → i.notInHandler = true → s.gate c st i uses none = some (0x01, 0)) ∧
    (st.isHandler = false → i = .eret → s.gate c st i uses none = some (0x01, 0)) ∧
    (i.wf = true → st.clauseBreach c i = false → (st.isHandler = true → i.notInHandler = false) →
      (st.isHandler = false → i ≠ .eret) →
      (∀ pre r post, uses = pre ++ (1, r) :: post → (∀ q, (1, q) ∈ pre → q / 8 < s.blocks st) → s.blocks st ≤ r / 8 →
        s.gate c st i uses none = some (0x04, 0x100 + r)) ∧
      ((∀ q, (1, q) ∈ uses → q / 8 < s.blocks st) →
        (∀ a, s.hazard c.uid st uses = some a → s.gate c st i uses none = some (0x05, a)) ∧
        (s.hazard c.uid st uses = none →
          (i.needsIdle = true → (s.opsOf c.uid) ≠ [] → s.gate c st i uses none = some (0x05, 0)) ∧
          ((i.needsIdle = false ∨ s.opsOf c.uid = []) →
            s.gate c st i uses none = if st.capsBreach i uses then some (0x23, 0) else none))))) ∧
  (∀ (s : State) (u : Nat) (st : Strand) (f r : Nat) (o : Nat × Op), st.midway = false → o ∈ s.ops →
    o.2.holders.contains u = true → (f = 1 ∧ o.2.dstV.contains r = true ∨ f = 2 ∧ o.2.dstS.contains r = true) →
    s.hazard u st [(f, r)] = some (f * 256 + r) ∧
    ∀ st', st'.midway = false → ((st'.clause.map (·.dst)).getD []).contains (f, r) = true → s.hazard u st' [(f, r)] = some (f * 256 + r))

/-- TAKING A TRAP (R184, R189, R190, R191). The context's log gains the record of the trap, with its class, its PC and its
address; a trap of kind P parks its strand to replay, and every other trap parks the strand for good and ends its grid.
An event that MODE traps, in any floating-point, packed, special-function or conversion instruction, comparison, scan or
reduction (R174): nothing is written, every event enters the flags, and the record has class 0x08 and, on a lane strand, the
mask of the lanes that raised an enabled event. -/
def Obligations.TakingATrap : Prop :=
  (∀ (s : State) (u : Nat) (st : Strand) (t : Trap), tfind s.strands u = some st → (s.ctxOf (s.ctxNo st)).conf = false →
    tfind s.ctxs (s.ctxNo st) ≠ none →
    let rec_ := s.record st t
    rec_.cls = BitVec.ofNat 8 t.cls ∧ rec_.pc = (t.pc.getD st.pc).extractLsb' 0 48 ∧ rec_.addr = t.addr ∧
    rec_.first = BitVec.ofNat 32 (t.who.getD st.names).1 ∧ rec_.sufn = BitVec.ofNat 32 (t.who.getD st.names).2 ∧
    rec_.wg = BitVec.ofNat 32 (s.wgOf st.wg).w ∧ rec_.core = BitVec.ofNat 10 st.core ∧
    rec_.flags = BitVec.ofNat 8 (t.flags + (if t.fatal || !kindP t.cls then 0 else 1) + (if st.isRange then 2 else 0)) ∧
    (t.cls ≠ 0x13 ∨ s.host.fsrEn = true →
      let x := s.logRecord (s.ctxNo st) rec_
      (x.ctxOf (s.ctxNo st)).log = ((s.ctxOf (s.ctxNo st)).log ++ [rec_]).drop ((s.ctxOf (s.ctxNo st)).log.length + 1 - 1024) ∧
      (t.ends = true → s.takeTrap u t = x.parkEnded u) ∧
      (t.ends = false → st.caps = none →
        s.takeTrap u t = (x.updStrand u fun y => { y with
            block := .parked (BitVec.ofNat 8 t.cls) (s.ctxNo st) t.addr.toNat t.flags
            park := { pc := t.pc.getD y.pc, who := t.who, elems := t.elems } }).askPage
          t.cls (s.ctxNo st) (t.addr.toNat / 0x10000) (fsKind t.flags)))) ∧
  ((∀ (op : BitVec 6 → BitVec 6 → BitVec 6 → BitVec 2 → BitVec 2 → Instr) (f : Env → Word → Word → Word × Ev),
    (op, f) ∈ ([(.vfaddF32, on32 Fmt.f32.add), (.vfsubF32, on32 Fmt.f32.sub), (.vfmulF32, on32 Fmt.f32.mul),
      (.vfminF32, on32 (Fmt.f32.minmax false)), (.vfmaxF32, on32 (Fmt.f32.minmax true)),
      (.vfscaleF32, fun e a b => lane32 (fscale e.ctl32 a.toNat b.toInt)),
      (.vdot2Bf16, fun e a b => lane32 (dot2 e.ctl32 (lo16 a) (hi16 a) (lo16 b) (hi16 b) none)),
      (.vfaddBf16x2, fun e => packed 16 (Fmt.bf16.add e.ctl16)), (.vfmulBf16x2, fun e => packed 16 (Fmt.bf16.mul e.ctl16)),
      (.vfaddF16x2, fun e => packed 16 (Fmt.f16.add e.ctl16)), (.vfmulF16x2, fun e => packed 16 (Fmt.f16.mul e.ctl16)),
      (.vfaddE4m3x4, fun e => packed 8 (Fmt.e4m3.add e.ctl8)), (.vfmulE4m3x4, fun e => packed 8 (Fmt.e4m3.mul e.ctl8)),
      (.vfaddE5m2x4, fun e => packed 8 (Fmt.e5m2.add e.ctl8)), (.vfmulE5m2x4, fun e => packed 8 (Fmt.e5m2.mul e.ctl8))] :
      List ((BitVec 6 → BitVec 6 → BitVec 6 → BitVec 2 → BitVec 2 → Instr) × (Env → Word → Word → Word × Ev))) →
    ∀ d a b ra rb, LaneTrap (op d a b ra rb) d [(a, ra.toNat), (b, rb.toNat)] fun e x => f e (x.getD 0 0) (x.getD 1 0)) ∧
  (∀ (op : BitVec 5 → BitVec 5 → BitVec 5 → BitVec 5 → BitVec 2 → BitVec 2 → BitVec 1 → Instr)
      (f : Env → Word → Word → Word → Word × Ev),
    (op, f) ∈ ([(.vfmaF32, fun e a b c => lane32 (Fmt.f32.fma e.ctl32 a.toNat b.toNat c.toNat)),
      (.vfmaBf16x2, fun e => packed3 (Fmt.bf16.fma e.ctl16)), (.vfmaF16x2, fun e => packed3 (Fmt.f16.fma e.ctl16)),
      (.vdot2aBf16, fun e a b c => lane32 (dot2 e.ctl32 (lo16 a) (hi16 a) (lo16 b) (hi16 b) (some c.toNat)))] :
      List ((BitVec 5 → BitVec 5 → BitVec 5 → BitVec 5 → BitVec 2 → BitVec 2 → BitVec 1 → Instr) ×
        (Env → Word → Word → Word → Word × Ev))) →
    ∀ d a b c ra rb rc, LaneTrap (op d a b c ra rb rc) (d.setWidth 6)
      [(a.setWidth 6, ra.toNat), (b.setWidth 6, rb.toNat), (c.setWidth 6, rc.toNat)]
      fun e x => f e (x.getD 0 0) (x.getD 1 0) (x.getD 2 0)) ∧
  (∀ (op : BitVec 6 → BitVec 6 → Instr) (g : Sfn),
    (op, g) ∈ ([(.vfrcpF32, .rcp), (.vfrsqF32, .rsq), (.vfsqrtF32, .sqrt), (.vfexp2F32, .exp2), (.vflog2F32, .log2),
      (.vfsinpiF32, .sinpi), (.vfcospiF32, .cospi), (.vftanhF32, .tanh)] : List ((BitVec 6 → BitVec 6 → Instr) × Sfn)) →
    ∀ d a, LaneTrap (op d a) d [(a, 0)] fun e x => lane32 (g.apply e.ctl32 (x.getD 0 0).toNat)) ∧
  (∀ d a fn, LaneTrap (.vcvt d a fn) d [(a, 0)] (fun e x => cvtOp fn.toNat e (x.getD 0 0)) ∧
    LaneTrap (.vcvtb d a fn) d [(a, 0)] (fun e x => cvtbOp fn.toNat e (x.getD 0 0)) ∧
    LaneTrap (.vunary d a fn) d [(a, 0)] fun e x => unaryOp fn.toNat e (x.getD 0 0)) ∧
  (∀ d a b fn, LaneTrap (.vpack d a b fn) d (if fn.toNat % 8 < 2 then [(a, 0), (b, 0)] else [(a, 0), (b, 0), (d, 0)])
      (fun e x => packOp fn.toNat e (x.getD 0 0) (x.getD 1 0) (x.getD 2 0)) ∧
    LaneTrap (.vunpack d a b fn) d [(a, 0), (b, 0)] (fun e x => unpackOp fn.toNat e (x.getD 0 0) (x.getD 1 0)) ∧
    EventTrap (.vcmp d a b fn) (fun _ => useK d.toNat ++ useV a ++ useV b)
      fun s st _ j => (compare fn.toNat (s.env st) (s.vreg st a.toNat j) (s.vreg st b.toNat j)).2) ∧
  ∀ (d a : BitVec 6) (fn : BitVec 4),
    EventTrap (.vscan d a fn) (fun _ => useV d ++ useV a) (fun s st act j =>
      (prefixOp (scanOp fn.toNat (s.env st)) (((mates st act j).filter fun x => if fn = 1 ∨ fn = 10 then x < j else x ≤ j).map
        fun x => s.vreg st a.toNat x)).2) ∧
    EventTrap (.vred d a fn) (fun _ => useV d ++ useV a) fun s st act j =>
      (prefixOp (scanOp (redFn fn.toNat) (s.env st)) ((mates st act j).map fun x => s.vreg st a.toNat x)).2)

/-! ## Comparison, selection and work across lanes -/

/-- VCMP and VSEL (R258, R259) on a lane strand.
VCMP on a range strand (R111, R258): an integer condition whose truth changes at most twice along the threads becomes a
run predicate of at most three runs that gives every thread its own truth; with more changes the strand expands. -/
def Obligations.CompareAndSelect : Prop :=
  ((∀ (d a b : BitVec 6) (fn : BitVec 4) (s : State) (c : Issue) (st : Strand) (w : Nat) (m : BitVec 32),
    s.Issues c st (.vcmp d a b fn) (useK d.toNat ++ useV a ++ useV b) → st.kind = .lane w m →
    let act := m &&& st.kmask c.pred.toNat
    let r := fun j => compare fn.toNat (s.env st) (s.vreg st a.toNat j) (s.vreg st b.toNat j)
    (∀ j < 32, act.getLsbD j → trapsOn st.mode (r j).2 = false) →
    ∃ t, exec (.vcmp d a b fn) s = .next t ∧
      s.MaskWritten t c (.vcmp d a b fn) d.toNat act (fun j => (r j).1) ((lanesOf act).foldl (fun e j => e ||| (r j).2) 0)) ∧
  (∀ (d a b : BitVec 6) (k : BitVec 3), OnLanes (.vsel d a b k) (useV d ++ useV a ++ useV b ++ useK k.toNat) d
    fun s st _ j v => v = s.vreg st (if (st.kmask k.toNat).getLsbD j then a else b).toNat j) ∧
  (∀ (d a b : BitVec 6) (k : BitVec 3) (s : State) (c : Issue) (st : Strand) (lo n : Nat) (v : Bool),
    s.Issues c st (.vsel d a b k) (useV d ++ useV a ++ useV b ++ useK k.toNat) → st.kind = .range lo n →
    st.constPred c.pred.toNat = some true → st.constPred k.toNat = some v →
    exec (.vsel d a b k) s = .next (s.stepped c (.vsel d a b k) fun x =>
      { x with forms := tset x.forms d.toNat (st.form (if v then a else b).toNat) }))) ∧
  (∀ (d a b : BitVec 6) (fn : BitVec 4) (s : State) (c : Issue) (st : Strand) (lo n : Nat),
    s.Issues c st (.vcmp d a b fn) (useK d.toNat ++ useV a ++ useV b) → st.kind = .range lo n → 0 < n → fn.toNat < 6 →
    st.constPred c.pred.toNat = some true →
    let truth := fun i => (compare fn.toNat (s.env st) (s.vreg st a.toNat (lo + i)) (s.vreg st b.toNat (lo + i))).1
    let changes := (List.range (n - 1)).countP fun i => truth i != truth (i + 1)
    (changes ≤ 2 → ∃ runs : List (Nat × Bool), runs.length ≤ 3 ∧ (∀ i < n, runsAt i runs = truth i) ∧
      exec (.vcmp d a b fn) s = .next (s.stepped c (.vcmp d a b fn) fun x => { x with runs := tset x.runs d.toNat runs })) ∧
    (2 < changes → exec (.vcmp d a b fn) s = .next ((s.begun c).expandStrand c.uid).ended))

/-- Votes, mask moves and first occurrences (R260, R263, R265): each writes its mask register in the active lanes of each
tile.
Words gathered across the lanes of a tile: VMATCH's mask of equal lanes, VKMOV's ballot, and VCOMPACT (R263 to R265). -/
def Obligations.MasksAndWordsAcrossLanes : Prop :=
  ((∀ d a fn, OnMask (.vvote d a fn) (useK d.toNat ++ (if fn == 2 then useV a else useK a.toNat)) d fun s st act j =>
    match fn.toNat with
    | 0 => (mates st act j).any fun x => (st.kmask a.toNat).getLsbD x
    | 1 => (mates st act j).all fun x => (st.kmask a.toNat).getLsbD x
    | _ => (mates st act j).all fun x => s.vreg st a.toNat x == s.vreg st a.toNat j) ∧
  (∀ d a fn, fn ≠ 0 → OnMask (.vmatch d a fn) (useK d.toNat ++ useV a) d fun s st act j =>
    (mates st act j).all fun x => s.vreg st a.toNat x != s.vreg st a.toNat j || j ≤ x) ∧
  (∀ d a b, OnMask (.vkmov d a b 1) (useK d.toNat ++ useV a) d fun s st _ j =>
    (s.vreg st a.toNat j).getLsbD (j % 2 ^ st.tile.toNat)) ∧
  (∀ (d a b : BitVec 6) (fn : BitVec 4), 2 ≤ fn.toNat → fn.toNat ≤ 7 →
    OnMask (.vkmov d a b fn) (useK d.toNat ++ useK a.toNat ++ (if fn.toNat ≤ 5 then useK b.toNat else [])) d fun _ st _ j =>
      let x := (st.kmask a.toNat).getLsbD j
      let y := (st.kmask b.toNat).getLsbD j
      match fn.toNat with
      | 2 => x && y
      | 3 => x || y
      | 4 => x != y
      | 5 => x && !y
      | 6 => x
      | _ => !x)) ∧
  ((∀ d a, OnLanes (.vmatch d a 0) (useV d ++ useV a) d fun s st act j v => ∀ k < 32,
    v.getLsbD k = (mates st act j).any fun x => x % 2 ^ st.tile.toNat == k && s.vreg st a.toNat x == s.vreg st a.toNat j) ∧
  (∀ d a b, OnLanes (.vkmov d a b 0) (useV d ++ useK a.toNat) d fun _ st act j v => ∀ k < 32,
    v.getLsbD k = (mates st act j).any fun x => x % 2 ^ st.tile.toNat == k && (st.kmask a.toNat).getLsbD x) ∧
  (∀ (d a b : BitVec 6) (fn : BitVec 4) (s : State) (c : Issue) (st : Strand) (w : Nat) (m : BitVec 32),
    s.Issues c st (.vcompact d a b fn) (useV d ++ useV a ++ useK b.toNat) → st.kind = .lane w m →
    let act := m &&& st.kmask c.pred.toNat
    ∃ t, exec (.vcompact d a b fn) s = .next t ∧
      s.LanesWritten t c st (.vcompact d a b fn) d.toNat (fun j =>
        if act.getLsbD j then
          let picked := (mates st act j).filter fun x => (st.kmask b.toNat).getLsbD x
          match picked[(mates st act j).countP fun x => decide (x < j)]? with
          | some x => some (s.vreg st a.toNat x)
          | none => if fn = 1 then some 0 else none
        else none) 0))

/-- Scans and reductions (R261, R262): in each tile, over the active lanes in ascending position, the operation of the
lane's own value with those before it, or with all of them. -/
def Obligations.ScansAndReductions : Prop :=
  (∀ (d a : BitVec 6) (fn : BitVec 4) (s : State) (c : Issue) (st : Strand) (w : Nat) (m : BitVec 32),
    s.Issues c st (.vscan d a fn) (useV d ++ useV a) → st.kind = .lane w m →
    let act := m &&& st.kmask c.pred.toNat
    let r := fun j =>
      if fn = 1 ∨ fn = 10 then prefixOp (scanOp fn.toNat (s.env st)) (((mates st act j).filter (· < j)).map fun x => s.vreg st a.toNat x)
      else prefixOp (scanOp fn.toNat (s.env st)) (((mates st act j).filter (· ≤ j)).map fun x => s.vreg st a.toNat x)
    (∀ j < 32, act.getLsbD j → trapsOn st.mode (r j).2 = false) →
    ∃ t, exec (.vscan d a fn) s = .next t ∧
      s.LanesWritten t c st (.vscan d a fn) d.toNat (fun j => if act.getLsbD j then some (r j).1 else none)
        ((lanesOf act).foldl (fun e j => e ||| (r j).2) 0)) ∧
  (∀ (d a : BitVec 6) (fn : BitVec 4) (s : State) (c : Issue) (st : Strand) (w : Nat) (m : BitVec 32),
    s.Issues c st (.vred d a fn) (useV d ++ useV a) → st.kind = .lane w m →
    let act := m &&& st.kmask c.pred.toNat
    let op := fun x y : Word => match fn.toNat with
      | 0 => (x + y, 0)
      | 1 => (if x.toInt < y.toInt then x else y, 0)
      | 2 => (if x.toInt < y.toInt then y else x, 0)
      | 3 => (if x.toNat < y.toNat then x else y, 0)
      | 4 => (if x.toNat < y.toNat then y else x, 0)
      | 5 => (x &&& y, 0)
      | 6 => (x ||| y, 0)
      | 7 => (x ^^^ y, 0)
      | 8 => lane32 (Fmt.f32.add (s.env st).ctl32 x.toNat y.toNat)
      | 9 => lane32 (Fmt.f32.minmax false (s.env st).ctl32 x.toNat y.toNat)
      | _ => lane32 (Fmt.f32.minmax true (s.env st).ctl32 x.toNat y.toNat)
    let r := fun j => prefixOp op ((mates st act j).map fun x => s.vreg st a.toNat x)
    (∀ j < 32, act.getLsbD j → trapsOn st.mode (r j).2 = false) →
    ∃ t, exec (.vred d a fn) s = .next t ∧
      s.LanesWritten t c st (.vred d a fn) d.toNat (fun j => if act.getLsbD j then some (r j).1 else none)
        ((lanesOf act).foldl (fun e j => e ||| (r j).2) 0)) ∧
  (∀ (e : Env) (x y : Word),
    scanOp 0 e x y = (x + y, 0) ∧ scanOp 1 e x y = (x + y, 0) ∧ scanOp 6 e x y = (x &&& y, 0) ∧ scanOp 7 e x y = (x ||| y, 0) ∧
    scanOp 8 e x y = (x ^^^ y, 0) ∧ scanOp 9 e x y = lane32 (Fmt.f32.add e.ctl32 x.toNat y.toNat) ∧
    scanOp 10 e x y = lane32 (Fmt.f32.add e.ctl32 x.toNat y.toNat) ∧
    scanOp 2 e x y = (if x.toInt < y.toInt then x else y, 0) ∧ scanOp 3 e x y = (if x.toInt < y.toInt then y else x, 0) ∧
    scanOp 4 e x y = (if x.toNat < y.toNat then x else y, 0) ∧ scanOp 5 e x y = (if x.toNat < y.toNat then y else x, 0) ∧
    scanOp 11 e x y = lane32 (Fmt.f32.minmax false e.ctl32 x.toNat y.toNat) ∧
    scanOp 12 e x y = lane32 (Fmt.f32.minmax true e.ctl32 x.toNat y.toNat))

/-- The form queries on a lane strand (R266 to R269): VINDEX, VFORM, VSTRIDE and VEXPAND. -/
def Obligations.FormQueriesAnswer : Prop :=
  (∀ (d : BitVec 6) (fn : BitVec 4), OnLanes (.vindex d fn) (useV d) d fun _ st _ j v =>
    v = BitVec.ofNat 32 (match fn.toNat with
      | 0 => 32 * st.warp + j
      | 1 => j
      | 2 => j % 2 ^ st.tile.toNat
      | _ => st.warp)) ∧
  (∀ (d a : BitVec 6) (fn : BitVec 4), OnLanes (.vform d a fn) (useV d ++ (if fn == 0 then useV a else [])) d fun s st act _ v =>
    v = BitVec.ofNat 32 (match fn.toNat with
      | 0 => (laneForm ((lanesOf act).map fun k => (k, s.vreg st a.toNat k))).1
      | 1 => 32 * st.warp + lowLane act
      | 2 => (lanesOf act).length
      | _ => (s.strands.filter fun x => x.2.wg == st.wg).countP fun x => !x.2.isHandler)) ∧
  (∀ d a : BitVec 6, OnLanes (.vstride d a) (useV d ++ useV a) d fun s st act _ v =>
    v = (laneForm ((lanesOf act).map fun k => (k, s.vreg st a.toNat k))).2) ∧
  (∀ (s : State) (c : Issue) (st : Strand) (w : Nat) (m : BitVec 32), s.Issues c st .vexpand [] → st.kind = .lane w m →
    exec .vexpand s = .next (s.stepped c .vexpand id)) ∧
  (∀ (d a : BitVec 6) (s : State) (c : Issue) (st : Strand) (lo n : Nat), st.kind = .range lo n →
    st.constPred c.pred.toNat = some true →
    (s.Issues c st (.vstride d a) (useV d ++ useV a) →
      exec (.vstride d a) s = .next (s.stepped c (.vstride d a) fun x =>
        { x with forms := tset x.forms d.toNat (uniOf (st.form a.toNat).stride) })) ∧
    (s.Issues c st (.vindex d 0) (useV d) →
      exec (.vindex d 0) s = .next (s.stepped c (.vindex d 0) fun x =>
        { x with forms := tset x.forms d.toNat ⟨BitVec.ofNat 32 lo, 1⟩ })) ∧
    (s.Issues c st (.vform d a 0) (useV d ++ useV a) →
      exec (.vform d a 0) s = .next (s.stepped c (.vform d a 0) fun x =>
        { x with forms := tset x.forms d.toNat (uniOf (if (st.form a.toNat).stride = 0 then 0 else 1)) })))

/-- What VFORM and VSTRIDE find in a warp (R267, R268): class 0 where the active lanes hold one value; class 1 where they hold
an arithmetic progression in the lane number, with the least stride that gives it; class 2 otherwise. -/
def Obligations.LaneFormIsTheLeastStride : Prop :=
  ∀ vs : List (Nat × Word), vs ≠ [] → vs.Pairwise (fun x y => x.1 < y.1) → (∀ x ∈ vs, x.1 < 32) →
    let j0 := (vs.headD (0, 0)).1
    let v0 := (vs.headD (0, 0)).2
    let fits := fun d : Word => ∀ x ∈ vs, x.2 = v0 + d * BitVec.ofNat 32 (x.1 - j0)
    (fits 0 → laneForm vs = (0, 0)) ∧
    (¬ fits 0 → (∃ d, fits d) → (laneForm vs).1 = 1 ∧ fits (laneForm vs).2 ∧ ∀ d, fits d → (laneForm vs).2.toNat ≤ d.toNat) ∧
    ((∀ d, ¬ fits d) → laneForm vs = (2, 0))

/-! ## Memory instructions -/

/-- LANE LOADS (R113, R282 to R284, R286). Where every element passes its checks in this module, a lane strand's VLD, VLDC or
VLDG, or a range strand's with a UNI address, starts an operation in flight whose results are, for every active lane, the
little-endian words that the lane's thread sees at its address; its flag is the clause's set-A flag, and no instruction of
the clause may name its destination until it is over.
The words of loaded bytes (R282): little-endian, i8 and i16 sign-extended, b8 and b16 zero-extended, b64 and b128 over
consecutive registers.
AN OPERATION IN FLIGHT DELIVERS (R186, R218). MEMORY_OPERATION_COMPLETE writes each result of the lanes it names, or of all,
to its lane's register, a result of every thread to the forms of the range strands that hold the operation; with the last
of them the uniform results are there and its flag is free. Nothing else of a strand, and no byte, changes.
The model's choice: which permitted write a read returns (log entry 23), and that VLDC reads at issue what VLD reads
(log entry 25). -/
def Obligations.LaneLoadsReadMemory : Prop :=
  (((∀ vd va k sz off, Loads (.vld vd va k sz off) vd sz (useV vd (szRegs sz) ++ useV va 2 ++ useK k.toNat) (fun _ => k.toNat)
    (uniPair va) (fun s st j => s.pairV st va.toNat j + off.signExtend 64 * BitVec.ofNat 64 (szBytes sz)) none) ∧
  (∀ vd va k sz off, Loads (.vldc vd va k sz off) vd sz (useV vd (szRegs sz) ++ useV va 2 ++ useK k.toNat) (fun _ => k.toNat)
    (uniPair va) (fun s st j => s.pairV st va.toNat j + off.signExtend 64 * BitVec.ofNat 64 (szBytes sz)) none) ∧
  (∀ vd va vb sz scale ahead tag win disp,
    Loads (.vldg vd va vb sz scale ahead tag win disp) vd sz (useV vd (szRegs sz) ++ useV va 2 ++ useV vb) (fun c => c.pred.toNat)
      (fun st => uniPair va st && (st.form vb.toNat).uni)
      (fun s st j => s.pairV st va.toNat j + ((s.vreg st vb.toNat j).setWidth 64 <<< scale.toNat) + disp.signExtend 64)
      (if ahead = 1 then some (tag, win.toNat) else none))) ∧
  ((∀ b : Byte, extend 0 [b] = [b.setWidth 32] ∧ extend 1 [b] = [b.signExtend 32]) ∧
  (∀ b0 b1 : Byte, extend 2 [b0, b1] = [(b1 ++ b0).setWidth 32] ∧ extend 3 [b0, b1] = [(b1 ++ b0).signExtend 32]) ∧
  (∀ b0 b1 b2 b3 : Byte, extend 4 [b0, b1, b2, b3] = [b3 ++ b2 ++ b1 ++ b0]) ∧
  (∀ b0 b1 b2 b3 b4 b5 b6 b7 : Byte, extend 5 [b0, b1, b2, b3, b4, b5, b6, b7] = [b3 ++ b2 ++ b1 ++ b0, b7 ++ b6 ++ b5 ++ b4]) ∧
  (∀ w0 w1 w2 w3 : Word, extend 6 (wordBytes 16 [w0, w1, w2, w3]) = [w0, w1, w2, w3]))) ∧
  (∀ (s : State) (o : Op), tfind s.ops s.arg.a = some o → o.external = false → (∀ r ∈ o.res, r.1 ≤ 32) →
    (o.res.map fun r => (r.1, r.2.1)).Nodup → (o.sres.map (·.1)).Nodup → (tfind (s.wgOf o.wg).warps o.warp).isSome →
    let now := fun j : Nat => s.arg.nats = [] ∨ j ∈ s.arg.nats
    let ends := ∀ r ∈ o.res, now r.1
    ∃ t, exec .memoryOperationComplete s = .next t ∧
      (ends → tfind t.ops s.arg.a = none) ∧
      (¬ ends → ∃ rest, tfind t.ops s.arg.a = some { o with res := rest } ∧ ∀ r, r ∈ rest ↔ r ∈ o.res ∧ ¬ now r.1) ∧
      (∀ k, k ≠ s.arg.a → tfind t.ops k = tfind s.ops k) ∧
      (∀ w r j, j < 32 →
        (w = o.warp → now j → (t.wgOf o.wg).lane w r j =
          ((o.res.find? fun x => x.1 == j && x.2.1 == r).map (·.2.2)).getD ((s.wgOf o.wg).lane w r j)) ∧
        ((w ≠ o.warp ∨ ¬ now j) → (t.wgOf o.wg).lane w r j = (s.wgOf o.wg).lane w r j)) ∧
      (∀ u st, tfind s.strands u = some st → ∃ st', tfind t.strands u = some st' ∧
        { st' with forms := st.forms, s := st.s } = st ∧
        (∀ q, (u ∈ o.holders → st.isRange = true → now 32 → st'.form q =
            ((o.res.find? fun x => x.1 == 32 && x.2.1 == q).map fun x => ⟨x.2.2, 0⟩).getD (st.form q)) ∧
          ((u ∉ o.holders ∨ st.isRange = false ∨ ¬ now 32) → st'.form q = st.form q) ∧
          (u ∈ o.holders → ends → st'.sreg q = ((o.sres.find? fun x => x.1 == q).map (·.2)).getD (st.sreg q)) ∧
          ((u ∉ o.holders ∨ ¬ ends) → st'.sreg q = st.sreg q))) ∧
      t.mem = s.mem ∧ t.home = s.home)

/-- LANE STORES (R128, R282, R283). Where every element passes its checks in this module, VST makes its writes: each thread
then reads its own data back at its own address, and every byte that no element covers reads as before to everyone. Nothing
else changes but the strand's place.
A WRITE REACHES MEMORY AT ITS HOME (R154, R147). Applying a pending write that no other must precede puts its bytes into
memory, but for bytes 12 to 15 of a watched arrival word, and changes no other byte; at the writer's die every applied write
is visible at once. WRITE_VISIBILITY makes every applied write visible at its die, and changes nothing else.
The model's choice (log entry 23): an applied write is visible at once at its writer's die, and at every other die
together by WRITE_VISIBILITY. -/
def Obligations.LaneStoresWriteMemory : Prop :=
  (∀ (vs va : BitVec 6) (k sz : BitVec 3) (off : BitVec 6) (s : State) (c : Issue) (st : Strand) (key : Nat → Nat),
    s.Issues c st (.vst vs va k sz off) (useV va 2 ++ useV vs (szRegs sz) ++ useK k.toNat) → st.isHandler = false →
    (st.isRange = true → st.constPred k.toNat = some true) →
    let n := szBytes sz
    let addr := fun j => s.pairV st va.toNat j + off.signExtend 64 * BitVec.ofNat 64 n
    let ts := if st.isRange then st.rangeTouches n addr else st.laneTouches k.toNat n addr
    s.Lands st .write ts key →
    ∃ t, exec (.vst vs va k sz off) s = .next t ∧
      (∀ x ∈ ts, ∀ b < n, s.waitersByte (key x.j + b) = false → t.viewByte (st.viewAt x.j) (key x.j + b) =
        (wordBytes n ((List.range ((n + 3) / 4)).map fun i => s.vreg st (vs.toNat + i) x.j)).getD b 0) ∧
      (∀ (v : View) (a : Nat), (∀ x ∈ ts, a < key x.j ∨ key x.j + n ≤ a) → t.viewByte v a = s.viewByte v a) ∧
      t.mem = s.mem ∧
      { t with home := s.home, fab := s.fab } = s.stepped c (.vst vs va k sz off) id ∧
      { t.fab with answers := s.fab.answers } = s.fab ∧
      { t.home with misses := s.home.misses, writes := s.home.writes, nextWrite := s.home.nextWrite } = s.home) ∧
  ((∀ (s : State) (die k : Nat) (bytes : List Byte) (covers : Bool),
    let t := s.homeWrite die k bytes covers
    (∀ i < bytes.length, (∀ w ∈ s.home.words, ¬ (w + 12 ≤ k + i ∧ k + i < w + 16)) →
      mget t.mem (k + i) = bytes.getD i 0) ∧
    (∀ a, (a < k ∨ k + bytes.length ≤ a) → mget t.mem a = mget s.mem a) ∧
    (∀ w ∈ s.home.words, ∀ b < 4, mget t.mem (w + 12 + b) = mget s.mem (w + 12 + b)) ∧
    tget t.home.unseen die [] = []) ∧
  (∀ (s : State) (w : PWrite), tfind s.home.writes s.arg.a = some w → s.canApply s.arg.a w = true → s.buffered w = false →
    ∃ t, exec .homeWriteApply s = .next t ∧ tfind t.home.writes s.arg.a = none ∧
      (∀ k, k ≠ s.arg.a → tfind t.home.writes k = tfind s.home.writes k) ∧
      (∀ i < w.bytes.length, (∀ x ∈ s.home.words, ¬ (x + 12 ≤ w.loc + i ∧ w.loc + i < x + 16)) →
        mget t.mem (w.loc + i) = w.bytes.getD i 0) ∧
      ∀ a, (a < w.loc ∨ w.loc + w.bytes.length ≤ a) → (∀ x ∈ s.home.words, ¬ (x + 12 ≤ a ∧ a < x + 16)) →
        mget t.mem a = mget s.mem a) ∧
  (∀ s : State, ∃ t, exec .writeVisibility s = .next t ∧ tget t.home.unseen s.arg.a [] = [] ∧
    (∀ d, d ≠ s.arg.a → tget t.home.unseen d [] = tget s.home.unseen d []) ∧
    { t with home := { t.home with unseen := s.home.unseen } } = s))

/-- LANE ATOMICS (R158, R288, R289). Where every element passes its checks in this module, VATOM acts at the homes on every
active lane in ascending order with nothing between, after every write of the die; unless NR is 1 each lane's old value
is the result of an operation in flight. A range strand acts so only under NR 1, in ascending index.
ONE ATOMIC AT ITS HOME (R158, R183, R288): it answers the old value and stores the operation's result; of 32-bit data, for
each operation. With no watched arrival word every other byte of memory stays. -/
def Obligations.LaneAtomicsActAtTheHome : Prop :=
  (∀ (vd va vb : BitVec 6) (aop : BitVec 5) (w nr : BitVec 1) (vc : BitVec 6) (disp : BitVec 16) (s : State) (c : Issue)
    (st : Strand) (key : Nat → Nat),
    let m := if w = 1 then 2 else 1
    let n := 4 * m
    let i : Instr := .vatom vd va vb aop w nr vc disp
    s.Issues c st i ((if nr = 1 then [] else useV vd m) ++ useV va 2 ++ useV vb m ++ (if aop = 9 then useV vc m else [])) →
    st.isHandler = false → (st.isRange = true → nr = 1 ∧ st.constPred c.pred.toNat = some true) →
    let addr := fun j => s.pairV st va.toNat j + disp.signExtend 64
    let ts := if st.isRange then st.rangeTouches n addr else st.laneTouches c.pred.toNat n addr
    s.Lands st (.atomic (aop == 0 || aop == 8 || aop == 9)) ts key →
    (s.chunkOf st.core (s.ctxNo st) = none ∨ ∀ x ∈ ts, key x.j < 2 ^ 64) →
    let num := fun (r : BitVec 6) (j : Nat) => leNat (s.vbytes st r.toNat n j)
    let x := (State.checkAll (dieOf st.core) (s.who st) (.atomic (aop == 0 || aop == 8 || aop == 9)) st.isRange ts
      (s.begun c)).1
    let r := ts.foldl (fun (r : State × List (Nat × Nat)) e =>
      let p := r.1.atomAt (dieOf st.core) (key e.j) aop.toNat n (num vb e.j) (num vc e.j)
      (p.1, r.2 ++ [(e.j, p.2)])) (x.flushDie (dieOf st.core), [])
    exec i s = .next (((r.1.startOp c (s.at_ st) (if nr = 1 then [] else (List.range m).map (vd.toNat + ·)) []
      (if nr = 1 then [] else r.2.flatMap fun o => (List.range m).map fun q =>
        (o.1, vd.toNat + q, BitVec.ofNat 32 (o.2 / 2 ^ (32 * q)))) [] false none).clearAnswers (.strand c.uid)).retire c i).ended) ∧
  ((∀ (s : State) (die k aop n b cmp : Nat), s.home.words = [] →
    let r := s.atomAt die k aop n b cmp
    r.2 = leNat (mread s.mem k n) ∧
    leNat (mread r.1.mem k n) = atomNew aop (8 * n) (leNat (mread s.mem k n)) b cmp % 256 ^ n ∧
    ∀ a, (a < k ∨ k + n ≤ a) → mget r.1.mem a = mget s.mem a) ∧
  (∀ old b cmp : Word,
    let f := fun aop => BitVec.ofNat 32 (atomNew aop 32 old.toNat b.toNat cmp.toNat)
    f 0 = old + b ∧
    f 1 = (if old.toInt < b.toInt then old else b) ∧ f 2 = (if old.toInt < b.toInt then b else old) ∧
    f 3 = (if old.toNat ≤ b.toNat then old else b) ∧ f 4 = (if old.toNat ≤ b.toNat then b else old) ∧
    f 5 = (old &&& b) ∧ f 6 = (old ||| b) ∧ f 7 = (old ^^^ b) ∧ f 8 = b ∧ f 9 = (if old = cmp then b else old) ∧
    f 10 = BitVec.ofNat 32 (Fmt.f32.homeAdd old.toNat b.toNat) ∧
    f 11 = BitVec.ofNat 32 (Fmt.f32.homePick false old.toNat b.toNat) ∧
    f 12 = BitVec.ofNat 32 (Fmt.f32.homePick true old.toNat b.toNat)))

/-- UNIFORM MEMORY INSTRUCTIONS (R281, R337, R338) outside a capsule, where the element passes its checks in this module: SLD
and SLDC start an operation with the loaded words for the destination registers; SST makes its write; SATOM acts at the
home.
A FAULTING UNIFORM ACCESS (R140, R188, R189): SLD, SLDC, SST and SATOM whose element fails a check trap with the class of
the first check that fails, the element's address, and FLAGS.WRITE for a store or atomic.
The model's choice: SLDC reads its value at issue (log entry 25). -/
def Obligations.UniformMemoryAccesses : Prop :=
  (∀ (s : State) (c : Issue) (st : Strand) (key : Nat), st.caps = none →
    (s.chunkOf st.core (s.ctxNo st) = none ∨ key < 2 ^ 64) →
    (∀ (i : Instr) (sd sa : BitVec 6) (sz : BitVec 3) (off : BitVec 9), i = .sld sd sa sz off ∨ i = .sldc sd sa sz off →
      s.Issues c st i (useS sd (szRegs sz) ++ useS sa 2) →
      let n := szBytes sz
      s.resolve (dieOf st.core) (s.who st) .read (st.dreg sa.toNat + off.signExtend 64 * BitVec.ofNat 64 n) n = .ok (.loc key) →
      ∃ t, exec i s = .next t ∧
        t.ops = tset s.ops s.next
          { flag := (st.clause.map (·.setA)).getD 15, setB := false, holders := [c.uid], wg := st.wg, warp := st.warp, dstV := []
            dstS := (List.range (szRegs sz)).map (sd.toNat + ·), res := []
            sres := ((extend sz (s.view st.view key n)).zipIdx).map fun w => (sd.toNat + w.2, w.1), external := false
            ahead := none } ∧
        s.Touched t c i fun x => { x with clause := x.clause.map fun k =>
          { k with dst := k.dst ++ (List.range (szRegs sz)).map fun q => (2, sd.toNat + q) } }) ∧
    (∀ (ss sa : BitVec 6) (sz : BitVec 3) (off : BitVec 9),
      s.Issues c st (.sst ss sa sz off) (useS sa 2 ++ useS ss (szRegs sz)) →
      let n := szBytes sz
      s.resolve (dieOf st.core) (s.who st) .write (st.dreg sa.toNat + off.signExtend 64 * BitVec.ofNat 64 n) n = .ok (.loc key) →
      ∃ t, exec (.sst ss sa sz off) s = .next t ∧
        ((0 < st.count ∨ st.isHandler = true) → ∀ b < n, s.waitersByte (key + b) = false → t.viewByte st.view (key + b) =
          (wordBytes n ((List.range ((n + 3) / 4)).map fun q => st.sreg (ss.toNat + q))).getD b 0) ∧
        (∀ (v : View) (a : Nat), (a < key ∨ key + n ≤ a) → t.viewByte v a = s.viewByte v a) ∧ t.mem = s.mem ∧
        { t with home := s.home } = s.stepped c (.sst ss sa sz off) id ∧
        { t.home with misses := s.home.misses, writes := s.home.writes, nextWrite := s.home.nextWrite } = s.home) ∧
    (∀ (sa sb sc : BitVec 6) (aop : BitVec 5) (w nr : BitVec 1) (cmp : BitVec 6) (disp : BitVec 16),
      let m := if w = 1 then 2 else 1
      let n := 4 * m
      let i : Instr := .satom sa sb sc aop w nr cmp disp
      s.Issues c st i ((if nr = 1 then [] else useS sc m) ++ useS sa 2 ++ useS sb m ++ (if aop = 9 then useS cmp m else [])) →
      let addr := st.dreg sa.toNat + disp.signExtend 64
      s.resolve (dieOf st.core) (s.who st) (.atomic (aop == 0 || aop == 8 || aop == 9)) addr n = .ok (.loc key) →
      let r := (((s.begun c).noteMiss (dieOf st.core) (s.who st) addr).flushDie (dieOf st.core)).atomAt (dieOf st.core) key
        aop.toNat n (leNat (st.sbytes sb.toNat n)) (leNat (st.sbytes cmp.toNat n))
      exec i s = .next ((r.1.startOp c (s.at_ st) [] (if nr = 1 then [] else (List.range m).map (sc.toNat + ·)) []
        (if nr = 1 then [] else (List.range m).map fun q => (sc.toNat + q, BitVec.ofNat 32 (r.2 / 2 ^ (32 * q)))) false none).retire
          c i).ended)) ∧
  (∀ (s : State) (c : Issue) (st : Strand) (k : Nat), st.caps = none →
    let trap := fun (addr : DWord) (flags : Nat) =>
      ((((s.begun c).noteMiss (dieOf st.core) (s.who st) addr).clearAnswers (.strand c.uid)).takeTrap c.uid
        { cls := k, addr := addr, flags := flags, pc := some c.pc, elems := [(k, 0, addr.toNat)] }).ended
    (∀ (i : Instr) (sd sa : BitVec 6) (sz : BitVec 3) (off : BitVec 9), i = .sld sd sa sz off ∨ i = .sldc sd sa sz off →
      s.Issues c st i (useS sd (szRegs sz) ++ useS sa 2) →
      let addr := st.dreg sa.toNat + off.signExtend 64 * BitVec.ofNat 64 (szBytes sz)
      s.resolve (dieOf st.core) (s.who st) .read addr (szBytes sz) = .error (.cls k) → exec i s = .next (trap addr 0)) ∧
    (∀ (ss sa : BitVec 6) (sz : BitVec 3) (off : BitVec 9), s.Issues c st (.sst ss sa sz off) (useS sa 2 ++ useS ss (szRegs sz)) →
      let addr := st.dreg sa.toNat + off.signExtend 64 * BitVec.ofNat 64 (szBytes sz)
      s.resolve (dieOf st.core) (s.who st) .write addr (szBytes sz) = .error (.cls k) →
      exec (.sst ss sa sz off) s = .next (trap addr 8)) ∧
    (∀ (sa sb sc : BitVec 6) (aop : BitVec 5) (w nr : BitVec 1) (cmp : BitVec 6) (disp : BitVec 16),
      let m := if w = 1 then 2 else 1
      s.Issues c st (.satom sa sb sc aop w nr cmp disp)
        ((if nr = 1 then [] else useS sc m) ++ useS sa 2 ++ useS sb m ++ (if aop = 9 then useS cmp m else [])) →
      let addr := st.dreg sa.toNat + disp.signExtend 64
      s.resolve (dieOf st.core) (s.who st) (.atomic (aop == 0 || aop == 8 || aop == 9)) addr (4 * m) = .error (.cls k) →
      exec (.satom sa sb sc aop w nr cmp disp) s = .next (trap addr 8)))

/-- THE CHECKS OF ONE ELEMENT (R133, R134, R140). An address outside every region is unmapped; in the paged region and the
S-window a misaligned element of 2, 4, 8 or 16 bytes faults as misaligned after that; a paged element that a cached
translation maps is refused as write-protected without W, or in the code heap, and of device memory is the byte of that
leaf: sealed where the page is another, confidential context's (R57, R63).
The model's reading: class 0x15 for a store to the code heap (log entry 96), and the sealed page (log entry 97). -/
def Obligations.ElementChecks : Prop :=
  ∀ (s : State) (die n : Nat) (who : Who) (acc : Acc) (a : DWord),
    let region := a.toNat / 2 ^ 56
    (4 ≤ region → region < 255 → s.resolve die who acc a n = .error (.cls 0x10)) ∧
    (region = 0 → a.toNat < 2 ^ 56 → n ∈ [2, 4, 8, 16] → a.toNat % n ≠ 0 → s.resolve die who acc a n = .error (.cls 0x11)) ∧
    (region = 1 → 2 ^ 30 ≤ a.toNat % 2 ^ 56 → s.resolve die who acc a n = .error (.cls 0x10)) ∧
    (region = 1 → a.toNat % 2 ^ 56 < 2 ^ 30 → n ∈ [2, 4, 8, 16] → a.toNat % n ≠ 0 →
      s.resolve die who acc a n = .error (.cls 0x11)) ∧
    (region = 2 → ∀ g, who.wg = some g →
      let bound := (s.gridOf (s.wgOf g).grid).paramsz
      (bound < a.toNat % 2 ^ 56 + n → s.resolve die who acc a n = .error (.cls 0x10)) ∧
      (a.toNat % 2 ^ 56 + n ≤ bound → n ∈ [2, 4, 8, 16] → a.toNat % n ≠ 0 → s.resolve die who acc a n = .error (.cls 0x11)) ∧
      (a.toNat % 2 ^ 56 + n ≤ bound → (∀ k ∈ [2, 4, 8, 16], n = k → a.toNat % n = 0) → acc.writes = true →
        s.resolve die who acc a n = .error (.cls 0x17))) ∧
    (region = 0 → (∀ k ∈ [2, 4, 8, 16], n = k → a.toNat % n = 0) → ∀ e b, s.cached who.ctx a.toNat = some (e, b) →
      let k := pteAddr e + a.toNat % 2 ^ b
      (acc.writes = true → (pteW e = false ∨ (s.ctxOf who.ctx).inHeap a.toNat n = true) →
        s.resolve die who acc a n = .error (.cls 0x15)) ∧
      ((acc.writes = true → pteW e = true ∧ (s.ctxOf who.ctx).inHeap a.toNat n = false) →
        (acc = .fetch → pteX e = true) → pteTarget e = 0 → k + n ≤ s.memTop →
        s.home.poison = [] → (∀ w, (s.window w).failed = false) →
        ((∀ o, s.confOf k = some o → o = who.ctx) → s.resolve die who acc a n = .ok (.loc k)) ∧
        (∀ o, s.confOf k = some o → o ≠ who.ctx → s.resolve die who acc a n = .ok (.sealed k o))))

/-- PREFETCH, PER-THREAD COPIES AND BATCHES (R149, R285, R290, R291). VPREF changes nothing but the misses of the walks; VCOPY
whose checks pass puts one copy for every active thread into its thread's open set, after the die's earlier stores have
reached their homes; BSEAL moves the open sets of the strand's
threads into the batch; BWAIT goes on where the batch is empty. -/
def Obligations.CopiesAndBatches : Prop :=
  (∀ (hint va : BitVec 6) (k : BitVec 3) (off : BitVec 6) (s : State) (c : Issue) (st : Strand),
    s.Issues c st (.vpref hint va k off) (useV va 2 ++ useK k.toNat) → (st.isRange = true → st.constPred k.toNat = some true) →
    ∃ t, exec (.vpref hint va k off) s = .next t ∧ { t with home := s.home } = s.stepped c (.vpref hint va k off) id ∧
      { t.home with misses := s.home.misses } = s.home) ∧
  (∀ (vd va vb : BitVec 6) (l : BitVec 3) (s : State) (c : Issue) (st : Strand) (w : Nat) (m : BitVec 32),
    s.Issues c st (.vcopy vd va vb l) (useV vd 2 ++ useV va 2 ++ useV vb) →
    (st.kind = .lane w m ∨ ∃ lo n, st.kind = .range lo n ∧ st.constPred c.pred.toNat = some true) → st.park.elems = [] →
    let size := 2 ^ l.toNat
    let dst := s.pairV st vd.toNat
    let valid := fun j => min (s.vreg st vb.toNat j).toNat size
    let ts := if st.isRange then st.rangeTouches size dst else st.laneTouches c.pred.toNat size dst
    (∀ x ∈ ts, s.copyCheck st (dst x.j) (s.pairV st va.toNat x.j) size (valid x.j) = none) →
    ∃ t, exec (.vcopy vd va vb l) s = .next t ∧
      t.copies = (ts.zipIdx).foldl (fun l x => tset l (s.next + x.2)
        { wg := st.wg, uid := c.uid, thread := st.thread x.1.j, batch := none, dst := 2 ^ 40 + (dst x.1.j).toNat % 2 ^ 56
          src := s.pairV st va.toNat x.1.j, size := size, valid := valid x.1.j, pc := c.pc, inst := s.next, failed := none })
        s.copies ∧
      { t with copies := s.copies, next := s.next, fab := s.fab } =
        (((s.begun c).flushDie (dieOf st.core)).retire c (.vcopy vd va vb l)).ended ∧
      { t.fab with answers := s.fab.answers } = s.fab) ∧
  (∀ (b : BitVec 3) (s : State) (c : Issue) (st : Strand), s.Issues c st (.bseal b) [] →
    exec (.bseal b) s = .next { s.stepped c (.bseal b) id with
      copies := tmap s.copies fun _ x =>
        if x.wg == st.wg && st.holds x.thread && x.batch.isNone then { x with batch := some b } else x }) ∧
  (∀ (b : BitVec 3) (s : State) (c : Issue) (st : Strand), s.Issues c st (.bwait b) [] →
    (st.async.all fun a => !a.waitOn.contains (.batch b)) = true →
    ((∀ x ∈ s.copies, x.2.wg = st.wg → st.holds x.2.thread = true → x.2.batch ≠ some b) →
      exec (.bwait b) s = .next (s.stepped c (.bwait b) id)) ∧
    ((∃ x ∈ s.copies, x.2.wg = st.wg ∧ st.holds x.2.thread = true ∧ x.2.batch = some b) →
      exec (.bwait b) s = .next ((s.begun c).wait c (.bwait b)).ended))

/-- ARRIVAL WORDS (R147, R148, R292, R293). AWINIT writes TARGET and zero COUNT at the home; AWAIT goes on with status 0 where
GEN is not the generation it names, and otherwise waits, without a limit for a duration of 0; an arrival of b bytes adds b
to COUNT, and each full TARGET advances GEN by one.
The model's choice: when a word begins and ceases to be watched (log entry 109). -/
def Obligations.ArrivalWords : Prop :=
  (∀ (sa sb : BitVec 6) (s : State) (c : Issue) (st : Strand) (k : Nat), s.Issues c st (.awinit sa sb) (useS sa 2 ++ useS sb) →
    s.wordAt st .write (st.dreg sa.toNat) = .ok k →
    exec (.awinit sa sb) s = .next (((((s.begun c).watchWord k).flushDie (dieOf st.core)).homeStore (dieOf st.core) k
      (leBytes 4 (st.sreg sb.toNat).toNat ++ leBytes 4 0) false).retire c (.awinit sa sb)).ended) ∧
  (∀ (sa sb sc : BitVec 6) (s : State) (c : Issue) (st : Strand) (k : Nat),
    s.Issues c st (.await sa sb sc) (useS sc ++ useS sa 2 ++ useS sb) → s.wordAt st .read (st.dreg sa.toNat) = .ok k →
    (st.async.all fun a => !a.waitOn.contains (.word k)) = true →
    let x := ((s.begun c).watchWord k).flushDie (dieOf st.core)
    (BitVec.ofNat 32 (leNat (mread x.mem (k + 8) 4)) ≠ st.sreg sb.toNat →
      exec (.await sa sb sc) s =
        .next (((x.acquireAt (s.at_ st) 4).updStrand c.uid fun y => y.setS sc.toNat 0).retire c (.await sa sb sc)).ended) ∧
    (BitVec.ofNat 32 (leNat (mread x.mem (k + 8) 4)) = st.sreg sb.toNat →
      exec (.await sa sb sc) s = .next ((x.wait c (.await k (st.sreg sb.toNat)
        (if st.sreg sc.toNat = 0 then none else some (x.mod.tick.toNat + (st.sreg sc.toNat).toNat)) sc)).countWaiters k).ended)) ∧
  (∀ (s : State) (die k b : Nat), s.home.words = [] →
    let target := leNat (mread s.mem k 4)
    let total := leNat (mread s.mem (k + 4) 4) + b
    target ≠ 0 →
    let t := s.arrive die k b
    leNat (mread t.mem k 4) = target ∧ leNat (mread t.mem (k + 4) 4) = total % target ∧
    leNat (mread t.mem (k + 8) 4) = (leNat (mread s.mem (k + 8) 4) + total / target) % 2 ^ 32)

/-! ## Control transfers -/

/-- UNIFORM TRANSFERS (R126, R217, R222, R339). JMP, BRZ, BRNZ, CALL and CALLR go to their target where its word is a clause
header, and trap with class 0x03 where it is not; a branch not taken goes to the word after its clause; a call leaves that
address on the return stack, and RET takes the newest back. A RET without an address, and a call whose eight on-chip entries
find no frame, trap with class 0x07. -/
def Obligations.UniformTransfers : Prop :=
  ∀ (s : State) (c : Issue) (st : Strand),
    let fall := (st.clause.map Clause.stop).getD (st.pc + 4)
    (∀ off : BitVec 24, Transfers (.jmp off) s c st [] (c.pc + 4 * off.signExtend 64) id) ∧
    (∀ (sa : BitVec 6) (off : BitVec 18),
      (st.sreg sa.toNat = 0 → Transfers (.brz sa off) s c st (useS sa) (c.pc + 4 * off.signExtend 64) id) ∧
      (st.sreg sa.toNat ≠ 0 → s.Issues c st (.brz sa off) (useS sa) →
        exec (.brz sa off) s = .next (s.jumped c fall id)) ∧
      (st.sreg sa.toNat ≠ 0 → Transfers (.brnz sa off) s c st (useS sa) (c.pc + 4 * off.signExtend 64) id) ∧
      (st.sreg sa.toNat = 0 → s.Issues c st (.brnz sa off) (useS sa) →
        exec (.brnz sa off) s = .next (s.jumped c fall id))) ∧
    (st.ret.length < 8 →
      (∀ off : BitVec 24, Transfers (.call off) s c st [] (c.pc + 4 * off.signExtend 64) fun x => { x with ret := fall :: st.ret }) ∧
      (∀ sa : BitVec 6, Transfers (.callr sa) s c st (useS sa 2) (st.dreg sa.toNat) fun x => { x with ret := fall :: st.ret })) ∧
    (∀ off : BitVec 24, s.Issues c st (.call off) [] → 8 ≤ st.ret.length → s.freeFrames c.uid st 1 = none →
      (s.begun c).awaitTargets c (s.at_ st) [c.pc + 4 * off.signExtend 64] = none →
      s.badTarget c.uid st (c.pc + 4 * off.signExtend 64) = false →
      exec (.call off) s =
        .next (((s.begun c).clearAnswers (.strand c.uid)).takeTrap c.uid { cls := 0x07, pc := some c.pc }).ended) ∧
    (∀ r rs, s.Issues c st .ret [] → st.ret = r :: rs →
      (∀ e ∈ st.div.head?, e.tag ≠ 8 ∨ e.depth ≠ rs.length + 8 * st.frames.length) → (∀ x ∈ s.strands, x.2.block ≠ .target) →
      exec .ret s =
        .next ((s.jumped c r fun x => { x with ret := rs, frames := st.frames }).clearAnswers (.strand c.uid))) ∧
    (s.Issues c st .ret [] → st.ret = [] → st.frames = [] →
      exec .ret s = .next (s.trapped c { cls := 0x07, pc := some c.pc }))

/-- LANE TRANSFERS whose outcome is one for the whole strand (R271, R272, R274 to R276): they move the strand and push nothing
on the divergence stack.
The case a value takes (R272): the first inline word whose high half, zero-extended, is the value. -/
def Obligations.LaneTransfersOfAWholeStrand : Prop :=
  (∀ (s : State) (c : Issue) (st : Strand),
    let fall := (st.clause.map Clause.stop).getD (st.pc + 4)
    (∀ (k tag : BitVec 3) (off : BitVec 18) (b : Bool),
      (∀ lo n, st.kind = .range lo n → st.constPred k.toNat = some b) →
      (∀ w m, st.kind = .lane w m → m ≠ 0 ∧ ∀ j < 32, m.getLsbD j = true → (st.kmask k.toNat).getLsbD j = b) →
      st.isHandler = false →
      (b = true → Transfers (.vbr k tag off) s c st (useK k.toNat) (c.pc + 4 * off.signExtend 64) id) ∧
      (b = false → s.Issues c st (.vbr k tag off) (useK k.toNat) → exec (.vbr k tag off) s = .next (s.jumped c fall id)) ∧
      (b = false → Transfers (.vbrn k tag off) s c st (useK k.toNat) (c.pc + 4 * off.signExtend 64) id) ∧
      (b = true → s.Issues c st (.vbrn k tag off) (useK k.toNat) → exec (.vbrn k tag off) s = .next (s.jumped c fall id))) ∧
    (∀ (tag : BitVec 3) (va : BitVec 6) (cases : List Word) (n : Nat),
      ((∃ w m, st.kind = .lane w m ∧ m ≠ 0 ∧ ∀ j < 32, m.getLsbD j = true → caseOf cases (s.vreg st va.toNat j) = n) ∨
        (∃ lo k, st.kind = .range lo k ∧ (st.form va.toNat).stride = 0 ∧ caseOf cases (st.form va.toNat).base = n)) →
      (n = 0 → s.Issues c st (.vswitch tag va cases) (useV va) →
        exec (.vswitch tag va cases) s = .next (s.jumped c fall id)) ∧
      (n ≠ 0 → Transfers (.vswitch tag va cases) s c st (useV va)
        (c.pc + 4 * ((cases.getD (n - 1) 0).extractLsb' 0 16).signExtend 64) id)) ∧
    (st.ret.length < 8 →
      (∀ off : BitVec 18, Transfers (.vcall off) s c st [] (c.pc + 4 * off.signExtend 64) fun x => { x with ret := fall :: st.ret }) ∧
      (∀ (va : BitVec 6) (t : DWord),
        ((∃ w m, st.kind = .lane w m ∧ m ≠ 0 ∧ ∀ j < 32, m.getLsbD j = true → s.pairV st va.toNat j = t) ∨
          (∃ lo n, st.kind = .range lo n ∧ (st.form va.toNat).stride = 0 ∧ (st.form (va.toNat + 1)).stride = 0 ∧
            s.pairV st va.toNat lo = t)) →
        Transfers (.vcallr va) s c st (useV va 2) t fun x => { x with ret := fall :: st.ret })) ∧
    (∀ off : BitVec 18, s.Issues c st (.vcall off) [] → 8 ≤ st.ret.length → s.freeFrames c.uid st 1 = none →
      (s.begun c).awaitTargets c (s.at_ st) [c.pc + 4 * off.signExtend 64] = none →
      s.badTarget c.uid st (c.pc + 4 * off.signExtend 64) = false →
      exec (.vcall off) s =
        .next (((s.begun c).clearAnswers (.strand c.uid)).takeTrap c.uid { cls := 0x07, pc := some c.pc }).ended) ∧
    (∀ r rs, s.Issues c st .vret [] → st.ret = r :: rs →
      (∀ e ∈ st.div.head?, e.tag ≠ 8 ∨ e.depth ≠ rs.length + 8 * st.frames.length) → (∀ x ∈ s.strands, x.2.block ≠ .target) →
      exec .vret s =
        .next ((s.jumped c r fun x => { x with ret := rs, frames := st.frames }).clearAnswers (.strand c.uid))) ∧
    (s.Issues c st .vret [] → st.ret = [] → st.frames = [] →
      exec .vret s = .next (s.trapped c { cls := 0x07, pc := some c.pc }))) ∧
  (∀ (cases : List Word) (v : Word),
    (∀ n, caseOf cases v = n + 1 → n < cases.length ∧ ((cases.getD n 0).extractLsb' 16 16).setWidth 32 = v ∧
      ∀ i < n, ((cases.getD i 0).extractLsb' 16 16).setWidth 32 ≠ v) ∧
    (caseOf cases v = 0 ↔ ∀ x ∈ cases, (x.extractLsb' 16 16).setWidth 32 ≠ v))

/-- BRANCHES DIVERGE (R114, R115, R271, R272): VBR, VBRN and VSWITCH whose outcomes differ among a strand's threads. A lane
strand becomes one strand for each outcome, in the order of their lowest lanes, with the same registers and masks and a new
GROUP entry on each; outcomes without a slot wait in DEFER entries above it. A range strand becomes one strand for each run,
or expands: with more than three runs, or without a slot and a form entry for every child. It waits first for its busy
set-A flags (R116).
VCALLR whose lanes name several targets (R62, R275) splits so by target, with CALLJOIN entries of tag 8, every child standing
at the VCALLR; beyond eight targets the other lanes wait there in one strand.
That the sibling's copy of a DEFER entry names no lanes is the model's choice (log entry 62). -/
def Obligations.BranchDivergence : Prop :=
  (∀ (k tag : BitVec 3) (off : BitVec 18),
    let num := fun (_ : State) (st : Strand) j => if (st.kmask k.toNat).getLsbD j then 1 else 0
    let sp := fun (_ : State) (st : Strand) => st.spansOfK k.toNat
    let there := fun (c : Issue) => c.pc + 4 * off.signExtend 64
    Diverges (.vbr k tag off) (useK k.toNat) tag num sp (fun c n => if n = 1 then some (there c) else none) ∧
    Diverges (.vbrn k tag off) (useK k.toNat) tag num sp (fun c n => if n = 0 then some (there c) else none)) ∧
  (∀ (tag : BitVec 3) (va : BitVec 6) (cases : List Word),
    Diverges (.vswitch tag va cases) (useV va) tag (fun s st j => caseOf cases (s.vreg st va.toNat j))
      (fun s st => if (st.form va.toNat).uni then [] else st.spansBy fun j => caseOf cases (s.vreg st va.toNat j))
      (fun c n => if n = 0 then none
        else some (c.pc + 4 * ((cases.getD (n - 1) 0).extractLsb' 0 16).signExtend 64))) ∧
  (∀ (st : Strand) (lo n : Nat), st.kind = .range lo n →
    (∀ k, MaximalRuns (fun i => if runsAt i (st.krun k) then 1 else 0) (st.spansOfK k)) ∧
    ∀ f, MaximalRuns (fun i => f (lo + i)) (st.spansBy f) ∧ ∀ i < n, ∃ x ∈ st.spansBy f, x.1 ≤ i ∧ i < x.1 + x.2.1) ∧
  (∀ (m : BitVec 32) (p : Nat → Bool) (j : Nat), j < 32 → (maskWhere (lanesOf m) p).getLsbD j = (m.getLsbD j && p j)) ∧
  (∀ (s : State) (c : Issue) (st : Strand) (va : BitVec 6) (w : Nat) (m : BitVec 32), s.Issues c st (.vcallr va) (useV va 2) →
    st.kind = .lane w m →
    let at_ := fun j => s.pairV st va.toNat j
    let ts := ((lanesOf m).map at_).eraseDups
    let lanes := fun p => maskWhere (lanesOf m) p
    let live := BitVec.ofNat 8 (2 ^ s.blocks st - 1)
    let g := fun x => { groupEntry 8 (s.wgOf st.wg).group 2 st.depth live with part := 1 + lowLane x }
    let here := fun x => (x, st.pc, (s.at_ st).clause)
    2 ≤ ts.length → (s.begun c).awaitTargets c (s.at_ st) ts = none →
    (∀ x ∈ ts, (s.begun c).badTarget c.uid (s.at_ st) x = false) →
    (ts.length ≤ 8 → MaySplit s c st ts.length → ∃ t, exec (.vcallr va) s = .next t ∧
      LaneSplit s t c st w 8 (ts.map fun x => here (lanes fun j => at_ j == x)) g live) ∧
    (8 < ts.length → MaySplit s c st 9 → splitsOf s st + 9 ≤ 33 →
      (∀ x ∈ s.strands, x.1 ≠ c.uid → x.2.wg = st.wg → x.2.warp = st.warp → x.2.mask &&& m = 0) →
      let rest := lanes fun j => !(ts.take 8).contains (at_ j)
      ∃ t x, exec (.vcallr va) s = .next t ∧ SplitFrame s t c st 8 ∧ tfind t.strands (s.next + 7) = some x ∧
        x.block = .target ∧ x.kind = .lane w rest ∧ ChildOf st { x with block := .none } st.pc (s.at_ st).clause
          (g rest :: st.div.map DivEntry.emptied) ∧
        ∀ n < 8, ∃ v a, ts[n]? = some v ∧ tfind t.strands (if n = 0 then c.uid else s.next + (n - 1)) = some a ∧
          let y := lanes fun j => at_ j == v
          a.kind = .lane w y ∧ a.masks = st.masks ∧
          ChildOf st a st.pc (s.at_ st).clause (g y :: if n = 0 then st.div else st.div.map DivEntry.emptied)))

/-- JOINS (R118, R273). VJOIN and VREFORM with a tag that the top entry does not have go on, the VREFORM recompacting the strand where it can be; a DEFER entry with lanes of the
tag runs them where they stand and leaves the strand's own lanes waiting at the join; one whose lanes have all run gives the
waiting lanes back to the strand, which joins anew at the entry below it; a GROUP entry, or for tag 0 an empty
stack, arrives at the group's join.
A JOIN WITHOUT SIBLINGS (R119, R120): a strand that arrives at the join of its group while no other strand holds the group,
with idle set-A flags, goes on at once with the entry popped.
The model's reading: a VREFORM whose tag does not match still recompacts (log entry 78). -/
def Obligations.JoinsActOnTheTopEntry : Prop :=
  (∀ (s : State) (c : Issue) (st : Strand) (i : Instr) (tag : BitVec 3) (live : BitVec 8) (re : Bool),
    (i, re) = (.vjoin tag live, false) ∨ (i, re) = (.vreform tag live, true) → s.Issues c st i [] → st.isHandler = false →
    ((∀ x ∈ st.div.head?, x.tag ≠ tag.setWidth 4) → (st.div = [] → tag ≠ 0) → s.busyA c.uid = false →
      let t := (s.begun c).updStrand c.uid fun x => x.complete s.mod.clock
      exec i s = .next (if re then t.reform c.uid live else t).ended) ∧
    (st.div = [] → tag = 0 → exec i s = .next ((s.begun c).groupJoin c.uid none 0 live re).ended) ∧
    (∀ e r, st.div = e :: r → e.tag = tag.setWidth 4 →
      (e.kind = 0 → exec i s = .next ((s.begun c).groupJoin c.uid (some e.maskA) e.tag live re).ended) ∧
      (∀ w m, st.kind = .lane w m → e.kind = 1 → e.maskA ≠ 0 →
        ∃ t a, exec i s = .next t ∧ tfind t.strands c.uid = some a ∧ a.kind = .lane w e.maskA ∧ a.pc = e.pc.setWidth 64 ∧
          a.clause = e.clause ∧ a.ret = e.ret ∧ a.frames = e.frames ∧
          a.div = { e with maskB := e.maskB ||| m, maskA := 0, pc := st.pc.extractLsb' 0 48, clause := (s.at_ st).clause
                           barw := false, ret := st.ret, frames := st.frames } :: r ∧
          (∀ u, u ≠ c.uid → tfind t.strands u = tfind s.strands u) ∧ t.wgs = s.wgs ∧ t.mem = s.mem) ∧
      (∀ w m, st.kind = .lane w m → e.kind = 1 → e.maskA = 0 →
        let x := (s.begun c).updStrand c.uid fun y => { y with kind := .lane w (m ||| e.maskB), div := r }
        (r = [] → tag = 0 → exec i s = .next (x.groupJoin c.uid none 0 live re).ended) ∧
        ((∀ d ∈ r.head?, d.tag ≠ tag.setWidth 4) → (r = [] → tag ≠ 0) → s.busyA c.uid = false →
          let t := x.updStrand c.uid fun y => y.complete s.mod.clock
          exec i s = .next (if re then t.reform c.uid live else t).ended) ∧
        (∀ d q, r = d :: q → d.tag = tag.setWidth 4 →
          (d.kind ≠ 1 → exec i s = .next (x.groupJoin c.uid (some d.maskA) d.tag live re).ended) ∧
          (d.kind = 1 → d.maskA ≠ 0 → exec i s = .next (x.updStrand c.uid fun y =>
            y.swapIn d q (m ||| e.maskB) (st.pc.extractLsb' 0 48) (s.at_ st).clause false).ended))))) ∧
  (∀ (s : State) (c : Issue) (st : Strand) (tag : BitVec 3) (live : BitVec 8) (e : DivEntry) (r : List DivEntry) (w : Nat)
    (m : BitVec 32), s.Issues c st (.vjoin tag live) [] → st.kind = .lane w m → st.div = e :: r → e.kind = 0 →
    e.tag = tag.setWidth 4 → s.busyA c.uid = false → (∀ ks, s.frameData c.uid st ≠ .error (.remote ks)) →
    (s.strands.map (·.1)).Nodup →
    (∀ x ∈ s.strands, x.1 ≠ c.uid → x.2.joinAt = none ∧ (x.2.wg = st.wg → ∀ y ∈ x.2.div, y.maskA ≠ e.maskA)) →
    ∃ t a, exec (.vjoin tag live) s = .next t ∧ tfind t.strands c.uid = some a ∧ a.div = r ∧ a.kind = .lane w m ∧
      a.block = .none ∧ a.s = st.s ∧ (∀ u, u ≠ c.uid → tfind t.strands u = tfind s.strands u) ∧ t.wgs = s.wgs ∧ t.mem = s.mem)

/-- THE ENDS OF A STRAND (R93, R199, R277): VEXIT and EXIT of a strand remove it, and its lanes or threads have
exited; where an entry of a lane strand's divergence stack holds deferred or waiting lanes, the topmost such lanes go on in
its place, with the calls that they had. ERET removes the handler
strand.
The model's reading: an exit looks for waiting lanes below GROUP entries too (log entry 62), and they have their own
calls (log entry 115). -/
def Obligations.ExitsEndThreads : Prop :=
  (∀ (s : State) (c : Issue) (st : Strand) (i : Instr) (w : Nat) (m : BitVec 32), i = .vexit ∨ i = .exit → s.Issues c st i [] →
    st.kind = .lane w m → st.caps = none → (∀ x ∈ s.strands, x.2.arrivals = [] ∧ x.2.block ≠ .target) →
    (∀ d ∈ s.fab.dbar, dbarEn d.2 = false) → (tfind s.wgs st.wg).isSome →
    let bare := fun l : List DivEntry => ∀ d ∈ l, d.kind = 1 → d.maskA = 0 ∧ d.maskB = 0
    (bare st.div → ∃ t, exec i s = .next t ∧ tfind t.strands c.uid = none ∧
      (∀ u, u ≠ c.uid → tfind t.strands u = tfind s.strands u) ∧
      tget (t.wgOf st.wg).exited w 0 = (tget (s.wgOf st.wg).exited w 0 ||| m) ∧ t.mem = s.mem) ∧
    (∀ p e r, st.div = p ++ e :: r → bare p → e.kind = 1 → e.maskA ≠ 0 ∨ e.maskB ≠ 0 →
      ∃ t a, exec i s = .next t ∧ tfind t.strands c.uid = some a ∧
        a.kind = .lane w (if e.maskA ≠ 0 then e.maskA else e.maskB) ∧ a.pc = e.pc.setWidth 64 ∧ a.clause = e.clause ∧
        a.ret = e.ret ∧ a.frames = e.frames ∧ (e.maskA = 0 → a.div = { e with maskB := 0 } :: r) ∧
        (e.maskA ≠ 0 → ∃ d, a.div = d :: r ∧ d.kind = 1 ∧ d.tag = e.tag ∧ d.maskA = 0 ∧ d.maskB = e.maskB) ∧
        tget (t.wgOf st.wg).exited w 0 = (tget (s.wgOf st.wg).exited w 0 ||| m))) ∧
  (∀ (s : State) (c : Issue) (st : Strand) (i : Instr) (lo n : Nat), i = .vexit ∨ i = .exit → s.Issues c st i [] →
    st.kind = .range lo n → st.caps = none → (∀ x ∈ s.strands, x.2.arrivals = [] ∧ x.2.block ≠ .target) →
    (∀ d ∈ s.fab.dbar, dbarEn d.2 = false) → (tfind s.wgs st.wg).isSome →
    ∃ t, exec i s = .next t ∧ tfind t.strands c.uid = none ∧
      (∀ u, u ≠ c.uid → tfind t.strands u = tfind s.strands u) ∧ t.mem = s.mem ∧
      ∀ w j, j < 32 → (tget (t.wgOf st.wg).exited w 0).getLsbD j =
        ((tget (s.wgOf st.wg).exited w 0).getLsbD j || decide (lo ≤ 32 * w + j ∧ 32 * w + j < lo + n))) ∧
  (∀ (s : State) (c : Issue) (st : Strand), s.Issues c st .eret [] →
    exec .eret s = .next { s with strands := tdel s.strands c.uid, cur := none })

/-- NOP, YIELD, ROUTE and PART (R80, R253, R254, R256, R339): NOP only goes on; YIELD goes on and makes the strand ineligible for
the next 16 clocks; ROUTE sets a slot's kind, fill and parameter, of its register where dynamic; PART sets the tile. Nothing else
changes, on a lane, a range or the handler strand.
ROUTED SOURCES (R253, R255): a slot that no ROUTE has set is the direct route; a rotation, a broadcast, a butterfly and an
index each read the lane that R255 gives, of the same tile: an active one's value, and of an inactive one the reader's own
value or zero by the slot's fill. The index register of an indexed slot is one of the registers that the source names.
REGISTER BLOCKS (R185, R278, R279). On a lane strand ACQ with its blocks held or free gives 0 and the warp holds m blocks,
the new ones reading 0; without free blocks it gives 1, or waits where WAIT is set. On a range strand it expands; beyond
ACQMAX it traps with class 0x04 and AUX code 3. REL keeps the greater of m and VBLK, and has no effect on a range strand. -/
def Obligations.RoutesAndSmallState : Prop :=
  (∀ (s : State) (c : Issue) (st : Strand),
    (∀ code, s.Issues c st (.nop code) [] → exec (.nop code) s = .next (s.stepped c (.nop code) id)) ∧
    (s.Issues c st .yield [] → exec .yield s = .next
      { s with
        cur := none
        strands := tmod s.strands c.uid fun x =>
          { ((s.at_ x).goTo (c.pc + 4) s.mod.clock) with yieldUntil := s.mod.clock + 17 } }) ∧
    (∀ sd slot kind fill dyn param,
      s.Issues c st (.route sd slot kind fill dyn param) (if dyn = 1 then useS sd else []) →
      ∃ v : BitVec 16, v.extractLsb' 14 2 = kind ∧ v.getLsbD 13 = fill.getLsbD 0 ∧ v.extractLsb' 6 7 = 0 ∧
        v.extractLsb' 0 6 = (if dyn = 1 then ((st.sreg sd.toNat).extractLsb' 0 5).setWidth 6 else param) ∧
        exec (.route sd slot kind fill dyn param) s = .next (s.stepped c (.route sd slot kind fill dyn param) fun x =>
          { x with route := tset x.route slot.toNat v })) ∧
    (∀ tile, s.Issues c st (.part tile) [] →
      exec (.part tile) s = .next (s.stepped c (.part tile) fun x => { x with tile := tile }))) ∧
  (∀ (s : State) (st : Strand) (act : BitVec 32) (r n j : Nat), 1 ≤ st.tile.toNat → st.tile.toNat ≤ 5 → j < 32 →
    let t := 2 ^ st.tile.toNat
    let q := j % t
    let param := ((st.slotReg n).extractLsb' 0 6).toNat
    let kind := (st.slotReg n).extractLsb' 14 2
    let l := s.routeLane st n j
    s.src st act r 0 j = s.vreg st r j ∧
    l / t = j / t ∧
    (tfind st.route n = none → l = j) ∧
    (kind = 0 → l = j - q + (q + param) % t) ∧
    (kind = 1 → l = j - q + param % t) ∧
    (kind = 2 → l = j - q + (q ^^^ (param % t))) ∧
    (kind = 3 → l = j - q + (s.vreg st param j).toNat % t) ∧
    (n ≠ 0 → act.getLsbD l = true → s.src st act r n j = s.vreg st r l) ∧
    (n ≠ 0 → act.getLsbD l = false → s.src st act r n j = if (st.slotReg n).getLsbD 13 then s.vreg st r j else 0) ∧
    ∀ v : BitVec 6, (n ≠ 0 → kind = 3 → st.useSrc v n = [(1, v.toNat), (1, param)]) ∧
      ((n = 0 ∨ kind ≠ 3) → st.useSrc v n = [(1, v.toNat)])) ∧
  (∀ (s : State) (c : Issue) (st : Strand),
    (∀ (sd : BitVec 6) (wait : BitVec 1) (m : BitVec 4), s.Issues c st (.acq sd wait m) (useS sd) →
      let acqmax := (s.gridAt st).hdr.acqmax
      let answers := fun v : Word => s.stepped c (.acq sd wait m) fun x => x.setS sd.toNat v
      (acqmax < m.toNat → exec (.acq sd wait m) s =
        .next (s.takeTrap c.uid { cls := 0x04, addr := BitVec.ofNat 64 (0x300 + m.toNat), pc := some c.pc }).ended) ∧
      (∀ lo n, st.kind = .range lo n → m.toNat ≤ acqmax →
        exec (.acq sd wait m) s = .next ((s.begun c).expandStrand c.uid).ended) ∧
      (∀ w mask, st.kind = .lane w mask → m.toNat ≤ acqmax →
        (m.toNat ≤ s.blocks st → exec (.acq sd wait m) s = .next (answers 0)) ∧
        (s.blocks st < m.toNat → m.toNat - s.blocks st ≤ s.freeBlocks st.core →
          exec (.acq sd wait m) s = .next { answers 0 with
            wgs := tmod s.wgs st.wg fun g => { g with warps := tmod g.warps w fun x =>
              { blocks := m.toNat, regs := x.regs.filter fun r => r.1 / 256 < x.blocks } } }) ∧
        (s.blocks st < m.toNat → s.freeBlocks st.core < m.toNat - s.blocks st →
          (wait = 0 → exec (.acq sd wait m) s = .next (answers 1)) ∧
          (wait = 1 → exec (.acq sd wait m) s =
            .next ((s.begun c).wait c (.acq m.toNat sd s.mod.tick.toNat)).ended)))) ∧
    (∀ m : BitVec 4, s.Issues c st (.rel m) [] →
      let keep := max m.toNat (s.gridAt st).hdr.vblk
      (st.isRange = true → exec (.rel m) s = .next (s.stepped c (.rel m) id)) ∧
      ∀ w mask, st.kind = .lane w mask → exec (.rel m) s = .next { s.stepped c (.rel m) id with
        wgs := if keep < s.blocks st then
            tmod s.wgs st.wg fun g => { g with warps := tmod g.warps w fun x =>
              { blocks := keep, regs := x.regs.filter fun r => r.1 / 256 < keep } }
          else s.wgs }))

/-- SOFTWARE TRAPS (R184, R189): TRAP and BRK take the traps of classes 0x0C and 0x0D with their code as AUX.
RETIRED OPCODES (R8, R196, R198): on a lane strand VSHFL parks for the foreman with the words and lanes it stages, where the
6000 series defines the word, and raises class 0x0B where it does not; a range strand expands first. What the 6000 series
computes is a free value. -/
def Obligations.TrapsAndRetiredOpcodes : Prop :=
  (∀ (s : State) (c : Issue) (st : Strand) (code : BitVec 16),
    (s.Issues c st (.trap code) [] →
      exec (.trap code) s = .next (s.trapped c { cls := 0x0C, addr := code.setWidth 64, pc := some c.pc })) ∧
    (s.Issues c st (.brk code) [] →
      exec (.brk code) s = .next (s.trapped c { cls := 0x0D, addr := code.setWidth 64, pc := some c.pc }))) ∧
  (∀ (s : State) (c : Issue) (st : Strand) (x : BitVec 22) (i : Instr),
    i = .vshflIdx x ∨ i = .vshflUp x ∨ i = .vshflDn x ∨ i = .vshflXor x → s.cur = some c → tfind s.strands c.uid = some st →
    st.clauseBreach c i = false →
    let word := (encode i).headD 0
    (∀ w m, st.kind = .lane w m →
      exec i s = .next (if Config.emulDefined word then
        ((s.begun c).takeEmulation c.uid word (m &&& st.kmask c.pred.toNat)).ended
      else s.trapped c { cls := 0x0B, pc := some c.pc })) ∧
    (∀ lo n, st.kind = .range lo n → exec i s = .next ((s.begun c).expandStrand c.uid).ended))

/-! ## Engine commands -/

/-- ENGINE COMMANDS (R294 to R301). Where the source lies in a region and every field keeps its rule, TCOPY, TCOPYX, MCOPY,
BCOPY, CHAIN and REDW give the stream unit the command that their registers and inline words state, make the set-B flag busy
and go on; a source outside every region traps with class 0x10 and its address, and nothing starts.
ROWS OF A TILE COPY (R161, R294, R296) and the end of a command (R190, R294). A row whose units are all read and whose
destinations all lie in this module, read once what waits for its home in those units is there, writes each 16-byte unit at
its place, with the swizzle of MODE, and changes no other byte of memory; a command without movements left is over: its flag
is idle, and what it met waits for every strand that holds its flag.
The model's choice: a granule is read new, and once for each command (log entry 120). -/
def Obligations.EngineCommands : Prop :=
  (∀ (s : State) (c : Issue) (st : Strand) (sa sb sc : BitVec 6),
    let src := st.dreg sa.toNat
    let w := fun k => st.sreg (sb.toNat + k)
    let r := fun k => st.sreg (sc.toNat + k)
    let outside := fun (i : Instr) (a : DWord) => exec i s = .next (s.trapped c { cls := 0x10, addr := a, pc := some c.pc })
    let tile := fun (i : Instr) (from_ : DWord) (ds3 e0 e1 e2 e3 : Nat) (ss1 ss2 ss3 : Int) (aw : Word) =>
      let ds1 := (w 1).toNat % 65536
      let ds2 := (w 1).toNat / 65536
      let mode := (w 2).toNat / 2 ^ 28
      let n := e1 * e2 * e3
      let span := if n = 0 ∨ e0 = 0 then 0 else 16 * (ds1 * (e1 - 1) + ds2 * (e2 - 1) + ds3 * (e3 - 1)) + e0
      (s.badRegion st from_ = true → outside i from_) ∧
      ∀ segs base arr, s.badRegion st from_ = false → from_.toNat % 16 = 0 → e0 % 16 = 0 → ss1 % 16 = 0 → ss2 % 16 = 0 →
        ss3 % 16 = 0 → mode ≤ 5 → e0 % (16 * 2 ^ mode) = 0 → (w 2).toNat / 65536 % 4096 = 0 →
        s.tileDst st (w 0) span = .ok (segs, base) → s.arrivalReg st aw = .ok arr →
        exec i s = .next (s.commanded c st i (.tcopy from_ segs base e0 e1 e2 e3 ds1 ds2 ds3 ss1 ss2 ss3 mode)
          (if e0 = 0 then 0 else n) arr)
    (s.Issues c st (.tcopy sa sb sc) (useS sb 3 ++ useS sa 2 ++ useS sc 6) →
      tile (.tcopy sa sb sc) src ((w 2).toNat % 65536) ((r 0).toNat % 65536) ((r 0).toNat / 65536) ((r 1).toNat % 65536)
        ((r 1).toNat / 65536) (r 2).toInt (r 3).toInt (r 4).toInt (r 5)) ∧
    (∀ (e1 e0 ss1 e2 row0 ss2 : BitVec 16) (m2 m1 m0 : BitVec 10),
      let i : Instr := .tcopyx sa sb sc e1 e0 ss1 e2 row0 ss2 m2 m1 m0
      let v := fun (field : Nat) (x : BitVec 16) =>
        match [m0, m1, m2].find? fun m => m.getLsbD 9 && (m.extractLsb' 6 3).toNat == field with
        | some m => (st.sreg (m.extractLsb' 0 6).toNat).toNat % 65536
        | none => x.toNat
      s.Issues c st i (useS sb 3 ++ useS sa 2 ++ useS sc ++ markerUse m0 ++ markerUse m1 ++ markerUse m2) →
      tile i (src + BitVec.ofNat 64 (16 * v 3 ss1 * v 5 row0)) 0 (v 0 e0) (v 1 e1) (v 2 e2) 1 (16 * v 3 ss1 : Nat)
        (16 * v 4 ss2 : Nat) 0 (r 0)) ∧
    (s.Issues c st (.mcopy sa sb sc) (useS sb ++ useS sa 2 ++ useS sc 3) →
      let cores := ((List.range 16).filter fun k => (r 1).getLsbD k).map (st.core / 16 * 16 + ·)
      (s.badRegion st src = true → outside (.mcopy sa sb sc) src) ∧
      ∀ ks base as, s.badRegion st src = false → src.toNat % 16 = 0 → (r 0).toNat % 16 = 0 → (r 0).toNat ≤ 262144 →
        (r 1).toNat < 65536 → s.mcopyDst st (w 0) cores (r 0).toNat = .ok (ks, base) → s.mcopyArr st (r 2) cores = .ok as →
        exec (.mcopy sa sb sc) s = .next (s.commanded c st (.mcopy sa sb sc) (.mcopy src (r 0).toNat (ks.zip as) base none)
          cores.length none)) ∧
    (∀ (nkey rowb : BitVec 16) (creg nreg : BitVec 6),
      let i : Instr := .bcopy sa sb sc nkey rowb creg nreg
      let as := [src, st.dreg sb.toNat, st.dreg sc.toNat, st.dreg creg.toNat]
      s.Issues c st i (useS sc 2 ++ useS sa 2 ++ useS sb 2 ++ useS nreg ++ useS creg 2) →
      (s.badRegion st src = true → outside i src) ∧
      ((∀ a ∈ as, s.badRegion st a = false ∧ a.toNat % 4 = 0) →
        s.offAlloc st (st.dreg sc.toNat) (if (st.sreg nreg.toNat).toNat = 0 ∨ nkey = 0 then 0 else rowb.toNat) = false →
        s.offAlloc st (st.dreg creg.toNat) (4 * (nkey.toNat + 1)) = false →
        exec i s = .next (s.commanded c st i (.bcopy src (st.dreg sb.toNat) (st.dreg sc.toNat) (st.dreg creg.toNat)
          (st.sreg nreg.toNat).toNat rowb.toNat nkey.toNat) 1 none))) ∧
    (∀ (ops : BitVec 32) (kb : BitVec 6) (ot it : BitVec 2),
      let i : Instr := .chain sa sb sc ops kb ot it
      let code := fun k => (ops.extractLsb' (4 * k) 4).toNat
      let steps := (List.range 8).filter fun k => code k ≠ 0
      let reads := steps.filter fun k => 1 ≤ code k ∧ code k ≤ 4
      s.Issues c st i (useS sb 2 ++ useS sa 2 ++ useS sc 2 ++ reads.map fun k => (2, kb.toNat + k)) →
      (s.badRegion st src = true → outside i src) ∧
      (s.badRegion st src = false → s.badRegion st (st.dreg sb.toNat) = false → src.toNat % chainSize it.toNat = 0 →
        (st.dreg sb.toNat).toNat % chainSize ot.toNat = 0 →
        s.offAlloc st (st.dreg sb.toNat) (chainSize ot.toNat * (r 0).toNat * (r 1).toNat) = false →
        exec i s = .next (s.commanded c st i (.chain src (st.dreg sb.toNat) (r 0).toNat it.toNat ot.toNat
          (steps.map fun k => (code k, if 1 ≤ code k ∧ code k ≤ 4 then st.sreg (kb.toNat + k) else 0))
          (s.env st).rnd (s.env st).ftz) (r 1).toNat none))) ∧
    (∀ (ty : BitVec 4) (op : BitVec 3) (x : BitVec 1),
      let i : Instr := .redw sa sb sc ty op x
      let n := redBytes ty.toNat
      s.Issues c st i (useS sa 2 ++ useS sb (if ty = 4 then 2 else 1) ++ (if x = 1 then useS sc else [])) →
      (s.badRegion st src = true → outside i src) ∧
      (s.badRegion st src = false → src.toNat % n = 0 → s.offAlloc st src n = false →
        s.resolve (dieOf st.core) (s.who st) (.atomic true) src n ≠ .error (.cls 0x1A) →
        exec i s = .next (s.commanded c st i (.redw src (st.sbytes sb.toNat n) ty.toNat op.toNat (x == 1)
          (if x = 1 then (st.sreg sc.toNat).toNat % 2 ^ 20 else 0)) 1 none)))) ∧
  ((∀ (s : State) (e : Engine) (src : DWord) (segs : List (Nat × Nat × Nat)) (base e0 e1 e2 e3 ds1 ds2 ds3 mode : Nat)
    (ss1 ss2 ss3 : Int) (data : Nat → List Byte) (key : Nat → Nat),
    tfind s.engines s.arg.a = some e → e.kind = .tcopy src segs base e0 e1 e2 e3 ds1 ds2 ds3 ss1 ss2 ss3 mode →
    e.next < e.total → e.arr = none → e.failed = none → e.after ≤ s.mod.tick.toNat →
    s.overflowHeld (.engine s.arg.a) (dieOf e.core) = false → s.home.words = [] →
    let i1 := e.next % e1
    let i2 := e.next / e1 % e2
    let i3 := e.next / e1 / e2
    let from_ := src + BitVec.ofInt 64 (ss1 * i1 + ss2 * i2 + ss3 * i3)
    let at_ := fun u => base + 16 * (ds1 * i1 + ds2 * i2 + ds3 * i3) + 16 * (u ^^^ (i1 % 2 ^ mode))
    let n := e0 / 16
    let units := (List.range n).map fun u => (from_ + 16 * BitVec.ofNat 64 u, 16)
    let x := (units.map (·.1)).foldl (fun t a => t.noteMiss (dieOf e.core) (t.engWho e) a) (s.engSees s.arg.a e units)
    (∀ u < n, x.engGet s.arg.a e u (from_ + 16 * BitVec.ofNat 64 u) 16 = .data (data u) false ∧ (data u).length = 16 ∧
      segKey segs (at_ u) = some (key u) ∧ 2 ^ 40 ≤ key u ∧ key u < 2 ^ 41 ∧
      x.engPut s.arg.a e (n + u) (.key (key u)) (data u) = .place (.loc (key u))) →
    (∀ u < n, ∀ v < n, u ≠ v → key u + 16 ≤ key v ∨ key v + 16 ≤ key u) →
    ∃ t, exec .copyRowCompletion s = .next t ∧ (∀ u < n, ∀ b < 16, mget t.mem (key u + b) = (data u).getD b 0) ∧
      x.SameBut t ((List.range n).map fun u => (key u, 16)) ∧ t.strands = s.strands ∧
      (e.next + 1 < e.total →
        (∃ seen, tfind t.engines s.arg.a = some { e with next := e.next + 1, seen := seen }) ∧ t.ops = s.ops) ∧
      (e.next + 1 = e.total → tfind t.engines s.arg.a = none ∧ tfind t.ops e.op = none)) ∧
  (∀ (s : State) (e : Engine), tfind s.engines s.arg.a = some e → e.total ≤ e.next →
    (e.failed = none → ∃ t, exec .copyRowCompletion s = .next t ∧ tfind t.engines s.arg.a = none ∧ tfind t.ops e.op = none ∧
      t.strands = s.strands ∧ t.mem = s.mem) ∧
    (∀ cls addr w o, e.failed = some (cls, addr, w) → e.arr = none → (∀ a b d f g, e.kind ≠ .mcopy a b d f g) →
      tfind s.ops e.op = some o → o.holders.Nodup →
      ∃ t, exec .copyRowCompletion s = .next t ∧ tfind t.engines s.arg.a = none ∧ tfind t.ops e.op = none ∧ t.mem = s.mem ∧
        ∀ u st, tfind s.strands u = some st → st.block = .none →
          tfind t.strands u = some (if u ∈ o.holders then { st with async := st.async ++
            [{ waitOn := [.flag e.flag], id := s.arg.a, by_ := e.uid, quiet := false, cls := BitVec.ofNat 8 cls, pc := e.pc
               addr := addr, first := e.names.1, sufn := e.names.2, write := w }] } else st))) ∧
  (∀ s : State, tfind s.engines s.arg.a = none → exec .copyRowCompletion s = .next s))

/-! ## The matrix engine -/

/-- RESERVATIONS AND CREWS (R307, R311, R313, R314, R316, R317, R322, R324, R329). OBRES with values that keep the table's
rules waits while a request names its handle and otherwise writes the handle's record, which reads back whole; a value that
breaks a rule faults. OBREL clears V of every handle that its register names and nothing else. CREW takes a value with two to
eight warps of the gang. A crew instruction, MMA to MMAN, of a strand whose warps CREW names arrives at the latch: where its
arrival closes the latch, the checks pass and there is room, its request is accepted and the whole crew goes on with its
set-B flag busy; it waits while the latch is open, and traps where CREW does not name a warp of it. SALIENT and ACCZ ask for
acceptance at once. ACCRD starts an operation with its set-A flag that reads C once no earlier request names the handle.
The model's reading: a strand one of whose warps CREW does not name traps alone (log entry 16), the registers that
RSEL can name (log entry 17), and checks at the last arrival (log entry 102). -/
def Obligations.ReservationsAndCrews : Prop :=
  (∀ (sa sb sc : BitVec 6) (h : BitVec 4) (kind : BitVec 2) (fmt : BitVec 3) (lb : BitVec 2) (split layout : BitVec 1)
    (ns : BitVec 2) (s : State) (c : Issue) (st : Strand),
    let i : Instr := .obres sa sb sc h kind fmt lb split layout ns
    let scaled := fmt.toNat ≤ 2 ∧ kind ≠ 2
    let r : ObRec := ⟨true, kind.toNat, fmt.toNat, lb.toNat, split == 1, layout == 1, ns.toNat,
      if scaled then (st.sreg sc.toNat).toNat else 0, (st.sreg sb.toNat).toNat, (st.sreg sa.toNat).toNat⟩
    let x := (s.begun c).flushDie (dieOf st.core)
    s.Issues c st i (useS sa ++ useS sb ++ (if scaled then useS sc else [])) →
    let aligned := r.off % 256 = 0 ∧ (scaled → r.soff % 16 = 0) ∧ (kind ≠ 2 → r.len ≠ 0 ∧ r.len % r.unit = 0)
    let inside := (∀ y ∈ r.ranges, y.2 = 0 ∨ y.1 + y.2 + 256 ≤ s.obuf st.wg) ∧
      (scaled → overlaps (r.ranges.getD 0 (0, 0)) (r.ranges.getD 1 (0, 0)) = false) ∧ (kind = 2 → r.len = 65536) ∧
      (kind = 1 → split = 1 → 4 ≤ (s.gridAt st).hdr.gang)
    (¬ aligned → exec i s = .next (s.trapped c { cls := 0x11, pc := some c.pc })) ∧
    (aligned → (¬ inside ∨ s.recKey st.wg h.toNat = none) → exec i s = .next (s.trapped c { cls := 0x17, pc := some c.pc })) ∧
    ∀ k, aligned → inside → s.recKey st.wg h.toNat = some k →
      (s.handleBusy st.wg h.toNat = true → exec i s = .next ((s.begun c).wait c .requests).ended) ∧
      (s.handleBusy st.wg h.toNat = false → (∀ w ∈ s.home.words, w + 16 ≤ 2 ^ 41) →
        ∃ t, exec i s = .next t ∧ t.obRec st.wg h.toNat = r ∧ x.SameBut t [(k, 16)] ∧ t.strands = (x.retire c i).strands)) ∧
  (∀ (sa : BitVec 6) (s : State) (c : Issue) (st : Strand), s.Issues c st (.obrel sa) (useS sa) →
    let x := (s.begun c).flushDie (dieOf st.core)
    let named := fun h => (st.sreg sa.toNat).getLsbD h
    ((∃ h < 16, named h = true ∧ s.handleBusy st.wg h = true) →
      exec (.obrel sa) s = .next ((s.begun c).wait c .requests).ended) ∧
    ((∀ h < 16, named h = true → s.handleBusy st.wg h = false) → (∀ w ∈ s.home.words, w + 16 ≤ 2 ^ 41) →
      ∃ t, exec (.obrel sa) s = .next t ∧ t.strands = (x.retire c (.obrel sa)).strands ∧
        (∀ h < 16, t.obRec st.wg h = { x.obRec st.wg h with v := (x.obRec st.wg h).v && !named h }) ∧
        x.SameBut t ((List.range 16).filterMap fun h => if named h then (s.recKey st.wg h).map fun k => (k, 16) else none))) ∧
  (∀ (sa : BitVec 6) (s : State) (c : Issue) (st : Strand), s.Issues c st (.crew sa) (useS sa 2) →
    let v := st.dreg sa.toNat
    let n := (List.range 64).countP fun b => v.getLsbD b
    let fits := 2 ≤ n ∧ n ≤ 8 ∧ ∀ b < 64, v.getLsbD b = true → b / 16 < (s.gridAt st).hdr.gang ∧ b % 16 < (s.gridAt st).warps
    (fits → exec (.crew sa) s = .next { s.stepped c (.crew sa) id with
      wgs := tmod s.wgs st.wg fun g => { g with crew := v } }) ∧
    (¬ fits → exec (.crew sa) s = .next (s.trapped c { cls := 0x17, pc := some c.pc }))) ∧
  (∀ (i : Instr) (uses : List Use) (sa sb sc : BitVec 6) (ha hb hc : BitVec 4) (sel form : BitVec 1) (rsel : BitVec 8),
    (i, uses) ∈ [(Instr.mma sa ha hb hc, useS sa),
      (.mmaRs sa sb sc ha hb hc sel rsel, useS sa ++ rselUse sb rsel ++ rselUse sc rsel),
      (.mmaSs sa sb sc ha hb hc, useS sa ++ useS sb 2 ++ useS sc), (.mmas sa sb ha hb hc, useS sa ++ useS sb 2),
      (.mman sa sb sc form ha hb hc sel rsel, useS sa ++ if form == 1 then rselUse sb rsel ++ rselUse sc rsel else [])] →
    ∀ (s : State) (c : Issue) (st : Strand), s.Issues c st i uses →
      let crew := (s.wgOf st.wg).crew
      let rank := (s.wgOf st.wg).w % (s.gridAt st).hdr.gang
      (∃ y ∈ st.warps, (crewNames crew).contains (rank, y) = false) →
        exec i s = .next (s.trapped c { cls := 0x17, pc := some c.pc })) ∧
  (∀ (i : Instr) (uses : List Use) (sa sb sc : BitVec 6) (ha hb hc : BitVec 4) (sel form : BitVec 1) (rsel : BitVec 8),
    (i, uses) ∈ [(Instr.mma sa ha hb hc, useS sa),
      (.mmaRs sa sb sc ha hb hc sel rsel, useS sa ++ rselUse sb rsel ++ rselUse sc rsel),
      (.mmaSs sa sb sc ha hb hc, useS sa ++ useS sb 2 ++ useS sc), (.mmas sa sb ha hb hc, useS sa ++ useS sb 2),
      (.mman sa sb sc form ha hb hc sel rsel, useS sa ++ if form == 1 then rselUse sb rsel ++ rselUse sc rsel else [])] →
    ∀ (s : State) (c : Issue) (st : Strand), s.Issues c st i uses →
      let crew := (s.wgOf st.wg).crew
      let rank := (s.wgOf st.wg).w % (s.gridAt st).hdr.gang
      let x := (s.begun c).wait c (.crew crew)
      (∀ y ∈ st.warps, (crewNames crew).contains (rank, y) = true) →
        (∀ lead l w, CrewReady x c.uid i lead l w → ∃ t, exec i s = .next t ∧ RequestTaken x t lead i l w (w.toNat % 65536)) ∧
        (∀ y, tfind x.strands c.uid = some y → x.latchClosed y (x.latch y) = false → exec i s = .next x.ended)) ∧
  (∀ (sa : BitVec 6) (ha hb hc : BitVec 4) (i : Instr), i = .salient sa ha hb hc ∨ i = .accz sa →
    ∀ (s : State) (c : Issue) (st : Strand), s.Issues c st i (useS sa) → st.standing = i →
      let w := st.sreg sa.toNat
      let x := (s.begun c).wait c .accept
      (SoloReady s i st.wg w → s.mxeRoom st.wg = true → ∃ t, exec i s = .next t ∧ t.mem = s.mem ∧
        RequestTaken x t st i [c.uid] w (if i = .accz sa then 1 else w.toNat % 65536)) ∧
      (SoloReady s i st.wg w → s.mxeRoom st.wg = false → exec i s = .next x.ended) ∧
      (¬ SoloReady s i st.wg w → exec i s = .next (x.takeTrap c.uid { cls := 0x17 }).ended)) ∧
  (∀ (sa sb sc : BitVec 6) (s : State) (c : Issue) (st : Strand) (w : Nat) (m : BitVec 32),
    s.Issues c st (.accrd sa sb sc) (useV sc 8 ++ useS sa ++ useS sb) → st.kind = .lane w m →
    let h := (st.sreg sa.toNat).toNat % 16
    let rp := (st.sreg sb.toNat).toNat
    let r := s.obRec st.wg h
    let base := (s.wgOf st.wg).obase + r.off
    let earlier := (s.sched.mxe.filter fun q => !q.2.ended && q.2.wg == st.wg && q.2.names.contains h).map (·.1)
    ((63 < rp ∨ r.v = false ∨ r.kind ≠ 2) → exec (.accrd sa sb sc) s = .next (s.trapped c { cls := 0x17, pc := some c.pc })) ∧
    (rp ≤ 63 → r.v = true → r.kind = 2 →
      ∃ (t : State) (o : Op), exec (.accrd sa sb sc) s = .next t ∧ tfind t.ops s.next = some o ∧
        (∀ k, k ≠ s.next → tfind t.ops k = tfind s.ops k) ∧ o.holders = [c.uid] ∧
        o.flag = (st.clause.map (·.setA)).getD 15 ∧ o.dstV = (List.range 8).map (sc.toNat + ·) ∧
        { t with ops := s.ops, next := s.next } = s.stepped c (.accrd sa sb sc) (fun y => { y with clause := y.clause.map fun k =>
          { k with dst := k.dst ++ (List.range 8).map fun q => (1, sc.toNat + q) } }) ∧
        (earlier ≠ [] → o.external = true ∧ o.res = [] ∧ o.acc = some ⟨earlier, base, r.layout, rp, sc.toNat, m⟩) ∧
        (earlier = [] → o.external = false ∧
          ∀ (j q : Nat) (v : Word), (j, q, v) ∈ o.res ↔ m.getLsbD j = true ∧ ∃ k < 8, q = sc.toNat + k ∧
            let x := 2 * rp + k / 4
            let y := 32 * (k % 4) + j
            v = BitVec.ofNat 32 (leNat (mread s.mem (base + 4 * (if r.layout then 128 * y + x else 128 * x + y)) 4))))) ∧
  (∀ (sa sb sc : BitVec 6) (s : State) (c : Issue) (st : Strand) (lo n : Nat),
    s.Issues c st (.accrd sa sb sc) (useV sc 8 ++ useS sa ++ useS sb) → st.kind = .range lo n →
    exec (.accrd sa sb sc) s = .next ((s.begun c).expandStrand c.uid).ended)

/-- A REQUEST IS ACCEPTED (R307, R317, R322, R325, R329). MXE_REQUEST_ACCEPT of a strand that waits with ACCZ or SALIENT, or at
a latch that has closed, puts its request into the table where its checks pass and there is room: every strand of the crew
goes on with its set-B flag busy. No byte of memory changes but the scales that MMA.RS gives and, where a tile is dense, its
elements in the LEN bytes of HA's data range; an MMAS first lets every write that waits reach its home. A check that fails traps every one of them.
The checks of a crew instruction are rows 1 to 6 of R322.
The model's reading: a crew is checked when its last strand arrives (log entry 102). -/
def Obligations.RequestsAreAccepted : Prop :=
  (∀ (s : State) (st : Strand) (sa : BitVec 6) (ha hb hc : BitVec 4) (i : Instr), i = .salient sa ha hb hc ∨ i = .accz sa →
    tfind s.strands s.arg.a = some st → st.block = .accept → st.standing = i →
    let w := st.sreg sa.toNat
    (SoloReady s i st.wg w → s.mxeRoom st.wg = true → ∃ t, exec .mxeRequestAccept s = .next t ∧ t.mem = s.mem ∧
      RequestTaken s t st i [s.arg.a] w (if i = .accz sa then 1 else w.toNat % 65536)) ∧
    (¬ SoloReady s i st.wg w → exec .mxeRequestAccept s = .next (s.takeTrap s.arg.a { cls := 0x17 })) ∧
    (SoloReady s i st.wg w → s.mxeRoom st.wg = false → exec .mxeRequestAccept s = .next s)) ∧
  (∀ (s : State) (i : Instr) (lead : Strand) (crew : List Nat) (w : Word), CrewReady s s.arg.a i lead crew w →
    ∃ t, exec .mxeRequestAccept s = .next t ∧ RequestTaken s t lead i crew w (w.toNat % 65536) ∧
      let a := s.obRec lead.wg (Instr.handles i).1
      let b := s.obRec lead.wg (Instr.handles i).2.1
      let base := (s.wgOf lead.wg).obase
      let t0 := 32 * (w.toNat / 65536) / a.l
      let n := (32 * (w.toNat / 65536 + w.toNat % 65536) - 1) / a.l + 1 - t0
      (i.givesScales = false → (∀ sa sb ha hb hc, i ≠ .mmas sa sb ha hb hc) → t.mem = s.mem) ∧
      (i.givesScales = true → s.SameBut t [(base + a.soff + 128 * t0, 128 * n), (base + b.soff + 128 * t0, 128 * n)]) ∧
      ∀ (sa sb : BitVec 6) (ha hb hc : BitVec 4) (st : Strand) (bit v : Nat) (d m : List Byte), i = .mmas sa sb ha hb hc →
        tfind s.strands s.arg.a = some st → s.leaderOf st (s.latch st) = some (bit, v) →
        (s.publish.tileMisses (.strand v) lead.wg (lead.dreg sb.toNat)).tileGet (.strand v) lead.wg a (lead.dreg sb.toNat) = .ok d m →
        (tileDense (Tile.ofBytes d) m = true → s.publish.SameBut t [(base + a.off, a.len)]) ∧
        (tileDense (Tile.ofBytes d) m = false → t.mem = s.publish.mem)) ∧
  (∀ (s : State) (st lead : Strand) (bit u : Nat) (i : Instr) (sa : BitVec 6) (addr : DWord) (n : Nat),
    tfind s.strands s.arg.a = some st → st.block = .crew st.latchValue → s.latchClosed st (s.latch st) = true →
    s.leaderOf st (s.latch st) = some (bit, u) → tfind s.strands u = some lead → lead.standing = i →
    lead.asks i = some (sa, addr, n) →
    let crew := (s.latch st).map (·.1)
    (∀ x a, s.acceptCheck i lead.wg (lead.sreg sa.toNat) addr n = some (x, a) →
      exec .mxeRequestAccept s = .next (s.crewTrap crew x a)) ∧
    (s.acceptCheck i lead.wg (lead.sreg sa.toNat) addr n = none ↔ s.RowsHold i lead.wg (lead.sreg sa.toNat) addr n)) ∧
  (∀ (s : State) (st : Strand), tfind s.strands s.arg.a = some st → st.block = .crew st.latchValue →
    s.latchClosed st (s.latch st) = false → exec .mxeRequestAccept s = .next s)

/-- PASSES (R178, R179, R308, R309, R319, R324, R326, R330). A quad whose MXE is idle grants a pass of its one ready request,
for the clocks of the pass at the MXE's clock. A pass whose clocks have run first lets every write that waits reach its home
and then writes C: every entry of an MMA is the old entry plus the exact sum of the products of its row and column, rounded
once, every entry of ACCZ is zero; with the last pass the request is over and its flag idle. The assayer installs the program
that it has compiled; of 64 entries the least recently used one that no running request uses gives way.
The model's reading: the length of a pass at a lower clock (log entry 19), and when the assayer begins a
program (log entry 116). -/
def Obligations.PassesWriteTheAccumulators : Prop :=
  (∀ (s : State) (id : Nat) (r : MxeReq), tfind s.sched.running s.arg.a = none → s.sched.mxe = [(id, r)] → r.ended = false →
    quadOf (s.wgOf r.wg).core = s.arg.a → s.gangSt r.wg = .resident →
    exec .mxePassGrant s = .next (s.setSched fun d => { d with
      running := tset d.running s.arg.a (id, s.mod.clock + (s.passClocks r * 32 + max 1 s.mxeclk - 1) / max 1 s.mxeclk)
      mxe := [(id, { r with lastGrant := some s.mod.tick.toNat })] })) ∧
  (∀ (s : State) (x : Nat × Nat), tfind s.sched.running s.arg.a = some x → exec .mxePassGrant s = .next s) ∧
  (∀ (s : State) (id till : Nat), tfind s.sched.running s.arg.a = some (id, till) → s.mod.clock < till →
    exec .mxePassComplete s = .next s) ∧
  (∀ (s : State) (id till : Nat) (r : MxeReq), tfind s.sched.running s.arg.a = some (id, till) → till ≤ s.mod.clock →
    tfind s.sched.mxe id = some r → s.home.words = [] →
    let ends := fun t : State => tfind t.sched.running s.arg.a = none ∧
      (r.done + 1 < r.total → tfind t.sched.mxe id = some { r with done := r.done + 1 } ∧ t.ops = s.ops) ∧
      (r.total ≤ r.done + 1 → tfind t.sched.mxe id = none ∧ tfind t.ops r.op = none)
    (∀ (sa : BitVec 6) (ha hb hc : BitVec 4), r.instr = .mma sa ha hb hc →
      let a := s.obRec r.wg ha.toNat
      let b := s.obRec r.wg hb.toNat
      let d := s.obRec r.wg hc.toNat
      let w := s.wgOf r.wg
      let kb := r.passw.toNat / 65536 + r.done
      let x := s.publish
      let code := fun (o : ObRec) (k n : Nat) => (mget x.mem (w.obase + o.soff + 128 * ((32 * kb + k) / o.l) + n)).toNat
      let ra := fun i k => ((x.aBlock r.wg a kb).getD i []).getD k 0
      let cb := fun k j => ((x.bBlock r.wg b kb).getD k []).getD j 0
      s.overflowHeld (.mxe id) (dieOf w.core) = false →
      x.passPoison r.wg a kb true true = false → x.passPoison r.wg b kb true true = false →
      x.poisoned (w.obase + d.off) 65536 = false →
      ∃ t, exec .mxePassComplete s = .next t ∧ ends t ∧ x.SameBut t [(w.obase + d.off, 65536)] ∧
        ∀ i < 128, ∀ j < 128, t.cEntry r.wg d i j = BitVec.ofNat 32 (
          if a.fmt = 3 then
            passEntryInt (x.cEntry r.wg d i j).toNat ((List.range 32).map fun k => (ra i k, cb k j))
          else passEntry (x.cEntry r.wg d i j).toNat ((List.range 32).map fun k =>
            if a.fmt ≤ 2 then product (scaleValue (elemValue a.fmt (ra i k)) (code a k i))
              (scaleValue (elemValue b.fmt (cb k j)) (code b k j))
            else product (elemValue a.fmt (ra i k)) (elemValue b.fmt (cb k j))))) ∧
    (∀ sa : BitVec 6, r.instr = .accz sa →
      let d := s.obRec r.wg (r.passw.toNat % 16)
      let w := s.wgOf r.wg
      ∃ t, exec .mxePassComplete s = .next t ∧ ends t ∧ s.SameBut t [(w.obase + d.off, 65536)] ∧
        ∀ n < 65536, mget t.mem (w.obase + d.off + n) = 0)) ∧
  (∀ (s : State) (a : Assay), s.sched.assaying = [(s.arg.a, a)] →
    let old := (tget s.sched.assay s.arg.a []).filter fun y => y.ctx != a.ctx || y.desc != a.desc
    let uses := fun (y : Assay) (r : MxeReq) => r.assay = true ∧ r.ended = false ∧ quadOf (s.wgOf r.wg).core = s.arg.a ∧
      r.addr = y.desc ∧ (s.gridOf (s.wgOf r.wg).grid).ctx = y.ctx
    (old.length < 64 → exec .assayInstall s =
      .next (s.setSched fun d => { d with assaying := [], assay := tset d.assay s.arg.a (a :: old) })) ∧
    (∀ pre y post, old = pre ++ y :: post → old.Nodup → old.length = 64 → (∀ x ∈ s.sched.mxe, ¬ uses y x.2) →
      (∀ z ∈ post, ∃ x ∈ s.sched.mxe, uses z x.2) → exec .assayInstall s =
        .next (s.setSched fun d => { d with assaying := [], assay := tset d.assay s.arg.a (a :: (pre ++ post)) }))) ∧
  (∀ s : State, (∀ x ∈ s.sched.assaying, x.1 ≠ s.arg.a) → exec .assayInstall s = .next s)

/-! ## Capsules, pools, barriers -/

/-- CAPSULES (R340, R342, R343). CAPB of a free record opens it: STATE 1, the strand's new token, its c0 to c7 as the checkpoint,
and the strand goes on inside; of a record that is open it waits; of one that has lost its owner it adopts: the checkpoint
becomes c0 to c7 and the strand stands at NEXTPC. CAPE commits where the record still names the strand and its step: the held
stores reach memory, then the record; otherwise nothing is written, an adopter stands at its CAPB again and a holder waits for
its reply.
INSIDE A CAPSULE (R341) SLD reads at the record's home what memory holds under the step's own held stores, and SST holds its
store until the step commits; an access with another home is a capsule violation.
The model's choice or reading: the epoch of a capsule (log entry 9), how an adopting CAPB goes on (log entry 75), and
that held accesses are not queued as misses (log entry 103). -/
def Obligations.CapsuleInstructions : Prop :=
  ((∀ (sa sb sc : BitVec 6) (s : State) (c : Issue) (st : Strand) (k r : Nat),
    let i : Instr := .capb sa sb sc
    s.Issues c st i (useS sa 2 ++ useS sb 2 ++ useS sc 2) → s.Settled →
    s.capsPlace st (.atomic true) (st.dreg sa.toNat) 64 = .ok k →
    (s.noteMiss (dieOf st.core) (s.who st) (st.dreg sa.toNat)).capsPlace st .write (st.dreg sb.toNat) 8 = .ok r →
    (r + 40 ≤ k ∨ k + 64 ≤ r + 32) →
    let o := capsRead s.mem k
    let tok : BitVec 48 := BitVec.ofNat 8 (s.ctxNo st) ++ (BitVec.ofNat 10 st.core ++ (BitVec.ofNat 9 st.slot ++
      ((tget s.cores st.core coreReset).epoch + 1)))
    (o.state = 0 → ∃ t a x, exec i s = .next t ∧ tfind t.strands c.uid = some a ∧
      capsRead t.mem k = ⟨1, tok.toNat, 1, 0, 0, (c.pc + 4).toNat % 2 ^ 48, (st.dreg sb.toNat).toNat, tok.toNat, st.cregs⟩ ∧
      leNat (mread t.mem (r + 32) 8) = 0 ∧ s.SameBut t [(k, 64), (r + 32, 8)] ∧ a.caps = some x ∧ a.pc = c.pc + 4 ∧
      a.block = .none ∧ a.s = st.s ∧ x.loc = k ∧ x.token = tok ∧ x.adopter = false ∧ x.held = [] ∧ x.steps = 0 ∧
      x.exit = st.dreg sc.toNat) ∧
    (o.state = 1 → ∃ t a, exec i s = .next t ∧ tfind t.strands c.uid = some a ∧ a.block = .capsule k ∧ a.pc = st.pc ∧ t.mem = s.mem) ∧
    (2 ≤ o.state → ∃ t a x, exec i s = .next t ∧ tfind t.strands c.uid = some a ∧
      capsRead t.mem k = { o with state := 1, token := tok.toNat } ∧ s.SameBut t [(k, 8)] ∧ a.caps = some x ∧
      a.pc = BitVec.ofNat 64 o.nextpc ∧ (∀ q < 8, a.sreg (56 + q) = o.ck.getD q 0) ∧ (∀ q < 56, a.sreg q = st.sreg q) ∧
      x.token = tok ∧ x.adopter = true ∧ x.steps = o.step ∧ x.savedC = st.cregs ∧ x.savedPc = c.pc)) ∧
  (∀ (s : State) (c : Issue) (st : Strand) (i : Instr) (x : Caps), i = .capeStep ∨ i = .capeEnd → s.Issues c st i [] →
    s.Settled → st.caps = some x → x.replying = false → s.capsPlace st (.atomic true) x.record 64 ≠ .error 0x18 →
    let o := capsRead s.mem x.loc
    let names := o.state = 1 ∧ o.token = x.token.toNat ∧ o.step = x.steps
    (names → (i = .capeStep ∨ x.adopter = false) → ∃ t a, exec i s = .next t ∧ tfind t.strands c.uid = some a ∧
      a.pc = c.pc + 4 ∧ a.s = st.s ∧ (capsRead t.mem x.loc).step = (o.step + 1) % 64 ∧ (capsRead t.mem x.loc).ck = st.cregs ∧
      s.SameBut t ((x.loc, 64) :: x.held.map fun h => (h.1, h.2.length)) ∧
      (x.held.Pairwise (fun g h => g.1 + g.2.length ≤ h.1 ∨ h.1 + h.2.length ≤ g.1) →
        ∀ h ∈ x.held, (h.1 + h.2.length ≤ x.loc ∨ x.loc + 64 ≤ h.1) →
          ∀ b < h.2.length, mget t.mem (h.1 + b) = h.2.getD b 0) ∧
      (i = .capeStep → (capsRead t.mem x.loc).state = 1 ∧ (capsRead t.mem x.loc).token = o.token ∧
        ∃ y, a.caps = some y ∧ y.steps = x.steps + 1 ∧ y.held = [] ∧ y.token = x.token) ∧
      (i = .capeEnd → (capsRead t.mem x.loc).state = 0 ∧ a.caps = none)) ∧
    (¬ names → ∃ t a, exec i s = .next t ∧ tfind t.strands c.uid = some a ∧
      (x.adopter = true → t.mem = s.mem ∧ a.pc = x.savedPc ∧ a.caps = none ∧ ∀ q < x.savedC.length, a.sreg (56 + q) = x.savedC.getD q 0) ∧
      (x.adopter = false → s.replyOf st x = none → t.mem = s.mem ∧ a.block = .reply ∧ a.s = st.s))) ∧
  -- an adopter's last step: the record is FREE, the first holder's reply is written, and the adopter stands at its CAPB
  (∀ (s : State) (c : Issue) (st : Strand) (x : Caps) (r : Nat), s.Issues c st .capeEnd [] → s.Settled →
    (s.at_ st).caps = some x → x.replying = false → x.adopter = true → x.savedC.length = 8 →
    s.capsPlace st (.atomic true) x.record 64 ≠ .error 0x18 →
    let die := dieOf st.core
    let o := capsRead s.mem x.loc
    o.state = 1 → o.token = x.token.toNat → o.step = x.steps →
    let done : CapsRec := { o with
      state := 0, token := 0, icount := x.icount, wcount := x.wcount + x.held.length, step := o.step + 1
      nextpc := (c.pc + 4).toNat, ck := st.cregs }
    let y := (x.held.foldl (fun (t : State) h => t.homeStore die h.1 h.2 false) ((s.begun c).flushDie die)).capsPut die x.loc
      done.bytes
    y.capsPlace st .write x.reply 64 = .ok r → (r + 40 ≤ x.loc ∨ x.loc + 64 ≤ r) →
    ∃ t a, exec .capeEnd s = .next t ∧ tfind t.strands c.uid = some a ∧
      (capsRead t.mem x.loc).state = 0 ∧ (capsRead t.mem x.loc).token = 0 ∧ (capsRead t.mem x.loc).step = (o.step + 1) % 64 ∧
      (capsRead t.mem x.loc).ck = st.cregs ∧ mread t.mem r 32 = st.cregs.flatMap (fun w => leBytes 4 w.toNat) ∧
      leNat (mread t.mem (r + 32) 8) = 2 ^ 63 + x.htoken.toNat ∧
      s.SameBut t ((r, 40) :: (x.loc, 64) :: x.held.map fun h => (h.1, h.2.length)) ∧
      a.caps = none ∧ a.pc = x.savedPc ∧ a.clause = x.savedClause ∧ a.block = .none ∧
      (∀ q < 8, a.sreg (56 + q) = x.savedC.getD q 0) ∧ ∀ q < 56, a.sreg q = st.sreg q) ∧
  -- a record in a slice whose owner is out: the commit waits for the restore (R145)
  (∀ (s : State) (c : Issue) (st : Strand) (i : Instr) (x : Caps), i = .capeStep ∨ i = .capeEnd → s.Issues c st i [] →
    s.Settled → st.caps = some x → x.replying = false → s.capsPlace st (.atomic true) x.record 64 = .error 0x18 →
    exec i s = .next ((((s.begun c).flushDie (dieOf st.core)).takeTrap c.uid
      { cls := 0x18, addr := x.record, flags := 8, pc := some c.pc }).ended))) ∧
  (∀ (s : State) (c : Issue) (st : Strand) (k : Caps) (key : Nat), st.caps = some k →
    (∀ (sd sa : BitVec 6) (sz : BitVec 3) (off : BitVec 9), s.Issues c st (.sld sd sa sz off) (useS sd (szRegs sz) ++ useS sa 2) →
      let n := szBytes sz
      let addr := st.dreg sa.toNat + off.signExtend 64 * BitVec.ofNat 64 n
      let noted := (s.begun c).noteMiss (dieOf st.core) (s.who st) addr
      s.resolve (dieOf st.core) (s.who st) .read addr n = .ok (.loc key) →
      (s.sameHome key k.loc = false →
        exec (.sld sd sa sz off) s = .next ((noted.takeTrap c.uid { cls := 0x23, pc := some c.pc }).ended)) ∧
      (s.sameHome key k.loc = true →
        let x := noted.flushDie (dieOf st.core)
        let m := k.held.foldl (fun m h => mwrite m h.1 h.2) x.mem
        exec (.sld sd sa sz off) s = .next ((x.startOp c (s.at_ st) [] ((List.range (szRegs sz)).map (sd.toNat + ·)) []
          (((extend sz (mread m key n)).zipIdx).map fun w => (sd.toNat + w.2, w.1)) false none).retire c (.sld sd sa sz off)).ended)) ∧
    (∀ (ss sa : BitVec 6) (sz : BitVec 3) (off : BitVec 9), s.Issues c st (.sst ss sa sz off) (useS sa 2 ++ useS ss (szRegs sz)) →
      let n := szBytes sz
      let addr := st.dreg sa.toNat + off.signExtend 64 * BitVec.ofNat 64 n
      s.resolve (dieOf st.core) (s.who st) .write addr n = .ok (.loc key) →
      exec (.sst ss sa sz off) s = .next (
        if s.sameHome key k.loc then
          (s.noteMiss (dieOf st.core) (s.who st) addr).stepped c (.sst ss sa sz off) fun x =>
            { x with caps := x.caps.map fun y => { y with held := y.held ++ [(key, st.sbytes ss.toNat n)] } }
        else (((s.begun c).noteMiss (dieOf st.core) (s.who st) addr).takeTrap c.uid { cls := 0x23, pc := some c.pc }).ended)))

/-- WORK POOLS AND LAUNCH (R95 to R97, R346, R347). POOLP puts its entry at TAIL and advances it, closes a producer where bit 0
asks, or counts in FULLS; POOLD takes the entry at HEAD and advances it, or says whether producers are left; each status arrives
with the flag, and no other byte changes. LAUNCH answers 0 where the record is accepted, 1 where it is rejected, 2 with 4,096
grids launched, waits while a header that it names lies in another module, and traps where the header does not allow it.
The model's choice or reading: LAUNCH writes its status at issue, and the grids that count (log entry 31); a TAIL
below HEAD is an empty pool (log entry 35), and the classes of a ring access (log entry 118). -/
def Obligations.PoolsAndLaunch : Prop :=
  (∀ (sa sb sc : BitVec 6) (s : State) (c : Issue) (st : Strand) (k e : Nat) (p : Pool), s.Settled →
    s.poolPlace st (st.dreg sa.toNat) = .ok (k, p) → (e + 32 ≤ k ∨ k + 64 ≤ e) →
    let started := fun (t : State) (dst : List Nat) (res : List (Nat × Word)) => ∃ o : Op, t.ops = tset s.ops s.next o ∧
      o.holders = [c.uid] ∧ o.setB = false ∧ o.flag = (st.clause.map (·.setA)).getD 15 ∧ o.dstS = dst ∧ o.sres = res ∧ o.res = []
    (s.Issues c st (.poolp sa sb sc) (useS sc ++ useS sa 2 ++ useS sb 8) →
      s.resolve (dieOf st.core) (s.who st) .write (p.entry p.tail) 32 = .ok (.loc e) →
      let full := p.head + 2 ^ p.caps ≤ p.tail
      let close := (st.sreg sc.toNat).getLsbD 0 = true
      ∃ t, exec (.poolp sa sb sc) s = .next t ∧
        started t [sc.toNat] [(sc.toNat, if full then 1 else if close ∧ p.open_ = 0 then 3 else 0)] ∧
        (full → leNat (mread t.mem (k + 32) 8) = (p.fulls + 1) % 2 ^ 64 ∧ s.SameBut t [(k + 32, 8)]) ∧
        (¬ full → mread t.mem e 32 = st.sbytes sb.toNat 32 ∧ leNat (mread t.mem (k + 24) 8) = (p.tail + 1) % 2 ^ 64 ∧
          leNat (mread t.mem (k + 12) 4) = (if close ∧ 0 < p.open_ then p.open_ - 1 else p.open_) ∧
          s.SameBut t [(e, 32), (k + 24, 8), (k + 12, 4)])) ∧
    (s.Issues c st (.poold sa sb sc) (useS sb 8 ++ useS sc ++ useS sa 2) →
      s.resolve (dieOf st.core) (s.who st) .read (p.entry p.head) 32 = .ok (.loc e) →
      let dst := (List.range 8).map (sb.toNat + ·) ++ [sc.toNat]
      (p.head < p.tail → ∃ t, exec (.poold sa sb sc) s = .next t ∧
        started t dst (((List.range 8).map fun q => (sb.toNat + q, BitVec.ofNat 32 (leNat (mread s.mem (e + 4 * q) 4)))) ++
          [(sc.toNat, 0)]) ∧
        leNat (mread t.mem (k + 16) 8) = (p.head + 1) % 2 ^ 64 ∧ s.SameBut t [(k + 16, 8)]) ∧
      (p.tail ≤ p.head → ∃ t, exec (.poold sa sb sc) s = .next t ∧ t.mem = s.mem ∧
        started t dst [(sc.toNat, if p.open_ = 0 then 2 else 1)]))) ∧
  (∀ (sa sc : BitVec 6) (s : State) (c : Issue) (st : Strand), s.Settled →
    let i : Instr := .launch sa sc
    let me := (s.wgOf st.wg).grid
    let g := s.gridAt st
    s.Issues c st i (useS sc ++ useS sa 2) →
    (g.hdr.flags.getLsbD 0 = false → exec i s = .next (s.trapped c { cls := 0x17, pc := some c.pc })) ∧
    (g.hdr.flags.getLsbD 0 = true →
      (∀ k a, s.launchPlace st (st.dreg sa.toNat) = .error (k, a) →
        exec i s = .next (s.trapped c { cls := k, addr := a, pc := some c.pc })) ∧
      ∀ b, s.launchPlace st (st.dreg sa.toNat) = .ok b →
        let r := Rec.ofBytes b
        let y := (s.begun c).accept (.strand c.uid) g.ctx none (some me) 0 g.prio (if r.dep then some me else none) r
        let answers := fun (t : State) (v : Word) => exec i s =
          .next (((t.updStrand c.uid fun x => x.setS sc.toNat v).retire c i).forgetAsks (.strand c.uid)).ended
        (4096 ≤ s.launched g.ctx → answers (s.begun c) 2) ∧
        (s.launched g.ctx < 4096 → r.irq = false →
          (∀ n, y.2 = .grid n → answers y.1 0) ∧
          (∀ ks, y.2 = .waits ks →
            exec i s = .next ((y.1.headAsk (.strand c.uid) st.core ks).wait c .remote).ended) ∧
          (y.2 = .rejected → answers (y.1.completion g.ctx none r.compaddr r.compval r.seq 1 none) 1)) ∧
        (s.launched g.ctx < 4096 → r.irq = true →
          answers ((s.begun c).completion g.ctx none r.compaddr r.compval r.seq 1 none) 1)))

/-- BARRIERS AND FENCE (R302 to R306, R385). A number beyond the declared count and a domain barrier that is not enabled trap;
BARA arrives and goes on; BARW goes on where no active thread has arrived in the present generation and waits otherwise; BARS at
a workgroup whose other strands have all arrived advances the generation and goes on, and waits where one has not. A FENCE's
release beyond the module leaves none of its die's writes waiting, its acquire beyond the die makes every applied write
visible.
The model's choice (log entry 22): after a release no write of the die waits for its home, and an acquire shows every
applied write. -/
def Obligations.BarriersAndFence : Prop :=
  (∀ (s : State) (c : Issue) (st : Strand) (level : BitVec 3) (b : BitVec 4) (i : Instr),
    i = .bara level b ∨ i = .barw level b ∨ i = .bars level b → s.Issues c st i [] →
    let ks := s.barKeys st level.toNat b.toNat
    ((s.gridAt st).hdr.declared level.toNat ≤ b.toNat → exec i s =
      .next { s.takeTrap c.uid { cls := 0x04, addr := BitVec.ofNat 64 (0x200 + b.toNat), pc := some c.pc } with cur := none }) ∧
    (b.toNat < (s.gridAt st).hdr.declared level.toNat →
      (level = 5 → dbarEn (s.dbar b.toNat) = false → exec i s = .next (s.trapped c { cls := 0x17, pc := some c.pc })) ∧
      ((level = 5 → dbarEn (s.dbar b.toNat) = true) → s.Settled → st.asBarw = false →
        (i = .bara level b → s.pendingAt st ks = [] →
          exec i s = .next ((((s.begun c).releaseSync (s.at_ st) ((s.gridAt st).barScope level.toNat)).arriveAt c.uid ks
            ).retire c i).ended) ∧
        (i = .bara level b → s.pendingAt st ks ≠ [] →
          exec i s = .next ((s.begun c).wait c (.barrier (s.pendingAt st ks) false)).ended) ∧
        (i = .barw level b → s.pendingAt st ks = [] → ∃ t, exec i s = .next t ∧ t.mem = s.mem ∧
          t.strands = (s.stepped c i fun x => x.clearArrivals ks).strands) ∧
        (i = .barw level b → s.pendingAt st ks ≠ [] → st.div = [] → ∃ t, exec i s = .next t ∧ t.mem = s.mem ∧
          t.strands = ((s.begun c).wait c (.barrier (s.pendingAt st ks) true)).strands)))) ∧
  (∀ (s : State) (c : Issue) (st : Strand) (b : BitVec 4) (w : Nat) (m : BitVec 32), s.Issues c st (.bars 1 b) [] →
    b.toNat < (s.gridAt st).hdr.barwg → s.Settled → st.asBarw = false → st.kind = .lane w m → m ≠ 0 → st.div = [] →
    (s.strands.map (·.1)).Nodup →
    let key : BarKey := ⟨1, st.wg, 0, b.toNat⟩
    s.pendingAt st [key] = [] →
    let others := ∀ x ∈ s.strands, x.1 ≠ c.uid → x.2.wg = st.wg → x.2.hasArrived key (s.gen key) = true
    ∃ t a, exec (.bars 1 b) s = .next t ∧ tfind t.strands c.uid = some a ∧ t.mem = s.mem ∧
      t.wgs.map (fun g => (g.1, { g.2 with dirty := false })) = s.wgs.map (fun g => (g.1, { g.2 with dirty := false })) ∧
      (others → t.gen key = s.gen key + 1 ∧ a.block = .none ∧ a.pc = c.pc + 4) ∧
      (¬ others → t.gen key = s.gen key ∧ a.block = .barrier [(key, s.gen key)] true ∧ a.pc = st.pc ∧
        a.hasArrived key (s.gen key) = true)) ∧
  (∀ (s : State) (c : Issue) (st : Strand) (kind : BitVec 2) (scope : BitVec 3), s.Issues c st (.fence kind scope) [] →
    let x := if kind.getLsbD 0 then (s.begun c).releaseAt (s.at_ st) scope.toNat else s.begun c
    let y := if kind.getLsbD 1 then x.acquireAt (s.at_ st) scope.toNat else x
    exec (.fence kind scope) s = .next (y.retire c (.fence kind scope)).ended) ∧
  (∀ (s : State) (st : Strand) (scope : Nat),
    (5 ≤ scope → ∀ w ∈ (s.releaseAt st scope).home.writes, w.2.die = dieOf st.core → s.buffered w.2 = true) ∧
    (4 ≤ scope → tget (s.acquireAt st scope).home.unseen (dieOf st.core) [] = []))

/-! ## Control registers, time, and the rest of the system class -/

/-- CONTROL REGISTERS (R200, R349, R350). CSRR gives the pair the register's value, here for the registers of the strand, its
workgroup, its place and the module; the handler's registers trap elsewhere; SLOTINFO samples SLOTPC. CSRW changes the registers
that can be written, of legal values, and traps on every other.
TIME, TRACE AND DEPENDENCY (R98, R99, R201, R348, R352 to R354). TICK reads the tick; SLEEP of 0 goes on and of n waits until
the tick has advanced by n; TMARM arms or disarms the workgroup's timer, with no TMVEC it traps; TRACE writes its 32-byte record
at the head and advances HEAD, or nothing where no buffer is or it is full; SUCC signals the workgroup; WAITPRED goes on
without a predecessor or once it is done with STATUS 0, traps where it ended otherwise, and waits before.
The model's choice: a new SATCTL or CREW is met at once (log entry 105), and FLAGS holds every event so far (log entry
106). -/
def Obligations.ControlRegisters : Prop :=
  ((∀ (sd : BitVec 6) (num : BitVec 12) (s : State) (c : Issue) (st : Strand), s.Issues c st (.csrr sd num) (useS sd 2) →
    let n := num.toNat
    (csrHandler n = true → st.isHandler = false →
      exec (.csrr sd num) s = .next (s.trapped c { cls := 0x17, pc := some c.pc })) ∧
    (csrHandler n = false → exec (.csrr sd num) s =
      .next (s.stepped c (.csrr sd num) fun x => x.setD sd.toNat ((s.begun c).csr (s.at_ st) n))) ∧
    (st.isHandler = true → 0x400 ≤ n → n ≤ 0x5FF → ∃ t, exec (.csrr sd num) s = .next t ∧
      t.strands = (s.stepped c (.csrr sd num) fun x => x.setD sd.toNat ((s.begun c).csr (s.at_ st) n)).strands ∧
      tfind (tget t.cores st.core coreReset).slotPc (n - 0x400) =
        some (st.wg, (s.begun c).slotPcNow (s.at_ st) (n - 0x400)))) ∧
  (∀ (s : State) (st : Strand),
    let w := s.wgOf st.wg
    s.csr st 0x000 = BitVec.ofNat 64 st.names.1 ∧ s.csr st 0x001 = BitVec.ofNat 64 st.names.1 ∧
    s.csr st 0x002 = BitVec.ofNat 64 st.count ∧ s.csr st 0x003 = BitVec.ofNat 64 w.w ∧
    s.csr st 0x008 = st.tile.setWidth 64 ∧ s.csr st 0x009 = st.mode.setWidth 64 ∧ s.csr st 0x00B = w.satctl.setWidth 64 ∧
    s.csr st 0x00C = w.crew ∧ s.csr st 0x020 = s.mod.tick ∧ s.csr st 0x021 = BitVec.ofNat 64 st.core ∧
    s.csr st 0x022 = BitVec.ofNat 64 (st.core / 4) ∧ s.csr st 0x023 = BitVec.ofNat 64 (st.core / 256) ∧
    s.csr st 0x024 = BitVec.ofNat 64 s.modnum ∧ s.csr st 0x040 = w.tmvec ∧ s.csr st 0x041 = w.trbase ∧
    s.csr st 0x042 = w.trctl ∧ s.csr st 0x080 = s.mod.modcap ∧ s.csr st 0x081 = s.mod.pwrstat ∧ s.csr st 0x082 = s.mod.twcfg ∧
    (∀ p < 64, s.csr st (0x100 + p) = (s.port p).stat) ∧ (∀ q < 64, s.csr st (0x200 + q) = (s.window q).base) ∧
    (∀ q < 64, s.csr st (0x240 + q) = (s.window q).ctl) ∧ (∀ b < 16, s.csr st (0x0C0 + b) = s.dbar b)) ∧
  (∀ (sa : BitVec 6) (num : BitVec 12) (s : State) (c : Issue) (st : Strand), s.Issues c st (.csrw sa num) (useS sa 2) →
    let i : Instr := .csrw sa num
    let v := st.dreg sa.toNat
    let refused := exec i s = .next (s.trapped c { cls := 0x17, pc := some c.pc })
    let setsWg := fun f : Wg → Wg => exec i s = .next { s.stepped c i id with wgs := tmod s.wgs st.wg f }
    (num = 0x008 → (1 ≤ v.toNat → v.toNat ≤ 5 → exec i s = .next (s.stepped c i fun x => { x with tile := v.extractLsb' 0 3 })) ∧
      (v.toNat = 0 ∨ 5 < v.toNat → refused)) ∧
    (num = 0x009 → (v.toNat < 256 → v.getLsbD 3 = false →
        exec i s = .next (s.stepped c i fun x => { x with mode := v.extractLsb' 0 8 })) ∧
      (256 ≤ v.toNat ∨ v.getLsbD 3 = true → refused)) ∧
    (num = 0x00A → (v.toNat < 128 → ∃ t, exec i s = .next t ∧ t.mem = s.mem ∧
        t.wgs = tmod s.wgs st.wg (fun g => { g with sticky := 0 }) ∧
        ∀ u x, tfind s.strands u = some x → ∃ y, tfind t.strands u = some y ∧
          y.sticky = if x.wg = st.wg then v.extractLsb' 0 7 else x.sticky) ∧
      (128 ≤ v.toNat → refused)) ∧
    (num = 0x00B → (v.toNat < 8 → setsWg fun g => { g with satctl := v.extractLsb' 0 3 }) ∧ (8 ≤ v.toNat → refused)) ∧
    (num = 0x00C → (s.crewBad st v = false → setsWg fun g => { g with crew := v }) ∧ (s.crewBad st v = true → refused)) ∧
    (num = 0x00E → v.toNat ≤ 3 → ∃ t, exec i s = .next t ∧ t.strands = (s.stepped c i id).strands ∧
      (∀ a ∈ t.home.allocs, a.wg = st.wg → v.toNat ≤ a.level.toNat) ∧ t.home.allocs.map (·.wg) = s.home.allocs.map (·.wg)) ∧
    (num = 0x040 → (v.toNat % 4 = 0 → setsWg fun g => { g with tmvec := v }) ∧ (v.toNat % 4 ≠ 0 → refused)) ∧
    (num = 0x041 → (v.toNat % 4096 = 0 → setsWg fun g => { g with trbase := v }) ∧ (v.toNat % 4096 ≠ 0 → refused)) ∧
    (num = 0x042 → (v.extractLsb' 52 11 = 0 → v.extractLsb' 32 16 = 0 →
        setsWg fun g => { g with trctl := v &&& 0xFFFFFFFF00000000 }) ∧
      (v.extractLsb' 52 11 ≠ 0 ∨ v.extractLsb' 32 16 ≠ 0 → refused)) ∧
    (num = 0x090 → (st.isHandler = false ∨ 4 ≤ v.toNat → refused) ∧
      (st.isHandler = true → v.toNat < 4 → ∃ t, exec i s = .next t ∧ t.strands = (s.stepped c i id).strands ∧
        (tget t.cores st.core coreReset).counting = v.getLsbD 0 ∧
        (v.getLsbD 1 = true → (tget t.cores st.core coreReset).elig = [] ∧ (tget t.cores st.core coreReset).stall = []))) ∧
    (num.toNat ∉ [0x008, 0x009, 0x00A, 0x00B, 0x00C, 0x00E, 0x040, 0x041, 0x042, 0x090] → refused))) ∧
  (∀ (s : State) (c : Issue) (st : Strand),
    let w := s.wgOf st.wg
    (∀ sd : BitVec 6, s.Issues c st (.tick sd) (useS sd 2) →
      exec (.tick sd) s = .next (s.stepped c (.tick sd) fun x => x.setD sd.toNat s.mod.tick)) ∧
    (∀ sa : BitVec 6, s.Issues c st (.sleep sa) (useS sa) →
      (st.sreg sa.toNat = 0 → exec (.sleep sa) s = .next (s.stepped c (.sleep sa) id)) ∧
      (st.sreg sa.toNat ≠ 0 → exec (.sleep sa) s =
        .next ((s.begun c).wait c (.sleep (s.mod.tick.toNat + (st.sreg sa.toNat).toNat))).ended)) ∧
    (∀ sa : BitVec 6, s.Issues c st (.tmarm sa) (useS sa) →
      (w.tmvec = 0 → exec (.tmarm sa) s = .next (s.trapped c { cls := 0x17, pc := some c.pc })) ∧
      (w.tmvec ≠ 0 → exec (.tmarm sa) s = .next { s.stepped c (.tmarm sa) id with
        wgs := tmod s.wgs st.wg fun g => { g with
          tmexp := if st.sreg sa.toNat = 0 then 0 else s.mod.tick.toNat + (st.sreg sa.toNat).toNat
          tmArgs := (st.dreg 48, st.dreg 50) } })) ∧
    (∀ (sa sb : BitVec 6) (code : BitVec 10), s.Issues c st (.trace sa sb code) (useS sa 2 ++ useS sb 2) →
      let n := 2 ^ ((w.trctl.extractLsb' 48 4).toNat + 6)
      let head := (w.trctl.extractLsb' 0 32).toNat
      let none_ := ((w.trctl.extractLsb' 48 4) = 0 ∧ w.trbase = 0) ∨ (w.trctl.getLsbD 63 = false ∧ n ≤ head)
      (none_ → exec (.trace sa sb code) s = .next (s.stepped c (.trace sa sb code) id)) ∧
      (¬ none_ → ∀ key, (tfind s.wgs st.wg).isSome → (0 < st.count ∨ st.isHandler = true) →
        s.resolve (dieOf st.core) (s.who st) .write (w.trbase + BitVec.ofNat 64 (32 * (head % n))) 32 = .ok (.loc key) →
        let data := leBytes 8 s.mod.tick.toNat ++ leBytes 2 st.core ++ leBytes 2 code.toNat ++ leBytes 4 w.w ++
          leBytes 8 (st.dreg sa.toNat).toNat ++ leBytes 8 (st.dreg sb.toNat).toNat
        ∃ t, exec (.trace sa sb code) s = .next t ∧ (∀ b < 32, s.waitersByte (key + b) = false →
            t.viewByte st.view (key + b) = data.getD b 0) ∧
          (∀ (v : View) (a : Nat), (a < key ∨ key + 32 ≤ a) → t.viewByte v a = s.viewByte v a) ∧ t.mem = s.mem ∧
          ((t.wgOf st.wg).trctl.extractLsb' 0 32).toNat = (head + 1) % 2 ^ 32 ∧
          (t.wgOf st.wg).trctl.extractLsb' 32 32 = w.trctl.extractLsb' 32 32 ∧
          t.strands = (s.stepped c (.trace sa sb code) id).strands)) ∧
    (s.Issues c st .succ [] → s.Settled → ∃ t, exec .succ s = .next t ∧ t.mem = s.mem ∧ t.wgs = s.wgs ∧
      t.strands = (s.stepped c .succ id).strands ∧
      t.grids = tmod s.grids w.grid (fun g =>
        { g with signalled := if g.signalled.contains w.w then g.signalled else g.signalled ++ [w.w] })) ∧
    (s.Issues c st .waitpred [] →
      ((s.gridAt st).pred = none → exec .waitpred s = .next (s.stepped c .waitpred id)) ∧
      ∀ p, (s.gridAt st).pred = some p →
        ((s.gridOf p).st = .done 0 → s.Settled → ∃ t, exec .waitpred s = .next t ∧ t.mem = s.mem ∧
          t.strands = (s.stepped c .waitpred id).strands ∧ tget t.home.unseen (dieOf st.core) [] = []) ∧
        (∀ k, k ≠ 0 → (s.gridOf p).st = .done k → exec .waitpred s = .next (s.trapped c { cls := 0x0A, pc := some c.pc })) ∧
        ((∀ k, (s.gridOf p).st ≠ .done k) → exec .waitpred s = .next ((s.begun c).wait c .waitpred).ended)))

/-! ## Other agents -/

/-- The operation `i` of another agent, in a state with `P`, answers `f` of it. -/
def Sys2Proof.Claims.Does (i : Instr) (P : State → Prop) (f : State → State) : Prop := ∀ s, P s → exec i s = .next (f s)

/-- The operation `i`, in a state with `P`, answers a state that `Q` describes. -/
def Sys2Proof.Claims.Gives (i : Instr) (P : State → Prop) (Q : State → State → Prop) : Prop :=
  ∀ s, P s → ∃ t, exec i s = .next t ∧ Q s t

/-- The sensors as THROTTLE_EVALUATION and THERMAL_TRIP find them: readings that come with the operation, or the last
ones. -/
def Sys2Proof.Claims.sensed (s : State) : List Nat := if s.arg.nats = [] then s.mod.readings else s.arg.nats

/-- R10 to R24, R202, R208: reset, boot, throttle, soft errors, the fatal dump, stop on tick, and the stall account's
clock.
The model's choice or reading: memory and firmware over a reset (log entries 38 and 77), a lower clock step by step
(log entry 39), the sensor readings of reset (log entry 4), and who writes event 0x08 (log entry 111). -/
def Obligations.ModuleEvents : Prop :=
  -- RESET_N: everything as after reset, but the firmware's image and the host's memory
  Gives .moduleReset (fun _ => True) (fun s t =>
    t.mod = { State.reset.mod with
      image := s.mod.image, firmware := if s.mod.staged.isSome then s.mod.staged else s.mod.firmware
      modcap := State.reset.mod.modcap ||| s.mod.image.modrev.setWidth 64 } ∧
    t.home = State.reset.home ∧ t.fab = State.reset.fab ∧
    t.host = State.reset.host ∧ t.ctxs = [] ∧ t.grids = [] ∧ t.wgs = [] ∧ t.strands = [] ∧ t.cores = [] ∧
    (∀ a < 2 ^ 64, mget t.mem a = Memory.blank) ∧ ∀ a, 2 ^ 64 ≤ a → mget t.mem a = mget s.mem a) ∧
  -- a boot with 192 quads, 88 channels per stack and 48 ports or more, and one with less
  Gives .firmwareBoot
    (fun s => s.mod.booted = false ∧ s.mod.failedBoot = false ∧ s.mod.image.quads.length = 4 ∧ s.mod.image.ports.length = 4 ∧
      192 ≤ (s.mod.image.quads.map popcount).foldl (· + ·) 0 ∧ 88 ≤ s.mod.image.channels ∧ s.mod.image.channels ≤ 96 ∧
      48 ≤ (s.mod.image.ports.map popcount).foldl (· + ·) 0)
    (fun s t => let b := s.mod.image
      t.mod.booted = true ∧ t.channels = b.channels ∧ t.memChunks = 12 * (30517 * b.channels / 96) ∧
      t.modnum = b.modnum.toNat ∧ t.master = b.master ∧
      (t.mod.modcap.extractLsb' 26 4).toNat = 12 ∧ (t.mod.modcap.extractLsb' 13 4).toNat = 15 ∧
      (t.mod.modcap.extractLsb' 17 9).toNat = (b.quads.map popcount).foldl (· + ·) 0 ∧
      (t.mod.modcap.extractLsb' 37 7).toNat = (b.ports.map popcount).foldl (· + ·) 0 ∧
      (∀ d < 4, tget t.mod.qmask d 0 = b.quads.getD d 0 ∧ tget t.mod.pmask d 0 = (b.ports.getD d 0).setWidth 64) ∧
      (∀ p < 64, t.port p = { s.port p with
        st := if (b.ports.getD (p / 16) 0).getLsbD (p % 16) then (s.port p).st else 3, size := b.sizes, xoff := b.xoff, xon := b.xon }) ∧
      t.host.bar2Size = barSize b.bar2Size ∧
      (b.windows = [] → t.fab.windows = s.fab.windows) ∧ (b.dbars = [] → t.fab.dbar = s.fab.dbar) ∧
      ∀ d v, b.dbars = [(d, v)] → d < 16 → t.dbar d = v &&& 0x80FFFF0000000000) ∧
  Does .firmwareBoot
    (fun s => s.mod.booted = false ∧ s.mod.failedBoot = false ∧
      ((s.mod.image.quads.map popcount).foldl (· + ·) 0 < 192 ∨ s.mod.image.channels < 88 ∨
        (s.mod.image.ports.map popcount).foldl (· + ·) 0 < 48))
    (fun s => s.setMod fun m => { m with failedBoot := true }) ∧
  -- one evaluation of the throttle: one step of 125 MHz
  Gives .throttleEvaluation (fun _ => True) (fun s t =>
    let r := sensed s
    let hot := 3200 < r.getD 0 0 ∨ 105 < r.getD 1 0 ∨ 40 < r.getD 2 0 ∨ r.getD 3 48 < 42
    (hot → t.mxeclk = max 8 (s.mxeclk - 1)) ∧ (¬hot → t.mxeclk = min 32 (s.mxeclk + 1)) ∧
    t.mod.thermN = (!decide (105 < r.getD 1 0) && !s.mod.fatal) ∧ t.mem = s.mem ∧ t.strands = s.strands) ∧
  -- the thermal trip
  Gives .thermalTrip (fun s => 115 ≤ (sensed s).getD 1 0 ∧ s.mxeclk ≤ 8)
    (fun s t => t.mod.fatal = true ∧ t.mod.thermN = false ∧ (s.mod.fatal = false → ∀ c ∈ t.ctxs, c.2.fatal = true)) ∧
  Does .thermalTrip (fun s => (sensed s).getD 1 0 < 115 ∨ 8 < s.mxeclk)
    (fun s => s.setMod fun m => { m with readings := sensed s }) ∧
  -- a module-fatal event ends every context and writes the dump, and nothing outside its region
  Gives .moduleFatalEvent (fun s => s.mod.fatal = false) (fun s t =>
    t.mod.fatal = true ∧ t.mod.dtick = s.mod.tick ∧ t.ctxs = tmap s.ctxs (fun _ c => { c with fatal := true }) ∧
    t.mod.dbytes = min s.mod.image.dumpSize (dumpAt s.ctxs.length).2.2 ∧
    s.SameBut t [(s.mod.image.dumpBase, t.mod.dbytes)] ∧ t.strands = s.strands ∧ t.home = s.home) ∧
  Does .moduleFatalEvent (fun s => s.mod.fatal = true) id ∧
  -- the patrol scrubber
  Does .patrolScrub (fun s => s.arg.a < s.memTop ∧ s.arg.ok = true) (fun s => s.setMod fun m => { m with
    corrected := tset m.corrected (stackOf s.arg.a) (tget m.corrected (stackOf s.arg.a) 0 + 1) }) ∧
  Gives .patrolScrub (fun s => s.arg.a < s.memTop ∧ s.arg.ok = false) (fun s t =>
    s.arg.a / 64 ∈ t.home.poison ∧ (∀ g, g ≠ s.arg.a / 64 → (g ∈ t.home.poison ↔ g ∈ s.home.poison)) ∧ t.mem = s.mem) ∧
  -- PWRGOOD, and stop on tick
  Does .railOutOfRegulation (fun _ => True) (fun s => s.setMod fun m => { m with pwrgood := s.arg.ok }) ∧
  Does .stoptickWrite (fun s => (∀ c ∈ s.ctxs, c.2.conf = false) ∧ s.mod.tick.toNat < s.arg.v.toNat)
    (fun s => s.setMod fun m => { m with stopTick := some s.arg.v }) ∧
  Gives .stoptickWrite (fun s => (∃ c ∈ s.ctxs, c.2.conf = true) ∨ s.arg.v.toNat ≤ s.mod.tick.toNat)
    (fun s t => { t with mod := { t.mod with canary := s.mod.canary } } = s) ∧
  Does .stopOnTick (fun s => ∃ v, s.mod.stopTick = some v ∧ v.toNat ≤ s.mod.tick.toNat)
    (fun s => s.setMod fun m => { m with stopped := true }) ∧
  Does .stopOnTick (fun s => ∀ v, s.mod.stopTick = some v → s.mod.tick.toNat < v.toNat) id ∧
  -- one clock of the stall account
  Gives .stallAccountClock (fun _ => True) (fun s t =>
    { t with cores := s.cores } = s ∧
    (∀ k, (tget t.cores k coreReset).counting = (tget s.cores k coreReset).counting) ∧
    (∀ k ∈ s.busyCores, (tget t.cores k coreReset).upto = s.mod.clock) ∧
    ∀ k, k ∉ s.busyCores → tget t.cores k coreReset = tget s.cores k coreReset)

/-- Port `p` changes by `f`, and nothing else does. -/
def Sys2Proof.Claims.PortDoes (i : Instr) (P : State → Port → Prop) (f : State → Port → Port) : Prop :=
  Does i (fun s => P s (s.port s.arg.a)) fun s => s.updPort s.arg.a (f s)

/-- A TICKSYNC message of this module to the peer of port `p` (R36, R39). -/
def Sys2Proof.Claims.tickMsg (s : State) (p : Nat) : Msg where
  op := 0x0B
  dmod := BitVec.ofNat 8 (Config.peerOf p)
  smod := BitVec.ofNat 8 s.modnum
  sdie := BitVec.ofNat 2 (p / 16)
  bytes := 8
  status := 0
  tag := 0
  aop := 0
  addr := 0
  idx := []
  data := leBytes 8 s.mod.tick.toNat

/-- R26 to R31, R39: flits, retries, retrains, and the alignment of ticks.
The model's choice or reading: SEQ 0 at bring-up (log entry 7), the tick aligned only without a context (log entry
44), a payload flit without room refused (log entry 72), and retrains before a bring-up forgotten (log entry 104). -/
def Obligations.LinkEvents : Prop :=
  -- a port that is not up sends and receives nothing
  Does .flitTransmit (fun s => (s.port s.arg.a).st ≠ 2) id ∧ Does .flitReceive (fun s => (s.port s.arg.a).st ≠ 2) id ∧
  -- what is to be replayed leaves first
  (∀ (s : State) (f : Flit) (r : List Flit), (s.port s.arg.a).st = 2 → (s.port s.arg.a).resend = f :: r →
    ∃ t, exec .flitTransmit s = .next t ∧ { t with fab := s.fab } = s ∧
      (t.port s.arg.a).resend = r ∧ (t.port s.arg.a).unacked = (s.port s.arg.a).unacked ∧
      (t.port s.arg.a).txSeq = (s.port s.arg.a).txSeq ∧
      (t.port s.arg.a).sent = toLanes (flitBytes
        { seq := f.seq, ack := (s.port s.arg.a).rxSeq - 1, nak := (s.port s.arg.a).nakDue, vc := f.vc, kind := 1
          pause := (s.port s.arg.a).pauses } f.beats)) ∧
  -- at 512 unacknowledged flits, or with nothing to send, an idle flit leaves
  Gives .flitTransmit
    (fun s => let x := s.port s.arg.a
      x.st = 2 ∧ x.resend = [] ∧ (512 ≤ x.unacked.length ∨ (x.txq = [] ∧ ∀ e ∈ x.txRest, e.2 = 0)))
    (fun s t => let x := s.port s.arg.a
      (t.port s.arg.a).txSeq = x.txSeq ∧ (t.port s.arg.a).unacked = x.unacked ∧
      (t.port s.arg.a).sent = toLanes (flitBytes
        { seq := x.txSeq, ack := x.rxSeq - 1, nak := x.nakDue, vc := 0, kind := 0, pause := x.pauses } [])) ∧
  -- otherwise a payload flit, which is kept: the next beats of the messages of its channel, with the contexts that own them
  Gives .flitTransmit
    (fun s => let x := s.port s.arg.a
      x.st = 2 ∧ x.resend = [] ∧ x.unacked.length < 512 ∧ x.peerPause = 0 ∧ x.txq ≠ [])
    (fun s t => let x := s.port s.arg.a
      (t.port s.arg.a).txSeq = x.txSeq + 1 ∧
      ∃ f : Flit, f.seq = x.txSeq ∧ f.beats.length ≤ 29 ∧ (t.port s.arg.a).unacked = x.unacked ++ [f] ∧
        (let k := packMsgs ((x.txq.filter fun m => m.1 == f.vc).map (·.2)) (tget x.txRest f.vc.toNat 0) 29
         f.beats = k.1 ∧ f.owners = (k.2.1.flatMap s.ownersOf).eraseDups ∧
           tget (t.port s.arg.a).txRest f.vc.toNat 0 = k.2.2.2) ∧
        (t.port s.arg.a).sent = toLanes (flitBytes
          { seq := x.txSeq, ack := x.rxSeq - 1, nak := x.nakDue, vc := f.vc, kind := 1, pause := x.pauses } f.beats)) ∧
  (∀ (ms : List Msg) (sent room : Nat), (∀ m ∈ ms.head?, sent ≤ (msgBeats m).length) →
    (packMsgs ms sent room).1 = ((ms.flatMap msgBeats).drop sent).take room) ∧
  -- beat n travels on lane n mod 4, and a receiver puts the lanes together again
  (∀ b : List Byte, b.length = 256 → ofLanes (toLanes b) = b ∧
    ∀ n < 32, (((toLanes b).getD (n % 4) []).drop (8 * (n / 4))).take 8 = (b.drop (8 * n)).take 8) ∧
  -- the bytes that the FEC corrects are counted; a bad flit is discarded, and the first one since an accepted flit asks for
  -- a replay; a good payload flit is accepted in order only, and only with room in its channel's buffer, or on channel 2 or 7;
  -- an acknowledgement
  -- frees the flits up to it; a NAK has the others sent again
  (∀ s : State, let x := s.port s.arg.a
    let b := ofLanes (laneCut s.arg.bytes)
    x.st = 2 → x.sameReplay < 7 → ∃ t, exec .flitReceive s = .next t ∧
      let y := t.port s.arg.a
      y.feccor = min (x.feccor + fecCount b) 0xFFFFFF ∧ t.mem = s.mem ∧ t.strands = s.strands ∧
      match flitRead b with
      | none => y.nakSent = true ∧ y.nakDue = (x.nakDue || !x.nakSent) ∧ y.rxSeq = x.rxSeq ∧ y.unacked = x.unacked ∧
        y.peerPause = x.peerPause ∧ t.events = s.events
      | some (h, _) => y.peerPause = h.pause ∧
        let room := h.vc = 2 ∨ h.vc = 7 ∨ x.occ h.vc.toNat < tget x.size h.vc.toNat 256
        (h.kind = 1 → h.seq = x.rxSeq → room → y.rxSeq = x.rxSeq + 1 ∧ y.nakSent = false) ∧
        (h.kind = 1 → (h.seq ≠ x.rxSeq ∨ ¬ room) → y.rxSeq = x.rxSeq ∧ y.nakSent = true ∧ t.events = s.events) ∧
        (h.kind ≠ 1 → y.rxSeq = x.rxSeq ∧ t.events = s.events) ∧
        ∀ pre f post, x.unacked = pre ++ f :: post → (∀ g ∈ pre, g.seq ≠ f.seq) → f.seq = h.ack →
          y.unacked = post ∧ (h.nak = true → y.resend = post ∧ y.replays = min (x.replays + 1) 0xFFFFFF)) ∧
  -- ACK that stalls: a retrain, the fourth time in 2^30 ticks port-down
  (∀ s : State, let x := s.port s.arg.a
    x.st = 2 → x.unacked ≠ [] → x.lastAck + 65536 ≤ s.mod.tick.toNat →
    ((x.retrainTicks.filter fun r => decide (s.mod.tick.toNat < r + 2 ^ 30)).length < 3 →
      ∃ t, exec .ackStallTimeout s = .next t ∧ (t.port s.arg.a).st = 1 ∧ (t.port s.arg.a).unacked = x.unacked ∧
        (t.port s.arg.a).retrains = min (x.retrains + 1) 255) ∧
    (3 ≤ (x.retrainTicks.filter fun r => decide (s.mod.tick.toNat < r + 2 ^ 30)).length →
      (∀ f ∈ x.unacked, f.owners = []) →
      ∃ t, exec .ackStallTimeout s = .next t ∧ (t.port s.arg.a).st = 0 ∧ (t.port s.arg.a).unacked = [] ∧ t.ctxs = s.ctxs)) ∧
  Does .ackStallTimeout (fun s => let x := s.port s.arg.a
    x.st ≠ 2 ∨ x.unacked = [] ∨ s.mod.tick.toNat < x.lastAck + 65536) id ∧
  -- the end of a retrain, and a port that is brought up again
  PortDoes .linkRetrainComplete (fun _ x => x.st = 1)
    (fun s x => { x with st := 2, resend := x.unacked, lastAck := s.mod.tick.toNat }) ∧
  Gives .portBringUp (fun s => (s.port s.arg.a).st = 0) (fun s t => let x := s.port s.arg.a
    (t.port s.arg.a).st = 1 ∧ (t.port s.arg.a).txSeq = 0 ∧ (t.port s.arg.a).rxSeq = 0 ∧ (t.port s.arg.a).unacked = [] ∧
    (t.port s.arg.a).retrains = x.retrains ∧ (t.port s.arg.a).replays = x.replays) ∧
  -- the master sends its tick; another module measures, checks at every later message, and aligns where no context is
  -- resident
  Gives .ticksyncPeriod (fun _ => True) (fun s t =>
    { t with fab := s.fab } = s ∧ ∀ p < 64, (t.port p).txq = (s.port p).txq ++
      if s.master = true ∧ (s.port p).st = 2 then
        [(7, tickMsg s p)]
      else []) ∧
  Does .tickAlignment (fun s => s.master = false ∧ s.ctxs = [] ∧ (s.port s.arg.a).roundTrip.isSome = true)
    (fun s => s.setMod fun m => { m with tick := s.arg.v + BitVec.ofNat 64 (((s.port s.arg.a).roundTrip.getD 0) / 2) }) ∧
  Does .tickAlignment (fun s => s.ctxs ≠ []) id ∧
  (∀ s : State, s.master = true → ∃ t, exec .ticksync s = .next t ∧
    ((t.port s.arg.a).txq.getLast?).map (fun m => (m.1, m.2.op, leNat m.2.data)) = some (7, 0x0B, s.mod.tick.toNat)) ∧
  (∀ (s : State) (r : Nat), s.master = false → (s.port s.arg.a).roundTrip = some r →
    let now := BitVec.ofNat 64 (leNat s.arg.msg.data)
    let far := 2 < ((s.mod.tick.toNat : Int) - ((now.toNat + r / 2 : Nat) : Int)).natAbs
    (¬far → s.ctxs ≠ [] → exec .ticksync s = .next (s.msgDone s.arg.a s.arg.c)) ∧
    ∃ t, exec .ticksync s = .next t ∧ t.mod.tick = s.mod.tick ∧
      t.mod.twcfg = (if far then s.mod.twcfg ||| 0x4000 else s.mod.twcfg) ∧
      t.events = s.events ++ if s.ctxs = [] then [⟨.tickAlignment, { a := s.arg.a, v := now }⟩] else []) ∧
  (∀ s : State, s.master = false → (s.port s.arg.a).roundTrip = none →
    ((s.port s.arg.a).syncSent = none → ∃ t, exec .ticksync s = .next t ∧
      (t.port s.arg.a).syncSent = some s.mod.tick.toNat ∧ (t.port s.arg.a).txq.length = (s.port s.arg.a).txq.length + 1) ∧
    ∀ t0, (s.port s.arg.a).syncSent = some t0 → ∃ t, exec .ticksync s = .next t ∧
      (t.port s.arg.a).roundTrip = some (s.mod.tick.toNat - t0) ∧ (t.port s.arg.a).syncSent = none)

/-! ## Messages -/

/-- The requester of a message is answered on VC2 from die `die`, by the operation `op` with this STATUS and data; nothing
else changes. -/
def Sys2Proof.Claims.Replied (s t : State) (die op status : Nat) (data : List Byte) : Prop :=
  let m := s.arg.msg
  { t with fab := s.fab } = s ∧
  (s.portFor die m.smod.toNat m.addr.toNat = none → ∀ p, (t.port p).txq = (s.port p).txq) ∧
  ∀ p, s.portFor die m.smod.toNat m.addr.toNat = some p →
    (∀ q, q ≠ p → (t.port q).txq = (s.port q).txq) ∧
    ∃ r : Msg, (t.port p).txq = (s.port p).txq ++ [(2, r)] ∧ r.op = BitVec.ofNat 8 op ∧ r.dmod = m.smod ∧ r.tag = m.tag ∧
      r.status = BitVec.ofNat 4 status ∧ r.data = data

/-- R32, R36 to R38, R42, R305: requests at their home, answers to this module's requests, and domain barriers.
R40, R43, R46: the registers of the reduction windows and of the domain barriers.
The model's reading: NCONTRIB before RETRY (log entry 26), a RED outside the windows (log entry 28), the order of a
CAS's data (log entry 29), and the class of a STATUS (log entry 30). -/
def Obligations.MessagesAreServed : Prop :=
  (-- a READ of device memory that no confidential context holds
  (∀ s : State, let m := s.arg.msg
    let d := m.addr.toNat % 2 ^ 48
    d < 2 ^ 40 → d + m.bytes ≤ s.memTop → s.confOf d = none → s.windowFailed d = false →
    ∃ t, exec .read s = .next t ∧
      Replied s t (homeDie d) 4 (if s.poisoned d m.bytes then 1 else 0) (mread s.mem d m.bytes)) ∧
  -- a READ beyond it
  (∀ s : State, let m := s.arg.msg
    let d := m.addr.toNat % 2 ^ 48
    d < 2 ^ 40 → s.memTop < d + m.bytes → s.windowFailed d = false →
    ∃ t, exec .read s = .next t ∧ Replied s t (homeDie d) 6 3 []) ∧
  -- a WRITE, and an ATOMIC
  (∀ s : State, let m := s.arg.msg
    let d := m.addr.toNat % 2 ^ 48
    d < 2 ^ 40 → d + m.data.length ≤ s.memTop → s.confOf d = none → s.windowFailed d = false → s.home.words = [] →
    ∃ t, exec .write s = .next t ∧ Replied { s with mem := t.mem, home := t.home, sched := t.sched } t (homeDie d) 5 0 [] ∧
      mread t.mem d m.data.length = m.data ∧ s.SameBut t [(d, m.data.length)]) ∧
  (∀ s : State, let m := s.arg.msg
    let d := m.addr.toNat % 2 ^ 48
    let aop := m.aop.toNat
    let n := if aop = 9 then m.data.length / 2 else m.data.length
    d < 2 ^ 40 → d + n ≤ s.memTop → s.confOf d = none → s.windowFailed d = false → s.home.words = [] → s.poisoned d n = false →
    d % n = 0 → (n = 4 ∧ aop ≤ 12 ∨ n = 8 ∧ aop ≤ 9) →
    ∃ t, exec .atomic s = .next t ∧
      Replied { s with mem := t.mem, home := t.home, sched := t.sched } t (homeDie d) 4 0 (mread s.mem d n) ∧
      leNat (mread t.mem d n) =
        atomNew aop (8 * n) (leNat (mread s.mem d n)) (leNat (m.data.take n)) (leNat (m.data.drop n)) % 256 ^ n ∧
      s.SameBut t [(d, n)]) ∧
  -- a contribution outside every window, and one to a window that is not indexed; REDB carries several
  (∀ (i : Instr) (s : State), let m := s.arg.msg
    let d := m.addr.toNat % 2 ^ 48
    let ty := m.aop.toNat / 8
    let op := m.aop.toNat % 8
    let n := redBytes ty
    let v := m.data.take n
    (i = .red ∧ m.data.length = n ∨ i = .redb ∧ m.idx.length = 1 ∧ n ≤ m.data.length) →
    d < 2 ^ 40 → d + n ≤ s.memTop → s.confOf d = none → s.home.words = [] → s.poisoned d n = false → redBad ty op = false →
    (s.windowAt s.modnum d = none ∨ ∃ w, s.windowAt s.modnum d = some w ∧ (s.window w).failed = false ∧
      (s.window w).idx = false ∧ (s.window w).ty = ty ∧ (s.window w).op = op) →
    ∃ t, exec i s = .next t ∧ Replied { s with mem := t.mem, home := t.home, sched := t.sched } t (homeDie d) 5 0 [] ∧
      leNat (mread t.mem d n) = redNew ty op (leNat (mread s.mem d n)) (leNat v) % 256 ^ n ∧ s.SameBut t [(d, n)]) ∧
  (∀ s : State, s.arg.msg.idx = [] → exec .redb s = .next (s.msgDone s.arg.a s.arg.c)) ∧
  -- an indexed window: the index that is expected, indices that are past, and one to be held
  (∀ (s : State) (w port off k i : Nat) (v : List Byte), let win := s.window w
    let e : Elem := tget win.elems off ⟨0, []⟩
    win.failed = false → win.idx = true → s.home.words = [] →
    (i = e.e → e.held = [] → (s.contribute w port off k i v).2 = .ack ∧
      (tget ((s.contribute w port off k i v).1.window w).elems off ⟨0, []⟩).e = (if i = win.ncontrib then 0 else e.e + 1) ∧
      leNat (mread (s.contribute w port off k i v).1.mem k (redBytes win.ty)) =
        redNew win.ty win.op (leNat (mread s.mem k (redBytes win.ty))) (leNat v) % 256 ^ redBytes win.ty) ∧
    ((i < e.e ∨ win.ncontrib < i ∧ i ≠ e.e) → s.contribute w port off k i v = (s, .refuse)) ∧
    (e.e < i → i ≤ win.ncontrib → (∀ h ∈ e.held, h.2.1 ≠ i) →
      (e.e + 4096 ≤ i ∨ 4096 ≤ s.heldOf w port → s.contribute w port off k i v = (s, .retry)) ∧
      (i < e.e + 4096 → s.heldOf w port < 4096 → (s.contribute w port off k i v).2 = .ack ∧
        (s.contribute w port off k i v).1.mem = s.mem ∧
        (tget ((s.contribute w port off k i v).1.window w).elems off ⟨0, []⟩).held = e.held ++ [(port, i, v, s.mod.tick.toNat)]))) ∧
  -- an answer reaches its asker once; what answers no request is discarded
  (∀ (s : State) (i : Instr) (data : List Byte) (fault : Option (BitVec 8)), let m := s.arg.msg
    (i = .respack ∧ data = [] ∧ fault = none ∨
      i = .respdata ∧ data = m.data ∧ fault = (match m.status.toNat with
        | 0 => none
        | 1 => some 0x1A
        | 3 => some 0x10
        | _ => some 0x17) ∨
      i = .resperr ∧ data = [] ∧ fault = some (if m.status = 1 then 0x1A else if m.status = 3 then 0x10 else 0x17)) →
    (∀ r, tfind s.fab.reqs m.tag.toNat = some r → ∃ t, exec i s = .next t ∧ { t with fab := s.fab } = s ∧
      t.fab.reqs = tdel s.fab.reqs m.tag.toNat ∧ t.fab.answers = s.fab.answers ++ [⟨r.asker, r.idx, data, fault⟩]) ∧
    (tfind s.fab.reqs m.tag.toNat = none → exec i s = .next (s.msgDone s.arg.a s.arg.c))) ∧
  -- RETRY: the contribution goes out again after 256 ticks; no answer for 2^20 ticks is a fault
  Gives .retry (fun s => (tfind s.fab.reqs s.arg.msg.tag.toNat).isSome = true) (fun s t =>
    (tfind t.fab.reqs s.arg.msg.tag.toNat).map (·.retryAt) = some (some (s.mod.tick.toNat + 256)) ∧ t.fab.answers = s.fab.answers) ∧
  (∀ (s : State) (r : Req) (at_ p : Nat), tfind s.fab.reqs s.arg.a = some r → r.retryAt = some at_ → at_ ≤ s.mod.tick.toNat →
    s.portFor (dieOf r.core) r.msg.dmod.toNat r.msg.addr.toNat = some p →
    let waits := s.heldByPath (dieOf r.core) p (some s.arg.a) r.msg.dmod.toNat r.msg.addr.toNat
    (waits = true → exec .retryResend s = .next s) ∧
    (waits = false → ∃ t, exec .retryResend s = .next t ∧ (t.port p).txq = (s.port p).txq ++ [(r.vc, r.msg)] ∧
      tfind t.fab.reqs s.arg.a = some { r with retryAt := none, tick := s.mod.tick.toNat, port := some p })) ∧
  Does .retryResend (fun s => ∀ r, tfind s.fab.reqs s.arg.a = some r → ∀ at_, r.retryAt = some at_ → s.mod.tick.toNat < at_) id ∧
  (∀ (s : State) (r : Req), tfind s.fab.reqs s.arg.a = some r →
    (r.retryAt = none → r.port ≠ none → r.tick + 2 ^ 20 ≤ s.mod.tick.toNat → ∃ t, exec .remoteTimeout s = .next t ∧
      t.fab.reqs = tdel s.fab.reqs s.arg.a ∧ t.fab.answers = s.fab.answers ++ [⟨r.asker, r.idx, [], some 0x1B⟩]) ∧
    (s.mod.tick.toNat < r.tick + 2 ^ 20 → exec .remoteTimeout s = .next s)) ∧
  -- an arrival at ROOT is counted; with the last one, or at a release, the generation advances once
  (∀ s : State, let w := leNat s.arg.msg.data
    let b := w % 16
    let g := w / 16 % 2
    w / 32 % 2 = 0 → dbarEn (s.dbar b) = true → dbarRoot (s.dbar b) = s.modnum → (b, g, s.arg.msg.smod.toNat) ∉ s.fab.arrived →
    (s.fab.arrived.filter fun x => x.1 == b && x.2.1 == g).length < dbarNmod (s.dbar b) →
    ∃ t, exec .barrier s = .next t ∧ t.fab.arrived = (b, g, s.arg.msg.smod.toNat) :: s.fab.arrived ∧ t.bars = s.bars) ∧
  (∀ s : State, let w := leNat s.arg.msg.data
    w / 32 % 2 = 1 →
    (s.gen ⟨5, 0, 0, w % 16⟩ % 2 = w / 16 % 2 →
      ∃ t, exec .barrier s = .next t ∧ t.gen ⟨5, 0, 0, w % 16⟩ = s.gen ⟨5, 0, 0, w % 16⟩ + 1) ∧
    (s.gen ⟨5, 0, 0, w % 16⟩ % 2 ≠ w / 16 % 2 → exec .barrier s = .next (s.msgDone s.arg.a s.arg.c)))) ∧
  (-- a write to a disabled window takes effect; EN stays 0 where the settings break R40
  (∀ s : State, s.arg.a < 64 → (s.window s.arg.a).en = false →
    let x := s.window s.arg.a
    exec .winbaseWrite s = .next (s.updWindow s.arg.a fun _ => { x with base := s.arg.v &&& 0x00FFFFFFFFFF0000 }) ∧
    let y := { x with ctl := s.arg.v }
    (s.windowBad s.arg.a y = false → exec .winctlWrite s = .next (s.updWindow s.arg.a fun _ => y)) ∧
    (y.en = true → s.windowBad s.arg.a y = true →
      ∃ t, exec .winctlWrite s = .next t ∧ (t.window s.arg.a).en = false ∧
        (t.window s.arg.a).ctl.setWidth 63 = s.arg.v.setWidth 63)) ∧
  -- a write to an enabled window starts it again, and what it held is discarded
  (∀ (s : State) (i : Instr), i = .winbaseWrite ∨ i = .winctlWrite → s.arg.a < 64 → (s.window s.arg.a).en = true →
    ∃ t, exec i s = .next t ∧ (t.window s.arg.a).failed = false ∧ (t.window s.arg.a).elems = [] ∧ t.mem = s.mem ∧
      (i = .winbaseWrite → (t.window s.arg.a).base = s.arg.v &&& 0x00FFFFFFFFFF0000) ∧
      (i = .winctlWrite → (t.window s.arg.a).base = (s.window s.arg.a).base ∧
        (t.window s.arg.a).ctl.setWidth 63 = s.arg.v.setWidth 63)) ∧
  -- a held contribution that has waited longer than TIMEOUT fails its window
  (∀ (s : State) (o : Nat) (e : Elem), let w := s.window s.arg.a
    w.failed = false → (o, e) ∈ w.elems → e.held ≠ [] → e.since + w.timeout * 1024 ≤ s.mod.tick.toNat →
    ∃ t, exec .windowTimeout s = .next t ∧ (t.window s.arg.a).failed = true ∧
      (∀ x ∈ (t.window s.arg.a).elems, x.2.held = []) ∧ t.mem = s.mem) ∧
  Does .windowTimeout (fun s => let w := s.window s.arg.a
    w.failed = true ∨ ∀ x ∈ w.elems, x.2.held = [] ∨ s.mod.tick.toNat < x.2.since + w.timeout * 1024) id ∧
  -- DBAR, which stays while a gang of a grid that uses the barrier is resident
  Does .dbarWrite (fun s => s.arg.a < 16 ∧ s.barrierUsed s.arg.a = false)
    (fun s => s.setFab fun f => { f with dbar := tset f.dbar s.arg.a (s.arg.v &&& 0x80FFFF0000000000) }) ∧
  Does .dbarWrite (fun s => 16 ≤ s.arg.a ∨ s.barrierUsed s.arg.a = true) id)

/-! ## The host interface -/

/-- The mailbox takes command `op` of MBCMD's value, with its request bytes. -/
def Sys2Proof.Claims.Asked (s : State) (op least : Nat) (named : List (Nat × Nat)) : Prop :=
  let len := (s.arg.v.extractLsb' 32 9).toNat
  (s.arg.v.extractLsb' 0 16).toNat = op ∧ s.host.mbPending = none ∧ least ≤ len ∧ len ≤ 256 ∧
    onlyNamed (s.mbBytes.take len) named = true

/-- Field of the request. -/
def Sys2Proof.Claims.field (s : State) (o n : Nat) : Nat := fieldAt (s.mbBytes.take (s.arg.v.extractLsb' 32 9).toNat) o n

/-- The command under way will end with this ERR and reply; `gone`: once this context has no gang left. -/
def Sys2Proof.Claims.Pends (s t : State) (err : Nat) (reply : List Byte) (gone : Option Nat := none) : Prop :=
  t.host.mbcmd = s.arg.v &&& 0xFFFF01FF0000FFFF ∧ t.host.mbPending = some ⟨s.arg.v.extractLsb' 48 16, err, reply, gone⟩

/-- A command that ends with an ERR has no effect. -/
def Sys2Proof.Claims.Errs (i : Instr) (P : State → Prop) (err : Nat) : Prop :=
  Gives i P fun s t => Pends s t err [] ∧
    { t with host := { t.host with mbcmd := s.host.mbcmd, mbPending := s.host.mbPending } } = s

/-- R48, R49, R60, R66, R190: the mailbox and its commands.
The model's choice: a command acts at the write of MBCMD, and BUSY lasts until MAILBOX_COMMAND_COMPLETE (log entry
55); the digest of a context that is not confidential is 0 (log entry 90). -/
def Obligations.MailboxCommands : Prop :=
  -- a write of MBCMD while BUSY is refused; a LEN out of range ends with ERR 2
  (∀ x ∈ ([(.createContext, 1, 72), (.destroyContext, 2, 2), (.bindQueue, 3, 16), (.attestationReport, 4, 34),
      (.readDumpDescriptor, 5, 8), (.firmwareUpdate, 6, 16), (.reclaimCodeHeap, 7, 2)] : List (Instr × Nat × Nat)),
    Does x.1 (fun s => (s.arg.v.extractLsb' 0 16).toNat = x.2.1 ∧ s.host.mbPending.isSome = true)
      (fun s => s.canary 0 8 0x0B 0 0) ∧
    Errs x.1 (fun s => (s.arg.v.extractLsb' 0 16).toNat = x.2.1 ∧ s.host.mbPending = none ∧
      ((s.arg.v.extractLsb' 32 9).toNat < x.2.2 ∨ 256 < (s.arg.v.extractLsb' 32 9).toNat)) 2) ∧
  -- 0x01: a context with the registers of the request, or ERR 3
  (let good := fun (s : State) =>
    let fl := field s 48 2
    Asked s 1 72 [(0, 50), (56, 16)] ∧ field s 0 8 % 4096 = 0 ∧ field s 0 8 + 4096 ≤ s.memTop ∧ field s 8 8 % 0x10000 = 0 ∧
      field s 16 8 % 0x10000 = 0 ∧ field s 16 8 ≠ 0 ∧ field s 32 8 % 64 = 0 ∧ fl < 6 ∧
      (fl < 2 → field s 56 8 = 0 ∧ field s 64 8 = 0) ∧
      (2 ≤ fl → field s 56 8 % 0x10000 = 0 ∧ ∃ k, 16 ≤ k ∧ k ≤ 30 ∧ field s 64 8 = 2 ^ k) ∧
      s.heapMapped (field s 0 8) (fl % 2 == 1) (field s 8 8) (field s 16 8) = true
   (∀ (s : State) (c : Nat), good s → s.freeCtx = some c → ∃ t x, exec .createContext s = .next t ∧ Pends s t 0 (leBytes 8 c) ∧
      t.ctxs = tset s.ctxs c x ∧ x.ptroot = field s 0 8 ∧ x.heapBase.toNat = field s 8 8 ∧ x.heapSize = field s 16 8 ∧
      x.waitLim = (if field s 24 8 = 0 then 2 ^ 32 else field s 24 8) ∧ x.waPool.toNat = field s 32 8 ∧
      x.waSize = field s 40 8 ∧ x.cflags.toNat = field s 48 2 ∧ x.rpBase.toNat = field s 56 8 ∧ x.rpSize = field s 64 8 ∧
      x.rpProd = 0 ∧ x.rpCons = 0 ∧ x.log = [] ∧ x.fatal = false) ∧
   Errs .createContext (fun s => good s ∧ s.freeCtx = none) 3 ∧
   Errs .createContext (fun s => Asked s 1 72 [(0, 50), (56, 16)] ∧ 6 ≤ field s 48 2) 2) ∧
  -- 0x02: the context's queues are unbound; the reply waits until no gang is left
  Gives .destroyContext
    (fun s => Asked s 2 2 [(0, 2)] ∧ (tfind s.ctxs (field s 0 2)).isSome = true ∧ ∀ g ∈ s.grids, g.2.ctx ≠ field s 0 2)
    (fun s t => Pends s t 0 [] (some (field s 0 2)) ∧ t.ctxs = s.ctxs ∧
      ∀ q x, tfind s.host.queues q = some x → tfind t.host.queues q =
        some (if x.ctx = field s 0 2 then { x with en := false, next := x.prod, ctx := 0, prev := .none, waits := [] } else x)) ∧
  -- 0x03
  Gives .bindQueue
    (fun s => Asked s 3 16 [(0, 4), (8, 8)] ∧ field s 0 2 < 256 ∧ (field s 2 2 = 0 ∨ (tfind s.ctxs (field s 2 2)).isSome = true) ∧
      field s 8 8 % 8 = 0 ∧ (field s 8 8 / 2 ^ 56 = 0 ∨ field s 8 8 / 2 ^ 56 = 255) ∧ (s.queue (field s 0 2)).en = false)
    (fun s t => Pends s t 0 [] ∧ (t.queue (field s 0 2)).ctx = field s 2 2 ∧ (t.queue (field s 0 2)).wb.toNat = field s 8 8 ∧
      (t.queue (field s 0 2)).cons = (s.queue (field s 0 2)).cons) ∧
  Errs .bindQueue
    (fun s => Asked s 3 16 [(0, 4), (8, 8)] ∧ field s 0 2 < 256 ∧ field s 2 2 = 0 ∧ field s 8 8 = 0 ∧
      (s.queue (field s 0 2)).en = true) 4 ∧
  -- 0x04
  (∀ (s : State) (x : Ctx), Asked s 4 34 [(0, 34)] → tfind s.ctxs (field s 32 2) = some x →
    let body := leBytes 32 (s.mod.firmware.elim Config.firmwareDigest Config.sm3).toNat ++ leBytes 8 s.mod.modcap.toNat ++ leBytes 8 s.mod.twcfg.toNat ++
      leBytes 32 (if x.conf then x.digest.toNat else 0) ++ s.mbBytes.take 32
    ∃ t, exec .attestationReport s = .next t ∧ Pends s t 0 (body ++ leBytes 64 (Config.sm2Sign body).toNat) ∧
      t.mem = s.mem ∧ t.ctxs = s.ctxs) ∧
  -- 0x05: the descriptor, then up to three records
  (∀ (s : State) (x : Ctx), Asked s 5 8 [(0, 2), (4, 4)] → tfind s.ctxs (field s 0 2) = some x →
    ∃ t r, exec .readDumpDescriptor s = .next t ∧ Pends s t 0 r ∧ fieldAt r 0 8 = s.mod.dtick.toNat ∧
      fieldAt r 24 4 = x.logged % 2 ^ 32 ∧ fieldAt r 28 4 = (x.logged - x.log.length) % 2 ^ 32 ∧
      fieldAt r 32 4 = s.mod.dflags.toNat ∧ fieldAt r 36 28 = 0 ∧
      r.drop 64 = (if x.logged ≤ field s 4 4 then []
        else ((x.log.drop (field s 4 4 - (x.logged - x.log.length))).take 3).flatMap FaultRec.bytes)) ∧
  -- 0x06: staged where the signature verifies, or ERR 4
  (∀ s : State, Asked s 6 16 [(0, 16)] → field s 0 8 % 0x10000 = 0 → field s 0 8 + field s 8 8 ≤ s.memTop →
    ∃ t, exec .firmwareUpdate s = .next t ∧ t.mem = s.mem ∧
      match Config.sm2Verify (mread s.mem (field s 0 8) (field s 8 8)) with
      | some v => Pends s t 0 (leBytes 4 v.toNat) ∧ t.mod.staged = some (mread s.mem (field s 0 8) (field s 8 8))
      | none => Pends s t 4 [] ∧ t.mod = s.mod) ∧
  -- 0x07: no stub keeps a translation
  (∀ (s : State) (x : Ctx), Asked s 7 2 [(0, 2)] → tfind s.ctxs (field s 0 2) = some x → s.home.words = [] →
    (s.gangsLeft (field s 0 2) = false → ∃ t y, exec .reclaimCodeHeap s = .next t ∧ Pends s t 0 [] ∧
      tfind t.ctxs (field s 0 2) = some y ∧ y.stubs.length = x.stubs.length ∧
      ∀ e ∈ y.stubs, e.2.committed = false ∧ e.2.staged = none) ∧
    (s.gangsLeft (field s 0 2) = true → ∃ t, exec .reclaimCodeHeap s = .next t ∧ Pends s t 4 [])) ∧
  -- an OP that is no command
  Errs .unknownOp (fun s => s.host.mbPending = none ∧ (s.arg.v.extractLsb' 32 9).toNat ≤ 256 ∧
    ((s.arg.v.extractLsb' 0 16).toNat = 0 ∨ 7 < (s.arg.v.extractLsb' 0 16).toNat)) 1 ∧
  -- the end of a command
  (∀ (s : State) (m : MbPending), s.host.mbPending = some m →
    ((m.destroy = none ∨ ∃ c, m.destroy = some c ∧ s.gangsLeft c = false ∧ ∀ o ∈ s.host.headOut, o.ctx ≠ c) →
      ∃ t, exec .mailboxCommandComplete s = .next t ∧ t.host.mbPending = none ∧ t.host.msix = 0 :: s.host.msix ∧
        t.host.mbstat = BitVec.ofNat 64 (m.seq.toNat * 2 ^ 48 + m.reply.length * 2 ^ 32 + m.err * 2 ^ 16) ∧
        (∀ i < m.reply.length, tget t.host.mbdata i 0 = m.reply.getD i 0) ∧
        ∀ c, m.destroy = some c → tfind t.ctxs c = none) ∧
    (∀ c, m.destroy = some c → (s.gangsLeft c = true ∨ ∃ o ∈ s.host.headOut, o.ctx = c) →
      exec .mailboxCommandComplete s = .next s)) ∧
  Does .mailboxDataWrite (fun s => s.host.mbPending.isSome = true) (fun s => s.canary 0 8 0x0B 0 (0x100 + s.arg.a)) ∧
  Gives .mailboxDataWrite (fun s => s.host.mbPending = none) (fun s t =>
    { t with host := { t.host with mbdata := s.host.mbdata } } = s ∧
    ∀ i < 256, tget t.host.mbdata i 0 =
      if s.arg.a ≤ i ∧ i < s.arg.a + s.arg.bytes.length then s.arg.bytes.getD (i - s.arg.a) 0 else tget s.host.mbdata i 0)

/-- R46, R50 to R52, R194, R205: the registers of BAR0, and BAR2.
The model's reading or choice: the resize of BAR2 as BARWIN_WRITE's argument (log entry 95), ERR kept over a write of
QCTL (log entry 52), and FSRBASE and LOGSZ used as written (log entry 110). -/
def Obligations.HostRegisters : Prop :=
  -- BARWIN and BAR2, which the host may have resized before
  Does .barwinWrite (fun s => s.arg.v.extractLsb' 40 24 = 0 ∧ s.arg.v.extractLsb' 0 28 = 0 ∧
      s.arg.v.toNat % s.barResized.host.bar2Size = 0)
    (fun s => s.barResized.setHost fun h => { h with barwin := s.arg.v }) ∧
  Does .barwinWrite (fun s => s.arg.v.extractLsb' 40 24 ≠ 0 ∨ s.arg.v.extractLsb' 0 28 ≠ 0 ∨
      s.arg.v.toNat % s.barResized.host.bar2Size ≠ 0) (fun s => s.barResized.canary 0 8 0x0B 0 0x10) ∧
  (∀ (s : State) (n : Nat), (s.arg.nats = [] → s.barResized = s) ∧
    (s.arg.nats = [n] → (∃ i < 13, n = 2 ^ (28 + i)) → s.barResized = s.setHost fun h => { h with bar2Size := n }) ∧
    (s.arg.nats = [n] → (∀ i < 13, n ≠ 2 ^ (28 + i)) → s.barResized = s)) ∧
  Does .bar2Access (fun s => s.arg.ok = false ∧ s.memTop < s.host.barwin.toNat + s.arg.a + s.arg.b)
    (fun s => s.setHost fun h => { h with bar2Reply := none }) ∧
  Does .bar2Access
    (fun s => s.arg.ok = false ∧ s.host.barwin.toNat + s.arg.a + s.arg.b ≤ s.memTop ∧ ∀ c ∈ s.ctxs, c.2.conf = false)
    (fun s => s.setHost fun h => { h with bar2Reply := some (mread s.mem (h.barwin.toNat + s.arg.a) s.arg.b) }) ∧
  Gives .bar2Access
    (fun s => s.arg.ok = true ∧ s.host.barwin.toNat + s.arg.a + s.arg.bytes.length ≤ s.memTop ∧ (∀ c ∈ s.ctxs, c.2.conf = false) ∧
      s.home.words = [])
    (fun s t => let k := s.host.barwin.toNat + s.arg.a
      mread t.mem k s.arg.bytes.length = s.arg.bytes ∧ s.SameBut t [(k, s.arg.bytes.length)]) ∧
  -- QCTL and QPROD
  (∀ s : State, s.arg.a < 256 →
    let x := s.queue s.arg.a
    let v := s.arg.v
    -- clearing EN drops the records that have not been read, and setting it again moves QCONS past them (R52)
    let z := if v.getLsbD 63 = true then (if x.en = false ∧ x.waits = [] then { x with cons := x.next } else x)
      else if x.en = true then { x with next := x.prod } else x
    let y := { z with en := v.getLsbD 63, host := v.getLsbD 61, logsz := (v.extractLsb' 43 5).toNat
                      prioMax := (v.extractLsb' 40 3).toNat }
    let bad := y.logsz < 4 ∨ 16 < y.logsz ∨ y.base.toNat % 4096 ≠ 0 ∨ y.ctx = 0
    (¬(y.en = true ∧ bad) → exec .qctlWrite s = .next (s.updQueue s.arg.a fun _ => y)) ∧
    (y.en = true → bad → ∃ t, exec .qctlWrite s = .next t ∧ (t.queue s.arg.a).err = true ∧ (t.queue s.arg.a).en = false ∧
      t.host.msix = 1 :: s.host.msix) ∧
    (let new := v.extractLsb' 0 32
     ((x.prod - x.cons).toNat ≤ (new - x.cons).toNat → (new - x.cons).toNat ≤ 2 ^ x.logsz →
        exec .qprodWrite s = .next ([0, 1, 2, 3].foldl State.showAll (s.updQueue s.arg.a fun z => { z with prod := new }))) ∧
     ((new - x.cons).toNat < (x.prod - x.cons).toNat ∨ 2 ^ x.logsz < (new - x.cons).toNat →
        ∃ t, exec .qprodWrite s = .next t ∧ (t.queue s.arg.a).prod = x.prod ∧ (t.queue s.arg.a).err = true ∧
          (t.queue s.arg.a).en = false ∧ t.host.msix = 1 :: s.host.msix))) ∧
  -- QBASE, FSRBASE, FSRCTL, and the read-only registers beside them
  Does .bar0RegisterWrite (fun s => ∃ q < 256, s.arg.a = 0x10000 + 32 * q)
    (fun s => s.updQueue ((s.arg.a - 0x10000) / 32) fun x => { x with base := s.arg.v }) ∧
  Does .bar0RegisterWrite (fun s => s.arg.a = 0x20000) (fun s => s.setHost fun h => { h with fsrBase := s.arg.v }) ∧
  Does .bar0RegisterWrite (fun s => s.arg.a = 0x20008) (fun s => s.setHost fun h =>
    { h with fsrEn := s.arg.v.getLsbD 63, fsrLogsz := (s.arg.v.extractLsb' 48 4).toNat }) ∧
  Does .bar0RegisterWrite (fun s => s.arg.a = 0x20010 ∨ (0x18 ≤ s.arg.a ∧ s.arg.a < 0x100) ∨ ∃ q < 256, s.arg.a = 0x10018 + 32 * q) id ∧
  -- the indices of a replay buffer belong to one side each
  Does .replayIndexWrite (fun _ => True) (fun s => s.updCtx s.arg.a fun c =>
    if s.arg.b = 0 ∧ c.cflags.getLsbD 2 = true then { c with rpProd := s.arg.v }
    else if s.arg.b = 1 ∧ c.cflags.getLsbD 1 = true then { c with rpCons := s.arg.v }
    else c)

/-- R51 to R54: the records of a queue.
The model's reading: a completion that waits does not hold its queue (log entry 53), and records wait behind SIGNAL
and ISYNC (log entry 61). -/
def Obligations.QueueRecords : Prop :=
  -- a queue without work, or that waits at a SIGNAL or ISYNC, acts on nothing
  (∀ i ∈ ([.launchRecord, .rejectedRecord, .signal, .isync] : List Instr),
    Does i (fun s => let x := s.queue s.arg.a
      x.en = false ∨ x.next = x.prod ∨ x.waits ≠ []) id ∧
    -- a record that cannot be read stops the queue, whose QCONS stays; one in another module is asked for
    Gives i (fun s => s.mod.failedBoot = false ∧ s.nextRecord s.arg.a = some .fails) (fun s t =>
      (t.queue s.arg.a).err = true ∧ (t.queue s.arg.a).en = false ∧ (t.queue s.arg.a).cons = (s.queue s.arg.a).cons ∧
      t.host.msix = 1 :: s.host.msix ∧ t.grids = s.grids) ∧
    ∀ (s : State) (ks : List (Nat × Nat × Nat × Nat)), s.mod.failedBoot = false → s.nextRecord s.arg.a = some (.waits ks) →
      exec i s = .next (s.headAsk (.head s.arg.a) 0 ks)) ∧
  -- a LAUNCH without DEP that is accepted: a grid, and QCONS moves past the record; it waits for headers elsewhere
  (∀ (s s' : State) (b : List Byte), s.mod.failedBoot = false → s.nextRecord s.arg.a = some (.data b) →
    let r := Rec.ofBytes b
    let x := s.queue s.arg.a
    let y := s.accept (.head s.arg.a) x.ctx (some s.arg.a) none x.next.toNat x.prioMax none r
    r.kind = 1 → r.dep = false →
    (∀ g, x.wb = 0 → y = (s', .grid g) → s'.host = s.host →
      ∃ t, exec .launchRecord s = .next t ∧ t.grids = s'.grids ∧ t.mem = s'.mem ∧
        t.queue s.arg.a = { x with next := x.next + 1, cons := x.next + 1, prev := .grid g }) ∧
    (∀ ks, y = (s', .waits ks) → exec .launchRecord s = .next (s'.headAsk (.head s.arg.a) 0 ks))) ∧
  -- one that is rejected: its completion record with STATUS 1
  (∀ (s : State) (b : List Byte), s.mod.failedBoot = false → s.nextRecord s.arg.a = some (.data b) →
    let r := Rec.ofBytes b
    r.kind = 1 → (s.queue s.arg.a).wb = 0 → r.ok (s.queue s.arg.a).prioMax = false → r.dep = false → r.vector = none →
    r.compaddr = 0 → s.Settled →
    ∃ t, exec .launchRecord s = .next t ∧ t.grids = s.grids ∧
      t.queue s.arg.a = { s.queue s.arg.a with
        next := (s.queue s.arg.a).next + 1, cons := (s.queue s.arg.a).next + 1, prev := .rejected }) ∧
  (∀ (s : State) (b : List Byte), s.mod.failedBoot = false → s.nextRecord s.arg.a = some (.data b) →
    let r := Rec.ofBytes b
    let v := (s.queue s.arg.a).next + 1
    (r.kind = 0 ∨ 4 ≤ r.kind) → exec .rejectedRecord s = .next
      ((((s.completion (s.queue s.arg.a).ctx (some s.arg.a) r.compaddr r.compval r.seq 1 r.vector).updQueue s.arg.a fun x =>
        { x with next := v }).consume s.arg.a v).forgetAsks (.head s.arg.a))) ∧
  -- what passing a record leaves in the queue
  (∀ (s : State) (q : Nat) (v : BitVec 32), (s.queue q).wb = 0 → s.consume q v = s.updQueue q fun x => { x with cons := v }) ∧
  -- a completion record: COMPVAL, SEQ, STATUS, then the vector it asks for; it is kept while its place lies elsewhere
  (∀ (s u : State) (ctx : Nat) (q : Option Nat) (addr value : DWord) (seq : BitVec 32) (status : Nat) (irq : Option Nat),
    let x := s.publish.fresh
    let bytes := leBytes 8 value.toNat ++ leBytes 4 seq.toNat ++ leBytes 4 status
    (addr = 0 → s.completion ctx q addr value seq status irq = irq.elim s.publish s.publish.raise) ∧
    (addr ≠ 0 → addr.toNat % 16 = 0 →
      (x.headLater ctx addr.toNat 16 = false → x.headWrite ctx addr.toNat bytes = some u →
        s.completion ctx q addr value seq status irq = irq.elim u u.raise) ∧
      (x.headLater ctx addr.toNat 16 = true → s.completion ctx q addr value seq status irq = x.setHost fun h => { h with
        headOut := h.headOut ++ [{ id := s.publish.next, ctx := ctx, queue := q, addr := addr.toNat, bytes := bytes, kind := 0
                                   seq := seq.toNat, irq := irq }] }))) ∧
  -- SIGNAL and ISYNC wait for the grids of their queue; then they take effect, and their completion record says STATUS 0
  (∀ (i : Instr) (s : State) (b : List Byte), s.mod.failedBoot = false → s.nextRecord s.arg.a = some (.data b) →
    let r := Rec.ofBytes b
    (i = .signal ∧ r.kind = 2 ∨ i = .isync ∧ r.kind = 3) → r.shortOk = true →
    ∃ t w, exec i s = .next t ∧
      t.queue s.arg.a = { s.queue s.arg.a with next := (s.queue s.arg.a).next + 1, waits := [w] } ∧ w.isync = decide (r.kind = 3) ∧
      w.grids = s.queueGrids s.arg.a ∧ w.ctx = (s.queue s.arg.a).ctx ∧ w.compaddr = r.compaddr ∧ w.compval = r.compval ∧
      w.seq = r.seq ∧ w.irq = r.vector) ∧
  (∀ (s : State) (w : QWait) (rest : List QWait), (s.queue s.arg.a).waits = w :: rest → s.waitOver w = true →
    let u := s.updQueue s.arg.a fun x => { x with waits := rest }
    let ends := fun v : State =>
      ((v.completion w.ctx (some s.arg.a) w.compaddr w.compval w.seq 0 w.irq).consume s.arg.a
        (if (s.queue s.arg.a).en then (s.queue s.arg.a).next else (s.queue s.arg.a).cons + 1)).forgetAsks (.head s.arg.a)
    (w.isync = false → exec .signalCompletion s = .next (ends (u.dropTlb w.ctx))) ∧
    (w.isync = true → ∃ v : State, exec .isyncInvalidate s = .next (ends v) ∧
      v.mem = s.mem ∧ v.strands = s.strands ∧ v.host = u.host ∧ (∀ e ∈ v.home.icache, e.1 ≠ w.ctx) ∧
      (∀ e ∈ v.home.tlb, e.1 ≠ w.ctx) ∧ ∀ l ∈ v.sched.assay, ∀ a ∈ l.2, a.ctx ≠ w.ctx)) ∧
  (∀ s : State, (∀ w ∈ (s.queue s.arg.a).waits, s.waitOver w = false) →
    exec .signalCompletion s = .next s ∧ exec .isyncInvalidate s = .next s)

/-! ## Gangs -/

/-- R74 to R94: placing, pre-empting, saving, restoring and draining.
The model's choice: when the image in memory is written, and what a restore takes from it (log entry 50). -/
def Obligations.GangEvents : Prop :=
  -- what a gang holds once it is reserved, and the strands with which a workgroup starts
  (∀ (s : State) (g k q : Nat) (places : List (Nat × Nat × Nat)), (tfind s.grids g).isSome = true →
    ((s.reserve g k q places).gang g k).map (fun x => (x.st, x.quad, x.members.length)) = some (.resident, q, places.length)) ∧
  (∀ (s : State) (wg : Nat), let g := s.gridOf (s.wgOf wg).grid
    g.hdr.rangeStart = true → ∃ x, (s.startStrands wg).strands = tset s.strands s.next x ∧ x.kind = .range 0 g.threads ∧
      x.pc = g.hdr.entry ∧ x.mode = g.hdr.mode ∧ x.wg = wg ∧ x.div = [] ∧ x.block = .none ∧ x.dreg 50 = 0x0200000000000000) ∧
  -- GANG_PLACEMENT: the first candidate that fits starts; without candidates nothing is placed
  (∀ (s t : State) (c : Cand) (miss : Option Cand), s.nextMove = (some (c, t), miss) → c.back = false →
    ∃ u, exec .gangPlacement s = .next u ∧ u.grids = t.grids ∧ u.mem = t.mem ∧ u.wgs.map (·.1) = t.wgs.map (·.1)) ∧
  Does .gangPlacement (fun s => s.cands = []) (fun s => s.setSched fun d => { d with head := none }) ∧
  -- HEAD_WAIT_EXPIRY: the set of R85 is pre-empted
  Does .headWaitExpiry (fun s => ∀ g k t0 x, s.sched.head = some (g, k, t0, x) → s.mod.tick.toNat < t0 + 2 ^ 20) id ∧
  (∀ (s : State) (g k t0 q : Nat) (c : Cand) (vs : List (Nat × Nat)), s.sched.head = some (g, k, t0, .quad q) →
    t0 + 2 ^ 20 ≤ s.mod.tick.toNat → (s.cands.find? fun c => c.grid == g && (s.unitOf g k).contains c.gang) = some c →
    s.victimSet c (fun x => x == q) = some vs →
    exec .headWaitExpiry s = .next (vs.foldl (fun t v => t.preempt v.1 v.2) s)) ∧
  (∀ (s : State) (g k : Nat) (x : Gang), s.gang g k = some x → s.unitOf g k = [k] →
    (x.st = .resident → s.gangAlive x = true →
      (s.preempt g k).gang g k = some { x with st := .halting, reqTick := s.mod.tick.toNat }) ∧
    (x.st ≠ .resident ∨ s.gangAlive x = false → s.preempt g k = s)) ∧
  -- GANG_HALT
  (∀ (s : State) (x : Gang), s.gang s.arg.a s.arg.b = some x →
    (x.st ≠ .halting → exec .gangHalt s = .next s) ∧
    (x.st = .halting → s.gangAlive x = false →
      exec .gangHalt s = .next (s.updGang s.arg.a s.arg.b fun y => { y with st := .resident })) ∧
    (x.st = .halting → s.gangAlive x = true → (∀ z ∈ s.strands, z.2.caps = none) →
      exec .gangHalt s = .next
        ((x.members.foldl State.touchImage s).updGang s.arg.a s.arg.b fun y => { y with st := .saving }))) ∧
  -- SAVE_COMPLETE
  (∀ (s : State) (x : Gang), s.gang s.arg.a s.arg.b = some x →
    (x.st ≠ .saving → exec .saveComplete s = .next s) ∧
    (x.st = .saving → (∃ m ∈ x.members, s.written m = true) → exec .saveComplete s = .next s) ∧
    let live := x.members.filter fun m => !(s.wgOf m).lost
    let since := s.updGang s.arg.a s.arg.b fun y => { y with since := s.mod.tick.toNat }
    (x.st = .saving → (∀ m ∈ x.members, s.written m = false) → s.imageHeld live = false → s.sched.running = [] →
      (∀ y l, since.saveStops live = y :: l → exec .saveComplete s = .next (since.imageStops (y :: l))) ∧
      ((s.gridOf s.arg.a).st = .live → since.saveStops live = [] → ∃ t, exec .saveComplete s = .next t ∧
        t.gang s.arg.a s.arg.b = some { x with st := .out, since := s.mod.tick.toNat } ∧
        (∀ z ∈ t.strands, z.2.wg ∈ x.members → z.2.borrowed = true → z.2.parkedOut = true)))) ∧
  -- what still writes into a slice or an operand buffer: a write on its way, an engine command, a copy
  (∀ (s : State) (m : Nat), s.written m = true ↔ s.landing m = true ∨ (∃ e ∈ s.engines, s.engTargets m e.2 = true) ∨
    ∃ c ∈ s.copies, s.copyTargets m c.2 = true) ∧
  -- GANG_RESTORE
  Does .gangRestore (fun s => s.cands = []) id ∧
  (∀ (s t : State) (c : Cand) (miss : Option Cand), s.nextMove = (some (c, t), miss) → c.back = true →
    let ms := (s.candUnit c).flatMap fun k => ((s.gang c.grid k).map (·.members)).getD []
    let b := s.backHeads ms
    (s.imageHeld ms = true → exec .gangRestore s = .next s) ∧
    (∀ x l, s.imageHeld ms = false → b.backStops ms = x :: l → exec .gangRestore s = .next (b.imageStops (x :: l))) ∧
    (s.imageHeld ms = false → b.backStops ms = [] → (∀ m ∈ ms, (b.wgOf m).dirty = false) → (∀ z ∈ s.strands, z.2.caps = none) →
      ∃ u, exec .gangRestore s = .next u ∧ ∀ k ∈ s.candUnit c, (u.gang c.grid k).map (·.st) = some .resident)) ∧
  -- OVERFLOW_STRAND_EXCHANGE
  Does .overflowStrandExchange (fun s => s.exchange s.arg.a s.arg.ok = none ∨ s.gangSt s.arg.a ≠ .resident) id ∧
  (∀ (s : State) (u : Nat) (v : Option Nat) (st : Strand), s.gangSt s.arg.a = .resident →
    s.exchange s.arg.a s.arg.ok = some (u, v) → tfind s.strands u = some st → st.caps = none →
    ∃ t a, exec .overflowStrandExchange s = .next t ∧ tfind t.strands u = some a ∧ a.parkedOut = false ∧ a.s = st.s ∧ a.pc = st.pc ∧
      ∀ w, v = some w → w ≠ u → (tfind t.strands w).map (·.parkedOut) = (tfind s.strands w).map fun _ => true) ∧
  -- WORKGROUP_DRAIN_COMPLETE
  (∀ (s : State) (w : Wg), tfind s.wgs s.arg.a = some w →
    (w.drained = true ∨ s.quiet s.arg.a = false → exec .workgroupDrainComplete s = .next s) ∧
    ∀ x, w.drained = false → s.quiet s.arg.a = true → s.gang w.grid (w.w / (s.gridOf w.grid).hdr.gang) = some x → x.st = .resident →
      ((∃ m ∈ x.members, m ≠ s.arg.a ∧ (s.wgOf m).drained = false) →
        exec .workgroupDrainComplete s = .next (s.updWg s.arg.a fun x => { x with drained := true })) ∧
      ((∀ m ∈ x.members, m = s.arg.a ∨ (s.wgOf m).drained = true) → s.arg.a ∈ x.members →
        ∃ t, exec .workgroupDrainComplete s = .next t ∧ (∀ m ∈ x.members, tfind t.wgs m = none) ∧
          (t.gang w.grid (w.w / (s.gridOf w.grid).hdr.gang)).map (·.st) = some .retired))

/-! ## Faults that are resolved, code that arrives -/

/-- Every strand in which `P` holds changes by `f`; the others stay. -/
def Sys2Proof.Claims.GoOn (s t : State) (P : Strand → Prop) (f : Strand → Strand) : Prop :=
  ∀ u st, tfind s.strands u = some st → (P st → tfind t.strands u = some (f st)) ∧ (¬P st → tfind t.strands u = some st)

/-- A strand goes on where it stands. -/
def Sys2Proof.Claims.freed (st : Strand) : Strand := { st with block := .none }

/-- A strand executes its instruction again, for the elements whose faults are resolved in `s`: the others stay parked
(R195; log entry 58). -/
def Sys2Proof.Claims.again (s : State) (st : Strand) : Strand :=
  { st with block := .none, park := { parkNone with elems := s.unresolved st } }

/-- Strand keys are unique, and no strand is inside a capsule. -/
def Sys2Proof.Claims.Plain (s : State) : Prop := (s.strands.map (·.1)).Nodup ∧ ∀ x ∈ s.strands, x.2.caps = none

/-- R60, R137, R138, R194, R195, R203 to R205: what is parked goes on once its fault is resolved, translations of code, and the
commit of a chunk.
Presumed or read by inference: where code is staged (log entry 47), how an answer resolves by kind (log entry 58), and
when a body is valid (log entry 85). -/
def Obligations.FaultsAreResolved : Prop :=
  -- FAULT_REPLAY
  (∀ (s : State) (st : Strand), tfind s.strands s.arg.a = some st →
    (s.resolved st = true → st.caps = none →
      exec .faultReplay s = .next (s.updStrand s.arg.a (again s)).touchOut) ∧
    (s.resolved st = false → exec .faultReplay s = .next s)) ∧
  (∀ (s : State) (st : Strand) (cls : BitVec 8) (ctx addr fl : Nat), st.block = .parked cls ctx addr fl →
    (s.resolved st = true ↔ ∃ e ∈ st.parkedElems, s.elemResolved st ctx fl e.1 e.2.2 = true) ∧
    (∀ e, e ∈ s.unresolved st ↔ e ∈ st.parkedElems ∧ s.elemResolved st ctx fl e.1 e.2.2 = false) ∧
    (st.park.elems ≠ [] → st.parkedElems = st.park.elems)) ∧
  (∀ (s : State) (st : Strand) (cls : BitVec 8) (ctx addr fl : Nat), st.block = .parked cls ctx addr fl → st.park.elems = [] →
    (cls = 0x12 → (s.resolved st = true ↔ (tget s.home.misses (dieOf st.core) []).length < 2048)) ∧
    (cls = 0x13 → (s.resolved st = true ↔ ∀ e ∈ s.host.fsrOpen ++ s.host.fsrWait,
      ¬(e.ctx = ctx ∧ e.page = addr / 0x10000 ∧ e.kind = fsKind fl))) ∧
    (cls = 0x19 → (s.resolved st = true ↔ (ctx, addr / 0x10000) ∉ s.host.pageReqs))) ∧
  -- PAGE_WALK_COMPLETE, and the replay of what overflowed
  Does .pageWalkComplete (fun s => tget s.home.misses s.arg.a [] = []) id ∧
  (∀ (s : State) (c p : Nat) (r : List (Nat × Nat)), tget s.home.misses s.arg.a [] = (c, p) :: r → p < 2 ^ 40 →
    s.cached c (p * 0x10000) = none →
    ∃ t, exec .pageWalkComplete s = .next t ∧ t.home.misses = tset s.home.misses s.arg.a r ∧ t.mem = s.mem ∧
      t.home.tlb = match s.walk c (p * 0x10000) with
        | .ok (e, b) => (c, p, e, b) :: s.home.tlb
        | .error _ => s.home.tlb) ∧
  Does .translationOverflowReplay (fun s => 2048 ≤ (tget s.home.misses s.arg.a []).length) id ∧
  Gives .translationOverflowReplay (fun s => (tget s.home.misses s.arg.a []).length < 2048 ∧ Plain s) (fun s t =>
    GoOn s t (fun st => dieOf st.core = s.arg.a ∧ s.resolved st = true ∧ ∃ e ∈ st.parkedElems, e.1 = 0x12) (again s)) ∧
  -- the host's answers: a page request, an address translation, an entry of the fault-service ring
  Does .pageRequestResponse (fun s => (s.arg.a, s.arg.b) ∉ s.host.pageReqs) id ∧
  Gives .pageRequestResponse (fun s => (s.arg.a, s.arg.b) ∈ s.host.pageReqs ∧ s.arg.ok = true ∧ Plain s) (fun s t =>
    let open_ := s.setHost fun h => { h with pageReqs := h.pageReqs.filter fun e => e != (s.arg.a, s.arg.b) }
    (s.arg.a, s.arg.b) ∉ t.host.pageReqs ∧
      GoOn s t (fun st => st.parkedOn 0x19 s.arg.a s.arg.b = true ∧ open_.resolved st = true) (again open_)) ∧
  (∀ (s : State) (u a f : Nat) (st : Strand), (s.arg.a, s.arg.b) ∈ s.host.pageReqs → s.arg.ok = false →
    tfind s.strands u = some st → st.block = .parked 0x19 s.arg.a a f → st.park.elems = [] →
    (s.strands.filter fun x => x.2.parkedOn 0x19 s.arg.a s.arg.b) = [(u, st)] →
    exec .pageRequestResponse s = .next
      (((s.setHost fun h => { h with pageReqs := h.pageReqs.filter fun e => e != (s.arg.a, s.arg.b) }).takeTrap u
        { cls := 0x17, addr := BitVec.ofNat 64 a, flags := f % 32, fatal := true, pc := some st.park.pc
          who := st.park.who }).failHolds 0x19 s.arg.a s.arg.b)) ∧
  (∀ s : State, ∃ t, exec .atsTranslationCompletion s = .next t ∧
    (s.arg.ok = true → t.host = { s.host with ats := tset s.host.ats s.arg.a s.arg.b }) ∧
    (s.arg.ok = false → s.arg.a ∈ t.host.hostRefused ∧ t.host.ats = s.host.ats) ∧
    GoOn s t (fun st => st.block = .ats s.arg.a) freed) ∧
  Does .fsrdoneWrite (fun s => ∀ e ∈ s.host.fsrOpen, e.serial % 2 ^ 32 ≠ (s.arg.v.extractLsb' 0 32).toNat) id ∧
  (∀ (s : State) (e : FsEntry), s.host.fsrOpen = [e] → e.serial < 2 ^ 32 → (s.arg.v.extractLsb' 0 32).toNat = e.serial →
    let open_ := s.setHost fun h => { h with fsrOpen := [] }
    let hit := fun st : Strand => st.parkedOn 0x13 e.ctx e.page = true ∧ ∃ k c a f, st.block = .parked k c a f ∧ fsKind f = e.kind
    -- a confidential context's foreman answers for the pages that the context has registered (R209; log entry 98)
    let takes := (s.ctxOf e.ctx).conf = false ∨ Config.registered e.ctx e.page e.serial = true
    (s.arg.v.getLsbD 63 = false → takes → Plain s → ∃ t, exec .fsrdoneWrite s = .next t ∧ t.host.fsrOpen = [] ∧
      GoOn s t (fun st => hit st ∧ open_.resolved st = true) (again open_) ∧
      ∀ x ∈ t.home.tlb, ¬(x.1 = e.ctx ∧ x.2.1 = e.page)) ∧
    (∀ u a f st, tfind s.strands u = some st → st.block = .parked 0x13 e.ctx a f → st.park.elems = [] → hit st →
      (∀ x ∈ s.strands, hit x.2 → x = (u, st)) → (s.strands.map (·.1)).Nodup →
      let ended := (open_.takeTrap u
        { cls := 0x13, addr := BitVec.ofNat 64 a, flags := f % 32, fatal := true, pc := some st.park.pc
          who := st.park.who }).failHolds 0x13 e.ctx e.page
      (s.arg.v.getLsbD 63 = true ∨ ¬takes → exec .fsrdoneWrite s = .next ended) ∧
      (s.arg.a = e.serial → e.tick + (s.ctxOf e.ctx).waitLim < s.mod.tick.toNat →
        exec .faultServiceTimeout s = .next ended))) ∧
  Does .faultServiceTimeout (fun s => ∀ e ∈ s.host.fsrOpen, e.serial = s.arg.a →
    s.mod.tick.toNat ≤ e.tick + (s.ctxOf e.ctx).waitLim) id ∧
  -- FSRCONS makes room for one entry that waits
  Does .fsrconsWrite (fun s => s.host.fsrWait = []) (fun s => s.setHost fun h => { h with fsrCons := s.arg.v.toNat }) ∧
  (∀ (s : State) (e : FsEntry), s.host.fsrWait = [e] → s.host.fsrProd < s.arg.v.toNat + 2 ^ s.host.fsrLogsz →
    (s.ctxOf e.ctx).conf = false → e.ctx < 256 → e.kind < 256 → e.serial < 2 ^ 32 → e.tick < 2 ^ 64 → e.page * 0x10000 < 2 ^ 64 →
    ∃ t, exec .fsrconsWrite s = .next t ∧ t.host.fsrOpen = s.host.fsrOpen ++ [e] ∧ t.host.fsrWait = [] ∧
      t.host.fsrProd = s.host.fsrProd + 1 ∧ t.host.msix = 2 :: s.host.msix ∧
      let b := mread t.mem (hostKey (s.host.fsrBase.toNat + s.host.fsrProd % 2 ^ s.host.fsrLogsz * 32)) 32
      fieldAt b 0 8 = e.page * 0x10000 ∧ fieldAt b 8 1 = e.ctx ∧ fieldAt b 9 1 = e.kind ∧ fieldAt b 10 2 = 0 ∧
      fieldAt b 12 4 = e.serial ∧ fieldAt b 16 8 = e.tick ∧ fieldAt b 24 8 = 0) ∧
  -- Vorxus: translation and commit
  (∀ (s : State) (x : Stub) (body : List Byte), tfind (s.ctxOf s.arg.a).stubs s.arg.b = some x →
    let me := ctxAsker s.arg.a
    (x.committed = true ∨ s.translating = true → exec .vorxusTranslation s = .next s) ∧
    (∀ ks, x.committed = false → s.translating = false → s.headTry me s.arg.a x.body.toNat x.len = .waits ks →
      exec .vorxusTranslation s = .next (s.headAsk me 0 ks)) ∧
    (x.committed = false → s.translating = false → s.headTry me s.arg.a x.body.toNat x.len = .data body → s.home.words = [] →
      (∀ y ∈ s.strands, y.2.block ≠ .translate (BitVec.ofNat 64 s.arg.b)) →
      ∃ t, exec .vorxusTranslation s = .next t ∧
        match (if regionsOk x.regions body then Config.vorxusCode body else none) with
        | none => t = s.clearAnswers me
        | some code =>
          let c := s.ctxOf s.arg.a
          if c.heapBase.toNat + c.heapSize < c.heapNext + code.length then t = s.clearAnswers me
          else tfind (t.ctxOf s.arg.a).stubs s.arg.b = some { x with staged := some (BitVec.ofNat 64 c.heapNext) } ∧
            (t.ctxOf s.arg.a).heapNext = c.heapNext + (code.length + 31) / 32 * 32) ∧
    (∀ code, x.staged = some code → x.committed = false → s.home.words = [] →
      ∃ t, exec .translationCommit s = .next t ∧ tfind (t.ctxOf s.arg.a).stubs s.arg.b = some { x with committed := true } ∧
        GoOn s t (fun st => st.block = .translate (BitVec.ofNat 64 s.arg.b) ∧ s.ctxNo st = s.arg.a)
          (fun st => { st with block := .none, park := parkNone })) ∧
    (x.staged = none → exec .translationCommit s = .next s)) ∧
  -- a chunk commits with its entry, or its core waits
  (∀ (s : State) (k : Chunk), s.chunkOf s.arg.a s.arg.b = some k →
    let c := s.ctxOf s.arg.b
    let ws := s.chunkWords s.arg.a k
    (k.closed = false → s.chunkRuns s.arg.a s.arg.b = true → exec .chunkCommit s = .next s) ∧
    (k.closed = true → k.count ≠ 0 → c.records = true → c.rpCons.toNat + c.rpSize < c.rpProd.toNat + 8 * ws.length →
      exec .chunkCommit s = .next s) ∧
    (k.closed = true → k.count ≠ 0 → c.records = true → c.rpProd.toNat + 8 * ws.length ≤ c.rpCons.toNat + c.rpSize →
      s.home.words = [] → s.home.writes = [] → ∀ t, s.ringWrite s.arg.b c.rpProd.toNat ws = some t →
      ∃ u, exec .chunkCommit s = .next u ∧ u.mem = t.mem ∧ u.chunkOf s.arg.a s.arg.b = none ∧
        (u.ctxOf s.arg.b).rpProd = c.rpProd + BitVec.ofNat 64 (8 * ws.length))) ∧
  Does .chunkCommit (fun s => s.chunkOf s.arg.a s.arg.b = none ∧ (s.ctxOf s.arg.b).replays = false) id

/-! ## Waits that end -/

/-- Strand `a` completes its instruction, with `f`; nothing else changes. -/
def Sys2Proof.Claims.Completes (i : Instr) (P : State → Strand → Prop) (f : Strand → Strand) : Prop :=
  ∀ (s : State) (st : Strand), tfind s.strands s.arg.a = some st → P s st →
    exec i s = .next (s.updStrand s.arg.a fun x => (f x).complete s.mod.clock)

/-- Strand `a` stays as it is. -/
def Sys2Proof.Claims.Stays (i : Instr) (P : State → Strand → Prop) : Prop :=
  ∀ (s : State) (st : Strand), tfind s.strands s.arg.a = some st → P s st → exec i s = .next s

/-- A copy's element is whole at its home, and the misses of its two addresses are noted (R137, R161). -/
def Sys2Proof.Machine.State.copyReady (s : State) (c : VCp) : State :=
  let e := s.copyEngine c
  (if c.valid = 0 then s
    else (s.engSees s.arg.a e [(c.src, c.valid)]).noteMiss (dieOf e.core) (s.engWho e) c.src).noteMiss (dieOf e.core) (s.engWho e)
    (EngDst.key c.dst).at_

/-- R119, R123, R149, R187, R196, R199, R278, R287, R293, R352: waits that end, the timer, emulation, copies, and splits.
The model's choice or reading: which lanes a run-ahead split takes (log entry 56), one handler of a core at a time
(log entry 59), the foreman's read of a word (log entry 60), and the emptied masks of a copied DEFER entry (log entry
62). -/
def Obligations.WaitsEnd : Prop :=
  -- AWAIT's deadline, SLEEP, ACQ
  (∀ (s : State) (st : Strand) (k : Nat) (g : Word) (d : Nat) (sc : BitVec 6), tfind s.strands s.arg.a = some st →
    st.block = .await k g (some d) sc → s.gangSt st.wg = .resident →
    (s.mod.tick.toNat < d → exec .awaitDeadline s = .next s) ∧
    (d ≤ s.mod.tick.toNat → ∃ t a, exec .awaitDeadline s = .next t ∧ tfind t.strands s.arg.a = some a ∧ a.sreg sc.toNat = 1 ∧
      a.block = .none ∧ (∀ q, q ≠ sc.toNat → a.sreg q = st.sreg q) ∧ s.SameBut t [(k + 12, 4)])) ∧
  Stays .awaitDeadline (fun _ st => ∀ k g d sc, st.block ≠ .await k g d sc) ∧
  (∀ till, Completes .sleepExpiry (fun s st => st.block = .sleep till ∧ till ≤ s.mod.tick.toNat) id) ∧
  (∀ till, Stays .sleepExpiry (fun s st => st.block = .sleep till ∧ s.mod.tick.toNat < till)) ∧
  Stays .acqGrant (fun s st => s.gangSt st.wg ≠ .resident) ∧
  Stays .acqWaitTimeout (fun s st => s.gangSt st.wg ≠ .resident) ∧
  (∀ (s : State) (st : Strand) (m since : Nat) (sd : BitVec 6), tfind s.strands s.arg.a = some st → st.block = .acq m sd since →
    s.gangSt st.wg = .resident →
    let ends := fun (t : State) (v : Word) => t.updStrand s.arg.a fun x => (x.setS sd.toNat v).complete s.mod.clock
    (m ≤ s.blocks st → exec .acqGrant s = .next (ends s 0)) ∧
    (s.blocks st < m → m - s.blocks st ≤ s.freeBlocks st.core →
      exec .acqGrant s = .next (ends (s.takeBlocks st.wg st.warp m) 0)) ∧
    (s.blocks st < m → s.freeBlocks st.core < m - s.blocks st → exec .acqGrant s = .next s) ∧
    (since + 65536 ≤ s.mod.tick.toNat → exec .acqWaitTimeout s = .next (ends s 1)) ∧
    (s.mod.tick.toNat < since + 65536 → exec .acqWaitTimeout s = .next s)) ∧
  -- blocks taken read 0 in every lane
  (∀ (s : State) (wg warp m : Nat) (x : Warp), (tfind s.wgs wg).isSome = true → tfind (s.wgOf wg).warps warp = some x → x.blocks ≤ m →
    ∀ r j, j < 32 → ((s.takeBlocks wg warp m).wgOf wg).lane warp r j =
      if r < 8 * x.blocks then (s.wgOf wg).lane warp r j else 0) ∧
  -- the wait limit
  (∀ (s : State) (st : Strand), tfind s.strands s.arg.a = some st → s.gangSt st.wg = .resident →
    ((∃ ks d, st.block = .barrier ks d) ∨ (∃ v, st.block = .crew v) ∨ st.block = .accept ∨ (∃ k, st.block = .capsule k) ∨
        st.block = .reply →
      st.waitTick + (s.ctxOf (s.ctxNo st)).waitLim < s.mod.tick.toNat →
      exec .waitTimeout s = .next (s.takeTrap s.arg.a { cls := 0x09 })) ∧
    (∀ k g sc, st.block = .await k g none sc → st.waitTick + (s.ctxOf (s.ctxNo st)).waitLim < s.mod.tick.toNat →
      exec .waitTimeout s = .next ((s.takeTrap s.arg.a { cls := 0x09 }).countWaiters k)) ∧
    (s.mod.tick.toNat ≤ st.waitTick + (s.ctxOf (s.ctxNo st)).waitLim → exec .waitTimeout s = .next s) ∧
    ((∃ t, st.block = .bwait t) ∨ (∃ n, st.block = .sleep n) ∨ st.block = .waitpred ∨ (∃ k g d sc, st.block = .await k g (some d) sc) →
      exec .waitTimeout s = .next s)) ∧
  -- the timer: the handler starts at TMVEC where none runs on the core
  (∀ s : State, let w := s.wgOf s.arg.a
    w.tmexp ≠ 0 → w.tmexp ≤ s.mod.tick.toNat → s.gangSt s.arg.a = .resident → (tfind s.wgs s.arg.a).isSome = true →
    (tget s.cores w.core coreReset).expired = [] →
    (s.handlerFree w.core = true → ∃ t x, exec .timerExpiry s = .next t ∧ tfind t.strands s.next = some x ∧ x.kind = .handler ∧
      x.wg = s.arg.a ∧ x.pc = w.tmvec ∧ x.dreg 48 = w.tmArgs.1 ∧ x.dreg 50 = w.tmArgs.2 ∧
      (∀ q, (q < 48 ∨ 52 ≤ q) → x.sreg q = 0) ∧ (t.wgOf s.arg.a).tmexp = 0) ∧
    (s.handlerFree w.core = false → ∃ t, exec .timerExpiry s = .next t ∧ t.strands = s.strands ∧ (t.wgOf s.arg.a).tmexp = 0 ∧
      (tget t.cores w.core coreReset).expired = [s.arg.a])) ∧
  Does .timerExpiry (fun s => (s.wgOf s.arg.a).tmexp = 0 ∧ (tget s.cores (s.wgOf s.arg.a).core coreReset).expired = []) id ∧
  -- the foreman commits what it staged: the lanes of the destination, and the strand goes on
  (∀ (s : State) (st : Strand) (word : Word) (vd : BitVec 6) (m : BitVec 32) (staged : List Word) (w : Nat) (a : BitVec 32),
    tfind s.strands s.arg.a = some st → st.block = .emulate word vd m staged → s.gangSt st.wg = .resident → st.kind = .lane w a →
    st.caps = none →
    vd.toNat / 8 < s.blocks st → (tfind s.wgs st.wg).isSome = true → staged ≠ [] →
    ∃ t x, exec .emulationCommit s = .next t ∧ tfind t.strands s.arg.a = some x ∧ x.block = .none ∧
      x.mode = Config.emulMode word st.mode ∧ x.s = st.s ∧ t.mem = s.mem ∧
      ∀ q r j, j < 32 → (t.wgOf st.wg).lane q r j =
        if q = w ∧ r = vd.toNat ∧ m.getLsbD j = true then staged.getD j 0 else (s.wgOf st.wg).lane q r j) ∧
  (∀ (s : State) (st : Strand) (word : Word) (vd : BitVec 6) (m : BitVec 32), tfind s.strands s.arg.a = some st →
    st.block = .emulate word vd m [] → s.gangSt st.wg = .resident →
    (∃ e ∈ s.home.icache, e.1 = s.ctxNo st ∧ e.2.1 = st.wordPc.toNat) →
    exec .emulationCommit s = .next ((s.forgetHolds (.strand s.arg.a)).updStrand s.arg.a fun x =>
      { x with block := .emulate word vd m (s.emulStage st word m) })) ∧
  Stays .emulationCommit (fun s st => (∀ w v m l, st.block ≠ .emulate w v m l) ∨ s.gangSt st.wg ≠ .resident) ∧
  -- a copy whose source and destination pass their checks is made, zeros after its valid bytes, and is gone
  (∀ (s : State) (c : VCp) (b : List Byte) (k : Nat), tfind s.copies s.arg.a = some c → c.failed = none → c.valid ≤ c.size →
    b.length = c.valid → 0 < c.size → s.home.words = [] → s.overflowHeld (.engine s.arg.a) (dieOf (s.wgOf c.wg).core) = false →
    (c.valid ≠ 0 → (s.copyReady c).engGet s.arg.a (s.copyEngine c) 0 c.src c.valid = .data b false) →
    let bytes := b ++ List.replicate (c.size - c.valid) 0
    (s.copyReady c).engPut s.arg.a (s.copyEngine c) 1 (.key c.dst) bytes = .place (.loc k) →
    ∃ t, exec .vcopyCompletion s = .next t ∧ t.copies = tdel s.copies s.arg.a ∧ mread t.mem k c.size = bytes ∧
      (s.copyReady c).SameBut t [(k, c.size)]) ∧
  (∀ (s : State) (c : VCp) (cls : Nat), tfind s.copies s.arg.a = some c → c.failed = none → 0 < c.valid → s.home.words = [] →
    s.overflowHeld (.engine s.arg.a) (dieOf (s.wgOf c.wg).core) = false →
    (s.copyReady c).engGet s.arg.a (s.copyEngine c) 0 c.src c.valid = .fault cls →
    ∃ t, exec .vcopyCompletion s = .next t ∧ t.mem = (s.copyReady c).mem ∧
      (tfind t.copies s.arg.a).map (·.failed) = some (some (cls, c.src, false))) ∧
  -- one that overflowed waits until the miss queue of its die has room (R137)
  (∀ (s : State) (c : VCp), tfind s.copies s.arg.a = some c → c.failed = none →
    s.overflowHeld (.engine s.arg.a) (dieOf (s.wgOf c.wg).core) = true → exec .vcopyCompletion s = .next s) ∧
  -- the last warp of a range that waits behind its cursor
  Stays .expansionCursorAdvance (fun s st => st.block ≠ .expand ∨ s.gangSt st.wg ≠ .resident ∨ st.parkedOut = true) ∧
  (∀ (s : State) (st : Strand) (lo n : Nat) (k : (Bool × Bool) × Bool) (x : Warp), tfind s.strands s.arg.a = some st → st.block = .expand →
    st.kind = .range lo n → 0 < n → n ≤ 32 - lo % 32 → s.gangSt st.wg = .resident → st.parkedOut = false →
    (s.strands.map (·.1)).Nodup → (∀ z ∈ s.strands, z.2.wg = st.wg → z.2.block = .expand → z.1 = s.arg.a) →
    s.pieceSlot st true = some k → s.spilled st.wg = [] →
    tfind (s.wgOf st.wg).warps (lo / 32) = some x → (tfind s.wgs st.wg).isSome = true → s.arg.a ≠ s.next →
    ∃ t y m, exec .expansionCursorAdvance s = .next t ∧ tfind t.strands s.arg.a = none ∧ tfind t.strands s.next = some y ∧
      y.kind = .lane (lo / 32) m ∧ (∀ j < 32, (m.getLsbD j = true ↔ lo % 32 ≤ j ∧ j < lo % 32 + n)) ∧ y.pc = st.pc ∧ y.s = st.s ∧
      y.block = .none ∧ ∀ r j, r < 8 * x.blocks → j < 32 → m.getLsbD j = true →
        (t.wgOf st.wg).lane (lo / 32) r j = s.vreg st r (32 * (lo / 32) + j)) ∧
  -- a join that has waited 65,536 clocks alone
  (∀ (s : State) (st : Strand) (g : BitVec 32) (tag : BitVec 4) (live : BitVec 8) (since : Nat) (e : DivEntry) (r : List DivEntry),
    tfind s.strands s.arg.a = some st → st.block = .join (some g) tag live false since → s.gangSt st.wg = .resident →
    (s.mod.clock < since + 65536 → exec .joinWaitTimeout s = .next s) ∧
    (since + 65536 ≤ s.mod.clock → st.div = e :: r → tag ≠ 8 → st.frames = [] → s.busyA s.arg.a = false → (s.strands.map (·.1)).Nodup →
      (∀ x ∈ s.strands, x.1 ≠ s.arg.a → x.2.joinAt = none) →
      ∃ t a, exec .joinWaitTimeout s = .next t ∧ tfind t.strands s.arg.a = some a ∧ a.div = r ∧ a.block = .none ∧ a.kind = st.kind ∧
        a.s = st.s ∧ (∀ u, u ≠ s.arg.a → tfind t.strands u = tfind s.strands u) ∧ t.wgs = s.wgs ∧ t.mem = s.mem)) ∧
  -- the run-ahead split: the lanes that have their elements and the lanes that wait, each a strand
  Stays .runAheadSplit (fun s st => s.aheadSplit s.arg.a st = none ∨ s.slotFor st.wg false false = none) ∧
  (∀ (s : State) (st : Strand) (f : BitVec 4) (tag : BitVec 3) (wait m : BitVec 32) (w : Nat) (k : Bool × Bool),
    tfind s.strands s.arg.a = some st → st.kind = .lane w m → s.aheadSplit s.arg.a st = some (f, tag, wait) →
    s.slotFor st.wg false false = some k → st.frames = [] → s.arg.a ≠ s.next → s.spilled st.wg = [] → st.div.length < 4 →
    (s.strands.map (·.1)).Nodup →
    ∃ t a b, exec .runAheadSplit s = .next t ∧ tfind t.strands s.arg.a = some a ∧ tfind t.strands s.next = some b ∧
      a.kind = .lane w (if wait.getLsbD (lowLane m) then wait else m &&& ~~~wait) ∧
      b.kind = .lane w (m &&& ~~~(if wait.getLsbD (lowLane m) then wait else m &&& ~~~wait)) ∧ a.pc = st.pc ∧ b.pc = st.pc ∧
      (∃ e : DivEntry, e.kind = 0 ∧ e.tag = tag.setWidth 4 ∧ a.div = e :: st.div ∧
        b.div = e :: st.div.map DivEntry.emptied) ∧ t.mem = s.mem)
end

