-- ==== Sys2Proof/Laws/Dispatch.lean ====
section
/-! SUPPORT. Which meaning exec gives each constructor: rewriting with these never unfolds the dispatch. -/

namespace Sys2Proof.Machine

theorem exec_vadd (vd va vb : BitVec 6) (ra rb : BitVec 2) (s : State) : exec (.vadd vd va vb ra rb) s = execVadd vd va vb ra rb s := rfl
theorem exec_vsub (vd va vb : BitVec 6) (ra rb : BitVec 2) (s : State) : exec (.vsub vd va vb ra rb) s = execVsub vd va vb ra rb s := rfl
theorem exec_vmul (vd va vb : BitVec 6) (ra rb : BitVec 2) (s : State) : exec (.vmul vd va vb ra rb) s = execVmul vd va vb ra rb s := rfl
theorem exec_vmulhI32 (vd va vb : BitVec 6) (ra rb : BitVec 2) (s : State) : exec (.vmulhI32 vd va vb ra rb) s = execVmulhI32 vd va vb ra rb s := rfl
theorem exec_vmulhN32 (vd va vb : BitVec 6) (ra rb : BitVec 2) (s : State) : exec (.vmulhN32 vd va vb ra rb) s = execVmulhN32 vd va vb ra rb s := rfl
theorem exec_vminI32 (vd va vb : BitVec 6) (ra rb : BitVec 2) (s : State) : exec (.vminI32 vd va vb ra rb) s = execVminI32 vd va vb ra rb s := rfl
theorem exec_vminN32 (vd va vb : BitVec 6) (ra rb : BitVec 2) (s : State) : exec (.vminN32 vd va vb ra rb) s = execVminN32 vd va vb ra rb s := rfl
theorem exec_vmaxI32 (vd va vb : BitVec 6) (ra rb : BitVec 2) (s : State) : exec (.vmaxI32 vd va vb ra rb) s = execVmaxI32 vd va vb ra rb s := rfl
theorem exec_vmaxN32 (vd va vb : BitVec 6) (ra rb : BitVec 2) (s : State) : exec (.vmaxN32 vd va vb ra rb) s = execVmaxN32 vd va vb ra rb s := rfl
theorem exec_vand (vd va vb : BitVec 6) (ra rb : BitVec 2) (s : State) : exec (.vand vd va vb ra rb) s = execVand vd va vb ra rb s := rfl
theorem exec_vor (vd va vb : BitVec 6) (ra rb : BitVec 2) (s : State) : exec (.vor vd va vb ra rb) s = execVor vd va vb ra rb s := rfl
theorem exec_vxor (vd va vb : BitVec 6) (ra rb : BitVec 2) (s : State) : exec (.vxor vd va vb ra rb) s = execVxor vd va vb ra rb s := rfl
theorem exec_vandn (vd va vb : BitVec 6) (ra rb : BitVec 2) (s : State) : exec (.vandn vd va vb ra rb) s = execVandn vd va vb ra rb s := rfl
theorem exec_vshl (vd va vb : BitVec 6) (ra rb : BitVec 2) (s : State) : exec (.vshl vd va vb ra rb) s = execVshl vd va vb ra rb s := rfl
theorem exec_vshr (vd va vb : BitVec 6) (ra rb : BitVec 2) (s : State) : exec (.vshr vd va vb ra rb) s = execVshr vd va vb ra rb s := rfl
theorem exec_vsar (vd va vb : BitVec 6) (ra rb : BitVec 2) (s : State) : exec (.vsar vd va vb ra rb) s = execVsar vd va vb ra rb s := rfl
theorem exec_vrotl (vd va vb : BitVec 6) (ra rb : BitVec 2) (s : State) : exec (.vrotl vd va vb ra rb) s = execVrotl vd va vb ra rb s := rfl
theorem exec_vaddsI32 (vd va vb : BitVec 6) (ra rb : BitVec 2) (s : State) : exec (.vaddsI32 vd va vb ra rb) s = execVaddsI32 vd va vb ra rb s := rfl
theorem exec_vsubsI32 (vd va vb : BitVec 6) (ra rb : BitVec 2) (s : State) : exec (.vsubsI32 vd va vb ra rb) s = execVsubsI32 vd va vb ra rb s := rfl
theorem exec_vabsdN32 (vd va vb : BitVec 6) (ra rb : BitVec 2) (s : State) : exec (.vabsdN32 vd va vb ra rb) s = execVabsdN32 vd va vb ra rb s := rfl
theorem exec_vmov (vd va : BitVec 6) (ra : BitVec 2) (s : State) : exec (.vmov vd va ra) s = execVmov vd va ra s := rfl
theorem exec_vfaddF32 (vd va vb : BitVec 6) (ra rb : BitVec 2) (s : State) : exec (.vfaddF32 vd va vb ra rb) s = execVfaddF32 vd va vb ra rb s := rfl
theorem exec_vfsubF32 (vd va vb : BitVec 6) (ra rb : BitVec 2) (s : State) : exec (.vfsubF32 vd va vb ra rb) s = execVfsubF32 vd va vb ra rb s := rfl
theorem exec_vfmulF32 (vd va vb : BitVec 6) (ra rb : BitVec 2) (s : State) : exec (.vfmulF32 vd va vb ra rb) s = execVfmulF32 vd va vb ra rb s := rfl
theorem exec_vfminF32 (vd va vb : BitVec 6) (ra rb : BitVec 2) (s : State) : exec (.vfminF32 vd va vb ra rb) s = execVfminF32 vd va vb ra rb s := rfl
theorem exec_vfmaxF32 (vd va vb : BitVec 6) (ra rb : BitVec 2) (s : State) : exec (.vfmaxF32 vd va vb ra rb) s = execVfmaxF32 vd va vb ra rb s := rfl
theorem exec_vfscaleF32 (vd va vb : BitVec 6) (ra rb : BitVec 2) (s : State) : exec (.vfscaleF32 vd va vb ra rb) s = execVfscaleF32 vd va vb ra rb s := rfl
theorem exec_vfaddBf16x2 (vd va vb : BitVec 6) (ra rb : BitVec 2) (s : State) : exec (.vfaddBf16x2 vd va vb ra rb) s = execVfaddBf16x2 vd va vb ra rb s := rfl
theorem exec_vfmulBf16x2 (vd va vb : BitVec 6) (ra rb : BitVec 2) (s : State) : exec (.vfmulBf16x2 vd va vb ra rb) s = execVfmulBf16x2 vd va vb ra rb s := rfl
theorem exec_vfaddF16x2 (vd va vb : BitVec 6) (ra rb : BitVec 2) (s : State) : exec (.vfaddF16x2 vd va vb ra rb) s = execVfaddF16x2 vd va vb ra rb s := rfl
theorem exec_vfmulF16x2 (vd va vb : BitVec 6) (ra rb : BitVec 2) (s : State) : exec (.vfmulF16x2 vd va vb ra rb) s = execVfmulF16x2 vd va vb ra rb s := rfl
theorem exec_vfaddE4m3x4 (vd va vb : BitVec 6) (ra rb : BitVec 2) (s : State) : exec (.vfaddE4m3x4 vd va vb ra rb) s = execVfaddE4m3x4 vd va vb ra rb s := rfl
theorem exec_vfmulE4m3x4 (vd va vb : BitVec 6) (ra rb : BitVec 2) (s : State) : exec (.vfmulE4m3x4 vd va vb ra rb) s = execVfmulE4m3x4 vd va vb ra rb s := rfl
theorem exec_vfaddE5m2x4 (vd va vb : BitVec 6) (ra rb : BitVec 2) (s : State) : exec (.vfaddE5m2x4 vd va vb ra rb) s = execVfaddE5m2x4 vd va vb ra rb s := rfl
theorem exec_vfmulE5m2x4 (vd va vb : BitVec 6) (ra rb : BitVec 2) (s : State) : exec (.vfmulE5m2x4 vd va vb ra rb) s = execVfmulE5m2x4 vd va vb ra rb s := rfl
theorem exec_vdot4I8 (vd va vb : BitVec 6) (ra rb : BitVec 2) (s : State) : exec (.vdot4I8 vd va vb ra rb) s = execVdot4I8 vd va vb ra rb s := rfl
theorem exec_vdot2Bf16 (vd va vb : BitVec 6) (ra rb : BitVec 2) (s : State) : exec (.vdot2Bf16 vd va vb ra rb) s = execVdot2Bf16 vd va vb ra rb s := rfl
theorem exec_vshflIdx (x : BitVec 22) (s : State) : exec (.vshflIdx x) s = execVshflIdx x s := rfl
theorem exec_vshflUp (x : BitVec 22) (s : State) : exec (.vshflUp x) s = execVshflUp x s := rfl
theorem exec_vshflDn (x : BitVec 22) (s : State) : exec (.vshflDn x) s = execVshflDn x s := rfl
theorem exec_vshflXor (x : BitVec 22) (s : State) : exec (.vshflXor x) s = execVshflXor x s := rfl
theorem exec_vaddi (vd va : BitVec 6) (ra : BitVec 2) (imm : BitVec 10) (s : State) : exec (.vaddi vd va ra imm) s = execVaddi vd va ra imm s := rfl
theorem exec_vsubri (vd va : BitVec 6) (ra : BitVec 2) (imm : BitVec 10) (s : State) : exec (.vsubri vd va ra imm) s = execVsubri vd va ra imm s := rfl
theorem exec_vmuli (vd va : BitVec 6) (ra : BitVec 2) (imm : BitVec 10) (s : State) : exec (.vmuli vd va ra imm) s = execVmuli vd va ra imm s := rfl
theorem exec_vandi (vd va : BitVec 6) (ra : BitVec 2) (imm : BitVec 10) (s : State) : exec (.vandi vd va ra imm) s = execVandi vd va ra imm s := rfl
theorem exec_vori (vd va : BitVec 6) (ra : BitVec 2) (imm : BitVec 10) (s : State) : exec (.vori vd va ra imm) s = execVori vd va ra imm s := rfl
theorem exec_vxori (vd va : BitVec 6) (ra : BitVec 2) (imm : BitVec 10) (s : State) : exec (.vxori vd va ra imm) s = execVxori vd va ra imm s := rfl
theorem exec_vshli (vd va : BitVec 6) (ra : BitVec 2) (imm : BitVec 10) (s : State) : exec (.vshli vd va ra imm) s = execVshli vd va ra imm s := rfl
theorem exec_vshri (vd va : BitVec 6) (ra : BitVec 2) (imm : BitVec 10) (s : State) : exec (.vshri vd va ra imm) s = execVshri vd va ra imm s := rfl
theorem exec_vsari (vd va : BitVec 6) (ra : BitVec 2) (imm : BitVec 10) (s : State) : exec (.vsari vd va ra imm) s = execVsari vd va ra imm s := rfl
theorem exec_vminiI32 (vd va : BitVec 6) (ra : BitVec 2) (imm : BitVec 10) (s : State) : exec (.vminiI32 vd va ra imm) s = execVminiI32 vd va ra imm s := rfl
theorem exec_vmaxiI32 (vd va : BitVec 6) (ra : BitVec 2) (imm : BitVec 10) (s : State) : exec (.vmaxiI32 vd va ra imm) s = execVmaxiI32 vd va ra imm s := rfl
theorem exec_vmovi (vd : BitVec 6) (imm : BitVec 10) (s : State) : exec (.vmovi vd imm) s = execVmovi vd imm s := rfl
theorem exec_vmad (vd va vb vc : BitVec 5) (ra rb : BitVec 2) (rc : BitVec 1) (s : State) : exec (.vmad vd va vb vc ra rb rc) s = execVmad vd va vb vc ra rb rc s := rfl
theorem exec_vfmaF32 (vd va vb vc : BitVec 5) (ra rb : BitVec 2) (rc : BitVec 1) (s : State) : exec (.vfmaF32 vd va vb vc ra rb rc) s = execVfmaF32 vd va vb vc ra rb rc s := rfl
theorem exec_vfmaBf16x2 (vd va vb vc : BitVec 5) (ra rb : BitVec 2) (rc : BitVec 1) (s : State) : exec (.vfmaBf16x2 vd va vb vc ra rb rc) s = execVfmaBf16x2 vd va vb vc ra rb rc s := rfl
theorem exec_vfmaF16x2 (vd va vb vc : BitVec 5) (ra rb : BitVec 2) (rc : BitVec 1) (s : State) : exec (.vfmaF16x2 vd va vb vc ra rb rc) s = execVfmaF16x2 vd va vb vc ra rb rc s := rfl
theorem exec_vdot4aI8 (vd va vb vc : BitVec 5) (ra rb : BitVec 2) (rc : BitVec 1) (s : State) : exec (.vdot4aI8 vd va vb vc ra rb rc) s = execVdot4aI8 vd va vb vc ra rb rc s := rfl
theorem exec_vdot2aBf16 (vd va vb vc : BitVec 5) (ra rb : BitVec 2) (rc : BitVec 1) (s : State) : exec (.vdot2aBf16 vd va vb vc ra rb rc) s = execVdot2aBf16 vd va vb vc ra rb rc s := rfl
theorem exec_vbfi (vd va vb vc : BitVec 5) (ra rb : BitVec 2) (rc : BitVec 1) (s : State) : exec (.vbfi vd va vb vc ra rb rc) s = execVbfi vd va vb vc ra rb rc s := rfl
theorem exec_vld (vd va : BitVec 6) (k sz : BitVec 3) (off : BitVec 6) (s : State) : exec (.vld vd va k sz off) s = execVld vd va k sz off s := rfl
theorem exec_vst (vs va : BitVec 6) (k sz : BitVec 3) (off : BitVec 6) (s : State) : exec (.vst vs va k sz off) s = execVst vs va k sz off s := rfl
theorem exec_vldc (vd va : BitVec 6) (k sz : BitVec 3) (off : BitVec 6) (s : State) : exec (.vldc vd va k sz off) s = execVldc vd va k sz off s := rfl
theorem exec_vpref (hint va : BitVec 6) (k : BitVec 3) (off : BitVec 6) (s : State) : exec (.vpref hint va k off) s = execVpref hint va k off s := rfl
theorem exec_vcmp (d a b : BitVec 6) (fn : BitVec 4) (s : State) : exec (.vcmp d a b fn) s = execVcmp d a b fn s := rfl
theorem exec_vsel (d a b : BitVec 6) (k : BitVec 3) (s : State) : exec (.vsel d a b k) s = execVsel d a b k s := rfl
theorem exec_vvote (d a : BitVec 6) (fn : BitVec 4) (s : State) : exec (.vvote d a fn) s = execVvote d a fn s := rfl
theorem exec_vscan (d a : BitVec 6) (fn : BitVec 4) (s : State) : exec (.vscan d a fn) s = execVscan d a fn s := rfl
theorem exec_vred (d a : BitVec 6) (fn : BitVec 4) (s : State) : exec (.vred d a fn) s = execVred d a fn s := rfl
theorem exec_vmatch (d a : BitVec 6) (fn : BitVec 4) (s : State) : exec (.vmatch d a fn) s = execVmatch d a fn s := rfl
theorem exec_vcompact (d a b : BitVec 6) (fn : BitVec 4) (s : State) : exec (.vcompact d a b fn) s = execVcompact d a b fn s := rfl
theorem exec_vform (d a : BitVec 6) (fn : BitVec 4) (s : State) : exec (.vform d a fn) s = execVform d a fn s := rfl
theorem exec_vstride (d a : BitVec 6) (s : State) : exec (.vstride d a) s = execVstride d a s := rfl
theorem exec_vindex (d : BitVec 6) (fn : BitVec 4) (s : State) : exec (.vindex d fn) s = execVindex d fn s := rfl
theorem exec_vpopc (d a : BitVec 6) (s : State) : exec (.vpopc d a) s = execVpopc d a s := rfl
theorem exec_vclz (d a : BitVec 6) (s : State) : exec (.vclz d a) s = execVclz d a s := rfl
theorem exec_vbrev (d a : BitVec 6) (s : State) : exec (.vbrev d a) s = execVbrev d a s := rfl
theorem exec_vbfe (d a b : BitVec 6) (sgn : BitVec 1) (s : State) : exec (.vbfe d a b sgn) s = execVbfe d a b sgn s := rfl
theorem exec_vfrcpF32 (d a : BitVec 6) (s : State) : exec (.vfrcpF32 d a) s = execVfrcpF32 d a s := rfl
theorem exec_vfrsqF32 (d a : BitVec 6) (s : State) : exec (.vfrsqF32 d a) s = execVfrsqF32 d a s := rfl
theorem exec_vfsqrtF32 (d a : BitVec 6) (s : State) : exec (.vfsqrtF32 d a) s = execVfsqrtF32 d a s := rfl
theorem exec_vfexp2F32 (d a : BitVec 6) (s : State) : exec (.vfexp2F32 d a) s = execVfexp2F32 d a s := rfl
theorem exec_vflog2F32 (d a : BitVec 6) (s : State) : exec (.vflog2F32 d a) s = execVflog2F32 d a s := rfl
theorem exec_vfsinpiF32 (d a : BitVec 6) (s : State) : exec (.vfsinpiF32 d a) s = execVfsinpiF32 d a s := rfl
theorem exec_vfcospiF32 (d a : BitVec 6) (s : State) : exec (.vfcospiF32 d a) s = execVfcospiF32 d a s := rfl
theorem exec_vftanhF32 (d a : BitVec 6) (s : State) : exec (.vftanhF32 d a) s = execVftanhF32 d a s := rfl
theorem exec_vfclass (d a : BitVec 6) (fn : BitVec 4) (s : State) : exec (.vfclass d a fn) s = execVfclass d a fn s := rfl
theorem exec_vunary (d a : BitVec 6) (fn : BitVec 4) (s : State) : exec (.vunary d a fn) s = execVunary d a fn s := rfl
theorem exec_vcvt (d a : BitVec 6) (fn : BitVec 4) (s : State) : exec (.vcvt d a fn) s = execVcvt d a fn s := rfl
theorem exec_vcvtb (d a : BitVec 6) (fn : BitVec 4) (s : State) : exec (.vcvtb d a fn) s = execVcvtb d a fn s := rfl
theorem exec_vpack (d a b : BitVec 6) (fn : BitVec 4) (s : State) : exec (.vpack d a b fn) s = execVpack d a b fn s := rfl
theorem exec_vunpack (d a b : BitVec 6) (fn : BitVec 4) (s : State) : exec (.vunpack d a b fn) s = execVunpack d a b fn s := rfl
theorem exec_vkmov (d a b : BitVec 6) (fn : BitVec 4) (s : State) : exec (.vkmov d a b fn) s = execVkmov d a b fn s := rfl
theorem exec_vbr (k tag : BitVec 3) (off : BitVec 18) (s : State) : exec (.vbr k tag off) s = execVbr k tag off s := rfl
theorem exec_vbrn (k tag : BitVec 3) (off : BitVec 18) (s : State) : exec (.vbrn k tag off) s = execVbrn k tag off s := rfl
theorem exec_vjoin (tag : BitVec 3) (live : BitVec 8) (s : State) : exec (.vjoin tag live) s = execVjoin tag live s := rfl
theorem exec_vreform (tag : BitVec 3) (live : BitVec 8) (s : State) : exec (.vreform tag live) s = execVreform tag live s := rfl
theorem exec_vcall (off : BitVec 18) (s : State) : exec (.vcall off) s = execVcall off s := rfl
theorem exec_vcallr (va : BitVec 6) (s : State) : exec (.vcallr va) s = execVcallr va s := rfl
theorem exec_vswitch (tag : BitVec 3) (va : BitVec 6) (cases : List (BitVec 32)) (s : State) : exec (.vswitch tag va cases) s = execVswitch tag va cases s := rfl
theorem exec_vmovl (vd : BitVec 6) (imm : BitVec 32) (s : State) : exec (.vmovl vd imm) s = execVmovl vd imm s := rfl
theorem exec_vatom (vd va vb : BitVec 6) (aop : BitVec 5) (w nr : BitVec 1) (vc : BitVec 6) (disp : BitVec 16) (s : State) : exec (.vatom vd va vb aop w nr vc disp) s = execVatom vd va vb aop w nr vc disp s := rfl
theorem exec_vcopy (vd va vb : BitVec 6) (logsz : BitVec 3) (s : State) : exec (.vcopy vd va vb logsz) s = execVcopy vd va vb logsz s := rfl
theorem exec_vldg (vd va vb : BitVec 6) (sz : BitVec 3) (scale : BitVec 2) (ahead : BitVec 1) (tag : BitVec 3) (win : BitVec 4) (disp : BitVec 16) (s : State) : exec (.vldg vd va vb sz scale ahead tag win disp) s = execVldg vd va vb sz scale ahead tag win disp s := rfl
theorem exec_sadd (sd sa sb : BitVec 6) (s : State) : exec (.sadd sd sa sb) s = execSadd sd sa sb s := rfl
theorem exec_ssub (sd sa sb : BitVec 6) (s : State) : exec (.ssub sd sa sb) s = execSsub sd sa sb s := rfl
theorem exec_smul (sd sa sb : BitVec 6) (s : State) : exec (.smul sd sa sb) s = execSmul sd sa sb s := rfl
theorem exec_smulhI32 (sd sa sb : BitVec 6) (s : State) : exec (.smulhI32 sd sa sb) s = execSmulhI32 sd sa sb s := rfl
theorem exec_smulhN32 (sd sa sb : BitVec 6) (s : State) : exec (.smulhN32 sd sa sb) s = execSmulhN32 sd sa sb s := rfl
theorem exec_sminI32 (sd sa sb : BitVec 6) (s : State) : exec (.sminI32 sd sa sb) s = execSminI32 sd sa sb s := rfl
theorem exec_sminN32 (sd sa sb : BitVec 6) (s : State) : exec (.sminN32 sd sa sb) s = execSminN32 sd sa sb s := rfl
theorem exec_smaxI32 (sd sa sb : BitVec 6) (s : State) : exec (.smaxI32 sd sa sb) s = execSmaxI32 sd sa sb s := rfl
theorem exec_smaxN32 (sd sa sb : BitVec 6) (s : State) : exec (.smaxN32 sd sa sb) s = execSmaxN32 sd sa sb s := rfl
theorem exec_sand (sd sa sb : BitVec 6) (s : State) : exec (.sand sd sa sb) s = execSand sd sa sb s := rfl
theorem exec_sor (sd sa sb : BitVec 6) (s : State) : exec (.sor sd sa sb) s = execSor sd sa sb s := rfl
theorem exec_sxor (sd sa sb : BitVec 6) (s : State) : exec (.sxor sd sa sb) s = execSxor sd sa sb s := rfl
theorem exec_sshl (sd sa sb : BitVec 6) (s : State) : exec (.sshl sd sa sb) s = execSshl sd sa sb s := rfl
theorem exec_sshr (sd sa sb : BitVec 6) (s : State) : exec (.sshr sd sa sb) s = execSshr sd sa sb s := rfl
theorem exec_ssar (sd sa sb : BitVec 6) (s : State) : exec (.ssar sd sa sb) s = execSsar sd sa sb s := rfl
theorem exec_scmp (sd sa sb : BitVec 6) (fn : BitVec 4) (s : State) : exec (.scmp sd sa sb fn) s = execScmp sd sa sb fn s := rfl
theorem exec_ssel (sd sa sb : BitVec 6) (s : State) : exec (.ssel sd sa sb) s = execSsel sd sa sb s := rfl
theorem exec_smov (sd sa : BitVec 6) (s : State) : exec (.smov sd sa) s = execSmov sd sa s := rfl
theorem exec_spopc (sd sa : BitVec 6) (s : State) : exec (.spopc sd sa) s = execSpopc sd sa s := rfl
theorem exec_sclz (sd sa : BitVec 6) (s : State) : exec (.sclz sd sa) s = execSclz sd sa s := rfl
theorem exec_sdivN32 (sd sa sb : BitVec 6) (s : State) : exec (.sdivN32 sd sa sb) s = execSdivN32 sd sa sb s := rfl
theorem exec_sremN32 (sd sa sb : BitVec 6) (s : State) : exec (.sremN32 sd sa sb) s = execSremN32 sd sa sb s := rfl
theorem exec_sdivI32 (sd sa sb : BitVec 6) (s : State) : exec (.sdivI32 sd sa sb) s = execSdivI32 sd sa sb s := rfl
theorem exec_sremI32 (sd sa sb : BitVec 6) (s : State) : exec (.sremI32 sd sa sb) s = execSremI32 sd sa sb s := rfl
theorem exec_sfadd (sd sa sb : BitVec 6) (s : State) : exec (.sfadd sd sa sb) s = execSfadd sd sa sb s := rfl
theorem exec_sfmul (sd sa sb : BitVec 6) (s : State) : exec (.sfmul sd sa sb) s = execSfmul sd sa sb s := rfl
theorem exec_sffma (sd sa sb : BitVec 6) (s : State) : exec (.sffma sd sa sb) s = execSffma sd sa sb s := rfl
theorem exec_sfcmp (sd sa sb : BitVec 6) (fn : BitVec 4) (s : State) : exec (.sfcmp sd sa sb fn) s = execSfcmp sd sa sb fn s := rfl
theorem exec_scvt (sd sa sb : BitVec 6) (fn : BitVec 4) (s : State) : exec (.scvt sd sa sb fn) s = execScvt sd sa sb fn s := rfl
theorem exec_sadd64 (sd sa sb : BitVec 6) (s : State) : exec (.sadd64 sd sa sb) s = execSadd64 sd sa sb s := rfl
theorem exec_ssub64 (sd sa sb : BitVec 6) (s : State) : exec (.ssub64 sd sa sb) s = execSsub64 sd sa sb s := rfl
theorem exec_smulw (sd sa sb : BitVec 6) (s : State) : exec (.smulw sd sa sb) s = execSmulw sd sa sb s := rfl
theorem exec_saddi (sd sa : BitVec 6) (imm : BitVec 12) (s : State) : exec (.saddi sd sa imm) s = execSaddi sd sa imm s := rfl
theorem exec_smuli (sd sa : BitVec 6) (imm : BitVec 12) (s : State) : exec (.smuli sd sa imm) s = execSmuli sd sa imm s := rfl
theorem exec_sandi (sd sa : BitVec 6) (imm : BitVec 12) (s : State) : exec (.sandi sd sa imm) s = execSandi sd sa imm s := rfl
theorem exec_sori (sd sa : BitVec 6) (imm : BitVec 12) (s : State) : exec (.sori sd sa imm) s = execSori sd sa imm s := rfl
theorem exec_sxori (sd sa : BitVec 6) (imm : BitVec 12) (s : State) : exec (.sxori sd sa imm) s = execSxori sd sa imm s := rfl
theorem exec_sshli (sd sa : BitVec 6) (imm : BitVec 12) (s : State) : exec (.sshli sd sa imm) s = execSshli sd sa imm s := rfl
theorem exec_sshri (sd sa : BitVec 6) (imm : BitVec 12) (s : State) : exec (.sshri sd sa imm) s = execSshri sd sa imm s := rfl
theorem exec_ssari (sd sa : BitVec 6) (imm : BitVec 12) (s : State) : exec (.ssari sd sa imm) s = execSsari sd sa imm s := rfl
theorem exec_sltiI32 (sd sa : BitVec 6) (imm : BitVec 12) (s : State) : exec (.sltiI32 sd sa imm) s = execSltiI32 sd sa imm s := rfl
theorem exec_sltiN32 (sd sa : BitVec 6) (imm : BitVec 12) (s : State) : exec (.sltiN32 sd sa imm) s = execSltiN32 sd sa imm s := rfl
theorem exec_seqi (sd sa : BitVec 6) (imm : BitVec 12) (s : State) : exec (.seqi sd sa imm) s = execSeqi sd sa imm s := rfl
theorem exec_sadd64i (sd sa : BitVec 6) (imm : BitVec 12) (s : State) : exec (.sadd64i sd sa imm) s = execSadd64i sd sa imm s := rfl
theorem exec_smovi (sd : BitVec 6) (imm : BitVec 18) (s : State) : exec (.smovi sd imm) s = execSmovi sd imm s := rfl
theorem exec_shii (sd : BitVec 6) (imm : BitVec 18) (s : State) : exec (.shii sd imm) s = execShii sd imm s := rfl
theorem exec_saddpc (sd : BitVec 6) (imm : BitVec 18) (s : State) : exec (.saddpc sd imm) s = execSaddpc sd imm s := rfl
theorem exec_route (sd : BitVec 6) (slot kind : BitVec 2) (fill dyn : BitVec 1) (param : BitVec 6) (s : State) : exec (.route sd slot kind fill dyn param) s = execRoute sd slot kind fill dyn param s := rfl
theorem exec_part (tile : BitVec 3) (s : State) : exec (.part tile) s = execPart tile s := rfl
theorem exec_mode (mask value : BitVec 8) (s : State) : exec (.mode mask value) s = execMode mask value s := rfl
theorem exec_acq (sd : BitVec 6) (wait : BitVec 1) (m : BitVec 4) (s : State) : exec (.acq sd wait m) s = execAcq sd wait m s := rfl
theorem exec_rel (m : BitVec 4) (s : State) : exec (.rel m) s = execRel m s := rfl
theorem exec_sld (sd sa : BitVec 6) (sz : BitVec 3) (off : BitVec 9) (s : State) : exec (.sld sd sa sz off) s = execSld sd sa sz off s := rfl
theorem exec_sst (ss sa : BitVec 6) (sz : BitVec 3) (off : BitVec 9) (s : State) : exec (.sst ss sa sz off) s = execSst ss sa sz off s := rfl
theorem exec_sldc (sd sa : BitVec 6) (sz : BitVec 3) (off : BitVec 9) (s : State) : exec (.sldc sd sa sz off) s = execSldc sd sa sz off s := rfl
theorem exec_jmp (off : BitVec 24) (s : State) : exec (.jmp off) s = execJmp off s := rfl
theorem exec_brz (sa : BitVec 6) (off : BitVec 18) (s : State) : exec (.brz sa off) s = execBrz sa off s := rfl
theorem exec_brnz (sa : BitVec 6) (off : BitVec 18) (s : State) : exec (.brnz sa off) s = execBrnz sa off s := rfl
theorem exec_call (off : BitVec 24) (s : State) : exec (.call off) s = execCall off s := rfl
theorem exec_callr (sa : BitVec 6) (s : State) : exec (.callr sa) s = execCallr sa s := rfl
theorem exec_nop (code : BitVec 16) (s : State) : exec (.nop code) s = execNop code s := rfl
theorem exec_trap (code : BitVec 16) (s : State) : exec (.trap code) s = execTrap code s := rfl
theorem exec_brk (code : BitVec 16) (s : State) : exec (.brk code) s = execBrk code s := rfl
theorem exec_tcopy (sa sb sc : BitVec 6) (s : State) : exec (.tcopy sa sb sc) s = execTcopy sa sb sc s := rfl
theorem exec_tcopyx (sa sb sc : BitVec 6) (e1 e0 ss1 e2 row0 ss2 : BitVec 16) (m2 m1 m0 : BitVec 10) (s : State) : exec (.tcopyx sa sb sc e1 e0 ss1 e2 row0 ss2 m2 m1 m0) s = execTcopyx sa sb sc e1 e0 ss1 e2 row0 ss2 m2 m1 m0 s := rfl
theorem exec_mcopy (sa sb sc : BitVec 6) (s : State) : exec (.mcopy sa sb sc) s = execMcopy sa sb sc s := rfl
theorem exec_bcopy (sa sb sc : BitVec 6) (nkey rowb : BitVec 16) (creg nreg : BitVec 6) (s : State) : exec (.bcopy sa sb sc nkey rowb creg nreg) s = execBcopy sa sb sc nkey rowb creg nreg s := rfl
theorem exec_chain (sa sb sc : BitVec 6) (ops : BitVec 32) (kb : BitVec 6) (ot it : BitVec 2) (s : State) : exec (.chain sa sb sc ops kb ot it) s = execChain sa sb sc ops kb ot it s := rfl
theorem exec_bseal (t : BitVec 3) (s : State) : exec (.bseal t) s = execBseal t s := rfl
theorem exec_bwait (t : BitVec 3) (s : State) : exec (.bwait t) s = execBwait t s := rfl
theorem exec_awinit (sa sb : BitVec 6) (s : State) : exec (.awinit sa sb) s = execAwinit sa sb s := rfl
theorem exec_await (sa sb sc : BitVec 6) (s : State) : exec (.await sa sb sc) s = execAwait sa sb sc s := rfl
theorem exec_obres (sa sb sc : BitVec 6) (h : BitVec 4) (kind : BitVec 2) (fmt : BitVec 3) (lb : BitVec 2) (split layout : BitVec 1) (ns : BitVec 2) (s : State) : exec (.obres sa sb sc h kind fmt lb split layout ns) s = execObres sa sb sc h kind fmt lb split layout ns s := rfl
theorem exec_obrel (sa : BitVec 6) (s : State) : exec (.obrel sa) s = execObrel sa s := rfl
theorem exec_crew (sa : BitVec 6) (s : State) : exec (.crew sa) s = execCrew sa s := rfl
theorem exec_mma (sa : BitVec 6) (ha hb hc : BitVec 4) (s : State) : exec (.mma sa ha hb hc) s = execMma sa ha hb hc s := rfl
theorem exec_mmaRs (sa sb sc : BitVec 6) (ha hb hc : BitVec 4) (sel : BitVec 1) (rsel : BitVec 8) (s : State) : exec (.mmaRs sa sb sc ha hb hc sel rsel) s = execMmaRs sa sb sc ha hb hc sel rsel s := rfl
theorem exec_mmaSs (sa sb sc : BitVec 6) (ha hb hc : BitVec 4) (s : State) : exec (.mmaSs sa sb sc ha hb hc) s = execMmaSs sa sb sc ha hb hc s := rfl
theorem exec_mmas (sa sb : BitVec 6) (ha hb hc : BitVec 4) (s : State) : exec (.mmas sa sb ha hb hc) s = execMmas sa sb ha hb hc s := rfl
theorem exec_mman (sa sb sc : BitVec 6) (form : BitVec 1) (ha hb hc : BitVec 4) (sel : BitVec 1) (rsel : BitVec 8) (s : State) : exec (.mman sa sb sc form ha hb hc sel rsel) s = execMman sa sb sc form ha hb hc sel rsel s := rfl
theorem exec_salient (sa : BitVec 6) (ha hb hc : BitVec 4) (s : State) : exec (.salient sa ha hb hc) s = execSalient sa ha hb hc s := rfl
theorem exec_accrd (sa sb sc : BitVec 6) (s : State) : exec (.accrd sa sb sc) s = execAccrd sa sb sc s := rfl
theorem exec_accz (sa : BitVec 6) (s : State) : exec (.accz sa) s = execAccz sa s := rfl
theorem exec_capb (sa sb sc : BitVec 6) (s : State) : exec (.capb sa sb sc) s = execCapb sa sb sc s := rfl
theorem exec_satom (sa sb sc : BitVec 6) (aop : BitVec 5) (w nr : BitVec 1) (cmp : BitVec 6) (disp : BitVec 16) (s : State) : exec (.satom sa sb sc aop w nr cmp disp) s = execSatom sa sb sc aop w nr cmp disp s := rfl
theorem exec_redw (sa sb sc : BitVec 6) (ty : BitVec 4) (op : BitVec 3) (x : BitVec 1) (s : State) : exec (.redw sa sb sc ty op x) s = execRedw sa sb sc ty op x s := rfl
theorem exec_poolp (sa sb sc : BitVec 6) (s : State) : exec (.poolp sa sb sc) s = execPoolp sa sb sc s := rfl
theorem exec_poold (sa sb sc : BitVec 6) (s : State) : exec (.poold sa sb sc) s = execPoold sa sb sc s := rfl
theorem exec_launch (sa sc : BitVec 6) (s : State) : exec (.launch sa sc) s = execLaunch sa sc s := rfl
theorem exec_bara (level : BitVec 3) (b : BitVec 4) (s : State) : exec (.bara level b) s = execBara level b s := rfl
theorem exec_barw (level : BitVec 3) (b : BitVec 4) (s : State) : exec (.barw level b) s = execBarw level b s := rfl
theorem exec_bars (level : BitVec 3) (b : BitVec 4) (s : State) : exec (.bars level b) s = execBars level b s := rfl
theorem exec_fence (kind : BitVec 2) (scope : BitVec 3) (s : State) : exec (.fence kind scope) s = execFence kind scope s := rfl
theorem exec_csrr (sd : BitVec 6) (num : BitVec 12) (s : State) : exec (.csrr sd num) s = execCsrr sd num s := rfl
theorem exec_csrw (sa : BitVec 6) (num : BitVec 12) (s : State) : exec (.csrw sa num) s = execCsrw sa num s := rfl
theorem exec_tick (sd : BitVec 6) (s : State) : exec (.tick sd) s = execTick sd s := rfl
theorem exec_sleep (sa : BitVec 6) (s : State) : exec (.sleep sa) s = execSleep sa s := rfl
theorem exec_tmarm (sa : BitVec 6) (s : State) : exec (.tmarm sa) s = execTmarm sa s := rfl
theorem exec_trace (sa sb : BitVec 6) (code : BitVec 10) (s : State) : exec (.trace sa sb code) s = execTrace sa sb code s := rfl
theorem exec_moduleReset (s : State) : exec .moduleReset s = execModuleReset s := rfl
theorem exec_firmwareBoot (s : State) : exec .firmwareBoot s = execFirmwareBoot s := rfl
theorem exec_throttleEvaluation (s : State) : exec .throttleEvaluation s = execThrottleEvaluation s := rfl
theorem exec_thermalTrip (s : State) : exec .thermalTrip s = execThermalTrip s := rfl
theorem exec_moduleFatalEvent (s : State) : exec .moduleFatalEvent s = execModuleFatalEvent s := rfl
theorem exec_patrolScrub (s : State) : exec .patrolScrub s = execPatrolScrub s := rfl
theorem exec_tickAlignment (s : State) : exec .tickAlignment s = execTickAlignment s := rfl
theorem exec_ticksyncPeriod (s : State) : exec .ticksyncPeriod s = execTicksyncPeriod s := rfl
theorem exec_ticksync (s : State) : exec .ticksync s = execTicksync s := rfl
theorem exec_stoptickWrite (s : State) : exec .stoptickWrite s = execStoptickWrite s := rfl
theorem exec_stopOnTick (s : State) : exec .stopOnTick s = execStopOnTick s := rfl
theorem exec_flitTransmit (s : State) : exec .flitTransmit s = execFlitTransmit s := rfl
theorem exec_flitReceive (s : State) : exec .flitReceive s = execFlitReceive s := rfl
theorem exec_ackStallTimeout (s : State) : exec .ackStallTimeout s = execAckStallTimeout s := rfl
theorem exec_linkRetrainComplete (s : State) : exec .linkRetrainComplete s = execLinkRetrainComplete s := rfl
theorem exec_portBringUp (s : State) : exec .portBringUp s = execPortBringUp s := rfl
theorem exec_read (s : State) : exec .read s = execRead s := rfl
theorem exec_write (s : State) : exec .write s = execWrite s := rfl
theorem exec_atomic (s : State) : exec .atomic s = execAtomic s := rfl
theorem exec_respdata (s : State) : exec .respdata s = execRespdata s := rfl
theorem exec_respack (s : State) : exec .respack s = execRespack s := rfl
theorem exec_resperr (s : State) : exec .resperr s = execResperr s := rfl
theorem exec_red (s : State) : exec .red s = execRed s := rfl
theorem exec_redb (s : State) : exec .redb s = execRedb s := rfl
theorem exec_retry (s : State) : exec .retry s = execRetry s := rfl
theorem exec_retryResend (s : State) : exec .retryResend s = execRetryResend s := rfl
theorem exec_barrier (s : State) : exec .barrier s = execBarrier s := rfl
theorem exec_remoteTimeout (s : State) : exec .remoteTimeout s = execRemoteTimeout s := rfl
theorem exec_windowTimeout (s : State) : exec .windowTimeout s = execWindowTimeout s := rfl
theorem exec_winbaseWrite (s : State) : exec .winbaseWrite s = execWinbaseWrite s := rfl
theorem exec_winctlWrite (s : State) : exec .winctlWrite s = execWinctlWrite s := rfl
theorem exec_dbarWrite (s : State) : exec .dbarWrite s = execDbarWrite s := rfl
theorem exec_bar0RegisterWrite (s : State) : exec .bar0RegisterWrite s = execBar0RegisterWrite s := rfl
theorem exec_createContext (s : State) : exec .createContext s = execCreateContext s := rfl
theorem exec_destroyContext (s : State) : exec .destroyContext s = execDestroyContext s := rfl
theorem exec_bindQueue (s : State) : exec .bindQueue s = execBindQueue s := rfl
theorem exec_attestationReport (s : State) : exec .attestationReport s = execAttestationReport s := rfl
theorem exec_readDumpDescriptor (s : State) : exec .readDumpDescriptor s = execReadDumpDescriptor s := rfl
theorem exec_firmwareUpdate (s : State) : exec .firmwareUpdate s = execFirmwareUpdate s := rfl
theorem exec_reclaimCodeHeap (s : State) : exec .reclaimCodeHeap s = execReclaimCodeHeap s := rfl
theorem exec_mailboxCommandComplete (s : State) : exec .mailboxCommandComplete s = execMailboxCommandComplete s := rfl
theorem exec_mailboxDataWrite (s : State) : exec .mailboxDataWrite s = execMailboxDataWrite s := rfl
theorem exec_barwinWrite (s : State) : exec .barwinWrite s = execBarwinWrite s := rfl
theorem exec_bar2Access (s : State) : exec .bar2Access s = execBar2Access s := rfl
theorem exec_qctlWrite (s : State) : exec .qctlWrite s = execQctlWrite s := rfl
theorem exec_qprodWrite (s : State) : exec .qprodWrite s = execQprodWrite s := rfl
theorem exec_launchRecord (s : State) : exec .launchRecord s = execLaunchRecord s := rfl
theorem exec_signal (s : State) : exec .signal s = execSignal s := rfl
theorem exec_signalCompletion (s : State) : exec .signalCompletion s = execSignalCompletion s := rfl
theorem exec_isync (s : State) : exec .isync s = execIsync s := rfl
theorem exec_isyncInvalidate (s : State) : exec .isyncInvalidate s = execIsyncInvalidate s := rfl
theorem exec_vorxusTranslation (s : State) : exec .vorxusTranslation s = execVorxusTranslation s := rfl
theorem exec_translationCommit (s : State) : exec .translationCommit s = execTranslationCommit s := rfl
theorem exec_gangPlacement (s : State) : exec .gangPlacement s = execGangPlacement s := rfl
theorem exec_headWaitExpiry (s : State) : exec .headWaitExpiry s = execHeadWaitExpiry s := rfl
theorem exec_gangHalt (s : State) : exec .gangHalt s = execGangHalt s := rfl
theorem exec_saveComplete (s : State) : exec .saveComplete s = execSaveComplete s := rfl
theorem exec_gangRestore (s : State) : exec .gangRestore s = execGangRestore s := rfl
theorem exec_overflowStrandExchange (s : State) : exec .overflowStrandExchange s = execOverflowStrandExchange s := rfl
theorem exec_workgroupDrainComplete (s : State) : exec .workgroupDrainComplete s = execWorkgroupDrainComplete s := rfl
theorem exec_expansionCursorAdvance (s : State) : exec .expansionCursorAdvance s = execExpansionCursorAdvance s := rfl
theorem exec_joinWaitTimeout (s : State) : exec .joinWaitTimeout s = execJoinWaitTimeout s := rfl
theorem exec_faultReplay (s : State) : exec .faultReplay s = execFaultReplay s := rfl
theorem exec_pageWalkComplete (s : State) : exec .pageWalkComplete s = execPageWalkComplete s := rfl
theorem exec_translationOverflowReplay (s : State) : exec .translationOverflowReplay s = execTranslationOverflowReplay s := rfl
theorem exec_pageRequestResponse (s : State) : exec .pageRequestResponse s = execPageRequestResponse s := rfl
theorem exec_fsrdoneWrite (s : State) : exec .fsrdoneWrite s = execFsrdoneWrite s := rfl
theorem exec_faultServiceTimeout (s : State) : exec .faultServiceTimeout s = execFaultServiceTimeout s := rfl
theorem exec_homeWriteApply (s : State) : exec .homeWriteApply s = execHomeWriteApply s := rfl
theorem exec_writeVisibility (s : State) : exec .writeVisibility s = execWriteVisibility s := rfl
theorem exec_memoryOperationComplete (s : State) : exec .memoryOperationComplete s = execMemoryOperationComplete s := rfl
theorem exec_vcopyCompletion (s : State) : exec .vcopyCompletion s = execVcopyCompletion s := rfl
theorem exec_copyRowCompletion (s : State) : exec .copyRowCompletion s = execCopyRowCompletion s := rfl
theorem exec_awaitDeadline (s : State) : exec .awaitDeadline s = execAwaitDeadline s := rfl
theorem exec_waitTimeout (s : State) : exec .waitTimeout s = execWaitTimeout s := rfl
theorem exec_emulationCommit (s : State) : exec .emulationCommit s = execEmulationCommit s := rfl
theorem exec_timerExpiry (s : State) : exec .timerExpiry s = execTimerExpiry s := rfl
theorem exec_sleepExpiry (s : State) : exec .sleepExpiry s = execSleepExpiry s := rfl
theorem exec_chunkCommit (s : State) : exec .chunkCommit s = execChunkCommit s := rfl
theorem exec_replayIndexWrite (s : State) : exec .replayIndexWrite s = execReplayIndexWrite s := rfl
theorem exec_clauseFetch (s : State) : exec .clauseFetch s = execClauseFetch s := rfl
theorem exec_acqGrant (s : State) : exec .acqGrant s = execAcqGrant s := rfl
theorem exec_acqWaitTimeout (s : State) : exec .acqWaitTimeout s = execAcqWaitTimeout s := rfl
theorem exec_runAheadSplit (s : State) : exec .runAheadSplit s = execRunAheadSplit s := rfl
theorem exec_mxeRequestAccept (s : State) : exec .mxeRequestAccept s = execMxeRequestAccept s := rfl
theorem exec_mxePassGrant (s : State) : exec .mxePassGrant s = execMxePassGrant s := rfl
theorem exec_mxePassComplete (s : State) : exec .mxePassComplete s = execMxePassComplete s := rfl
theorem exec_assayInstall (s : State) : exec .assayInstall s = execAssayInstall s := rfl
theorem exec_vexpand (s : State) : exec .vexpand s = execVexpand s := rfl
theorem exec_vret (s : State) : exec .vret s = execVret s := rfl
theorem exec_vexit (s : State) : exec .vexit s = execVexit s := rfl
theorem exec_ret (s : State) : exec .ret s = execRet s := rfl
theorem exec_exit (s : State) : exec .exit s = execExit s := rfl
theorem exec_yield (s : State) : exec .yield s = execYield s := rfl
theorem exec_eret (s : State) : exec .eret s = execEret s := rfl
theorem exec_capeStep (s : State) : exec .capeStep s = execCapeStep s := rfl
theorem exec_capeEnd (s : State) : exec .capeEnd s = execCapeEnd s := rfl
theorem exec_succ (s : State) : exec .succ s = execSucc s := rfl
theorem exec_waitpred (s : State) : exec .waitpred s = execWaitpred s := rfl
theorem exec_stallAccountClock (s : State) : exec .stallAccountClock s = execStallAccountClock s := rfl
theorem exec_fsrconsWrite (s : State) : exec .fsrconsWrite s = execFsrconsWrite s := rfl
theorem exec_atsTranslationCompletion (s : State) : exec .atsTranslationCompletion s = execAtsTranslationCompletion s := rfl
theorem exec_rejectedRecord (s : State) : exec .rejectedRecord s = execRejectedRecord s := rfl
theorem exec_unknownOp (s : State) : exec .unknownOp s = execUnknownOp s := rfl
theorem exec_railOutOfRegulation (s : State) : exec .railOutOfRegulation s = execRailOutOfRegulation s := rfl

end Sys2Proof.Machine
end

