-- ==== Sys2Proof/Laws/Tab.lean ====
section
/-! SUPPORT. Lemmas about tables and memory: reads after writes, and the canonical form of memory. -/

namespace Sys2Proof.Machine

/-! ## Tables -/

theorem tfind_tset {α : Type} (t : Tab α) (k j : Nat) (v : α) : tfind (tset t k v) j = if k = j then some v else tfind t j := by
  induction t with
  | nil => simp [tset, tfind]
  | cons e r ih =>
    obtain ⟨i, w⟩ := e
    simp only [tset]
    split
    · subst i
      by_cases h : k = j <;> simp [tfind, h]
    · split
      · by_cases h : k = j <;> simp [tfind, h]
      · simp only [tfind, ih]
        by_cases h : i = j
        · have : k ≠ j := fun e => by omega
          simp [h, this]
        · simp [h]

theorem tget_tset {α : Type} (t : Tab α) (k j : Nat) (v d : α) : tget (tset t k v) j d = if k = j then v else tget t j d := by
  unfold tget
  rw [tfind_tset]
  split <;> rfl

theorem tget_tset_same {α : Type} (t : Tab α) (k : Nat) (v d : α) : tget (tset t k v) k d = v := by simp [tget_tset]

theorem tget_tset_other {α : Type} (t : Tab α) (k j : Nat) (v d : α) (h : k ≠ j) : tget (tset t k v) j d = tget t j d := by
  simp [tget_tset, h]

theorem tfind_tmod {α : Type} (t : Tab α) (k j : Nat) (f : α → α) :
    tfind (tmod t k f) j = if j = k then (tfind t j).map f else tfind t j := by
  induction t with
  | nil => simp [tmod, tfind]
  | cons e r ih =>
    obtain ⟨i, w⟩ := e
    have ih' : tfind (List.map (fun e => if e.1 = k then (e.1, f e.2) else e) r) j = if j = k then (tfind r j).map f else tfind r j := ih
    by_cases h : i = k
    · by_cases h' : i = j
      · simp [tmod, tfind, h, ← h']
      · have : ¬ k = j := fun e => h' (h.trans e)
        simp [tmod, tfind, h, this, ih']
    · by_cases h' : i = j
      · have : ¬ j = k := fun e => h (h'.trans e)
        simp [tmod, tfind, h', this]
      · simp [tmod, tfind, h, h', ih']

theorem tfind_tmod_same {α : Type} (t : Tab α) (k : Nat) (f : α → α) : tfind (tmod t k f) k = (tfind t k).map f := by
  simp [tfind_tmod]

theorem tfind_tmod_other {α : Type} (t : Tab α) (k j : Nat) (f : α → α) (h : j ≠ k) : tfind (tmod t k f) j = tfind t j := by
  simp [tfind_tmod, h]

theorem tmod_tmod {α : Type} (t : Tab α) (k : Nat) (f g : α → α) : tmod (tmod t k f) k g = tmod t k fun x => g (f x) := by
  unfold tmod
  rw [List.map_map]
  refine List.map_congr_left fun e _ => ?_
  by_cases h : e.1 = k <;> simp [h]

theorem tfind_tmap {α β : Type} (t : Tab α) (f : Nat → α → β) (j : Nat) : tfind (tmap t f) j = (tfind t j).map (f j) := by
  induction t with
  | nil => rfl
  | cons e r ih =>
    obtain ⟨i, w⟩ := e
    have ih' : tfind (List.map (fun e => (e.1, f e.1 e.2)) r) j = (tfind r j).map (f j) := ih
    by_cases h : i = j
    · simp [tmap, tfind, h]
    · simp [tmap, tfind, h, ih']

theorem tfind_tdel {α : Type} (t : Tab α) (k j : Nat) : tfind (tdel t k) j = if j = k then none else tfind t j := by
  induction t with
  | nil => simp [tdel, tfind]
  | cons e r ih =>
    obtain ⟨i, w⟩ := e
    have ih' : tfind (List.filter (fun e => decide (e.1 ≠ k)) r) j = if j = k then none else tfind r j := ih
    by_cases h : i = k
    · have : tdel ((i, w) :: r) k = tdel r k := by simp [tdel, h]
      rw [this]
      show tfind (List.filter (fun e => decide (e.1 ≠ k)) r) j = _
      rw [ih']
      by_cases h' : j = k
      · simp [h']
      · have : ¬ i = j := fun e => h' (e.symm.trans h)
        simp [h', tfind, this]
    · have : tdel ((i, w) :: r) k = (i, w) :: tdel r k := by simp [tdel, h]
      rw [this]
      show (if i = j then some w else tfind (List.filter (fun e => decide (e.1 ≠ k)) r) j) = _
      rw [ih']
      by_cases h' : i = j
      · have : ¬ j = k := fun e => h (h'.trans e)
        simp [tfind, h', this]
      · simp [tfind, h']

/-! ## Memory -/

theorem mget_eq (m : Memory) (a : Nat) : mget m a = tget m a Memory.blank := by
  induction m with
  | nil => rfl
  | cons e r ih =>
    obtain ⟨j, w⟩ := e
    by_cases h : j = a
    · simp [mget, tget, tfind, h]
    · simpa [mget, tget, tfind, h] using ih

theorem mget_mset (m : Memory) (a b : Nat) (v : Byte) : mget (mset m a v) b = if a = b then v else mget m b := by
  rw [mget_eq, mget_eq]
  unfold mset
  split
  · rename_i hv
    subst hv
    by_cases h : b = a
    · subst h; simp [tget, tfind_tdel]
    · simp [tget, tfind_tdel, h, show ¬ a = b from fun e => h e.symm]
  · exact tget_tset m a b v Memory.blank

theorem wf_filter (m : Memory) (h : m.wf) (p : Host.Cell → Bool) : Memory.wf (m.filter p) :=
  ⟨h.1.filter p, fun c hc => h.2 c (List.mem_filter.mp hc).1⟩

/-- The entries of a table after a write: the one written, and old ones. -/
theorem mem_tset {α : Type} (t : Tab α) (k : Nat) (v : α) : ∀ c ∈ tset t k v, c = (k, v) ∨ c ∈ t := by
  induction t with
  | nil => intro c hc; exact .inl (by simpa [tset] using hc)
  | cons e r ih =>
    obtain ⟨j, w⟩ := e
    intro c hc
    simp only [tset] at hc
    split at hc
    · rcases List.mem_cons.mp hc with rfl | hc
      · exact .inl rfl
      · exact .inr (by simp [hc])
    · split at hc
      · rcases List.mem_cons.mp hc with rfl | hc
        · exact .inl rfl
        · exact .inr hc
      · rcases List.mem_cons.mp hc with rfl | hc
        · exact .inr (by simp)
        · exact (ih c hc).imp id fun h => by simp [h]

/-- A table whose keys rise keeps that when an entry is set. -/
theorem rising_tset {α : Type} (t : Tab α) (k : Nat) (v : α) (h : t.Pairwise fun x y => x.1 < y.1) :
    (tset t k v).Pairwise fun x y => x.1 < y.1 := by
  induction t with
  | nil => simp [tset]
  | cons e r ih =>
    obtain ⟨j, w⟩ := e
    obtain ⟨hj, hr⟩ := List.pairwise_cons.mp h
    simp only [tset]
    split
    · rename_i e
      subst e
      exact List.pairwise_cons.mpr ⟨hj, hr⟩
    · split
      · rename_i h1 h2
        refine List.pairwise_cons.mpr ⟨fun c hc => ?_, h⟩
        rcases List.mem_cons.mp hc with rfl | hc
        · exact h2
        · exact Nat.lt_trans h2 (hj c hc)
      · rename_i h1 h2
        refine List.pairwise_cons.mpr ⟨fun c hc => ?_, ih hr⟩
        rcases mem_tset r k v c hc with rfl | hc
        · show j < k
          omega
        · exact hj c hc

theorem wf_mset (m : Memory) (h : m.wf) (a : Nat) (v : Byte) : (mset m a v).wf := by
  unfold mset
  split
  · exact wf_filter m h _
  · rename_i hv
    refine ⟨rising_tset m a v h.1, fun c hc => ?_⟩
    rcases mem_tset m a v c hc with rfl | hc
    · exact hv
    · exact h.2 c hc

theorem wf_mwrite (bs : List Byte) : ∀ (m : Memory) (a : Nat), m.wf → (mwrite m a bs).wf := by
  induction bs with
  | nil => intro m a h; exact h
  | cons b bs ih => intro m a h; exact ih _ _ (wf_mset m h a b)

/-- A byte after a write: of the bytes written, or as before. -/
theorem mget_mwrite (bs : List Byte) : ∀ (m : Memory) (a b : Nat),
    mget (mwrite m a bs) b = if a ≤ b ∧ b < a + bs.length then bs.getD (b - a) 0 else mget m b := by
  induction bs with
  | nil => intro m a b; simp [mwrite, show ¬ (a ≤ b ∧ b < a) by omega]
  | cons x bs ih =>
    intro m a b
    simp only [mwrite, ih, mget_mset, List.length_cons]
    by_cases h1 : a + 1 ≤ b ∧ b < a + 1 + bs.length
    · have e : b - a = b - (a + 1) + 1 := by omega
      simp [h1, show a ≤ b ∧ b < a + (bs.length + 1) by omega, e]
    · by_cases h2 : a = b
      · subst h2; simp
      · rw [if_neg h1, if_neg h2, if_neg (by omega)]

theorem mget_mwrite_outside (m : Memory) (a b : Nat) (bs : List Byte) (ho : b < a ∨ a + bs.length ≤ b) :
    mget (mwrite m a bs) b = mget m b := by
  rw [mget_mwrite, if_neg (by omega)]

theorem length_leBytes : ∀ n v, (leBytes n v).length = n
  | 0, _ => rfl
  | n + 1, v => by simp [leBytes, length_leBytes n]

theorem leNat_leBytes : ∀ n v, leNat (leBytes n v) = v % 256 ^ n
  | 0, v => by simp [leBytes, leNat, Nat.mod_one]
  | n + 1, v => by
    have e : (BitVec.ofNat 8 v).toNat = v % 256 := BitVec.toNat_ofNat ..
    simp only [leBytes, leNat, leNat_leBytes n, e]
    rw [Nat.pow_succ', Nat.mod_mul]

/-- Reading back what a write has stored. -/
theorem mread_mwrite (m : Memory) (a : Nat) (bs : List Byte) : mread (mwrite m a bs) a bs.length = bs := by
  apply List.ext_getElem
  · simp [mread]
  · intro i h1 h2
    simp [mread, mget_mwrite, h2]

end Sys2Proof.Machine
end

