-- ==== Sys2Proof/Laws/State.lean ====
section
/-! SUPPORT. What each update of the state leaves in each field, and in each register of a strand. -/

namespace Sys2Proof.Machine

/-! ## State.updStrand -/

@[simp] theorem State.updStrand_mod (s : State) (u : Nat) (f : Strand → Strand) : (s.updStrand u f).mod = s.mod := rfl
@[simp] theorem State.updStrand_mem (s : State) (u : Nat) (f : Strand → Strand) : (s.updStrand u f).mem = s.mem := rfl
@[simp] theorem State.updStrand_home (s : State) (u : Nat) (f : Strand → Strand) : (s.updStrand u f).home = s.home := rfl
@[simp] theorem State.updStrand_fab (s : State) (u : Nat) (f : Strand → Strand) : (s.updStrand u f).fab = s.fab := rfl
@[simp] theorem State.updStrand_host (s : State) (u : Nat) (f : Strand → Strand) : (s.updStrand u f).host = s.host := rfl
@[simp] theorem State.updStrand_ctxs (s : State) (u : Nat) (f : Strand → Strand) : (s.updStrand u f).ctxs = s.ctxs := rfl
@[simp] theorem State.updStrand_grids (s : State) (u : Nat) (f : Strand → Strand) : (s.updStrand u f).grids = s.grids := rfl
@[simp] theorem State.updStrand_wgs (s : State) (u : Nat) (f : Strand → Strand) : (s.updStrand u f).wgs = s.wgs := rfl
@[simp] theorem State.updStrand_strands (s : State) (u : Nat) (f : Strand → Strand) : (s.updStrand u f).strands = tmod s.strands u f := rfl
@[simp] theorem State.updStrand_ops (s : State) (u : Nat) (f : Strand → Strand) : (s.updStrand u f).ops = s.ops := rfl
@[simp] theorem State.updStrand_copies (s : State) (u : Nat) (f : Strand → Strand) : (s.updStrand u f).copies = s.copies := rfl
@[simp] theorem State.updStrand_engines (s : State) (u : Nat) (f : Strand → Strand) : (s.updStrand u f).engines = s.engines := rfl
@[simp] theorem State.updStrand_bars (s : State) (u : Nat) (f : Strand → Strand) : (s.updStrand u f).bars = s.bars := rfl
@[simp] theorem State.updStrand_sched (s : State) (u : Nat) (f : Strand → Strand) : (s.updStrand u f).sched = s.sched := rfl
@[simp] theorem State.updStrand_cores (s : State) (u : Nat) (f : Strand → Strand) : (s.updStrand u f).cores = s.cores := rfl
@[simp] theorem State.updStrand_cur (s : State) (u : Nat) (f : Strand → Strand) : (s.updStrand u f).cur = s.cur := rfl
@[simp] theorem State.updStrand_issueQ (s : State) (u : Nat) (f : Strand → Strand) : (s.updStrand u f).issueQ = s.issueQ := rfl
@[simp] theorem State.updStrand_events (s : State) (u : Nat) (f : Strand → Strand) : (s.updStrand u f).events = s.events := rfl
@[simp] theorem State.updStrand_arg (s : State) (u : Nat) (f : Strand → Strand) : (s.updStrand u f).arg = s.arg := rfl
@[simp] theorem State.updStrand_next (s : State) (u : Nat) (f : Strand → Strand) : (s.updStrand u f).next = s.next := rfl

/-! ## State.updWg -/

@[simp] theorem State.updWg_mod (s : State) (k : Nat) (f : Wg → Wg) : (s.updWg k f).mod = s.mod := rfl
@[simp] theorem State.updWg_mem (s : State) (k : Nat) (f : Wg → Wg) : (s.updWg k f).mem = s.mem := rfl
@[simp] theorem State.updWg_home (s : State) (k : Nat) (f : Wg → Wg) : (s.updWg k f).home = s.home := rfl
@[simp] theorem State.updWg_fab (s : State) (k : Nat) (f : Wg → Wg) : (s.updWg k f).fab = s.fab := rfl
@[simp] theorem State.updWg_host (s : State) (k : Nat) (f : Wg → Wg) : (s.updWg k f).host = s.host := rfl
@[simp] theorem State.updWg_ctxs (s : State) (k : Nat) (f : Wg → Wg) : (s.updWg k f).ctxs = s.ctxs := rfl
@[simp] theorem State.updWg_grids (s : State) (k : Nat) (f : Wg → Wg) : (s.updWg k f).grids = s.grids := rfl
@[simp] theorem State.updWg_wgs (s : State) (k : Nat) (f : Wg → Wg) : (s.updWg k f).wgs = tmod s.wgs k f := rfl
@[simp] theorem State.updWg_strands (s : State) (k : Nat) (f : Wg → Wg) : (s.updWg k f).strands = s.strands := rfl
@[simp] theorem State.updWg_ops (s : State) (k : Nat) (f : Wg → Wg) : (s.updWg k f).ops = s.ops := rfl
@[simp] theorem State.updWg_copies (s : State) (k : Nat) (f : Wg → Wg) : (s.updWg k f).copies = s.copies := rfl
@[simp] theorem State.updWg_engines (s : State) (k : Nat) (f : Wg → Wg) : (s.updWg k f).engines = s.engines := rfl
@[simp] theorem State.updWg_bars (s : State) (k : Nat) (f : Wg → Wg) : (s.updWg k f).bars = s.bars := rfl
@[simp] theorem State.updWg_sched (s : State) (k : Nat) (f : Wg → Wg) : (s.updWg k f).sched = s.sched := rfl
@[simp] theorem State.updWg_cores (s : State) (k : Nat) (f : Wg → Wg) : (s.updWg k f).cores = s.cores := rfl
@[simp] theorem State.updWg_cur (s : State) (k : Nat) (f : Wg → Wg) : (s.updWg k f).cur = s.cur := rfl
@[simp] theorem State.updWg_issueQ (s : State) (k : Nat) (f : Wg → Wg) : (s.updWg k f).issueQ = s.issueQ := rfl
@[simp] theorem State.updWg_events (s : State) (k : Nat) (f : Wg → Wg) : (s.updWg k f).events = s.events := rfl
@[simp] theorem State.updWg_arg (s : State) (k : Nat) (f : Wg → Wg) : (s.updWg k f).arg = s.arg := rfl
@[simp] theorem State.updWg_next (s : State) (k : Nat) (f : Wg → Wg) : (s.updWg k f).next = s.next := rfl

/-! ## State.updGrid -/

@[simp] theorem State.updGrid_mod (s : State) (k : Nat) (f : Grid → Grid) : (s.updGrid k f).mod = s.mod := rfl
@[simp] theorem State.updGrid_mem (s : State) (k : Nat) (f : Grid → Grid) : (s.updGrid k f).mem = s.mem := rfl
@[simp] theorem State.updGrid_home (s : State) (k : Nat) (f : Grid → Grid) : (s.updGrid k f).home = s.home := rfl
@[simp] theorem State.updGrid_fab (s : State) (k : Nat) (f : Grid → Grid) : (s.updGrid k f).fab = s.fab := rfl
@[simp] theorem State.updGrid_host (s : State) (k : Nat) (f : Grid → Grid) : (s.updGrid k f).host = s.host := rfl
@[simp] theorem State.updGrid_ctxs (s : State) (k : Nat) (f : Grid → Grid) : (s.updGrid k f).ctxs = s.ctxs := rfl
@[simp] theorem State.updGrid_grids (s : State) (k : Nat) (f : Grid → Grid) : (s.updGrid k f).grids = tmod s.grids k f := rfl
@[simp] theorem State.updGrid_wgs (s : State) (k : Nat) (f : Grid → Grid) : (s.updGrid k f).wgs = s.wgs := rfl
@[simp] theorem State.updGrid_strands (s : State) (k : Nat) (f : Grid → Grid) : (s.updGrid k f).strands = s.strands := rfl
@[simp] theorem State.updGrid_ops (s : State) (k : Nat) (f : Grid → Grid) : (s.updGrid k f).ops = s.ops := rfl
@[simp] theorem State.updGrid_copies (s : State) (k : Nat) (f : Grid → Grid) : (s.updGrid k f).copies = s.copies := rfl
@[simp] theorem State.updGrid_engines (s : State) (k : Nat) (f : Grid → Grid) : (s.updGrid k f).engines = s.engines := rfl
@[simp] theorem State.updGrid_bars (s : State) (k : Nat) (f : Grid → Grid) : (s.updGrid k f).bars = s.bars := rfl
@[simp] theorem State.updGrid_sched (s : State) (k : Nat) (f : Grid → Grid) : (s.updGrid k f).sched = s.sched := rfl
@[simp] theorem State.updGrid_cores (s : State) (k : Nat) (f : Grid → Grid) : (s.updGrid k f).cores = s.cores := rfl
@[simp] theorem State.updGrid_cur (s : State) (k : Nat) (f : Grid → Grid) : (s.updGrid k f).cur = s.cur := rfl
@[simp] theorem State.updGrid_issueQ (s : State) (k : Nat) (f : Grid → Grid) : (s.updGrid k f).issueQ = s.issueQ := rfl
@[simp] theorem State.updGrid_events (s : State) (k : Nat) (f : Grid → Grid) : (s.updGrid k f).events = s.events := rfl
@[simp] theorem State.updGrid_arg (s : State) (k : Nat) (f : Grid → Grid) : (s.updGrid k f).arg = s.arg := rfl
@[simp] theorem State.updGrid_next (s : State) (k : Nat) (f : Grid → Grid) : (s.updGrid k f).next = s.next := rfl

/-! ## State.updCtx -/

@[simp] theorem State.updCtx_mod (s : State) (k : Nat) (f : Ctx → Ctx) : (s.updCtx k f).mod = s.mod := rfl
@[simp] theorem State.updCtx_mem (s : State) (k : Nat) (f : Ctx → Ctx) : (s.updCtx k f).mem = s.mem := rfl
@[simp] theorem State.updCtx_home (s : State) (k : Nat) (f : Ctx → Ctx) : (s.updCtx k f).home = s.home := rfl
@[simp] theorem State.updCtx_fab (s : State) (k : Nat) (f : Ctx → Ctx) : (s.updCtx k f).fab = s.fab := rfl
@[simp] theorem State.updCtx_host (s : State) (k : Nat) (f : Ctx → Ctx) : (s.updCtx k f).host = s.host := rfl
@[simp] theorem State.updCtx_ctxs (s : State) (k : Nat) (f : Ctx → Ctx) : (s.updCtx k f).ctxs = tmod s.ctxs k f := rfl
@[simp] theorem State.updCtx_grids (s : State) (k : Nat) (f : Ctx → Ctx) : (s.updCtx k f).grids = s.grids := rfl
@[simp] theorem State.updCtx_wgs (s : State) (k : Nat) (f : Ctx → Ctx) : (s.updCtx k f).wgs = s.wgs := rfl
@[simp] theorem State.updCtx_strands (s : State) (k : Nat) (f : Ctx → Ctx) : (s.updCtx k f).strands = s.strands := rfl
@[simp] theorem State.updCtx_ops (s : State) (k : Nat) (f : Ctx → Ctx) : (s.updCtx k f).ops = s.ops := rfl
@[simp] theorem State.updCtx_copies (s : State) (k : Nat) (f : Ctx → Ctx) : (s.updCtx k f).copies = s.copies := rfl
@[simp] theorem State.updCtx_engines (s : State) (k : Nat) (f : Ctx → Ctx) : (s.updCtx k f).engines = s.engines := rfl
@[simp] theorem State.updCtx_bars (s : State) (k : Nat) (f : Ctx → Ctx) : (s.updCtx k f).bars = s.bars := rfl
@[simp] theorem State.updCtx_sched (s : State) (k : Nat) (f : Ctx → Ctx) : (s.updCtx k f).sched = s.sched := rfl
@[simp] theorem State.updCtx_cores (s : State) (k : Nat) (f : Ctx → Ctx) : (s.updCtx k f).cores = s.cores := rfl
@[simp] theorem State.updCtx_cur (s : State) (k : Nat) (f : Ctx → Ctx) : (s.updCtx k f).cur = s.cur := rfl
@[simp] theorem State.updCtx_issueQ (s : State) (k : Nat) (f : Ctx → Ctx) : (s.updCtx k f).issueQ = s.issueQ := rfl
@[simp] theorem State.updCtx_events (s : State) (k : Nat) (f : Ctx → Ctx) : (s.updCtx k f).events = s.events := rfl
@[simp] theorem State.updCtx_arg (s : State) (k : Nat) (f : Ctx → Ctx) : (s.updCtx k f).arg = s.arg := rfl
@[simp] theorem State.updCtx_next (s : State) (k : Nat) (f : Ctx → Ctx) : (s.updCtx k f).next = s.next := rfl

/-! ## State.updCore -/

@[simp] theorem State.updCore_mod (s : State) (k : Nat) (f : Core → Core) : (s.updCore k f).mod = s.mod := rfl
@[simp] theorem State.updCore_mem (s : State) (k : Nat) (f : Core → Core) : (s.updCore k f).mem = s.mem := rfl
@[simp] theorem State.updCore_home (s : State) (k : Nat) (f : Core → Core) : (s.updCore k f).home = s.home := rfl
@[simp] theorem State.updCore_fab (s : State) (k : Nat) (f : Core → Core) : (s.updCore k f).fab = s.fab := rfl
@[simp] theorem State.updCore_host (s : State) (k : Nat) (f : Core → Core) : (s.updCore k f).host = s.host := rfl
@[simp] theorem State.updCore_ctxs (s : State) (k : Nat) (f : Core → Core) : (s.updCore k f).ctxs = s.ctxs := rfl
@[simp] theorem State.updCore_grids (s : State) (k : Nat) (f : Core → Core) : (s.updCore k f).grids = s.grids := rfl
@[simp] theorem State.updCore_wgs (s : State) (k : Nat) (f : Core → Core) : (s.updCore k f).wgs = s.wgs := rfl
@[simp] theorem State.updCore_strands (s : State) (k : Nat) (f : Core → Core) : (s.updCore k f).strands = s.strands := rfl
@[simp] theorem State.updCore_ops (s : State) (k : Nat) (f : Core → Core) : (s.updCore k f).ops = s.ops := rfl
@[simp] theorem State.updCore_copies (s : State) (k : Nat) (f : Core → Core) : (s.updCore k f).copies = s.copies := rfl
@[simp] theorem State.updCore_engines (s : State) (k : Nat) (f : Core → Core) : (s.updCore k f).engines = s.engines := rfl
@[simp] theorem State.updCore_bars (s : State) (k : Nat) (f : Core → Core) : (s.updCore k f).bars = s.bars := rfl
@[simp] theorem State.updCore_sched (s : State) (k : Nat) (f : Core → Core) : (s.updCore k f).sched = s.sched := rfl
@[simp] theorem State.updCore_cores (s : State) (k : Nat) (f : Core → Core) : (s.updCore k f).cores = tset s.cores k (f (tget s.cores k coreReset)) := rfl
@[simp] theorem State.updCore_cur (s : State) (k : Nat) (f : Core → Core) : (s.updCore k f).cur = s.cur := rfl
@[simp] theorem State.updCore_issueQ (s : State) (k : Nat) (f : Core → Core) : (s.updCore k f).issueQ = s.issueQ := rfl
@[simp] theorem State.updCore_events (s : State) (k : Nat) (f : Core → Core) : (s.updCore k f).events = s.events := rfl
@[simp] theorem State.updCore_arg (s : State) (k : Nat) (f : Core → Core) : (s.updCore k f).arg = s.arg := rfl
@[simp] theorem State.updCore_next (s : State) (k : Nat) (f : Core → Core) : (s.updCore k f).next = s.next := rfl

/-! ## State.setMod -/

@[simp] theorem State.setMod_mod (s : State) (f : Module → Module) : (s.setMod f).mod = f s.mod := rfl
@[simp] theorem State.setMod_mem (s : State) (f : Module → Module) : (s.setMod f).mem = s.mem := rfl
@[simp] theorem State.setMod_home (s : State) (f : Module → Module) : (s.setMod f).home = s.home := rfl
@[simp] theorem State.setMod_fab (s : State) (f : Module → Module) : (s.setMod f).fab = s.fab := rfl
@[simp] theorem State.setMod_host (s : State) (f : Module → Module) : (s.setMod f).host = s.host := rfl
@[simp] theorem State.setMod_ctxs (s : State) (f : Module → Module) : (s.setMod f).ctxs = s.ctxs := rfl
@[simp] theorem State.setMod_grids (s : State) (f : Module → Module) : (s.setMod f).grids = s.grids := rfl
@[simp] theorem State.setMod_wgs (s : State) (f : Module → Module) : (s.setMod f).wgs = s.wgs := rfl
@[simp] theorem State.setMod_strands (s : State) (f : Module → Module) : (s.setMod f).strands = s.strands := rfl
@[simp] theorem State.setMod_ops (s : State) (f : Module → Module) : (s.setMod f).ops = s.ops := rfl
@[simp] theorem State.setMod_copies (s : State) (f : Module → Module) : (s.setMod f).copies = s.copies := rfl
@[simp] theorem State.setMod_engines (s : State) (f : Module → Module) : (s.setMod f).engines = s.engines := rfl
@[simp] theorem State.setMod_bars (s : State) (f : Module → Module) : (s.setMod f).bars = s.bars := rfl
@[simp] theorem State.setMod_sched (s : State) (f : Module → Module) : (s.setMod f).sched = s.sched := rfl
@[simp] theorem State.setMod_cores (s : State) (f : Module → Module) : (s.setMod f).cores = s.cores := rfl
@[simp] theorem State.setMod_cur (s : State) (f : Module → Module) : (s.setMod f).cur = s.cur := rfl
@[simp] theorem State.setMod_issueQ (s : State) (f : Module → Module) : (s.setMod f).issueQ = s.issueQ := rfl
@[simp] theorem State.setMod_events (s : State) (f : Module → Module) : (s.setMod f).events = s.events := rfl
@[simp] theorem State.setMod_arg (s : State) (f : Module → Module) : (s.setMod f).arg = s.arg := rfl
@[simp] theorem State.setMod_next (s : State) (f : Module → Module) : (s.setMod f).next = s.next := rfl

/-! ## State.setHost -/

@[simp] theorem State.setHost_mod (s : State) (f : HostIf → HostIf) : (s.setHost f).mod = s.mod := rfl
@[simp] theorem State.setHost_mem (s : State) (f : HostIf → HostIf) : (s.setHost f).mem = s.mem := rfl
@[simp] theorem State.setHost_home (s : State) (f : HostIf → HostIf) : (s.setHost f).home = s.home := rfl
@[simp] theorem State.setHost_fab (s : State) (f : HostIf → HostIf) : (s.setHost f).fab = s.fab := rfl
@[simp] theorem State.setHost_host (s : State) (f : HostIf → HostIf) : (s.setHost f).host = f s.host := rfl
@[simp] theorem State.setHost_ctxs (s : State) (f : HostIf → HostIf) : (s.setHost f).ctxs = s.ctxs := rfl
@[simp] theorem State.setHost_grids (s : State) (f : HostIf → HostIf) : (s.setHost f).grids = s.grids := rfl
@[simp] theorem State.setHost_wgs (s : State) (f : HostIf → HostIf) : (s.setHost f).wgs = s.wgs := rfl
@[simp] theorem State.setHost_strands (s : State) (f : HostIf → HostIf) : (s.setHost f).strands = s.strands := rfl
@[simp] theorem State.setHost_ops (s : State) (f : HostIf → HostIf) : (s.setHost f).ops = s.ops := rfl
@[simp] theorem State.setHost_copies (s : State) (f : HostIf → HostIf) : (s.setHost f).copies = s.copies := rfl
@[simp] theorem State.setHost_engines (s : State) (f : HostIf → HostIf) : (s.setHost f).engines = s.engines := rfl
@[simp] theorem State.setHost_bars (s : State) (f : HostIf → HostIf) : (s.setHost f).bars = s.bars := rfl
@[simp] theorem State.setHost_sched (s : State) (f : HostIf → HostIf) : (s.setHost f).sched = s.sched := rfl
@[simp] theorem State.setHost_cores (s : State) (f : HostIf → HostIf) : (s.setHost f).cores = s.cores := rfl
@[simp] theorem State.setHost_cur (s : State) (f : HostIf → HostIf) : (s.setHost f).cur = s.cur := rfl
@[simp] theorem State.setHost_issueQ (s : State) (f : HostIf → HostIf) : (s.setHost f).issueQ = s.issueQ := rfl
@[simp] theorem State.setHost_events (s : State) (f : HostIf → HostIf) : (s.setHost f).events = s.events := rfl
@[simp] theorem State.setHost_arg (s : State) (f : HostIf → HostIf) : (s.setHost f).arg = s.arg := rfl
@[simp] theorem State.setHost_next (s : State) (f : HostIf → HostIf) : (s.setHost f).next = s.next := rfl

/-! ## State.setFab -/

@[simp] theorem State.setFab_mod (s : State) (f : Fabric → Fabric) : (s.setFab f).mod = s.mod := rfl
@[simp] theorem State.setFab_mem (s : State) (f : Fabric → Fabric) : (s.setFab f).mem = s.mem := rfl
@[simp] theorem State.setFab_home (s : State) (f : Fabric → Fabric) : (s.setFab f).home = s.home := rfl
@[simp] theorem State.setFab_fab (s : State) (f : Fabric → Fabric) : (s.setFab f).fab = f s.fab := rfl
@[simp] theorem State.setFab_host (s : State) (f : Fabric → Fabric) : (s.setFab f).host = s.host := rfl
@[simp] theorem State.setFab_ctxs (s : State) (f : Fabric → Fabric) : (s.setFab f).ctxs = s.ctxs := rfl
@[simp] theorem State.setFab_grids (s : State) (f : Fabric → Fabric) : (s.setFab f).grids = s.grids := rfl
@[simp] theorem State.setFab_wgs (s : State) (f : Fabric → Fabric) : (s.setFab f).wgs = s.wgs := rfl
@[simp] theorem State.setFab_strands (s : State) (f : Fabric → Fabric) : (s.setFab f).strands = s.strands := rfl
@[simp] theorem State.setFab_ops (s : State) (f : Fabric → Fabric) : (s.setFab f).ops = s.ops := rfl
@[simp] theorem State.setFab_copies (s : State) (f : Fabric → Fabric) : (s.setFab f).copies = s.copies := rfl
@[simp] theorem State.setFab_engines (s : State) (f : Fabric → Fabric) : (s.setFab f).engines = s.engines := rfl
@[simp] theorem State.setFab_bars (s : State) (f : Fabric → Fabric) : (s.setFab f).bars = s.bars := rfl
@[simp] theorem State.setFab_sched (s : State) (f : Fabric → Fabric) : (s.setFab f).sched = s.sched := rfl
@[simp] theorem State.setFab_cores (s : State) (f : Fabric → Fabric) : (s.setFab f).cores = s.cores := rfl
@[simp] theorem State.setFab_cur (s : State) (f : Fabric → Fabric) : (s.setFab f).cur = s.cur := rfl
@[simp] theorem State.setFab_issueQ (s : State) (f : Fabric → Fabric) : (s.setFab f).issueQ = s.issueQ := rfl
@[simp] theorem State.setFab_events (s : State) (f : Fabric → Fabric) : (s.setFab f).events = s.events := rfl
@[simp] theorem State.setFab_arg (s : State) (f : Fabric → Fabric) : (s.setFab f).arg = s.arg := rfl
@[simp] theorem State.setFab_next (s : State) (f : Fabric → Fabric) : (s.setFab f).next = s.next := rfl

/-! ## State.setSched -/

@[simp] theorem State.setSched_mod (s : State) (f : Sched → Sched) : (s.setSched f).mod = s.mod := rfl
@[simp] theorem State.setSched_mem (s : State) (f : Sched → Sched) : (s.setSched f).mem = s.mem := rfl
@[simp] theorem State.setSched_home (s : State) (f : Sched → Sched) : (s.setSched f).home = s.home := rfl
@[simp] theorem State.setSched_fab (s : State) (f : Sched → Sched) : (s.setSched f).fab = s.fab := rfl
@[simp] theorem State.setSched_host (s : State) (f : Sched → Sched) : (s.setSched f).host = s.host := rfl
@[simp] theorem State.setSched_ctxs (s : State) (f : Sched → Sched) : (s.setSched f).ctxs = s.ctxs := rfl
@[simp] theorem State.setSched_grids (s : State) (f : Sched → Sched) : (s.setSched f).grids = s.grids := rfl
@[simp] theorem State.setSched_wgs (s : State) (f : Sched → Sched) : (s.setSched f).wgs = s.wgs := rfl
@[simp] theorem State.setSched_strands (s : State) (f : Sched → Sched) : (s.setSched f).strands = s.strands := rfl
@[simp] theorem State.setSched_ops (s : State) (f : Sched → Sched) : (s.setSched f).ops = s.ops := rfl
@[simp] theorem State.setSched_copies (s : State) (f : Sched → Sched) : (s.setSched f).copies = s.copies := rfl
@[simp] theorem State.setSched_engines (s : State) (f : Sched → Sched) : (s.setSched f).engines = s.engines := rfl
@[simp] theorem State.setSched_bars (s : State) (f : Sched → Sched) : (s.setSched f).bars = s.bars := rfl
@[simp] theorem State.setSched_sched (s : State) (f : Sched → Sched) : (s.setSched f).sched = f s.sched := rfl
@[simp] theorem State.setSched_cores (s : State) (f : Sched → Sched) : (s.setSched f).cores = s.cores := rfl
@[simp] theorem State.setSched_cur (s : State) (f : Sched → Sched) : (s.setSched f).cur = s.cur := rfl
@[simp] theorem State.setSched_issueQ (s : State) (f : Sched → Sched) : (s.setSched f).issueQ = s.issueQ := rfl
@[simp] theorem State.setSched_events (s : State) (f : Sched → Sched) : (s.setSched f).events = s.events := rfl
@[simp] theorem State.setSched_arg (s : State) (f : Sched → Sched) : (s.setSched f).arg = s.arg := rfl
@[simp] theorem State.setSched_next (s : State) (f : Sched → Sched) : (s.setSched f).next = s.next := rfl

/-! ## State.setHome -/

@[simp] theorem State.setHome_mod (s : State) (f : Home → Home) : (s.setHome f).mod = s.mod := rfl
@[simp] theorem State.setHome_mem (s : State) (f : Home → Home) : (s.setHome f).mem = s.mem := rfl
@[simp] theorem State.setHome_home (s : State) (f : Home → Home) : (s.setHome f).home = f s.home := rfl
@[simp] theorem State.setHome_fab (s : State) (f : Home → Home) : (s.setHome f).fab = s.fab := rfl
@[simp] theorem State.setHome_host (s : State) (f : Home → Home) : (s.setHome f).host = s.host := rfl
@[simp] theorem State.setHome_ctxs (s : State) (f : Home → Home) : (s.setHome f).ctxs = s.ctxs := rfl
@[simp] theorem State.setHome_grids (s : State) (f : Home → Home) : (s.setHome f).grids = s.grids := rfl
@[simp] theorem State.setHome_wgs (s : State) (f : Home → Home) : (s.setHome f).wgs = s.wgs := rfl
@[simp] theorem State.setHome_strands (s : State) (f : Home → Home) : (s.setHome f).strands = s.strands := rfl
@[simp] theorem State.setHome_ops (s : State) (f : Home → Home) : (s.setHome f).ops = s.ops := rfl
@[simp] theorem State.setHome_copies (s : State) (f : Home → Home) : (s.setHome f).copies = s.copies := rfl
@[simp] theorem State.setHome_engines (s : State) (f : Home → Home) : (s.setHome f).engines = s.engines := rfl
@[simp] theorem State.setHome_bars (s : State) (f : Home → Home) : (s.setHome f).bars = s.bars := rfl
@[simp] theorem State.setHome_sched (s : State) (f : Home → Home) : (s.setHome f).sched = s.sched := rfl
@[simp] theorem State.setHome_cores (s : State) (f : Home → Home) : (s.setHome f).cores = s.cores := rfl
@[simp] theorem State.setHome_cur (s : State) (f : Home → Home) : (s.setHome f).cur = s.cur := rfl
@[simp] theorem State.setHome_issueQ (s : State) (f : Home → Home) : (s.setHome f).issueQ = s.issueQ := rfl
@[simp] theorem State.setHome_events (s : State) (f : Home → Home) : (s.setHome f).events = s.events := rfl
@[simp] theorem State.setHome_arg (s : State) (f : Home → Home) : (s.setHome f).arg = s.arg := rfl
@[simp] theorem State.setHome_next (s : State) (f : Home → Home) : (s.setHome f).next = s.next := rfl

/-! ## State.fresh -/

@[simp] theorem State.fresh_mod (s : State) : (s.fresh).mod = s.mod := rfl
@[simp] theorem State.fresh_mem (s : State) : (s.fresh).mem = s.mem := rfl
@[simp] theorem State.fresh_home (s : State) : (s.fresh).home = s.home := rfl
@[simp] theorem State.fresh_fab (s : State) : (s.fresh).fab = s.fab := rfl
@[simp] theorem State.fresh_host (s : State) : (s.fresh).host = s.host := rfl
@[simp] theorem State.fresh_ctxs (s : State) : (s.fresh).ctxs = s.ctxs := rfl
@[simp] theorem State.fresh_grids (s : State) : (s.fresh).grids = s.grids := rfl
@[simp] theorem State.fresh_wgs (s : State) : (s.fresh).wgs = s.wgs := rfl
@[simp] theorem State.fresh_strands (s : State) : (s.fresh).strands = s.strands := rfl
@[simp] theorem State.fresh_ops (s : State) : (s.fresh).ops = s.ops := rfl
@[simp] theorem State.fresh_copies (s : State) : (s.fresh).copies = s.copies := rfl
@[simp] theorem State.fresh_engines (s : State) : (s.fresh).engines = s.engines := rfl
@[simp] theorem State.fresh_bars (s : State) : (s.fresh).bars = s.bars := rfl
@[simp] theorem State.fresh_sched (s : State) : (s.fresh).sched = s.sched := rfl
@[simp] theorem State.fresh_cores (s : State) : (s.fresh).cores = s.cores := rfl
@[simp] theorem State.fresh_cur (s : State) : (s.fresh).cur = s.cur := rfl
@[simp] theorem State.fresh_issueQ (s : State) : (s.fresh).issueQ = s.issueQ := rfl
@[simp] theorem State.fresh_events (s : State) : (s.fresh).events = s.events := rfl
@[simp] theorem State.fresh_arg (s : State) : (s.fresh).arg = s.arg := rfl
@[simp] theorem State.fresh_next (s : State) : (s.fresh).next = s.next + 1 := rfl

/-! ## Strand.setS -/

@[simp] theorem Strand.setS_wg (x : Strand) (r : Nat) (v : Word) : (x.setS r v).wg = x.wg := rfl
@[simp] theorem Strand.setS_core (x : Strand) (r : Nat) (v : Word) : (x.setS r v).core = x.core := rfl
@[simp] theorem Strand.setS_slot (x : Strand) (r : Nat) (v : Word) : (x.setS r v).slot = x.slot := rfl
@[simp] theorem Strand.setS_borrowed (x : Strand) (r : Nat) (v : Word) : (x.setS r v).borrowed = x.borrowed := rfl
@[simp] theorem Strand.setS_split (x : Strand) (r : Nat) (v : Word) : (x.setS r v).split = x.split := rfl
@[simp] theorem Strand.setS_parkedOut (x : Strand) (r : Nat) (v : Word) : (x.setS r v).parkedOut = x.parkedOut := rfl
@[simp] theorem Strand.setS_kind (x : Strand) (r : Nat) (v : Word) : (x.setS r v).kind = x.kind := rfl
@[simp] theorem Strand.setS_forms (x : Strand) (r : Nat) (v : Word) : (x.setS r v).forms = x.forms := rfl
@[simp] theorem Strand.setS_runs (x : Strand) (r : Nat) (v : Word) : (x.setS r v).runs = x.runs := rfl
@[simp] theorem Strand.setS_masks (x : Strand) (r : Nat) (v : Word) : (x.setS r v).masks = x.masks := rfl
@[simp] theorem Strand.setS_s (x : Strand) (r : Nat) (v : Word) : (x.setS r v).s = tset x.s r v := rfl
@[simp] theorem Strand.setS_pc (x : Strand) (r : Nat) (v : Word) : (x.setS r v).pc = x.pc := rfl
@[simp] theorem Strand.setS_clause (x : Strand) (r : Nat) (v : Word) : (x.setS r v).clause = x.clause := rfl
@[simp] theorem Strand.setS_div (x : Strand) (r : Nat) (v : Word) : (x.setS r v).div = x.div := rfl
@[simp] theorem Strand.setS_ret (x : Strand) (r : Nat) (v : Word) : (x.setS r v).ret = x.ret := rfl
@[simp] theorem Strand.setS_frames (x : Strand) (r : Nat) (v : Word) : (x.setS r v).frames = x.frames := rfl
@[simp] theorem Strand.setS_route (x : Strand) (r : Nat) (v : Word) : (x.setS r v).route = x.route := rfl
@[simp] theorem Strand.setS_tile (x : Strand) (r : Nat) (v : Word) : (x.setS r v).tile = x.tile := rfl
@[simp] theorem Strand.setS_mode (x : Strand) (r : Nat) (v : Word) : (x.setS r v).mode = x.mode := rfl
@[simp] theorem Strand.setS_sticky (x : Strand) (r : Nat) (v : Word) : (x.setS r v).sticky = x.sticky := rfl
@[simp] theorem Strand.setS_arrivals (x : Strand) (r : Nat) (v : Word) : (x.setS r v).arrivals = x.arrivals := rfl
@[simp] theorem Strand.setS_gaveWay (x : Strand) (r : Nat) (v : Word) : (x.setS r v).gaveWay = x.gaveWay := rfl
@[simp] theorem Strand.setS_doneLanes (x : Strand) (r : Nat) (v : Word) : (x.setS r v).doneLanes = x.doneLanes := rfl
@[simp] theorem Strand.setS_doneCount (x : Strand) (r : Nat) (v : Word) : (x.setS r v).doneCount = x.doneCount := rfl
@[simp] theorem Strand.setS_asBarw (x : Strand) (r : Nat) (v : Word) : (x.setS r v).asBarw = x.asBarw := rfl
@[simp] theorem Strand.setS_caps (x : Strand) (r : Nat) (v : Word) : (x.setS r v).caps = x.caps := rfl
@[simp] theorem Strand.setS_async (x : Strand) (r : Nat) (v : Word) : (x.setS r v).async = x.async := rfl
@[simp] theorem Strand.setS_block (x : Strand) (r : Nat) (v : Word) : (x.setS r v).block = x.block := rfl
@[simp] theorem Strand.setS_waitTick (x : Strand) (r : Nat) (v : Word) : (x.setS r v).waitTick = x.waitTick := rfl
@[simp] theorem Strand.setS_yieldUntil (x : Strand) (r : Nat) (v : Word) : (x.setS r v).yieldUntil = x.yieldUntil := rfl
@[simp] theorem Strand.setS_lastIssue (x : Strand) (r : Nat) (v : Word) : (x.setS r v).lastIssue = x.lastIssue := rfl
@[simp] theorem Strand.setS_issueTick (x : Strand) (r : Nat) (v : Word) : (x.setS r v).issueTick = x.issueTick := rfl
@[simp] theorem Strand.setS_placed (x : Strand) (r : Nat) (v : Word) : (x.setS r v).placed = x.placed := rfl

/-! ## Strand.setD -/

@[simp] theorem Strand.setD_wg (x : Strand) (r : Nat) (v : DWord) : (x.setD r v).wg = x.wg := rfl
@[simp] theorem Strand.setD_core (x : Strand) (r : Nat) (v : DWord) : (x.setD r v).core = x.core := rfl
@[simp] theorem Strand.setD_slot (x : Strand) (r : Nat) (v : DWord) : (x.setD r v).slot = x.slot := rfl
@[simp] theorem Strand.setD_borrowed (x : Strand) (r : Nat) (v : DWord) : (x.setD r v).borrowed = x.borrowed := rfl
@[simp] theorem Strand.setD_split (x : Strand) (r : Nat) (v : DWord) : (x.setD r v).split = x.split := rfl
@[simp] theorem Strand.setD_parkedOut (x : Strand) (r : Nat) (v : DWord) : (x.setD r v).parkedOut = x.parkedOut := rfl
@[simp] theorem Strand.setD_kind (x : Strand) (r : Nat) (v : DWord) : (x.setD r v).kind = x.kind := rfl
@[simp] theorem Strand.setD_forms (x : Strand) (r : Nat) (v : DWord) : (x.setD r v).forms = x.forms := rfl
@[simp] theorem Strand.setD_runs (x : Strand) (r : Nat) (v : DWord) : (x.setD r v).runs = x.runs := rfl
@[simp] theorem Strand.setD_masks (x : Strand) (r : Nat) (v : DWord) : (x.setD r v).masks = x.masks := rfl
@[simp] theorem Strand.setD_pc (x : Strand) (r : Nat) (v : DWord) : (x.setD r v).pc = x.pc := rfl
@[simp] theorem Strand.setD_clause (x : Strand) (r : Nat) (v : DWord) : (x.setD r v).clause = x.clause := rfl
@[simp] theorem Strand.setD_div (x : Strand) (r : Nat) (v : DWord) : (x.setD r v).div = x.div := rfl
@[simp] theorem Strand.setD_ret (x : Strand) (r : Nat) (v : DWord) : (x.setD r v).ret = x.ret := rfl
@[simp] theorem Strand.setD_frames (x : Strand) (r : Nat) (v : DWord) : (x.setD r v).frames = x.frames := rfl
@[simp] theorem Strand.setD_route (x : Strand) (r : Nat) (v : DWord) : (x.setD r v).route = x.route := rfl
@[simp] theorem Strand.setD_tile (x : Strand) (r : Nat) (v : DWord) : (x.setD r v).tile = x.tile := rfl
@[simp] theorem Strand.setD_mode (x : Strand) (r : Nat) (v : DWord) : (x.setD r v).mode = x.mode := rfl
@[simp] theorem Strand.setD_sticky (x : Strand) (r : Nat) (v : DWord) : (x.setD r v).sticky = x.sticky := rfl
@[simp] theorem Strand.setD_arrivals (x : Strand) (r : Nat) (v : DWord) : (x.setD r v).arrivals = x.arrivals := rfl
@[simp] theorem Strand.setD_gaveWay (x : Strand) (r : Nat) (v : DWord) : (x.setD r v).gaveWay = x.gaveWay := rfl
@[simp] theorem Strand.setD_doneLanes (x : Strand) (r : Nat) (v : DWord) : (x.setD r v).doneLanes = x.doneLanes := rfl
@[simp] theorem Strand.setD_doneCount (x : Strand) (r : Nat) (v : DWord) : (x.setD r v).doneCount = x.doneCount := rfl
@[simp] theorem Strand.setD_asBarw (x : Strand) (r : Nat) (v : DWord) : (x.setD r v).asBarw = x.asBarw := rfl
@[simp] theorem Strand.setD_caps (x : Strand) (r : Nat) (v : DWord) : (x.setD r v).caps = x.caps := rfl
@[simp] theorem Strand.setD_async (x : Strand) (r : Nat) (v : DWord) : (x.setD r v).async = x.async := rfl
@[simp] theorem Strand.setD_block (x : Strand) (r : Nat) (v : DWord) : (x.setD r v).block = x.block := rfl
@[simp] theorem Strand.setD_waitTick (x : Strand) (r : Nat) (v : DWord) : (x.setD r v).waitTick = x.waitTick := rfl
@[simp] theorem Strand.setD_yieldUntil (x : Strand) (r : Nat) (v : DWord) : (x.setD r v).yieldUntil = x.yieldUntil := rfl
@[simp] theorem Strand.setD_lastIssue (x : Strand) (r : Nat) (v : DWord) : (x.setD r v).lastIssue = x.lastIssue := rfl
@[simp] theorem Strand.setD_issueTick (x : Strand) (r : Nat) (v : DWord) : (x.setD r v).issueTick = x.issueTick := rfl
@[simp] theorem Strand.setD_placed (x : Strand) (r : Nat) (v : DWord) : (x.setD r v).placed = x.placed := rfl

/-! ## Strand.issued -/

@[simp] theorem Strand.issued_wg (x : Strand) (clock tick : Nat) : (x.issued clock tick).wg = x.wg := rfl
@[simp] theorem Strand.issued_core (x : Strand) (clock tick : Nat) : (x.issued clock tick).core = x.core := rfl
@[simp] theorem Strand.issued_slot (x : Strand) (clock tick : Nat) : (x.issued clock tick).slot = x.slot := rfl
@[simp] theorem Strand.issued_borrowed (x : Strand) (clock tick : Nat) : (x.issued clock tick).borrowed = x.borrowed := rfl
@[simp] theorem Strand.issued_split (x : Strand) (clock tick : Nat) : (x.issued clock tick).split = x.split := rfl
@[simp] theorem Strand.issued_parkedOut (x : Strand) (clock tick : Nat) : (x.issued clock tick).parkedOut = x.parkedOut := rfl
@[simp] theorem Strand.issued_kind (x : Strand) (clock tick : Nat) : (x.issued clock tick).kind = x.kind := rfl
@[simp] theorem Strand.issued_forms (x : Strand) (clock tick : Nat) : (x.issued clock tick).forms = x.forms := rfl
@[simp] theorem Strand.issued_runs (x : Strand) (clock tick : Nat) : (x.issued clock tick).runs = x.runs := rfl
@[simp] theorem Strand.issued_masks (x : Strand) (clock tick : Nat) : (x.issued clock tick).masks = x.masks := rfl
@[simp] theorem Strand.issued_s (x : Strand) (clock tick : Nat) : (x.issued clock tick).s = x.s := rfl
@[simp] theorem Strand.issued_pc (x : Strand) (clock tick : Nat) : (x.issued clock tick).pc = x.pc := rfl
@[simp] theorem Strand.issued_clause (x : Strand) (clock tick : Nat) : (x.issued clock tick).clause = x.clause.map fun c => { c with started := true } := rfl
@[simp] theorem Strand.issued_div (x : Strand) (clock tick : Nat) : (x.issued clock tick).div = x.div := rfl
@[simp] theorem Strand.issued_ret (x : Strand) (clock tick : Nat) : (x.issued clock tick).ret = x.ret := rfl
@[simp] theorem Strand.issued_frames (x : Strand) (clock tick : Nat) : (x.issued clock tick).frames = x.frames := rfl
@[simp] theorem Strand.issued_route (x : Strand) (clock tick : Nat) : (x.issued clock tick).route = x.route := rfl
@[simp] theorem Strand.issued_tile (x : Strand) (clock tick : Nat) : (x.issued clock tick).tile = x.tile := rfl
@[simp] theorem Strand.issued_mode (x : Strand) (clock tick : Nat) : (x.issued clock tick).mode = x.mode := rfl
@[simp] theorem Strand.issued_sticky (x : Strand) (clock tick : Nat) : (x.issued clock tick).sticky = x.sticky := rfl
@[simp] theorem Strand.issued_arrivals (x : Strand) (clock tick : Nat) : (x.issued clock tick).arrivals = x.arrivals := rfl
@[simp] theorem Strand.issued_gaveWay (x : Strand) (clock tick : Nat) : (x.issued clock tick).gaveWay = x.gaveWay := rfl
@[simp] theorem Strand.issued_doneLanes (x : Strand) (clock tick : Nat) : (x.issued clock tick).doneLanes = x.doneLanes := rfl
@[simp] theorem Strand.issued_doneCount (x : Strand) (clock tick : Nat) : (x.issued clock tick).doneCount = x.doneCount := rfl
@[simp] theorem Strand.issued_asBarw (x : Strand) (clock tick : Nat) : (x.issued clock tick).asBarw = x.asBarw := rfl
@[simp] theorem Strand.issued_caps (x : Strand) (clock tick : Nat) : (x.issued clock tick).caps = x.caps.map fun c => { c with icount := c.icount + 1 } := rfl
@[simp] theorem Strand.issued_async (x : Strand) (clock tick : Nat) : (x.issued clock tick).async = x.async := rfl
@[simp] theorem Strand.issued_block (x : Strand) (clock tick : Nat) : (x.issued clock tick).block = x.block := rfl
@[simp] theorem Strand.issued_waitTick (x : Strand) (clock tick : Nat) : (x.issued clock tick).waitTick = x.waitTick := rfl
@[simp] theorem Strand.issued_yieldUntil (x : Strand) (clock tick : Nat) : (x.issued clock tick).yieldUntil = x.yieldUntil := rfl
@[simp] theorem Strand.issued_lastIssue (x : Strand) (clock tick : Nat) : (x.issued clock tick).lastIssue = clock := rfl
@[simp] theorem Strand.issued_issueTick (x : Strand) (clock tick : Nat) : (x.issued clock tick).issueTick = tick := rfl
@[simp] theorem Strand.issued_placed (x : Strand) (clock tick : Nat) : (x.issued clock tick).placed = x.placed := rfl

/-! ## Strand.goTo and Strand.jump -/

@[simp] theorem Strand.goTo_wg (x : Strand) (pc : DWord) (clock : Nat) : (x.goTo pc clock).wg = x.wg := by
  unfold Strand.goTo
  split
  · split <;> rfl
  · rfl
@[simp] theorem Strand.goTo_core (x : Strand) (pc : DWord) (clock : Nat) : (x.goTo pc clock).core = x.core := by
  unfold Strand.goTo
  split
  · split <;> rfl
  · rfl
@[simp] theorem Strand.goTo_slot (x : Strand) (pc : DWord) (clock : Nat) : (x.goTo pc clock).slot = x.slot := by
  unfold Strand.goTo
  split
  · split <;> rfl
  · rfl
@[simp] theorem Strand.goTo_borrowed (x : Strand) (pc : DWord) (clock : Nat) : (x.goTo pc clock).borrowed = x.borrowed := by
  unfold Strand.goTo
  split
  · split <;> rfl
  · rfl
@[simp] theorem Strand.goTo_split (x : Strand) (pc : DWord) (clock : Nat) : (x.goTo pc clock).split = x.split := by
  unfold Strand.goTo
  split
  · split <;> rfl
  · rfl
@[simp] theorem Strand.goTo_parkedOut (x : Strand) (pc : DWord) (clock : Nat) : (x.goTo pc clock).parkedOut = x.parkedOut := by
  unfold Strand.goTo
  split
  · split <;> rfl
  · rfl
@[simp] theorem Strand.goTo_kind (x : Strand) (pc : DWord) (clock : Nat) : (x.goTo pc clock).kind = x.kind := by
  unfold Strand.goTo
  split
  · split <;> rfl
  · rfl
@[simp] theorem Strand.goTo_forms (x : Strand) (pc : DWord) (clock : Nat) : (x.goTo pc clock).forms = x.forms := by
  unfold Strand.goTo
  split
  · split <;> rfl
  · rfl
@[simp] theorem Strand.goTo_runs (x : Strand) (pc : DWord) (clock : Nat) : (x.goTo pc clock).runs = x.runs := by
  unfold Strand.goTo
  split
  · split <;> rfl
  · rfl
@[simp] theorem Strand.goTo_masks (x : Strand) (pc : DWord) (clock : Nat) : (x.goTo pc clock).masks = x.masks := by
  unfold Strand.goTo
  split
  · split <;> rfl
  · rfl
@[simp] theorem Strand.goTo_s (x : Strand) (pc : DWord) (clock : Nat) : (x.goTo pc clock).s = x.s := by
  unfold Strand.goTo
  split
  · split <;> rfl
  · rfl
@[simp] theorem Strand.goTo_pc (x : Strand) (pc : DWord) (clock : Nat) : (x.goTo pc clock).pc = pc := by
  unfold Strand.goTo
  split
  · split <;> rfl
  · rfl
@[simp] theorem Strand.goTo_div (x : Strand) (pc : DWord) (clock : Nat) : (x.goTo pc clock).div = x.div := by
  unfold Strand.goTo
  split
  · split <;> rfl
  · rfl
@[simp] theorem Strand.goTo_ret (x : Strand) (pc : DWord) (clock : Nat) : (x.goTo pc clock).ret = x.ret := by
  unfold Strand.goTo
  split
  · split <;> rfl
  · rfl
@[simp] theorem Strand.goTo_frames (x : Strand) (pc : DWord) (clock : Nat) : (x.goTo pc clock).frames = x.frames := by
  unfold Strand.goTo
  split
  · split <;> rfl
  · rfl
@[simp] theorem Strand.goTo_route (x : Strand) (pc : DWord) (clock : Nat) : (x.goTo pc clock).route = x.route := by
  unfold Strand.goTo
  split
  · split <;> rfl
  · rfl
@[simp] theorem Strand.goTo_tile (x : Strand) (pc : DWord) (clock : Nat) : (x.goTo pc clock).tile = x.tile := by
  unfold Strand.goTo
  split
  · split <;> rfl
  · rfl
@[simp] theorem Strand.goTo_mode (x : Strand) (pc : DWord) (clock : Nat) : (x.goTo pc clock).mode = x.mode := by
  unfold Strand.goTo
  split
  · split <;> rfl
  · rfl
@[simp] theorem Strand.goTo_sticky (x : Strand) (pc : DWord) (clock : Nat) : (x.goTo pc clock).sticky = x.sticky := by
  unfold Strand.goTo
  split
  · split <;> rfl
  · rfl
@[simp] theorem Strand.goTo_arrivals (x : Strand) (pc : DWord) (clock : Nat) : (x.goTo pc clock).arrivals = x.arrivals := by
  unfold Strand.goTo
  split
  · split <;> rfl
  · rfl
@[simp] theorem Strand.goTo_gaveWay (x : Strand) (pc : DWord) (clock : Nat) : (x.goTo pc clock).gaveWay = x.gaveWay := by
  unfold Strand.goTo
  split
  · split <;> rfl
  · rfl
@[simp] theorem Strand.goTo_doneLanes (x : Strand) (pc : DWord) (clock : Nat) : (x.goTo pc clock).doneLanes = 0 := by
  unfold Strand.goTo
  split
  · split <;> rfl
  · rfl
@[simp] theorem Strand.goTo_doneCount (x : Strand) (pc : DWord) (clock : Nat) : (x.goTo pc clock).doneCount = 0 := by
  unfold Strand.goTo
  split
  · split <;> rfl
  · rfl
@[simp] theorem Strand.goTo_asBarw (x : Strand) (pc : DWord) (clock : Nat) : (x.goTo pc clock).asBarw = false := by
  unfold Strand.goTo
  split
  · split <;> rfl
  · rfl
@[simp] theorem Strand.goTo_caps (x : Strand) (pc : DWord) (clock : Nat) : (x.goTo pc clock).caps = x.caps := by
  unfold Strand.goTo
  split
  · split <;> rfl
  · rfl
@[simp] theorem Strand.goTo_async (x : Strand) (pc : DWord) (clock : Nat) : (x.goTo pc clock).async = x.async := by
  unfold Strand.goTo
  split
  · split <;> rfl
  · rfl
@[simp] theorem Strand.goTo_block (x : Strand) (pc : DWord) (clock : Nat) : (x.goTo pc clock).block = Block.none := by
  unfold Strand.goTo
  split
  · split <;> rfl
  · rfl
@[simp] theorem Strand.goTo_waitTick (x : Strand) (pc : DWord) (clock : Nat) : (x.goTo pc clock).waitTick = x.waitTick := by
  unfold Strand.goTo
  split
  · split <;> rfl
  · rfl
@[simp] theorem Strand.goTo_lastIssue (x : Strand) (pc : DWord) (clock : Nat) : (x.goTo pc clock).lastIssue = x.lastIssue := by
  unfold Strand.goTo
  split
  · split <;> rfl
  · rfl
@[simp] theorem Strand.goTo_issueTick (x : Strand) (pc : DWord) (clock : Nat) : (x.goTo pc clock).issueTick = x.issueTick := by
  unfold Strand.goTo
  split
  · split <;> rfl
  · rfl
@[simp] theorem Strand.goTo_placed (x : Strand) (pc : DWord) (clock : Nat) : (x.goTo pc clock).placed = x.placed := by
  unfold Strand.goTo
  split
  · split <;> rfl
  · rfl
@[simp] theorem Strand.jump_wg (x : Strand) (pc : DWord) (clock : Nat) : (x.jump pc clock).wg = x.wg := rfl
@[simp] theorem Strand.jump_core (x : Strand) (pc : DWord) (clock : Nat) : (x.jump pc clock).core = x.core := rfl
@[simp] theorem Strand.jump_slot (x : Strand) (pc : DWord) (clock : Nat) : (x.jump pc clock).slot = x.slot := rfl
@[simp] theorem Strand.jump_borrowed (x : Strand) (pc : DWord) (clock : Nat) : (x.jump pc clock).borrowed = x.borrowed := rfl
@[simp] theorem Strand.jump_split (x : Strand) (pc : DWord) (clock : Nat) : (x.jump pc clock).split = x.split := rfl
@[simp] theorem Strand.jump_parkedOut (x : Strand) (pc : DWord) (clock : Nat) : (x.jump pc clock).parkedOut = x.parkedOut := rfl
@[simp] theorem Strand.jump_kind (x : Strand) (pc : DWord) (clock : Nat) : (x.jump pc clock).kind = x.kind := rfl
@[simp] theorem Strand.jump_forms (x : Strand) (pc : DWord) (clock : Nat) : (x.jump pc clock).forms = x.forms := rfl
@[simp] theorem Strand.jump_runs (x : Strand) (pc : DWord) (clock : Nat) : (x.jump pc clock).runs = x.runs := rfl
@[simp] theorem Strand.jump_masks (x : Strand) (pc : DWord) (clock : Nat) : (x.jump pc clock).masks = x.masks := rfl
@[simp] theorem Strand.jump_s (x : Strand) (pc : DWord) (clock : Nat) : (x.jump pc clock).s = x.s := rfl
@[simp] theorem Strand.jump_pc (x : Strand) (pc : DWord) (clock : Nat) : (x.jump pc clock).pc = pc := rfl
@[simp] theorem Strand.jump_clause (x : Strand) (pc : DWord) (clock : Nat) : (x.jump pc clock).clause = none := rfl
@[simp] theorem Strand.jump_div (x : Strand) (pc : DWord) (clock : Nat) : (x.jump pc clock).div = x.div := rfl
@[simp] theorem Strand.jump_ret (x : Strand) (pc : DWord) (clock : Nat) : (x.jump pc clock).ret = x.ret := rfl
@[simp] theorem Strand.jump_frames (x : Strand) (pc : DWord) (clock : Nat) : (x.jump pc clock).frames = x.frames := rfl
@[simp] theorem Strand.jump_route (x : Strand) (pc : DWord) (clock : Nat) : (x.jump pc clock).route = x.route := rfl
@[simp] theorem Strand.jump_tile (x : Strand) (pc : DWord) (clock : Nat) : (x.jump pc clock).tile = x.tile := rfl
@[simp] theorem Strand.jump_mode (x : Strand) (pc : DWord) (clock : Nat) : (x.jump pc clock).mode = x.mode := rfl
@[simp] theorem Strand.jump_sticky (x : Strand) (pc : DWord) (clock : Nat) : (x.jump pc clock).sticky = x.sticky := rfl
@[simp] theorem Strand.jump_arrivals (x : Strand) (pc : DWord) (clock : Nat) : (x.jump pc clock).arrivals = x.arrivals := rfl
@[simp] theorem Strand.jump_gaveWay (x : Strand) (pc : DWord) (clock : Nat) : (x.jump pc clock).gaveWay = x.gaveWay := rfl
@[simp] theorem Strand.jump_doneLanes (x : Strand) (pc : DWord) (clock : Nat) : (x.jump pc clock).doneLanes = 0 := rfl
@[simp] theorem Strand.jump_doneCount (x : Strand) (pc : DWord) (clock : Nat) : (x.jump pc clock).doneCount = 0 := rfl
@[simp] theorem Strand.jump_asBarw (x : Strand) (pc : DWord) (clock : Nat) : (x.jump pc clock).asBarw = false := rfl
@[simp] theorem Strand.jump_caps (x : Strand) (pc : DWord) (clock : Nat) : (x.jump pc clock).caps = x.caps := rfl
@[simp] theorem Strand.jump_async (x : Strand) (pc : DWord) (clock : Nat) : (x.jump pc clock).async = x.async := rfl
@[simp] theorem Strand.jump_block (x : Strand) (pc : DWord) (clock : Nat) : (x.jump pc clock).block = Block.none := rfl
@[simp] theorem Strand.jump_waitTick (x : Strand) (pc : DWord) (clock : Nat) : (x.jump pc clock).waitTick = x.waitTick := rfl
@[simp] theorem Strand.jump_lastIssue (x : Strand) (pc : DWord) (clock : Nat) : (x.jump pc clock).lastIssue = x.lastIssue := rfl
@[simp] theorem Strand.jump_issueTick (x : Strand) (pc : DWord) (clock : Nat) : (x.jump pc clock).issueTick = x.issueTick := rfl
@[simp] theorem Strand.jump_placed (x : Strand) (pc : DWord) (clock : Nat) : (x.jump pc clock).placed = x.placed := rfl

/-! ## Registers -/

theorem Strand.sreg_setS (x : Strand) (r k : Nat) (v : Word) : (x.setS r v).sreg k = if r = k then v else x.sreg k := by
  unfold Strand.sreg
  simp only [Strand.setS_s]
  cases h : tfind x.s k <;> by_cases e : r = k <;> simp [tget, tfind_tset, h, e]

theorem Strand.sreg_setD (x : Strand) (r k : Nat) (v : DWord) :
    (x.setD r v).sreg k = if k = r then v.extractLsb' 0 32 else if k = r + 1 then v.extractLsb' 32 32 else x.sreg k := by
  unfold Strand.setD
  rw [Strand.sreg_setS, Strand.sreg_setS]
  by_cases h : k = r
  · simp [h]
  · by_cases h' : k = r + 1
    · simp [h']
    · rw [if_neg (fun e => h' e.symm), if_neg (fun e => h e.symm), if_neg h, if_neg h']

theorem Strand.dreg_setD (x : Strand) (r : Nat) (v : DWord) : (x.setD r v).dreg r = v := by
  unfold Strand.dreg
  rw [Strand.sreg_setD, Strand.sreg_setD]
  simp only [Nat.succ_ne_self, if_true, if_false]
  apply BitVec.eq_of_getLsbD_eq
  intro i hi
  rw [BitVec.getLsbD_append]
  by_cases h : i < 32
  · simp [h]
  · simp [h, show i - 32 < 32 by omega, show 32 + (i - 32) = i by omega]

theorem Wg.lane_setLane (g : Wg) (w r j : Nat) (v : Word) (w' r' j' : Nat) (hj : j < 32) (hj' : j' < 32) :
    (g.setLane w r j v).lane w' r' j' =
      if w' = w ∧ r' = r ∧ j' = j ∧ (tfind g.warps w).isSome then v else g.lane w' r' j' := by
  unfold Wg.setLane Wg.lane
  simp only [tfind_tmod]
  by_cases hw : w' = w
  · subst hw
    cases h : tfind g.warps w' with
    | none => simp
    | some x =>
      simp only [if_true, Option.map_some, tget, tfind_tset, Option.isSome_some, and_true]
      by_cases e : r' = r ∧ j' = j
      · obtain ⟨rfl, rfl⟩ := e
        simp
      · rw [if_neg (by omega), if_neg (by simpa using fun a => by omega)]
  · simp [hw]

@[simp] theorem Wg.setLane_warps_isSome (g : Wg) (w r j : Nat) (v : Word) (k : Nat) :
    (tfind (g.setLane w r j v).warps k).isSome = (tfind g.warps k).isSome := by
  unfold Wg.setLane
  simp only [tfind_tmod]
  split <;> simp

end Sys2Proof.Machine
end

