-- ==== Sys2Proof/Laws/Issue.lean ====
section
/-! SUPPORT. What the shared operations of the instruction families answer: each once. -/

namespace Sys2Proof.Machine

/-! ## Issue -/

/-- An instruction that passes the gate acts in the state where its strand has issued. -/
theorem issue_pass {i : Instr} {uses : Strand → List Use} {excess : State → Strand → Option Nat}
    {body : State → Issue → Strand → State} {s : State} {c : Issue} {st : Strand} (hc : s.cur = some c)
    (hs : tfind s.strands c.uid = some st) (hg : s.gate c st i (uses st) (excess s st) = none) :
    issue i uses excess body s = .next (body (s.begun c) c (s.at_ st)).ended := by
  simp only [issue, hc, hs, hg]
  rfl

/-- An instruction that the gate stops takes its trap. -/
theorem issue_trap {i : Instr} {uses : Strand → List Use} {excess : State → Strand → Option Nat}
    {body : State → Issue → Strand → State} {s : State} {c : Issue} {st : Strand} {k a : Nat} (hc : s.cur = some c)
    (hs : tfind s.strands c.uid = some st) (hg : s.gate c st i (uses st) (excess s st) = some (k, a)) :
    issue i uses excess body s =
      .next { s.takeTrap c.uid { cls := k, addr := BitVec.ofNat 64 a, pc := some c.pc } with cur := none } := by
  simp only [issue, hc, hs, hg]

/-- Everything `issue` can answer. -/
theorem issue_cases (i : Instr) (uses : Strand → List Use) (excess : State → Strand → Option Nat)
    (body : State → Issue → Strand → State) (s : State) :
    issue i uses excess body s = .fault .noIssuer ∨
    (∃ c st k a, s.cur = some c ∧ tfind s.strands c.uid = some st ∧ s.gate c st i (uses st) (excess s st) = some (k, a) ∧
      issue i uses excess body s =
        .next { s.takeTrap c.uid { cls := k, addr := BitVec.ofNat 64 a, pc := some c.pc } with cur := none }) ∨
    (∃ c st, s.cur = some c ∧ tfind s.strands c.uid = some st ∧ s.gate c st i (uses st) (excess s st) = none ∧
      issue i uses excess body s = .next (body (s.begun c) c (s.at_ st)).ended) := by
  cases hc : s.cur with
  | none => left; simp only [issue, hc]
  | some c =>
    cases hs : tfind s.strands c.uid with
    | none => left; simp only [issue, hc, hs]
    | some st =>
      cases hg : s.gate c st i (uses st) (excess s st) with
      | none => exact .inr (.inr ⟨c, st, rfl, hs, hg, issue_pass hc hs hg⟩)
      | some p =>
        obtain ⟨k, a⟩ := p
        exact .inr (.inl ⟨c, st, k, a, rfl, hs, hg, issue_trap hc hs hg⟩)

/-! ## The strand under way -/

@[simp] theorem State.begun_find (s : State) (c : Issue) : tfind (s.begun c).strands c.uid = (tfind s.strands c.uid).map s.at_ :=
  tfind_tmod_same s.strands c.uid fun x => x.issued s.mod.clock s.mod.tick.toNat

@[simp] theorem State.begun_mem (s : State) (c : Issue) : (s.begun c).mem = s.mem := rfl
@[simp] theorem State.begun_mod (s : State) (c : Issue) : (s.begun c).mod = s.mod := rfl
@[simp] theorem State.begun_wgs (s : State) (c : Issue) : (s.begun c).wgs = s.wgs := rfl
@[simp] theorem State.begun_grids (s : State) (c : Issue) : (s.begun c).grids = s.grids := rfl
@[simp] theorem State.begun_ctxs (s : State) (c : Issue) : (s.begun c).ctxs = s.ctxs := rfl
@[simp] theorem State.begun_ops (s : State) (c : Issue) : (s.begun c).ops = s.ops := rfl
@[simp] theorem State.begun_home (s : State) (c : Issue) : (s.begun c).home = s.home := rfl
@[simp] theorem State.begun_wgOf (s : State) (c : Issue) (k : Nat) : (s.begun c).wgOf k = s.wgOf k := rfl
@[simp] theorem State.begun_env (s : State) (c : Issue) (st : Strand) : (s.begun c).env st = s.env st := rfl
@[simp] theorem State.begun_vreg (s : State) (c : Issue) (st : Strand) (r j : Nat) : (s.begun c).vreg st r j = s.vreg st r j := rfl
@[simp] theorem State.at_vreg (s : State) (st : Strand) (r j : Nat) : s.vreg (s.at_ st) r j = s.vreg st r j := rfl
@[simp] theorem State.at_env (s : State) (st : Strand) : s.env (s.at_ st) = s.env st := rfl
@[simp] theorem State.at_sreg (s : State) (st : Strand) (r : Nat) : (s.at_ st).sreg r = st.sreg r := rfl
@[simp] theorem State.at_dreg (s : State) (st : Strand) (r : Nat) : (s.at_ st).dreg r = st.dreg r := rfl
@[simp] theorem State.at_mode (s : State) (st : Strand) : (s.at_ st).mode = st.mode := rfl
@[simp] theorem State.at_kind (s : State) (st : Strand) : (s.at_ st).kind = st.kind := rfl

/-- An update of the strand followed by its retirement, in one. -/
theorem State.retire_begun (s : State) (c : Issue) (i : Instr) (f : Strand → Strand) :
    (((s.begun c).updStrand c.uid f).retire c i).ended = s.stepped c i f := by
  unfold State.retire State.begun State.updStrand State.ended State.stepped
  simp only [tmod_tmod]
  rfl

/-- A retirement alone. -/
theorem State.retire_only (s : State) (c : Issue) (i : Instr) : ((s.begun c).retire c i).ended = s.stepped c i id := by
  unfold State.retire State.begun State.updStrand State.ended State.stepped
  simp only [tmod_tmod]
  rfl

@[simp] theorem State.stepped_mem (s : State) (c : Issue) (i : Instr) (f : Strand → Strand) : (s.stepped c i f).mem = s.mem := rfl
@[simp] theorem State.stepped_home (s : State) (c : Issue) (i : Instr) (f : Strand → Strand) : (s.stepped c i f).home = s.home := rfl
@[simp] theorem State.stepped_wgs (s : State) (c : Issue) (i : Instr) (f : Strand → Strand) : (s.stepped c i f).wgs = s.wgs := rfl

theorem State.stepped_find (s : State) (c : Issue) (i : Instr) (f : Strand → Strand) :
    tfind (s.stepped c i f).strands c.uid =
      (tfind s.strands c.uid).map fun x => (f (s.at_ x)).goTo (c.nextPc i) s.mod.clock :=
  tfind_tmod_same s.strands c.uid fun x => (f (s.at_ x)).goTo (c.nextPc i) s.mod.clock

theorem State.stepped_find_other (s : State) (c : Issue) (i : Instr) (f : Strand → Strand) (u : Nat) (h : u ≠ c.uid) :
    tfind (s.stepped c i f).strands u = tfind s.strands u :=
  tfind_tmod_other s.strands c.uid u (fun x => (f (s.at_ x)).goTo (c.nextPc i) s.mod.clock) h

/-! ## Uniform ALU instructions (R332) -/

/-- A uniform instruction whose events trap nothing writes its result and its events. -/
theorem uniformOp_pass {i : Instr} {uses : List Use} {f : Env → Issue → Strand → (Strand → Strand) × Ev} {s : State}
    {c : Issue} {st : Strand} (h : s.Issues c st i uses) (ht : trapsOn st.mode (f (s.env st) c (s.at_ st)).2 = false) :
    uniformOp i uses f s = .next (s.stepped c i fun x =>
      { (f (s.env st) c (s.at_ st)).1 x with sticky := ((f (s.env st) c (s.at_ st)).1 x).sticky ||| (f (s.env st) c (s.at_ st)).2 }) := by
  unfold uniformOp
  rw [issue_pass h.1 h.2.1 h.2.2]
  simp only [State.begun_env, State.at_env, State.at_mode, ht]
  congr 1
  show (State.retire (State.addEvents ((s.begun c).updStrand c.uid _) c.uid _) c i).ended = _
  unfold State.addEvents
  rw [← State.retire_begun]
  unfold State.updStrand State.begun
  simp only [tmod_tmod]

/-- A uniform instruction without events. -/
theorem uniformOp_quiet {i : Instr} {uses : List Use} {f : Env → Issue → Strand → (Strand → Strand) × Ev} {s : State}
    {c : Issue} {st : Strand} (h : s.Issues c st i uses) (he : (f (s.env st) c (s.at_ st)).2 = 0) :
    uniformOp i uses f s = .next (s.stepped c i (f (s.env st) c (s.at_ st)).1) := by
  rw [uniformOp_pass h (by rw [he]; unfold trapsOn; simp), he]
  congr 2
  funext x
  simp

end Sys2Proof.Machine
end

