-- ==== Sys2Proof/Laws/Lanes.lean ====
section
/-! SUPPORT. Writes of vector registers lane by lane, and what the elementwise operation answers. -/

namespace Sys2Proof.Machine

/-! ## Lanes of a mask -/

theorem mem_lanesOf (m : BitVec 32) (j : Nat) : j ∈ lanesOf m ↔ j < 32 ∧ m.getLsbD j = true := by
  simp [lanesOf, List.mem_filter]

theorem nodup_lanesOf (m : BitVec 32) : (lanesOf m).Nodup := List.Nodup.filter _ List.nodup_range

/-! ## Lists of lane writes -/

theorem Wg.foldl_setLane_warps (vals : List (Nat × Word)) (w r k : Nat) :
    ∀ g : Wg, (tfind (vals.foldl (fun g x => g.setLane w r x.1 x.2) g).warps k).map (·.blocks) = (tfind g.warps k).map (·.blocks) := by
  induction vals with
  | nil => intro g; rfl
  | cons e l ih =>
    intro g
    rw [List.foldl_cons, ih]
    unfold Wg.setLane
    rw [tfind_tmod]
    split
    · cases tfind g.warps k <;> rfl
    · rfl

theorem Wg.foldl_setLane_rest (vals : List (Nat × Word)) (w r : Nat) :
    ∀ g : Wg, { vals.foldl (fun g x => g.setLane w r x.1 x.2) g with warps := [] } = { g with warps := [] } := by
  induction vals with
  | nil => intro g; rfl
  | cons e l ih => intro g; rw [List.foldl_cons, ih]; rfl

theorem Wg.foldl_setLane_lane (vals : List (Nat × Word)) (w r : Nat) (hv : ∀ x ∈ vals, x.1 < 32) (hn : (vals.map (·.1)).Nodup) :
    ∀ (g : Wg) (w' r' j : Nat), j < 32 → (vals.foldl (fun g x => g.setLane w r x.1 x.2) g).lane w' r' j =
      if w' = w ∧ r' = r ∧ (tfind g.warps w).isSome then ((vals.find? fun x => x.1 == j).map (·.2)).getD (g.lane w' r' j)
      else g.lane w' r' j := by
  induction vals with
  | nil => intro g w' r' j _; simp
  | cons e l ih =>
    intro g w' r' j hj
    have hn' := List.nodup_cons.mp hn
    rw [List.foldl_cons, ih (fun x hx => hv x (by simp [hx])) hn'.2 _ w' r' j hj, Wg.setLane_warps_isSome,
      Wg.lane_setLane _ _ _ _ _ _ _ _ (hv e (by simp)) hj]
    by_cases h : w' = w ∧ r' = r ∧ (tfind g.warps w).isSome
    · rw [if_pos h, if_pos h]
      by_cases he : e.1 = j
      · subst he
        have : l.find? (fun x => x.1 == e.1) = none := by
          rw [List.find?_eq_none]
          intro x hx hxe
          exact hn'.1 (List.mem_map.mpr ⟨x, hx, by simpa using hxe⟩)
        simp [this, h]
      · have : ¬ j = e.1 := fun a => he a.symm
        simp [he, this]
    · rw [if_neg h, if_neg h, if_neg (fun a => h ⟨a.1, a.2.1, a.2.2.2⟩)]

theorem find_map_lanes (m : BitVec 32) (v : Nat → Word) (j : Nat) (hj : j < 32) :
    (((lanesOf m).map fun k => (k, v k)).find? fun x => x.1 == j).map (·.2) = if m.getLsbD j then some (v j) else none := by
  rw [List.find?_map]
  cases h : (lanesOf m).find? ((fun x : Nat × Word => x.1 == j) ∘ fun k => (k, v k)) with
  | none =>
    have := List.find?_eq_none.mp h
    by_cases hm : m.getLsbD j = true
    · exact absurd (by simp) (this j ((mem_lanesOf m j).mpr ⟨hj, hm⟩))
    · simp [hm]
  | some k =>
    have hk : k = j := by simpa using List.find?_some h
    have hm := (mem_lanesOf m k).mp (List.mem_of_find?_eq_some h)
    subst hk
    simp [hm.2]

/-- A warp whose registers an instruction may name is listed. -/
theorem warp_of_overreach {s : State} {st : Strand} {w : Nat} {m : BitVec 32} {r : Nat} {uses : List Use}
    (hk : st.kind = .lane w m) (hu : (1, r) ∈ uses) (ho : s.overreach st uses = none) :
    (tfind (s.wgOf st.wg).warps w).isSome := by
  unfold State.overreach at ho
  rw [Option.map_eq_none_iff, List.find?_eq_none] at ho
  have h := ho _ hu
  unfold State.blocks at h
  rw [hk] at h
  cases e : tfind (s.wgOf st.wg).warps w with
  | none => simp [e] at h
  | some x => rfl

/-- Nothing stops an instruction that passes the gate. -/
theorem gate_none {s : State} {c : Issue} {st : Strand} {i : Instr} {uses : List Use} {ex : Option Nat}
    (h : s.gate c st i uses ex = none) :
    i.wf = true ∧ st.clauseBreach c i = false ∧ s.overreach st uses = none ∧ ex = none ∧ s.hazard c.uid st uses = none ∧
      st.capsBreach i uses = false := by
  unfold State.gate at h
  split at h
  · cases h
  · rename_i h1
    split at h
    · cases h
    · rename_i h2
      split at h
      · cases h
      · rename_i h3
        split at h
        · cases h
        · rename_i h4
          simp at h1 h2 h3 h4
          exact ⟨h1.1.1.1, h1.1.1.2, h2.1, h2.2, h3.1, h4⟩

/-- The state after lane writes, the strand's events and its retirement. -/
def State.lanesPut (s : State) (c : Issue) (st : Strand) (i : Instr) (r : Nat) (vals : List (Nat × Word)) (ev : Ev) : State :=
  { s.stepped c i (fun x => { x with sticky := x.sticky ||| ev }) with
    wgs := tmod s.wgs st.wg fun g => vals.foldl (fun g x => g.setLane st.warp r x.1 x.2) g }

theorem lanesPut_wgs (s : State) (c : Issue) (st : Strand) (i : Instr) (r : Nat) (vals : List (Nat × Word)) (ev : Ev) :
    (s.lanesPut c st i r vals ev).wgs = tmod s.wgs st.wg fun g => vals.foldl (fun g x => g.setLane st.warp r x.1 x.2) g := rfl

theorem lanesPut_eq (s : State) (c : Issue) (st : Strand) (i : Instr) (r : Nat) (vals : List (Nat × Word)) (ev : Ev) :
    ((((s.begun c).writeLanes (s.at_ st) r vals).addEvents c.uid ev).retire c i).ended = s.lanesPut c st i r vals ev := by
  unfold State.retire State.addEvents State.writeLanes State.updStrand State.updWg State.ended State.lanesPut State.stepped
    State.begun State.updStrand
  simp only [tmod_tmod]
  rfl

theorem Strand.sticky_or_zero (x : Strand) : { x with sticky := x.sticky ||| 0 } = x := by
  rw [show x.sticky ||| (0 : BitVec 7) = x.sticky from BitVec.or_zero]

theorem lanesPut_quiet (s : State) (c : Issue) (st : Strand) (i : Instr) (r : Nat) (vals : List (Nat × Word)) :
    (((s.begun c).writeLanes (s.at_ st) r vals).retire c i).ended = s.lanesPut c st i r vals 0 := by
  unfold State.retire State.writeLanes State.updStrand State.updWg State.ended State.lanesPut State.stepped
    State.begun State.updStrand
  simp only [tmod_tmod, Strand.sticky_or_zero]
  rfl

/-- What lane writes leave, read back. -/
theorem lanesPut_written (s : State) (c : Issue) (st : Strand) (i : Instr) (r : Nat) (vals : List (Nat × Word)) (ev : Ev)
    (hv : ∀ x ∈ vals, x.1 < 32) (hn : (vals.map (·.1)).Nodup) (hw : (tfind (s.wgOf st.wg).warps st.warp).isSome) :
    s.LanesWritten (s.lanesPut c st i r vals ev) c st i r (fun j => (vals.find? fun x => x.1 == j).map (·.2)) ev := by
  have hwg : (s.lanesPut c st i r vals ev).wgOf st.wg =
      vals.foldl (fun g x => g.setLane st.warp r x.1 x.2) (s.wgOf st.wg) := by
    unfold State.wgOf at hw ⊢
    unfold tget at hw ⊢
    unfold State.lanesPut
    rw [tfind_tmod_same]
    cases h : tfind s.wgs st.wg with
    | none => simp [h, wgStart, tfind] at hw
    | some g => rfl
  refine ⟨rfl, fun k hk => ?_, ?_, fun w => ?_, fun w q j hj => ?_⟩
  · rw [lanesPut_wgs]
    exact tfind_tmod_other _ _ _ _ hk
  · rw [hwg]
    exact Wg.foldl_setLane_rest ..
  · rw [hwg]
    exact Wg.foldl_setLane_warps ..
  · rw [hwg, Wg.foldl_setLane_lane vals st.warp r hv hn _ _ _ _ hj]
    by_cases h : w = st.warp ∧ q = r
    · rw [if_pos ⟨h.1, h.2, hw⟩, if_pos h]
    · rw [if_neg (fun a => h ⟨a.1, a.2.1⟩), if_neg h]

/-- The same where each lane of a mask takes a value. -/
theorem lanesPut_mask (s : State) (c : Issue) (st : Strand) (i : Instr) (r : Nat) (m : BitVec 32) (v : Nat → Word) (ev : Ev)
    (hw : (tfind (s.wgOf st.wg).warps st.warp).isSome) :
    s.LanesWritten (s.lanesPut c st i r ((lanesOf m).map fun j => (j, v j)) ev) c st i r
      (fun j => if m.getLsbD j then some (v j) else none) ev := by
  obtain ⟨e1, e2, e3, e4, e5⟩ := lanesPut_written s c st i r ((lanesOf m).map fun j => (j, v j)) ev
    (by
      intro x hx
      obtain ⟨j, hj, rfl⟩ := List.mem_map.mp hx
      exact ((mem_lanesOf _ _).mp hj).1)
    (by
      rw [List.map_map]
      exact (List.map_id' (lanesOf m)).symm ▸ nodup_lanesOf m) hw
  refine ⟨e1, e2, e3, e4, fun w q j hj => ?_⟩
  rw [e5 w q j hj]
  simp only [find_map_lanes _ _ _ hj]

/-! ## The elementwise instruction (R229) -/

/-- Results of lanes none of which traps are written (R174, R229). -/
theorem commitLanes_pass (s : State) (c : Issue) (st : Strand) (i : Instr) (vd : BitVec 6) (l : List Nat) (F : Nat → Word × Ev)
    (ht : ∀ j ∈ l, trapsOn st.mode (F j).2 = false) :
    ((s.begun c).commitLanes c (s.at_ st) i vd (l.map fun j => (j, F j))).ended =
      s.lanesPut c st i vd.toNat (l.map fun j => (j, (F j).1)) (l.foldl (fun e j => e ||| (F j).2) 0) := by
  have hb : ((l.map fun j => (j, F j)).filter fun r => trapsOn (s.at_ st).mode r.2.2) = [] := by
    rw [List.filter_eq_nil_iff]
    intro x hx
    obtain ⟨j, hj, rfl⟩ := List.mem_map.mp hx
    simpa using ht j hj
  have hev : ∀ (l : List Nat) (e : Ev), (l.map fun j => (j, F j)).foldl (fun e r => e ||| r.2.2) e =
      l.foldl (fun e j => e ||| (F j).2) e := by
    intro l
    induction l with
    | nil => intro e; rfl
    | cons a l ih => intro e; exact ih _
  unfold State.commitLanes
  simp only [hb, List.isEmpty_nil, if_true, hev, List.map_map]
  exact lanesPut_eq ..

theorem begun_src (s : State) (c : Issue) (st : Strand) (act : BitVec 32) (r k j : Nat) :
    (s.begun c).src (s.at_ st) act r k j = s.src st act r k j := rfl

theorem at_active (s : State) (st : Strand) (k : Nat) : (s.at_ st).active k = st.active k := rfl

/-- An elementwise instruction on a lane strand, where no event traps. -/
theorem elementwise_lane {i : Instr} {vd : BitVec 6} {srcs : List Src} {form : List Form → Option Form}
    {f : Env → List Word → Word × Ev} {s : State} {c : Issue} {st : Strand} {w : Nat} {m : BitVec 32}
    (h : s.Issues c st i (useV vd ++ srcs.flatMap fun x => st.useSrc x.1 x.2)) (hk : st.kind = .lane w m)
    (ht : ∀ j < 32, (st.active c.pred.toNat).getLsbD j →
      trapsOn st.mode (f (s.env st) (srcs.map fun x => s.src st (st.active c.pred.toNat) x.1.toNat x.2 j)).2 = false) :
    ∃ t, elementwise i vd srcs form f s = .next t ∧
      s.LanesWritten t c st i vd.toNat
        (fun j => if (st.active c.pred.toNat).getLsbD j then
          some (f (s.env st) (srcs.map fun x => s.src st (st.active c.pred.toNat) x.1.toNat x.2 j)).1 else none)
        ((lanesOf (st.active c.pred.toNat)).foldl (fun e j =>
          e ||| (f (s.env st) (srcs.map fun x => s.src st (st.active c.pred.toNat) x.1.toNat x.2 j)).2) 0) := by
  have hw := warp_of_overreach (r := vd.toNat) hk (by simp [useV]) (gate_none h.2.2).2.2.1
  have hwp : st.warp = w := by simp [Strand.warp, hk]
  have e := commitLanes_pass s c st i vd (lanesOf (st.active c.pred.toNat))
    (fun j => f (s.env st) (srcs.map fun x => s.src st (st.active c.pred.toNat) x.1.toNat x.2 j))
    (fun j hj => by
      obtain ⟨h1, h2⟩ := (mem_lanesOf _ _).mp hj
      exact ht j h1 h2)
  have e' := lanesPut_mask s c st i vd.toNat (st.active c.pred.toNat)
    (fun j => (f (s.env st) (srcs.map fun x => s.src st (st.active c.pred.toNat) x.1.toNat x.2 j)).1)
    ((lanesOf (st.active c.pred.toNat)).foldl (fun e j =>
      e ||| (f (s.env st) (srcs.map fun x => s.src st (st.active c.pred.toNat) x.1.toNat x.2 j)).2) 0) (hwp ▸ hw)
  rw [← e] at e'
  refine ⟨_, ?_, e'⟩
  unfold elementwise
  rw [issue_pass h.1 h.2.1 h.2.2]
  simp only [State.at_kind, hk, begun_src, at_active, State.begun_env, State.at_env]

/-- The form of a register with events added to the flags, in one. -/
theorem writeForm_step (s : State) (c : Issue) (i : Instr) (r : Nat) (f : Form) (ev : Ev) :
    ((((s.begun c).writeForm c.uid r f).addEvents c.uid ev).retire c i).ended =
      s.stepped c i fun x => { x with forms := tset x.forms r f, sticky := x.sticky ||| ev } := by
  unfold State.retire State.addEvents State.writeForm State.updStrand State.ended State.stepped State.begun State.updStrand
  simp only [tmod_tmod]
  rfl

/-- The form of a register alone. -/
theorem writeForm_only (s : State) (c : Issue) (i : Instr) (r : Nat) (f : Form) :
    (((s.begun c).writeForm c.uid r f).retire c i).ended = s.stepped c i fun x => { x with forms := tset x.forms r f } := by
  unfold State.retire State.writeForm State.updStrand State.ended State.stepped State.begun State.updStrand
  simp only [tmod_tmod]
  rfl

/-! ## The elementwise instruction on a range strand (R109, R110, R112) -/

section range

variable {i : Instr} {vd : BitVec 6} {srcs : List Src} {form : List Form → Option Form} {f : Env → List Word → Word × Ev}
  {s : State} {c : Issue} {st : Strand} {lo n : Nat}

/-- A predicate that is false of every thread: nothing. -/
theorem elementwise_false (h : s.Issues c st i (useV vd ++ srcs.flatMap fun x => st.useSrc x.1 x.2)) (hk : st.kind = .range lo n)
    (hp : st.constPred c.pred.toNat = some false) : elementwise i vd srcs form f s = .next (s.stepped c i id) := by
  unfold elementwise
  rw [issue_pass h.1 h.2.1 h.2.2]
  simp only [State.at_kind, hk, show (s.at_ st).constPred c.pred.toNat = some false from hp, State.retire_only]

/-- A predicate that is neither: the strand expands. -/
theorem elementwise_mixed (h : s.Issues c st i (useV vd ++ srcs.flatMap fun x => st.useSrc x.1 x.2)) (hk : st.kind = .range lo n)
    (hp : st.constPred c.pred.toNat = none) : elementwise i vd srcs form f s = .next ((s.begun c).expandStrand c.uid).ended := by
  unfold elementwise
  rw [issue_pass h.1 h.2.1 h.2.2]
  simp only [State.at_kind, hk, show (s.at_ st).constPred c.pred.toNat = none from hp]

/-- A result form that R108 admits. -/
theorem elementwise_form (h : s.Issues c st i (useV vd ++ srcs.flatMap fun x => st.useSrc x.1 x.2)) (hk : st.kind = .range lo n)
    (hp : st.constPred c.pred.toNat = some true) {r : Form} (hr : (srcs.all fun x => x.2 == 0) = true)
    (hf : form (srcs.map fun x => st.form x.1.toNat) = some r) :
    elementwise i vd srcs form f s = .next (s.stepped c i fun x => { x with forms := tset x.forms vd.toNat r }) := by
  unfold elementwise
  rw [issue_pass h.1 h.2.1 h.2.2]
  simp only [State.at_kind, hk, show (s.at_ st).constPred c.pred.toNat = some true from hp, hr, if_true,
    show form (srcs.map fun x => (s.at_ st).form x.1.toNat) = some r from hf, writeForm_only]

/-- Sources that all count as UNI, where no form is admitted and no event traps. -/
theorem elementwise_uni (h : s.Issues c st i (useV vd ++ srcs.flatMap fun x => st.useSrc x.1 x.2)) (hk : st.kind = .range lo n)
    (hp : st.constPred c.pred.toNat = some true)
    (hf : (if srcs.all fun x => x.2 == 0 then form (srcs.map fun x => st.form x.1.toNat) else none) = none)
    (hu : (srcs.all fun x => st.uniSrc x.1.toNat x.2) = true)
    (ht : trapsOn st.mode (f (s.env st) (srcs.map fun x => (st.form x.1.toNat).base)).2 = false) :
    elementwise i vd srcs form f s = .next (s.stepped c i fun x =>
      { x with
        forms := tset x.forms vd.toNat (uniOf (f (s.env st) (srcs.map fun x => (st.form x.1.toNat).base)).1)
        sticky := x.sticky ||| (f (s.env st) (srcs.map fun x => (st.form x.1.toNat).base)).2 }) := by
  unfold elementwise
  rw [issue_pass h.1 h.2.1 h.2.2]
  simp only [State.at_kind, hk, show (s.at_ st).constPred c.pred.toNat = some true from hp,
    show (if srcs.all fun x => x.2 == 0 then form (srcs.map fun x => (s.at_ st).form x.1.toNat) else none) = none from hf,
    show (srcs.all fun x => (s.at_ st).uniSrc x.1.toNat x.2) = true from hu, if_true, List.map_map, State.begun_env, State.at_env,
    State.at_mode]
  rw [← writeForm_step]
  rw [if_neg]
  · rfl
  · rw [show ((fun x : Form => x.base) ∘ fun x : Src => (s.at_ st).form x.1.toNat) = fun x : Src => (st.form x.1.toNat).base from rfl,
      ht]
    exact Bool.false_ne_true

/-- A source that does not count as UNI, where no form is admitted: the strand expands. -/
theorem elementwise_expands (h : s.Issues c st i (useV vd ++ srcs.flatMap fun x => st.useSrc x.1 x.2))
    (hk : st.kind = .range lo n) (hp : st.constPred c.pred.toNat ≠ some false)
    (hf : (if srcs.all fun x => x.2 == 0 then form (srcs.map fun x => st.form x.1.toNat) else none) = none)
    (hu : (srcs.all fun x => st.uniSrc x.1.toNat x.2) = false) :
    elementwise i vd srcs form f s = .next ((s.begun c).expandStrand c.uid).ended := by
  cases hq : st.constPred c.pred.toNat with
  | none => exact elementwise_mixed h hk hq
  | some b =>
    cases b with
    | false => exact absurd hq hp
    | true =>
      unfold elementwise
      rw [issue_pass h.1 h.2.1 h.2.2]
      simp only [State.at_kind, hk, show (s.at_ st).constPred c.pred.toNat = some true from hq,
        show (if srcs.all fun x => x.2 == 0 then form (srcs.map fun x => (s.at_ st).form x.1.toNat) else none) = none from hf,
        show (srcs.all fun x => (s.at_ st).uniSrc x.1.toNat x.2) = false from hu, Bool.false_eq_true, if_false]

end range

end Sys2Proof.Machine
end

