-- ==== Sys2Proof/Laws/Cross.lean ====
section
/-! SUPPORT. What the cross-lane operation and the operation that a range strand may carry answer, and writes of masks. -/

namespace Sys2Proof.Machine

/-- A mask write with events and the retirement, in one. -/
theorem writeMask_step (s : State) (c : Issue) (i : Instr) (r : Nat) (act bits : BitVec 32) (ev : Ev) :
    ((((s.begun c).writeMask c.uid r act bits).addEvents c.uid ev).retire c i).ended =
      s.stepped c i fun x =>
        { x with masks := tset x.masks r ((x.kmask r &&& ~~~act) ||| (bits &&& act)), sticky := x.sticky ||| ev } := by
  unfold State.retire State.addEvents State.writeMask State.updStrand State.ended State.stepped State.begun State.updStrand
  simp only [tmod_tmod]
  rfl

/-- A mask write alone. -/
theorem writeMask_only (s : State) (c : Issue) (i : Instr) (r : Nat) (act bits : BitVec 32) :
    (((s.begun c).writeMask c.uid r act bits).retire c i).ended =
      s.stepped c i fun x => { x with masks := tset x.masks r ((x.kmask r &&& ~~~act) ||| (bits &&& act)) } := by
  unfold State.retire State.writeMask State.updStrand State.ended State.stepped State.begun State.updStrand
  simp only [tmod_tmod]
  rfl

/-- A run predicate alone. -/
theorem writeRuns_only (s : State) (c : Issue) (i : Instr) (r : Nat) (v : List (Nat × Bool)) :
    (((s.begun c).writeRuns c.uid r v).retire c i).ended = s.stepped c i fun x => { x with runs := tset x.runs r v } := by
  unfold State.retire State.writeRuns State.updStrand State.ended State.stepped State.begun State.updStrand
  simp only [tmod_tmod]
  rfl

section cross

variable {i : Instr} {uses : List Use} {s : State} {c : Issue} {st : Strand} {lo n w : Nat} {m : BitVec 32}

/-- A cross-lane instruction on a lane strand acts on its active lanes. -/
theorem crossLane_lane {body : State → Issue → Strand → BitVec 32 → State} (h : s.Issues c st i uses) (hk : st.kind = .lane w m) :
    crossLane i uses body s = .next (body (s.begun c) c (s.at_ st) (m &&& st.kmask c.pred.toNat)).ended := by
  unfold crossLane
  rw [issue_pass h.1 h.2.1 h.2.2]
  simp only [State.at_kind, hk, show (s.at_ st).active c.pred.toNat = m &&& st.kmask c.pred.toNat by
    show st.active c.pred.toNat = _
    simp [Strand.active, Strand.mask, hk]]

/-- On a range strand it does nothing under a predicate that is false of every thread. -/
theorem crossLane_false {body : State → Issue → Strand → BitVec 32 → State} (h : s.Issues c st i uses) (hk : st.kind = .range lo n)
    (hp : st.constPred c.pred.toNat = some false) : crossLane i uses body s = .next (s.stepped c i id) := by
  unfold crossLane
  rw [issue_pass h.1 h.2.1 h.2.2]
  simp only [State.at_kind, hk, show (s.at_ st).constPred c.pred.toNat = some false from hp]
  rw [if_pos (by rfl), State.retire_only]

/-- Otherwise it expands the strand. -/
theorem crossLane_expands {body : State → Issue → Strand → BitVec 32 → State} (h : s.Issues c st i uses)
    (hk : st.kind = .range lo n) (hp : st.constPred c.pred.toNat ≠ some false) :
    crossLane i uses body s = .next ((s.begun c).expandStrand c.uid).ended := by
  unfold crossLane
  rw [issue_pass h.1 h.2.1 h.2.2]
  simp only [State.at_kind, hk]
  rw [if_neg]
  rw [show (s.at_ st).constPred c.pred.toNat = st.constPred c.pred.toNat from rfl]
  simpa using hp

variable {range : State → Issue → Strand → Nat → Nat → Option State} {body : State → Issue → Strand → BitVec 32 → State}

/-- An instruction that a range strand may carry, on a lane strand. -/
theorem laneOrRange_lane (h : s.Issues c st i uses) (hk : st.kind = .lane w m) :
    laneOrRange i uses range body s = .next (body (s.begun c) c (s.at_ st) (m &&& st.kmask c.pred.toNat)).ended := by
  unfold laneOrRange
  rw [issue_pass h.1 h.2.1 h.2.2]
  simp only [State.at_kind, hk, show (s.at_ st).active c.pred.toNat = m &&& st.kmask c.pred.toNat by
    show st.active c.pred.toNat = _
    simp [Strand.active, Strand.mask, hk]]

/-- On a range strand whose predicate is true of every thread. -/
theorem laneOrRange_range (h : s.Issues c st i uses) (hk : st.kind = .range lo n) (hp : st.constPred c.pred.toNat = some true) :
    laneOrRange i uses range body s = .next ((range (s.begun c) c (s.at_ st) lo n).getD ((s.begun c).expandStrand c.uid)).ended := by
  unfold laneOrRange
  rw [issue_pass h.1 h.2.1 h.2.2]
  simp only [State.at_kind, hk, show (s.at_ st).constPred c.pred.toNat = some true from hp]
  cases range (s.begun c) c (s.at_ st) lo n <;> rfl

end cross

end Sys2Proof.Machine
end

