-- ==== Sys2Proof/Laws/PerInstr.lean ====
section
/-! SUPPORT. The round trip of the encoding, one lemma for each constructor (R210 to R225). -/

set_option linter.unusedSimpArgs false

namespace Sys2Proof.Laws

/-! ## Fields of a word -/

/-- A field above the last part of a word. -/
theorem field_hi {m n : Nat} (a : BitVec m) (b : BitVec n) (lo k : Nat) (h : n ≤ lo) :
    (a ++ b).extractLsb' lo k = a.extractLsb' (lo - n) k := by
  apply BitVec.eq_of_getLsbD_eq
  intro i hi
  have e : lo + i - n = lo - n + i := by omega
  simp [BitVec.getLsbD_append, hi, show ¬ lo + i < n by omega, e]

/-- A field within the last part of a word. -/
theorem field_lo {m n : Nat} (a : BitVec m) (b : BitVec n) (lo k : Nat) (h : lo + k ≤ n) :
    (a ++ b).extractLsb' lo k = b.extractLsb' lo k := by
  apply BitVec.eq_of_getLsbD_eq
  intro i hi
  simp [BitVec.getLsbD_append, hi, show lo + i < n by omega]

/-- A field that is the whole part. -/
theorem field_all {n : Nat} (b : BitVec n) : b.extractLsb' 0 n = b := by
  apply BitVec.eq_of_getLsbD_eq
  intro i hi
  simp [hi]

/-! ## Classes and arms of the decoder -/

/-- A word of class 0. -/
theorem class_LR (w : Word) (r : List Word) (h : w.extractLsb' 28 4 = 0) :
    decodeWords (w :: r) = decodeLR w := by
  show (match (w.extractLsb' 28 4).toNat with
    | 0 => decodeLR w | 1 => decodeLI w | 2 => decodeLT w | 3 => decodeLM w | 4 => decodeLX w | 5 => decodeLB w r
    | 6 => decodeLE w r | 8 => decodeUR w | 9 => decodeUI w | 10 => decodeUK w | 11 => decodeUM w | 12 => decodeUB w
    | 13 => decodeUE w r | 14 => decodeUS w | _ => none) = _
  rw [h]
  rfl

/-- Operation 0 of class 0. -/
theorem arm_LR_0 (w : Word) (h : w.extractLsb' 22 6 = 0) :
    decodeLR w = (some (.vadd (w.extractLsb' 16 6) (w.extractLsb' 10 6) (w.extractLsb' 4 6) (w.extractLsb' 2 2)
      (w.extractLsb' 0 2))) := by
  unfold decodeLR
  rw [h]
  rfl

/-- Operation 1 of class 0. -/
theorem arm_LR_1 (w : Word) (h : w.extractLsb' 22 6 = 1) :
    decodeLR w = (some (.vsub (w.extractLsb' 16 6) (w.extractLsb' 10 6) (w.extractLsb' 4 6) (w.extractLsb' 2 2)
      (w.extractLsb' 0 2))) := by
  unfold decodeLR
  rw [h]
  rfl

/-- Operation 2 of class 0. -/
theorem arm_LR_2 (w : Word) (h : w.extractLsb' 22 6 = 2) :
    decodeLR w = (some (.vmul (w.extractLsb' 16 6) (w.extractLsb' 10 6) (w.extractLsb' 4 6) (w.extractLsb' 2 2)
      (w.extractLsb' 0 2))) := by
  unfold decodeLR
  rw [h]
  rfl

/-- Operation 3 of class 0. -/
theorem arm_LR_3 (w : Word) (h : w.extractLsb' 22 6 = 3) :
    decodeLR w = (some (.vmulhI32 (w.extractLsb' 16 6) (w.extractLsb' 10 6) (w.extractLsb' 4 6) (w.extractLsb' 2 2)
      (w.extractLsb' 0 2))) := by
  unfold decodeLR
  rw [h]
  rfl

/-- Operation 4 of class 0. -/
theorem arm_LR_4 (w : Word) (h : w.extractLsb' 22 6 = 4) :
    decodeLR w = (some (.vmulhN32 (w.extractLsb' 16 6) (w.extractLsb' 10 6) (w.extractLsb' 4 6) (w.extractLsb' 2 2)
      (w.extractLsb' 0 2))) := by
  unfold decodeLR
  rw [h]
  rfl

/-- Operation 5 of class 0. -/
theorem arm_LR_5 (w : Word) (h : w.extractLsb' 22 6 = 5) :
    decodeLR w = (some (.vminI32 (w.extractLsb' 16 6) (w.extractLsb' 10 6) (w.extractLsb' 4 6) (w.extractLsb' 2 2)
      (w.extractLsb' 0 2))) := by
  unfold decodeLR
  rw [h]
  rfl

/-- Operation 6 of class 0. -/
theorem arm_LR_6 (w : Word) (h : w.extractLsb' 22 6 = 6) :
    decodeLR w = (some (.vminN32 (w.extractLsb' 16 6) (w.extractLsb' 10 6) (w.extractLsb' 4 6) (w.extractLsb' 2 2)
      (w.extractLsb' 0 2))) := by
  unfold decodeLR
  rw [h]
  rfl

/-- Operation 7 of class 0. -/
theorem arm_LR_7 (w : Word) (h : w.extractLsb' 22 6 = 7) :
    decodeLR w = (some (.vmaxI32 (w.extractLsb' 16 6) (w.extractLsb' 10 6) (w.extractLsb' 4 6) (w.extractLsb' 2 2)
      (w.extractLsb' 0 2))) := by
  unfold decodeLR
  rw [h]
  rfl

/-- Operation 8 of class 0. -/
theorem arm_LR_8 (w : Word) (h : w.extractLsb' 22 6 = 8) :
    decodeLR w = (some (.vmaxN32 (w.extractLsb' 16 6) (w.extractLsb' 10 6) (w.extractLsb' 4 6) (w.extractLsb' 2 2)
      (w.extractLsb' 0 2))) := by
  unfold decodeLR
  rw [h]
  rfl

/-- Operation 9 of class 0. -/
theorem arm_LR_9 (w : Word) (h : w.extractLsb' 22 6 = 9) :
    decodeLR w = (some (.vand (w.extractLsb' 16 6) (w.extractLsb' 10 6) (w.extractLsb' 4 6) (w.extractLsb' 2 2)
      (w.extractLsb' 0 2))) := by
  unfold decodeLR
  rw [h]
  rfl

/-- Operation 10 of class 0. -/
theorem arm_LR_10 (w : Word) (h : w.extractLsb' 22 6 = 10) :
    decodeLR w = (some (.vor (w.extractLsb' 16 6) (w.extractLsb' 10 6) (w.extractLsb' 4 6) (w.extractLsb' 2 2) (w.extractLsb'
      0 2))) := by
  unfold decodeLR
  rw [h]
  rfl

/-- Operation 11 of class 0. -/
theorem arm_LR_11 (w : Word) (h : w.extractLsb' 22 6 = 11) :
    decodeLR w = (some (.vxor (w.extractLsb' 16 6) (w.extractLsb' 10 6) (w.extractLsb' 4 6) (w.extractLsb' 2 2)
      (w.extractLsb' 0 2))) := by
  unfold decodeLR
  rw [h]
  rfl

/-- Operation 12 of class 0. -/
theorem arm_LR_12 (w : Word) (h : w.extractLsb' 22 6 = 12) :
    decodeLR w = (some (.vandn (w.extractLsb' 16 6) (w.extractLsb' 10 6) (w.extractLsb' 4 6) (w.extractLsb' 2 2)
      (w.extractLsb' 0 2))) := by
  unfold decodeLR
  rw [h]
  rfl

/-- Operation 13 of class 0. -/
theorem arm_LR_13 (w : Word) (h : w.extractLsb' 22 6 = 13) :
    decodeLR w = (some (.vshl (w.extractLsb' 16 6) (w.extractLsb' 10 6) (w.extractLsb' 4 6) (w.extractLsb' 2 2)
      (w.extractLsb' 0 2))) := by
  unfold decodeLR
  rw [h]
  rfl

/-- Operation 14 of class 0. -/
theorem arm_LR_14 (w : Word) (h : w.extractLsb' 22 6 = 14) :
    decodeLR w = (some (.vshr (w.extractLsb' 16 6) (w.extractLsb' 10 6) (w.extractLsb' 4 6) (w.extractLsb' 2 2)
      (w.extractLsb' 0 2))) := by
  unfold decodeLR
  rw [h]
  rfl

/-- Operation 15 of class 0. -/
theorem arm_LR_15 (w : Word) (h : w.extractLsb' 22 6 = 15) :
    decodeLR w = (some (.vsar (w.extractLsb' 16 6) (w.extractLsb' 10 6) (w.extractLsb' 4 6) (w.extractLsb' 2 2)
      (w.extractLsb' 0 2))) := by
  unfold decodeLR
  rw [h]
  rfl

/-- Operation 16 of class 0. -/
theorem arm_LR_16 (w : Word) (h : w.extractLsb' 22 6 = 16) :
    decodeLR w = (some (.vrotl (w.extractLsb' 16 6) (w.extractLsb' 10 6) (w.extractLsb' 4 6) (w.extractLsb' 2 2)
      (w.extractLsb' 0 2))) := by
  unfold decodeLR
  rw [h]
  rfl

/-- Operation 17 of class 0. -/
theorem arm_LR_17 (w : Word) (h : w.extractLsb' 22 6 = 17) :
    decodeLR w = (some (.vaddsI32 (w.extractLsb' 16 6) (w.extractLsb' 10 6) (w.extractLsb' 4 6) (w.extractLsb' 2 2)
      (w.extractLsb' 0 2))) := by
  unfold decodeLR
  rw [h]
  rfl

/-- Operation 18 of class 0. -/
theorem arm_LR_18 (w : Word) (h : w.extractLsb' 22 6 = 18) :
    decodeLR w = (some (.vsubsI32 (w.extractLsb' 16 6) (w.extractLsb' 10 6) (w.extractLsb' 4 6) (w.extractLsb' 2 2)
      (w.extractLsb' 0 2))) := by
  unfold decodeLR
  rw [h]
  rfl

/-- Operation 19 of class 0. -/
theorem arm_LR_19 (w : Word) (h : w.extractLsb' 22 6 = 19) :
    decodeLR w = (some (.vabsdN32 (w.extractLsb' 16 6) (w.extractLsb' 10 6) (w.extractLsb' 4 6) (w.extractLsb' 2 2)
      (w.extractLsb' 0 2))) := by
  unfold decodeLR
  rw [h]
  rfl

/-- Operation 20 of class 0. -/
theorem arm_LR_20 (w : Word) (h : w.extractLsb' 22 6 = 20) :
    decodeLR w = (if w.extractLsb' 4 6 = 0 ∧ w.extractLsb' 0 2 = 0 then some (.vmov (w.extractLsb' 16 6) (w.extractLsb' 10 6)
      (w.extractLsb' 2 2)) else none) := by
  unfold decodeLR
  rw [h]
  rfl

/-- Operation 21 of class 0. -/
theorem arm_LR_21 (w : Word) (h : w.extractLsb' 22 6 = 21) :
    decodeLR w = (some (.vfaddF32 (w.extractLsb' 16 6) (w.extractLsb' 10 6) (w.extractLsb' 4 6) (w.extractLsb' 2 2)
      (w.extractLsb' 0 2))) := by
  unfold decodeLR
  rw [h]
  rfl

/-- Operation 22 of class 0. -/
theorem arm_LR_22 (w : Word) (h : w.extractLsb' 22 6 = 22) :
    decodeLR w = (some (.vfsubF32 (w.extractLsb' 16 6) (w.extractLsb' 10 6) (w.extractLsb' 4 6) (w.extractLsb' 2 2)
      (w.extractLsb' 0 2))) := by
  unfold decodeLR
  rw [h]
  rfl

/-- Operation 23 of class 0. -/
theorem arm_LR_23 (w : Word) (h : w.extractLsb' 22 6 = 23) :
    decodeLR w = (some (.vfmulF32 (w.extractLsb' 16 6) (w.extractLsb' 10 6) (w.extractLsb' 4 6) (w.extractLsb' 2 2)
      (w.extractLsb' 0 2))) := by
  unfold decodeLR
  rw [h]
  rfl

/-- Operation 24 of class 0. -/
theorem arm_LR_24 (w : Word) (h : w.extractLsb' 22 6 = 24) :
    decodeLR w = (some (.vfminF32 (w.extractLsb' 16 6) (w.extractLsb' 10 6) (w.extractLsb' 4 6) (w.extractLsb' 2 2)
      (w.extractLsb' 0 2))) := by
  unfold decodeLR
  rw [h]
  rfl

/-- Operation 25 of class 0. -/
theorem arm_LR_25 (w : Word) (h : w.extractLsb' 22 6 = 25) :
    decodeLR w = (some (.vfmaxF32 (w.extractLsb' 16 6) (w.extractLsb' 10 6) (w.extractLsb' 4 6) (w.extractLsb' 2 2)
      (w.extractLsb' 0 2))) := by
  unfold decodeLR
  rw [h]
  rfl

/-- Operation 26 of class 0. -/
theorem arm_LR_26 (w : Word) (h : w.extractLsb' 22 6 = 26) :
    decodeLR w = (some (.vfscaleF32 (w.extractLsb' 16 6) (w.extractLsb' 10 6) (w.extractLsb' 4 6) (w.extractLsb' 2 2)
      (w.extractLsb' 0 2))) := by
  unfold decodeLR
  rw [h]
  rfl

/-- Operation 27 of class 0. -/
theorem arm_LR_27 (w : Word) (h : w.extractLsb' 22 6 = 27) :
    decodeLR w = (some (.vfaddBf16x2 (w.extractLsb' 16 6) (w.extractLsb' 10 6) (w.extractLsb' 4 6) (w.extractLsb' 2 2)
      (w.extractLsb' 0 2))) := by
  unfold decodeLR
  rw [h]
  rfl

/-- Operation 28 of class 0. -/
theorem arm_LR_28 (w : Word) (h : w.extractLsb' 22 6 = 28) :
    decodeLR w = (some (.vfmulBf16x2 (w.extractLsb' 16 6) (w.extractLsb' 10 6) (w.extractLsb' 4 6) (w.extractLsb' 2 2)
      (w.extractLsb' 0 2))) := by
  unfold decodeLR
  rw [h]
  rfl

/-- Operation 29 of class 0. -/
theorem arm_LR_29 (w : Word) (h : w.extractLsb' 22 6 = 29) :
    decodeLR w = (some (.vfaddF16x2 (w.extractLsb' 16 6) (w.extractLsb' 10 6) (w.extractLsb' 4 6) (w.extractLsb' 2 2)
      (w.extractLsb' 0 2))) := by
  unfold decodeLR
  rw [h]
  rfl

/-- Operation 30 of class 0. -/
theorem arm_LR_30 (w : Word) (h : w.extractLsb' 22 6 = 30) :
    decodeLR w = (some (.vfmulF16x2 (w.extractLsb' 16 6) (w.extractLsb' 10 6) (w.extractLsb' 4 6) (w.extractLsb' 2 2)
      (w.extractLsb' 0 2))) := by
  unfold decodeLR
  rw [h]
  rfl

/-- Operation 31 of class 0. -/
theorem arm_LR_31 (w : Word) (h : w.extractLsb' 22 6 = 31) :
    decodeLR w = (some (.vfaddE4m3x4 (w.extractLsb' 16 6) (w.extractLsb' 10 6) (w.extractLsb' 4 6) (w.extractLsb' 2 2)
      (w.extractLsb' 0 2))) := by
  unfold decodeLR
  rw [h]
  rfl

/-- Operation 32 of class 0. -/
theorem arm_LR_32 (w : Word) (h : w.extractLsb' 22 6 = 32) :
    decodeLR w = (some (.vfmulE4m3x4 (w.extractLsb' 16 6) (w.extractLsb' 10 6) (w.extractLsb' 4 6) (w.extractLsb' 2 2)
      (w.extractLsb' 0 2))) := by
  unfold decodeLR
  rw [h]
  rfl

/-- Operation 33 of class 0. -/
theorem arm_LR_33 (w : Word) (h : w.extractLsb' 22 6 = 33) :
    decodeLR w = (some (.vfaddE5m2x4 (w.extractLsb' 16 6) (w.extractLsb' 10 6) (w.extractLsb' 4 6) (w.extractLsb' 2 2)
      (w.extractLsb' 0 2))) := by
  unfold decodeLR
  rw [h]
  rfl

/-- Operation 34 of class 0. -/
theorem arm_LR_34 (w : Word) (h : w.extractLsb' 22 6 = 34) :
    decodeLR w = (some (.vfmulE5m2x4 (w.extractLsb' 16 6) (w.extractLsb' 10 6) (w.extractLsb' 4 6) (w.extractLsb' 2 2)
      (w.extractLsb' 0 2))) := by
  unfold decodeLR
  rw [h]
  rfl

/-- Operation 35 of class 0. -/
theorem arm_LR_35 (w : Word) (h : w.extractLsb' 22 6 = 35) :
    decodeLR w = (some (.vdot4I8 (w.extractLsb' 16 6) (w.extractLsb' 10 6) (w.extractLsb' 4 6) (w.extractLsb' 2 2)
      (w.extractLsb' 0 2))) := by
  unfold decodeLR
  rw [h]
  rfl

/-- Operation 36 of class 0. -/
theorem arm_LR_36 (w : Word) (h : w.extractLsb' 22 6 = 36) :
    decodeLR w = (some (.vdot2Bf16 (w.extractLsb' 16 6) (w.extractLsb' 10 6) (w.extractLsb' 4 6) (w.extractLsb' 2 2)
      (w.extractLsb' 0 2))) := by
  unfold decodeLR
  rw [h]
  rfl

/-- Operation 48 of class 0. -/
theorem arm_LR_48 (w : Word) (h : w.extractLsb' 22 6 = 48) :
    decodeLR w = (some (.vshflIdx (w.extractLsb' 0 22))) := by
  unfold decodeLR
  rw [h]
  rfl

/-- Operation 49 of class 0. -/
theorem arm_LR_49 (w : Word) (h : w.extractLsb' 22 6 = 49) :
    decodeLR w = (some (.vshflUp (w.extractLsb' 0 22))) := by
  unfold decodeLR
  rw [h]
  rfl

/-- Operation 50 of class 0. -/
theorem arm_LR_50 (w : Word) (h : w.extractLsb' 22 6 = 50) :
    decodeLR w = (some (.vshflDn (w.extractLsb' 0 22))) := by
  unfold decodeLR
  rw [h]
  rfl

/-- Operation 51 of class 0. -/
theorem arm_LR_51 (w : Word) (h : w.extractLsb' 22 6 = 51) :
    decodeLR w = (some (.vshflXor (w.extractLsb' 0 22))) := by
  unfold decodeLR
  rw [h]
  rfl

/-- A word of class 1. -/
theorem class_LI (w : Word) (r : List Word) (h : w.extractLsb' 28 4 = 1) :
    decodeWords (w :: r) = decodeLI w := by
  show (match (w.extractLsb' 28 4).toNat with
    | 0 => decodeLR w | 1 => decodeLI w | 2 => decodeLT w | 3 => decodeLM w | 4 => decodeLX w | 5 => decodeLB w r
    | 6 => decodeLE w r | 8 => decodeUR w | 9 => decodeUI w | 10 => decodeUK w | 11 => decodeUM w | 12 => decodeUB w
    | 13 => decodeUE w r | 14 => decodeUS w | _ => none) = _
  rw [h]
  rfl

/-- Operation 0 of class 1. -/
theorem arm_LI_0 (w : Word) (h : w.extractLsb' 24 4 = 0) :
    decodeLI w = (some (.vaddi (w.extractLsb' 18 6) (w.extractLsb' 12 6) (w.extractLsb' 10 2) (w.extractLsb' 0 10))) := by
  unfold decodeLI
  rw [h]
  rfl

/-- Operation 1 of class 1. -/
theorem arm_LI_1 (w : Word) (h : w.extractLsb' 24 4 = 1) :
    decodeLI w = (some (.vsubri (w.extractLsb' 18 6) (w.extractLsb' 12 6) (w.extractLsb' 10 2) (w.extractLsb' 0 10))) := by
  unfold decodeLI
  rw [h]
  rfl

/-- Operation 2 of class 1. -/
theorem arm_LI_2 (w : Word) (h : w.extractLsb' 24 4 = 2) :
    decodeLI w = (some (.vmuli (w.extractLsb' 18 6) (w.extractLsb' 12 6) (w.extractLsb' 10 2) (w.extractLsb' 0 10))) := by
  unfold decodeLI
  rw [h]
  rfl

/-- Operation 3 of class 1. -/
theorem arm_LI_3 (w : Word) (h : w.extractLsb' 24 4 = 3) :
    decodeLI w = (some (.vandi (w.extractLsb' 18 6) (w.extractLsb' 12 6) (w.extractLsb' 10 2) (w.extractLsb' 0 10))) := by
  unfold decodeLI
  rw [h]
  rfl

/-- Operation 4 of class 1. -/
theorem arm_LI_4 (w : Word) (h : w.extractLsb' 24 4 = 4) :
    decodeLI w = (some (.vori (w.extractLsb' 18 6) (w.extractLsb' 12 6) (w.extractLsb' 10 2) (w.extractLsb' 0 10))) := by
  unfold decodeLI
  rw [h]
  rfl

/-- Operation 5 of class 1. -/
theorem arm_LI_5 (w : Word) (h : w.extractLsb' 24 4 = 5) :
    decodeLI w = (some (.vxori (w.extractLsb' 18 6) (w.extractLsb' 12 6) (w.extractLsb' 10 2) (w.extractLsb' 0 10))) := by
  unfold decodeLI
  rw [h]
  rfl

/-- Operation 6 of class 1. -/
theorem arm_LI_6 (w : Word) (h : w.extractLsb' 24 4 = 6) :
    decodeLI w = (some (.vshli (w.extractLsb' 18 6) (w.extractLsb' 12 6) (w.extractLsb' 10 2) (w.extractLsb' 0 10))) := by
  unfold decodeLI
  rw [h]
  rfl

/-- Operation 7 of class 1. -/
theorem arm_LI_7 (w : Word) (h : w.extractLsb' 24 4 = 7) :
    decodeLI w = (some (.vshri (w.extractLsb' 18 6) (w.extractLsb' 12 6) (w.extractLsb' 10 2) (w.extractLsb' 0 10))) := by
  unfold decodeLI
  rw [h]
  rfl

/-- Operation 8 of class 1. -/
theorem arm_LI_8 (w : Word) (h : w.extractLsb' 24 4 = 8) :
    decodeLI w = (some (.vsari (w.extractLsb' 18 6) (w.extractLsb' 12 6) (w.extractLsb' 10 2) (w.extractLsb' 0 10))) := by
  unfold decodeLI
  rw [h]
  rfl

/-- Operation 9 of class 1. -/
theorem arm_LI_9 (w : Word) (h : w.extractLsb' 24 4 = 9) :
    decodeLI w = (some (.vminiI32 (w.extractLsb' 18 6) (w.extractLsb' 12 6) (w.extractLsb' 10 2) (w.extractLsb' 0 10))) := by
  unfold decodeLI
  rw [h]
  rfl

/-- Operation 10 of class 1. -/
theorem arm_LI_10 (w : Word) (h : w.extractLsb' 24 4 = 10) :
    decodeLI w = (some (.vmaxiI32 (w.extractLsb' 18 6) (w.extractLsb' 12 6) (w.extractLsb' 10 2) (w.extractLsb' 0 10))) := by
  unfold decodeLI
  rw [h]
  rfl

/-- Operation 11 of class 1. -/
theorem arm_LI_11 (w : Word) (h : w.extractLsb' 24 4 = 11) :
    decodeLI w = (if w.extractLsb' 12 6 = 0 ∧ w.extractLsb' 10 2 = 0 then some (.vmovi (w.extractLsb' 18 6) (w.extractLsb' 0
      10)) else none) := by
  unfold decodeLI
  rw [h]
  rfl

/-- A word of class 2. -/
theorem class_LT (w : Word) (r : List Word) (h : w.extractLsb' 28 4 = 2) :
    decodeWords (w :: r) = decodeLT w := by
  show (match (w.extractLsb' 28 4).toNat with
    | 0 => decodeLR w | 1 => decodeLI w | 2 => decodeLT w | 3 => decodeLM w | 4 => decodeLX w | 5 => decodeLB w r
    | 6 => decodeLE w r | 8 => decodeUR w | 9 => decodeUI w | 10 => decodeUK w | 11 => decodeUM w | 12 => decodeUB w
    | 13 => decodeUE w r | 14 => decodeUS w | _ => none) = _
  rw [h]
  rfl

/-- Operation 0 of class 2. -/
theorem arm_LT_0 (w : Word) (h : w.extractLsb' 25 3 = 0) :
    decodeLT w = (some (.vmad (w.extractLsb' 20 5) (w.extractLsb' 15 5) (w.extractLsb' 10 5) (w.extractLsb' 5 5)
      (w.extractLsb' 3 2) (w.extractLsb' 1 2) (w.extractLsb' 0 1))) := by
  unfold decodeLT
  rw [h]
  rfl

/-- Operation 1 of class 2. -/
theorem arm_LT_1 (w : Word) (h : w.extractLsb' 25 3 = 1) :
    decodeLT w = (some (.vfmaF32 (w.extractLsb' 20 5) (w.extractLsb' 15 5) (w.extractLsb' 10 5) (w.extractLsb' 5 5)
      (w.extractLsb' 3 2) (w.extractLsb' 1 2) (w.extractLsb' 0 1))) := by
  unfold decodeLT
  rw [h]
  rfl

/-- Operation 2 of class 2. -/
theorem arm_LT_2 (w : Word) (h : w.extractLsb' 25 3 = 2) :
    decodeLT w = (some (.vfmaBf16x2 (w.extractLsb' 20 5) (w.extractLsb' 15 5) (w.extractLsb' 10 5) (w.extractLsb' 5 5)
      (w.extractLsb' 3 2) (w.extractLsb' 1 2) (w.extractLsb' 0 1))) := by
  unfold decodeLT
  rw [h]
  rfl

/-- Operation 3 of class 2. -/
theorem arm_LT_3 (w : Word) (h : w.extractLsb' 25 3 = 3) :
    decodeLT w = (some (.vfmaF16x2 (w.extractLsb' 20 5) (w.extractLsb' 15 5) (w.extractLsb' 10 5) (w.extractLsb' 5 5)
      (w.extractLsb' 3 2) (w.extractLsb' 1 2) (w.extractLsb' 0 1))) := by
  unfold decodeLT
  rw [h]
  rfl

/-- Operation 4 of class 2. -/
theorem arm_LT_4 (w : Word) (h : w.extractLsb' 25 3 = 4) :
    decodeLT w = (some (.vdot4aI8 (w.extractLsb' 20 5) (w.extractLsb' 15 5) (w.extractLsb' 10 5) (w.extractLsb' 5 5)
      (w.extractLsb' 3 2) (w.extractLsb' 1 2) (w.extractLsb' 0 1))) := by
  unfold decodeLT
  rw [h]
  rfl

/-- Operation 5 of class 2. -/
theorem arm_LT_5 (w : Word) (h : w.extractLsb' 25 3 = 5) :
    decodeLT w = (some (.vdot2aBf16 (w.extractLsb' 20 5) (w.extractLsb' 15 5) (w.extractLsb' 10 5) (w.extractLsb' 5 5)
      (w.extractLsb' 3 2) (w.extractLsb' 1 2) (w.extractLsb' 0 1))) := by
  unfold decodeLT
  rw [h]
  rfl

/-- Operation 6 of class 2. -/
theorem arm_LT_6 (w : Word) (h : w.extractLsb' 25 3 = 6) :
    decodeLT w = (some (.vbfi (w.extractLsb' 20 5) (w.extractLsb' 15 5) (w.extractLsb' 10 5) (w.extractLsb' 5 5)
      (w.extractLsb' 3 2) (w.extractLsb' 1 2) (w.extractLsb' 0 1))) := by
  unfold decodeLT
  rw [h]
  rfl

/-- A word of class 3. -/
theorem class_LM (w : Word) (r : List Word) (h : w.extractLsb' 28 4 = 3) :
    decodeWords (w :: r) = decodeLM w := by
  show (match (w.extractLsb' 28 4).toNat with
    | 0 => decodeLR w | 1 => decodeLI w | 2 => decodeLT w | 3 => decodeLM w | 4 => decodeLX w | 5 => decodeLB w r
    | 6 => decodeLE w r | 8 => decodeUR w | 9 => decodeUI w | 10 => decodeUK w | 11 => decodeUM w | 12 => decodeUB w
    | 13 => decodeUE w r | 14 => decodeUS w | _ => none) = _
  rw [h]
  rfl

/-- Operation 0 of class 3. -/
theorem arm_LM_0 (w : Word) (h : w.extractLsb' 24 4 = 0) :
    decodeLM w = (some (.vld (w.extractLsb' 18 6) (w.extractLsb' 12 6) (w.extractLsb' 9 3) (w.extractLsb' 6 3) (w.extractLsb'
      0 6))) := by
  unfold decodeLM
  rw [h]
  rfl

/-- Operation 1 of class 3. -/
theorem arm_LM_1 (w : Word) (h : w.extractLsb' 24 4 = 1) :
    decodeLM w = (some (.vst (w.extractLsb' 18 6) (w.extractLsb' 12 6) (w.extractLsb' 9 3) (w.extractLsb' 6 3) (w.extractLsb'
      0 6))) := by
  unfold decodeLM
  rw [h]
  rfl

/-- Operation 2 of class 3. -/
theorem arm_LM_2 (w : Word) (h : w.extractLsb' 24 4 = 2) :
    decodeLM w = (some (.vldc (w.extractLsb' 18 6) (w.extractLsb' 12 6) (w.extractLsb' 9 3) (w.extractLsb' 6 3)
      (w.extractLsb' 0 6))) := by
  unfold decodeLM
  rw [h]
  rfl

/-- Operation 3 of class 3. -/
theorem arm_LM_3 (w : Word) (h : w.extractLsb' 24 4 = 3) :
    decodeLM w = (if w.extractLsb' 6 3 = 4 then some (.vpref (w.extractLsb' 18 6) (w.extractLsb' 12 6) (w.extractLsb' 9 3)
      (w.extractLsb' 0 6)) else none) := by
  unfold decodeLM
  rw [h]
  rfl

/-- A word of class 4. -/
theorem class_LX (w : Word) (r : List Word) (h : w.extractLsb' 28 4 = 4) :
    decodeWords (w :: r) = decodeLX w := by
  show (match (w.extractLsb' 28 4).toNat with
    | 0 => decodeLR w | 1 => decodeLI w | 2 => decodeLT w | 3 => decodeLM w | 4 => decodeLX w | 5 => decodeLB w r
    | 6 => decodeLE w r | 8 => decodeUR w | 9 => decodeUI w | 10 => decodeUK w | 11 => decodeUM w | 12 => decodeUB w
    | 13 => decodeUE w r | 14 => decodeUS w | _ => none) = _
  rw [h]
  rfl

/-- Operation 0 of class 4. -/
theorem arm_LX_0 (w : Word) (h : w.extractLsb' 22 6 = 0) :
    decodeLX w = (some (.vcmp (w.extractLsb' 16 6) (w.extractLsb' 10 6) (w.extractLsb' 4 6) (w.extractLsb' 0 4))) := by
  unfold decodeLX
  rw [h]
  rfl

/-- Operation 1 of class 4. -/
theorem arm_LX_1 (w : Word) (h : w.extractLsb' 22 6 = 1) :
    decodeLX w = (if w.extractLsb' 3 1 = 0 then some (.vsel (w.extractLsb' 16 6) (w.extractLsb' 10 6) (w.extractLsb' 4 6)
      (w.extractLsb' 0 3)) else none) := by
  unfold decodeLX
  rw [h]
  rfl

/-- Operation 2 of class 4. -/
theorem arm_LX_2 (w : Word) (h : w.extractLsb' 22 6 = 2) :
    decodeLX w = (if w.extractLsb' 4 6 = 0 then some (.vvote (w.extractLsb' 16 6) (w.extractLsb' 10 6) (w.extractLsb' 0 4))
      else none) := by
  unfold decodeLX
  rw [h]
  rfl

/-- Operation 3 of class 4. -/
theorem arm_LX_3 (w : Word) (h : w.extractLsb' 22 6 = 3) :
    decodeLX w = (if w.extractLsb' 4 6 = 0 then some (.vscan (w.extractLsb' 16 6) (w.extractLsb' 10 6) (w.extractLsb' 0 4))
      else none) := by
  unfold decodeLX
  rw [h]
  rfl

/-- Operation 4 of class 4. -/
theorem arm_LX_4 (w : Word) (h : w.extractLsb' 22 6 = 4) :
    decodeLX w = (if w.extractLsb' 4 6 = 0 then some (.vred (w.extractLsb' 16 6) (w.extractLsb' 10 6) (w.extractLsb' 0 4))
      else none) := by
  unfold decodeLX
  rw [h]
  rfl

/-- Operation 5 of class 4. -/
theorem arm_LX_5 (w : Word) (h : w.extractLsb' 22 6 = 5) :
    decodeLX w = (if w.extractLsb' 4 6 = 0 then some (.vmatch (w.extractLsb' 16 6) (w.extractLsb' 10 6) (w.extractLsb' 0 4))
      else none) := by
  unfold decodeLX
  rw [h]
  rfl

/-- Operation 6 of class 4. -/
theorem arm_LX_6 (w : Word) (h : w.extractLsb' 22 6 = 6) :
    decodeLX w = (some (.vcompact (w.extractLsb' 16 6) (w.extractLsb' 10 6) (w.extractLsb' 4 6) (w.extractLsb' 0 4))) := by
  unfold decodeLX
  rw [h]
  rfl

/-- Operation 7 of class 4. -/
theorem arm_LX_7 (w : Word) (h : w.extractLsb' 22 6 = 7) :
    decodeLX w = (if w.extractLsb' 4 6 = 0 then some (.vform (w.extractLsb' 16 6) (w.extractLsb' 10 6) (w.extractLsb' 0 4))
      else none) := by
  unfold decodeLX
  rw [h]
  rfl

/-- Operation 8 of class 4. -/
theorem arm_LX_8 (w : Word) (h : w.extractLsb' 22 6 = 8) :
    decodeLX w = (if w.extractLsb' 4 6 = 0 ∧ w.extractLsb' 0 4 = 0 then some (.vstride (w.extractLsb' 16 6) (w.extractLsb' 10
      6)) else none) := by
  unfold decodeLX
  rw [h]
  rfl

/-- Operation 9 of class 4. -/
theorem arm_LX_9 (w : Word) (h : w.extractLsb' 22 6 = 9) :
    decodeLX w = (if w.extractLsb' 16 6 = 0 ∧ w.extractLsb' 10 6 = 0 ∧ w.extractLsb' 4 6 = 0 ∧ w.extractLsb' 0 4 = 0 then
      some (.vexpand) else none) := by
  unfold decodeLX
  rw [h]
  rfl

/-- Operation 10 of class 4. -/
theorem arm_LX_10 (w : Word) (h : w.extractLsb' 22 6 = 10) :
    decodeLX w = (if w.extractLsb' 10 6 = 0 ∧ w.extractLsb' 4 6 = 0 then some (.vindex (w.extractLsb' 16 6) (w.extractLsb' 0
      4)) else none) := by
  unfold decodeLX
  rw [h]
  rfl

/-- Operation 11 of class 4. -/
theorem arm_LX_11 (w : Word) (h : w.extractLsb' 22 6 = 11) :
    decodeLX w = (if w.extractLsb' 4 6 = 0 ∧ w.extractLsb' 0 4 = 0 then some (.vpopc (w.extractLsb' 16 6) (w.extractLsb' 10
      6)) else none) := by
  unfold decodeLX
  rw [h]
  rfl

/-- Operation 12 of class 4. -/
theorem arm_LX_12 (w : Word) (h : w.extractLsb' 22 6 = 12) :
    decodeLX w = (if w.extractLsb' 4 6 = 0 ∧ w.extractLsb' 0 4 = 0 then some (.vclz (w.extractLsb' 16 6) (w.extractLsb' 10
      6)) else none) := by
  unfold decodeLX
  rw [h]
  rfl

/-- Operation 13 of class 4. -/
theorem arm_LX_13 (w : Word) (h : w.extractLsb' 22 6 = 13) :
    decodeLX w = (if w.extractLsb' 4 6 = 0 ∧ w.extractLsb' 0 4 = 0 then some (.vbrev (w.extractLsb' 16 6) (w.extractLsb' 10
      6)) else none) := by
  unfold decodeLX
  rw [h]
  rfl

/-- Operation 14 of class 4. -/
theorem arm_LX_14 (w : Word) (h : w.extractLsb' 22 6 = 14) :
    decodeLX w = (if w.extractLsb' 1 3 = 0 then some (.vbfe (w.extractLsb' 16 6) (w.extractLsb' 10 6) (w.extractLsb' 4 6)
      (w.extractLsb' 0 1)) else none) := by
  unfold decodeLX
  rw [h]
  rfl

/-- Operation 15 of class 4. -/
theorem arm_LX_15 (w : Word) (h : w.extractLsb' 22 6 = 15) :
    decodeLX w = (if w.extractLsb' 4 6 = 0 ∧ w.extractLsb' 0 4 = 0 then some (.vfrcpF32 (w.extractLsb' 16 6) (w.extractLsb'
      10 6)) else none) := by
  unfold decodeLX
  rw [h]
  rfl

/-- Operation 16 of class 4. -/
theorem arm_LX_16 (w : Word) (h : w.extractLsb' 22 6 = 16) :
    decodeLX w = (if w.extractLsb' 4 6 = 0 ∧ w.extractLsb' 0 4 = 0 then some (.vfrsqF32 (w.extractLsb' 16 6) (w.extractLsb'
      10 6)) else none) := by
  unfold decodeLX
  rw [h]
  rfl

/-- Operation 17 of class 4. -/
theorem arm_LX_17 (w : Word) (h : w.extractLsb' 22 6 = 17) :
    decodeLX w = (if w.extractLsb' 4 6 = 0 ∧ w.extractLsb' 0 4 = 0 then some (.vfsqrtF32 (w.extractLsb' 16 6) (w.extractLsb'
      10 6)) else none) := by
  unfold decodeLX
  rw [h]
  rfl

/-- Operation 18 of class 4. -/
theorem arm_LX_18 (w : Word) (h : w.extractLsb' 22 6 = 18) :
    decodeLX w = (if w.extractLsb' 4 6 = 0 ∧ w.extractLsb' 0 4 = 0 then some (.vfexp2F32 (w.extractLsb' 16 6) (w.extractLsb'
      10 6)) else none) := by
  unfold decodeLX
  rw [h]
  rfl

/-- Operation 19 of class 4. -/
theorem arm_LX_19 (w : Word) (h : w.extractLsb' 22 6 = 19) :
    decodeLX w = (if w.extractLsb' 4 6 = 0 ∧ w.extractLsb' 0 4 = 0 then some (.vflog2F32 (w.extractLsb' 16 6) (w.extractLsb'
      10 6)) else none) := by
  unfold decodeLX
  rw [h]
  rfl

/-- Operation 20 of class 4. -/
theorem arm_LX_20 (w : Word) (h : w.extractLsb' 22 6 = 20) :
    decodeLX w = (if w.extractLsb' 4 6 = 0 ∧ w.extractLsb' 0 4 = 0 then some (.vfsinpiF32 (w.extractLsb' 16 6) (w.extractLsb'
      10 6)) else none) := by
  unfold decodeLX
  rw [h]
  rfl

/-- Operation 21 of class 4. -/
theorem arm_LX_21 (w : Word) (h : w.extractLsb' 22 6 = 21) :
    decodeLX w = (if w.extractLsb' 4 6 = 0 ∧ w.extractLsb' 0 4 = 0 then some (.vfcospiF32 (w.extractLsb' 16 6) (w.extractLsb'
      10 6)) else none) := by
  unfold decodeLX
  rw [h]
  rfl

/-- Operation 22 of class 4. -/
theorem arm_LX_22 (w : Word) (h : w.extractLsb' 22 6 = 22) :
    decodeLX w = (if w.extractLsb' 4 6 = 0 ∧ w.extractLsb' 0 4 = 0 then some (.vftanhF32 (w.extractLsb' 16 6) (w.extractLsb'
      10 6)) else none) := by
  unfold decodeLX
  rw [h]
  rfl

/-- Operation 23 of class 4. -/
theorem arm_LX_23 (w : Word) (h : w.extractLsb' 22 6 = 23) :
    decodeLX w = (if w.extractLsb' 4 6 = 0 then some (.vfclass (w.extractLsb' 16 6) (w.extractLsb' 10 6) (w.extractLsb' 0 4))
      else none) := by
  unfold decodeLX
  rw [h]
  rfl

/-- Operation 24 of class 4. -/
theorem arm_LX_24 (w : Word) (h : w.extractLsb' 22 6 = 24) :
    decodeLX w = (if w.extractLsb' 4 6 = 0 then some (.vunary (w.extractLsb' 16 6) (w.extractLsb' 10 6) (w.extractLsb' 0 4))
      else none) := by
  unfold decodeLX
  rw [h]
  rfl

/-- Operation 25 of class 4. -/
theorem arm_LX_25 (w : Word) (h : w.extractLsb' 22 6 = 25) :
    decodeLX w = (if w.extractLsb' 4 6 = 0 then some (.vcvt (w.extractLsb' 16 6) (w.extractLsb' 10 6) (w.extractLsb' 0 4))
      else none) := by
  unfold decodeLX
  rw [h]
  rfl

/-- Operation 26 of class 4. -/
theorem arm_LX_26 (w : Word) (h : w.extractLsb' 22 6 = 26) :
    decodeLX w = (if w.extractLsb' 4 6 = 0 then some (.vcvtb (w.extractLsb' 16 6) (w.extractLsb' 10 6) (w.extractLsb' 0 4))
      else none) := by
  unfold decodeLX
  rw [h]
  rfl

/-- Operation 27 of class 4. -/
theorem arm_LX_27 (w : Word) (h : w.extractLsb' 22 6 = 27) :
    decodeLX w = (some (.vpack (w.extractLsb' 16 6) (w.extractLsb' 10 6) (w.extractLsb' 4 6) (w.extractLsb' 0 4))) := by
  unfold decodeLX
  rw [h]
  rfl

/-- Operation 28 of class 4. -/
theorem arm_LX_28 (w : Word) (h : w.extractLsb' 22 6 = 28) :
    decodeLX w = (some (.vunpack (w.extractLsb' 16 6) (w.extractLsb' 10 6) (w.extractLsb' 4 6) (w.extractLsb' 0 4))) := by
  unfold decodeLX
  rw [h]
  rfl

/-- Operation 29 of class 4. -/
theorem arm_LX_29 (w : Word) (h : w.extractLsb' 22 6 = 29) :
    decodeLX w = (some (.vkmov (w.extractLsb' 16 6) (w.extractLsb' 10 6) (w.extractLsb' 4 6) (w.extractLsb' 0 4))) := by
  unfold decodeLX
  rw [h]
  rfl

/-- A word of class 5. -/
theorem class_LB (w : Word) (r : List Word) (h : w.extractLsb' 28 4 = 5) :
    decodeWords (w :: r) = decodeLB w r := by
  show (match (w.extractLsb' 28 4).toNat with
    | 0 => decodeLR w | 1 => decodeLI w | 2 => decodeLT w | 3 => decodeLM w | 4 => decodeLX w | 5 => decodeLB w r
    | 6 => decodeLE w r | 8 => decodeUR w | 9 => decodeUI w | 10 => decodeUK w | 11 => decodeUM w | 12 => decodeUB w
    | 13 => decodeUE w r | 14 => decodeUS w | _ => none) = _
  rw [h]
  rfl

/-- Operation 0 of class 5. -/
theorem arm_LB_0 (w : Word) (inl : List Word) (h : w.extractLsb' 24 4 = 0) :
    decodeLB w inl = (some (.vbr (w.extractLsb' 21 3) (w.extractLsb' 18 3) (w.extractLsb' 0 18))) := by
  unfold decodeLB
  rw [h]
  rfl

/-- Operation 1 of class 5. -/
theorem arm_LB_1 (w : Word) (inl : List Word) (h : w.extractLsb' 24 4 = 1) :
    decodeLB w inl = (some (.vbrn (w.extractLsb' 21 3) (w.extractLsb' 18 3) (w.extractLsb' 0 18))) := by
  unfold decodeLB
  rw [h]
  rfl

/-- Operation 2 of class 5. -/
theorem arm_LB_2 (w : Word) (inl : List Word) (h : w.extractLsb' 24 4 = 2) :
    decodeLB w inl = (if w.extractLsb' 0 13 = 0 then some (.vjoin (w.extractLsb' 21 3) (w.extractLsb' 13 8)) else none) := by
  unfold decodeLB
  rw [h]
  rfl

/-- Operation 3 of class 5. -/
theorem arm_LB_3 (w : Word) (inl : List Word) (h : w.extractLsb' 24 4 = 3) :
    decodeLB w inl = (if w.extractLsb' 0 13 = 0 then some (.vreform (w.extractLsb' 21 3) (w.extractLsb' 13 8)) else none) := by
  unfold decodeLB
  rw [h]
  rfl

/-- Operation 4 of class 5. -/
theorem arm_LB_4 (w : Word) (inl : List Word) (h : w.extractLsb' 24 4 = 4) :
    decodeLB w inl = (if w.extractLsb' 18 6 = 0 then some (.vcall (w.extractLsb' 0 18)) else none) := by
  unfold decodeLB
  rw [h]
  rfl

/-- Operation 5 of class 5. -/
theorem arm_LB_5 (w : Word) (inl : List Word) (h : w.extractLsb' 24 4 = 5) :
    decodeLB w inl = (if w.extractLsb' 0 18 = 0 then some (.vcallr (w.extractLsb' 18 6)) else none) := by
  unfold decodeLB
  rw [h]
  rfl

/-- Operation 6 of class 5. -/
theorem arm_LB_6 (w : Word) (inl : List Word) (h : w.extractLsb' 24 4 = 6) :
    decodeLB w inl = (if w.extractLsb' 0 24 = 0 then some (.vret) else none) := by
  unfold decodeLB
  rw [h]
  rfl

/-- Operation 7 of class 5. -/
theorem arm_LB_7 (w : Word) (inl : List Word) (h : w.extractLsb' 24 4 = 7) :
    decodeLB w inl = (if w.extractLsb' 0 24 = 0 then some (.vexit) else none) := by
  unfold decodeLB
  rw [h]
  rfl

/-- Operation 8 of class 5. -/
theorem arm_LB_8 (w : Word) (inl : List Word) (h : w.extractLsb' 24 4 = 8) :
    decodeLB w inl = (let n := (w.extractLsb' 8 4).toNat + 1
    if w.extractLsb' 18 3 = 0 ∧ w.extractLsb' 0 8 = 0 ∧ n ≤ inl.length then
      some (.vswitch (w.extractLsb' 21 3) (w.extractLsb' 12 6) (inl.take n))
    else none) := by
  unfold decodeLB
  rw [h]
  rfl

/-- A word of class 6. -/
theorem class_LE (w : Word) (r : List Word) (h : w.extractLsb' 28 4 = 6) :
    decodeWords (w :: r) = decodeLE w r := by
  show (match (w.extractLsb' 28 4).toNat with
    | 0 => decodeLR w | 1 => decodeLI w | 2 => decodeLT w | 3 => decodeLM w | 4 => decodeLX w | 5 => decodeLB w r
    | 6 => decodeLE w r | 8 => decodeUR w | 9 => decodeUI w | 10 => decodeUK w | 11 => decodeUM w | 12 => decodeUB w
    | 13 => decodeUE w r | 14 => decodeUS w | _ => none) = _
  rw [h]
  rfl

/-- Operation 0 of class 6. -/
theorem arm_LE_0 (w : Word) (inl : List Word) (h : w.extractLsb' 22 6 = 0) :
    decodeLE w inl = (match inl with
    | x0 :: _ =>
      if w.extractLsb' 10 6 = 0 ∧ w.extractLsb' 4 6 = 0 ∧ w.extractLsb' 0 4 = 1 then some (.vmovl
        (w.extractLsb' 16 6) x0) else none
    | _ => none) := by
  unfold decodeLE
  rw [h]
  rfl

/-- Operation 1 of class 6. -/
theorem arm_LE_1 (w : Word) (inl : List Word) (h : w.extractLsb' 22 6 = 1) :
    decodeLE w inl = (match inl with
    | x0 :: _ =>
      if w.extractLsb' 0 4 = 1 ∧ x0.extractLsb' 22 3 = 0 then some (.vatom (w.extractLsb' 16 6) (w.extractLsb'
        10 6) (w.extractLsb' 4 6) (x0.extractLsb' 27 5) (x0.extractLsb' 26 1) (x0.extractLsb' 25 1)
        (x0.extractLsb' 16 6) (x0.extractLsb' 0 16)) else none
    | _ => none) := by
  unfold decodeLE
  rw [h]
  rfl

/-- Operation 2 of class 6. -/
theorem arm_LE_2 (w : Word) (inl : List Word) (h : w.extractLsb' 22 6 = 2) :
    decodeLE w inl = (match inl with
    | x0 :: _ =>
      if w.extractLsb' 0 4 = 1 ∧ x0.extractLsb' 3 29 = 0 then some (.vcopy (w.extractLsb' 16 6) (w.extractLsb'
        10 6) (w.extractLsb' 4 6) (x0.extractLsb' 0 3)) else none
    | _ => none) := by
  unfold decodeLE
  rw [h]
  rfl

/-- Operation 3 of class 6. -/
theorem arm_LE_3 (w : Word) (inl : List Word) (h : w.extractLsb' 22 6 = 3) :
    decodeLE w inl = (match inl with
    | x0 :: _ =>
      if w.extractLsb' 0 4 = 1 ∧ x0.extractLsb' 29 3 = 0 then some (.vldg (w.extractLsb' 16 6) (w.extractLsb'
        10 6) (w.extractLsb' 4 6) (x0.extractLsb' 26 3) (x0.extractLsb' 24 2) (x0.extractLsb' 23 1)
        (x0.extractLsb' 20 3) (x0.extractLsb' 16 4) (x0.extractLsb' 0 16)) else none
    | _ => none) := by
  unfold decodeLE
  rw [h]
  rfl

/-- A word of class 8. -/
theorem class_UR (w : Word) (r : List Word) (h : w.extractLsb' 28 4 = 8) :
    decodeWords (w :: r) = decodeUR w := by
  show (match (w.extractLsb' 28 4).toNat with
    | 0 => decodeLR w | 1 => decodeLI w | 2 => decodeLT w | 3 => decodeLM w | 4 => decodeLX w | 5 => decodeLB w r
    | 6 => decodeLE w r | 8 => decodeUR w | 9 => decodeUI w | 10 => decodeUK w | 11 => decodeUM w | 12 => decodeUB w
    | 13 => decodeUE w r | 14 => decodeUS w | _ => none) = _
  rw [h]
  rfl

/-- Operation 0 of class 8. -/
theorem arm_UR_0 (w : Word) (h : w.extractLsb' 22 6 = 0) :
    decodeUR w = (if w.extractLsb' 0 4 = 0 then some (.sadd (w.extractLsb' 16 6) (w.extractLsb' 10 6) (w.extractLsb' 4 6))
      else none) := by
  unfold decodeUR
  rw [h]
  rfl

/-- Operation 1 of class 8. -/
theorem arm_UR_1 (w : Word) (h : w.extractLsb' 22 6 = 1) :
    decodeUR w = (if w.extractLsb' 0 4 = 0 then some (.ssub (w.extractLsb' 16 6) (w.extractLsb' 10 6) (w.extractLsb' 4 6))
      else none) := by
  unfold decodeUR
  rw [h]
  rfl

/-- Operation 2 of class 8. -/
theorem arm_UR_2 (w : Word) (h : w.extractLsb' 22 6 = 2) :
    decodeUR w = (if w.extractLsb' 0 4 = 0 then some (.smul (w.extractLsb' 16 6) (w.extractLsb' 10 6) (w.extractLsb' 4 6))
      else none) := by
  unfold decodeUR
  rw [h]
  rfl

/-- Operation 3 of class 8. -/
theorem arm_UR_3 (w : Word) (h : w.extractLsb' 22 6 = 3) :
    decodeUR w = (if w.extractLsb' 0 4 = 0 then some (.smulhI32 (w.extractLsb' 16 6) (w.extractLsb' 10 6) (w.extractLsb' 4
      6)) else none) := by
  unfold decodeUR
  rw [h]
  rfl

/-- Operation 4 of class 8. -/
theorem arm_UR_4 (w : Word) (h : w.extractLsb' 22 6 = 4) :
    decodeUR w = (if w.extractLsb' 0 4 = 0 then some (.smulhN32 (w.extractLsb' 16 6) (w.extractLsb' 10 6) (w.extractLsb' 4
      6)) else none) := by
  unfold decodeUR
  rw [h]
  rfl

/-- Operation 5 of class 8. -/
theorem arm_UR_5 (w : Word) (h : w.extractLsb' 22 6 = 5) :
    decodeUR w = (if w.extractLsb' 0 4 = 0 then some (.sminI32 (w.extractLsb' 16 6) (w.extractLsb' 10 6) (w.extractLsb' 4 6))
      else none) := by
  unfold decodeUR
  rw [h]
  rfl

/-- Operation 6 of class 8. -/
theorem arm_UR_6 (w : Word) (h : w.extractLsb' 22 6 = 6) :
    decodeUR w = (if w.extractLsb' 0 4 = 0 then some (.sminN32 (w.extractLsb' 16 6) (w.extractLsb' 10 6) (w.extractLsb' 4 6))
      else none) := by
  unfold decodeUR
  rw [h]
  rfl

/-- Operation 7 of class 8. -/
theorem arm_UR_7 (w : Word) (h : w.extractLsb' 22 6 = 7) :
    decodeUR w = (if w.extractLsb' 0 4 = 0 then some (.smaxI32 (w.extractLsb' 16 6) (w.extractLsb' 10 6) (w.extractLsb' 4 6))
      else none) := by
  unfold decodeUR
  rw [h]
  rfl

/-- Operation 8 of class 8. -/
theorem arm_UR_8 (w : Word) (h : w.extractLsb' 22 6 = 8) :
    decodeUR w = (if w.extractLsb' 0 4 = 0 then some (.smaxN32 (w.extractLsb' 16 6) (w.extractLsb' 10 6) (w.extractLsb' 4 6))
      else none) := by
  unfold decodeUR
  rw [h]
  rfl

/-- Operation 9 of class 8. -/
theorem arm_UR_9 (w : Word) (h : w.extractLsb' 22 6 = 9) :
    decodeUR w = (if w.extractLsb' 0 4 = 0 then some (.sand (w.extractLsb' 16 6) (w.extractLsb' 10 6) (w.extractLsb' 4 6))
      else none) := by
  unfold decodeUR
  rw [h]
  rfl

/-- Operation 10 of class 8. -/
theorem arm_UR_10 (w : Word) (h : w.extractLsb' 22 6 = 10) :
    decodeUR w = (if w.extractLsb' 0 4 = 0 then some (.sor (w.extractLsb' 16 6) (w.extractLsb' 10 6) (w.extractLsb' 4 6))
      else none) := by
  unfold decodeUR
  rw [h]
  rfl

/-- Operation 11 of class 8. -/
theorem arm_UR_11 (w : Word) (h : w.extractLsb' 22 6 = 11) :
    decodeUR w = (if w.extractLsb' 0 4 = 0 then some (.sxor (w.extractLsb' 16 6) (w.extractLsb' 10 6) (w.extractLsb' 4 6))
      else none) := by
  unfold decodeUR
  rw [h]
  rfl

/-- Operation 12 of class 8. -/
theorem arm_UR_12 (w : Word) (h : w.extractLsb' 22 6 = 12) :
    decodeUR w = (if w.extractLsb' 0 4 = 0 then some (.sshl (w.extractLsb' 16 6) (w.extractLsb' 10 6) (w.extractLsb' 4 6))
      else none) := by
  unfold decodeUR
  rw [h]
  rfl

/-- Operation 13 of class 8. -/
theorem arm_UR_13 (w : Word) (h : w.extractLsb' 22 6 = 13) :
    decodeUR w = (if w.extractLsb' 0 4 = 0 then some (.sshr (w.extractLsb' 16 6) (w.extractLsb' 10 6) (w.extractLsb' 4 6))
      else none) := by
  unfold decodeUR
  rw [h]
  rfl

/-- Operation 14 of class 8. -/
theorem arm_UR_14 (w : Word) (h : w.extractLsb' 22 6 = 14) :
    decodeUR w = (if w.extractLsb' 0 4 = 0 then some (.ssar (w.extractLsb' 16 6) (w.extractLsb' 10 6) (w.extractLsb' 4 6))
      else none) := by
  unfold decodeUR
  rw [h]
  rfl

/-- Operation 15 of class 8. -/
theorem arm_UR_15 (w : Word) (h : w.extractLsb' 22 6 = 15) :
    decodeUR w = (some (.scmp (w.extractLsb' 16 6) (w.extractLsb' 10 6) (w.extractLsb' 4 6) (w.extractLsb' 0 4))) := by
  unfold decodeUR
  rw [h]
  rfl

/-- Operation 16 of class 8. -/
theorem arm_UR_16 (w : Word) (h : w.extractLsb' 22 6 = 16) :
    decodeUR w = (if w.extractLsb' 0 4 = 0 then some (.ssel (w.extractLsb' 16 6) (w.extractLsb' 10 6) (w.extractLsb' 4 6))
      else none) := by
  unfold decodeUR
  rw [h]
  rfl

/-- Operation 17 of class 8. -/
theorem arm_UR_17 (w : Word) (h : w.extractLsb' 22 6 = 17) :
    decodeUR w = (if w.extractLsb' 4 6 = 0 ∧ w.extractLsb' 0 4 = 0 then some (.smov (w.extractLsb' 16 6) (w.extractLsb' 10
      6)) else none) := by
  unfold decodeUR
  rw [h]
  rfl

/-- Operation 18 of class 8. -/
theorem arm_UR_18 (w : Word) (h : w.extractLsb' 22 6 = 18) :
    decodeUR w = (if w.extractLsb' 4 6 = 0 ∧ w.extractLsb' 0 4 = 0 then some (.spopc (w.extractLsb' 16 6) (w.extractLsb' 10
      6)) else none) := by
  unfold decodeUR
  rw [h]
  rfl

/-- Operation 19 of class 8. -/
theorem arm_UR_19 (w : Word) (h : w.extractLsb' 22 6 = 19) :
    decodeUR w = (if w.extractLsb' 4 6 = 0 ∧ w.extractLsb' 0 4 = 0 then some (.sclz (w.extractLsb' 16 6) (w.extractLsb' 10
      6)) else none) := by
  unfold decodeUR
  rw [h]
  rfl

/-- Operation 20 of class 8. -/
theorem arm_UR_20 (w : Word) (h : w.extractLsb' 22 6 = 20) :
    decodeUR w = (if w.extractLsb' 0 4 = 0 then some (.sdivN32 (w.extractLsb' 16 6) (w.extractLsb' 10 6) (w.extractLsb' 4 6))
      else none) := by
  unfold decodeUR
  rw [h]
  rfl

/-- Operation 21 of class 8. -/
theorem arm_UR_21 (w : Word) (h : w.extractLsb' 22 6 = 21) :
    decodeUR w = (if w.extractLsb' 0 4 = 0 then some (.sremN32 (w.extractLsb' 16 6) (w.extractLsb' 10 6) (w.extractLsb' 4 6))
      else none) := by
  unfold decodeUR
  rw [h]
  rfl

/-- Operation 22 of class 8. -/
theorem arm_UR_22 (w : Word) (h : w.extractLsb' 22 6 = 22) :
    decodeUR w = (if w.extractLsb' 0 4 = 0 then some (.sdivI32 (w.extractLsb' 16 6) (w.extractLsb' 10 6) (w.extractLsb' 4 6))
      else none) := by
  unfold decodeUR
  rw [h]
  rfl

/-- Operation 23 of class 8. -/
theorem arm_UR_23 (w : Word) (h : w.extractLsb' 22 6 = 23) :
    decodeUR w = (if w.extractLsb' 0 4 = 0 then some (.sremI32 (w.extractLsb' 16 6) (w.extractLsb' 10 6) (w.extractLsb' 4 6))
      else none) := by
  unfold decodeUR
  rw [h]
  rfl

/-- Operation 24 of class 8. -/
theorem arm_UR_24 (w : Word) (h : w.extractLsb' 22 6 = 24) :
    decodeUR w = (if w.extractLsb' 0 4 = 0 then some (.sfadd (w.extractLsb' 16 6) (w.extractLsb' 10 6) (w.extractLsb' 4 6))
      else none) := by
  unfold decodeUR
  rw [h]
  rfl

/-- Operation 25 of class 8. -/
theorem arm_UR_25 (w : Word) (h : w.extractLsb' 22 6 = 25) :
    decodeUR w = (if w.extractLsb' 0 4 = 0 then some (.sfmul (w.extractLsb' 16 6) (w.extractLsb' 10 6) (w.extractLsb' 4 6))
      else none) := by
  unfold decodeUR
  rw [h]
  rfl

/-- Operation 26 of class 8. -/
theorem arm_UR_26 (w : Word) (h : w.extractLsb' 22 6 = 26) :
    decodeUR w = (if w.extractLsb' 0 4 = 0 then some (.sffma (w.extractLsb' 16 6) (w.extractLsb' 10 6) (w.extractLsb' 4 6))
      else none) := by
  unfold decodeUR
  rw [h]
  rfl

/-- Operation 27 of class 8. -/
theorem arm_UR_27 (w : Word) (h : w.extractLsb' 22 6 = 27) :
    decodeUR w = (some (.sfcmp (w.extractLsb' 16 6) (w.extractLsb' 10 6) (w.extractLsb' 4 6) (w.extractLsb' 0 4))) := by
  unfold decodeUR
  rw [h]
  rfl

/-- Operation 28 of class 8. -/
theorem arm_UR_28 (w : Word) (h : w.extractLsb' 22 6 = 28) :
    decodeUR w = (some (.scvt (w.extractLsb' 16 6) (w.extractLsb' 10 6) (w.extractLsb' 4 6) (w.extractLsb' 0 4))) := by
  unfold decodeUR
  rw [h]
  rfl

/-- Operation 29 of class 8. -/
theorem arm_UR_29 (w : Word) (h : w.extractLsb' 22 6 = 29) :
    decodeUR w = (if w.extractLsb' 0 4 = 0 then some (.sadd64 (w.extractLsb' 16 6) (w.extractLsb' 10 6) (w.extractLsb' 4 6))
      else none) := by
  unfold decodeUR
  rw [h]
  rfl

/-- Operation 30 of class 8. -/
theorem arm_UR_30 (w : Word) (h : w.extractLsb' 22 6 = 30) :
    decodeUR w = (if w.extractLsb' 0 4 = 0 then some (.ssub64 (w.extractLsb' 16 6) (w.extractLsb' 10 6) (w.extractLsb' 4 6))
      else none) := by
  unfold decodeUR
  rw [h]
  rfl

/-- Operation 31 of class 8. -/
theorem arm_UR_31 (w : Word) (h : w.extractLsb' 22 6 = 31) :
    decodeUR w = (if w.extractLsb' 0 4 = 0 then some (.smulw (w.extractLsb' 16 6) (w.extractLsb' 10 6) (w.extractLsb' 4 6))
      else none) := by
  unfold decodeUR
  rw [h]
  rfl

/-- A word of class 9. -/
theorem class_UI (w : Word) (r : List Word) (h : w.extractLsb' 28 4 = 9) :
    decodeWords (w :: r) = decodeUI w := by
  show (match (w.extractLsb' 28 4).toNat with
    | 0 => decodeLR w | 1 => decodeLI w | 2 => decodeLT w | 3 => decodeLM w | 4 => decodeLX w | 5 => decodeLB w r
    | 6 => decodeLE w r | 8 => decodeUR w | 9 => decodeUI w | 10 => decodeUK w | 11 => decodeUM w | 12 => decodeUB w
    | 13 => decodeUE w r | 14 => decodeUS w | _ => none) = _
  rw [h]
  rfl

/-- Operation 0 of class 9. -/
theorem arm_UI_0 (w : Word) (h : w.extractLsb' 24 4 = 0) :
    decodeUI w = (some (.saddi (w.extractLsb' 18 6) (w.extractLsb' 12 6) (w.extractLsb' 0 12))) := by
  unfold decodeUI
  rw [h]
  rfl

/-- Operation 1 of class 9. -/
theorem arm_UI_1 (w : Word) (h : w.extractLsb' 24 4 = 1) :
    decodeUI w = (some (.smuli (w.extractLsb' 18 6) (w.extractLsb' 12 6) (w.extractLsb' 0 12))) := by
  unfold decodeUI
  rw [h]
  rfl

/-- Operation 2 of class 9. -/
theorem arm_UI_2 (w : Word) (h : w.extractLsb' 24 4 = 2) :
    decodeUI w = (some (.sandi (w.extractLsb' 18 6) (w.extractLsb' 12 6) (w.extractLsb' 0 12))) := by
  unfold decodeUI
  rw [h]
  rfl

/-- Operation 3 of class 9. -/
theorem arm_UI_3 (w : Word) (h : w.extractLsb' 24 4 = 3) :
    decodeUI w = (some (.sori (w.extractLsb' 18 6) (w.extractLsb' 12 6) (w.extractLsb' 0 12))) := by
  unfold decodeUI
  rw [h]
  rfl

/-- Operation 4 of class 9. -/
theorem arm_UI_4 (w : Word) (h : w.extractLsb' 24 4 = 4) :
    decodeUI w = (some (.sxori (w.extractLsb' 18 6) (w.extractLsb' 12 6) (w.extractLsb' 0 12))) := by
  unfold decodeUI
  rw [h]
  rfl

/-- Operation 5 of class 9. -/
theorem arm_UI_5 (w : Word) (h : w.extractLsb' 24 4 = 5) :
    decodeUI w = (some (.sshli (w.extractLsb' 18 6) (w.extractLsb' 12 6) (w.extractLsb' 0 12))) := by
  unfold decodeUI
  rw [h]
  rfl

/-- Operation 6 of class 9. -/
theorem arm_UI_6 (w : Word) (h : w.extractLsb' 24 4 = 6) :
    decodeUI w = (some (.sshri (w.extractLsb' 18 6) (w.extractLsb' 12 6) (w.extractLsb' 0 12))) := by
  unfold decodeUI
  rw [h]
  rfl

/-- Operation 7 of class 9. -/
theorem arm_UI_7 (w : Word) (h : w.extractLsb' 24 4 = 7) :
    decodeUI w = (some (.ssari (w.extractLsb' 18 6) (w.extractLsb' 12 6) (w.extractLsb' 0 12))) := by
  unfold decodeUI
  rw [h]
  rfl

/-- Operation 8 of class 9. -/
theorem arm_UI_8 (w : Word) (h : w.extractLsb' 24 4 = 8) :
    decodeUI w = (some (.sltiI32 (w.extractLsb' 18 6) (w.extractLsb' 12 6) (w.extractLsb' 0 12))) := by
  unfold decodeUI
  rw [h]
  rfl

/-- Operation 9 of class 9. -/
theorem arm_UI_9 (w : Word) (h : w.extractLsb' 24 4 = 9) :
    decodeUI w = (some (.sltiN32 (w.extractLsb' 18 6) (w.extractLsb' 12 6) (w.extractLsb' 0 12))) := by
  unfold decodeUI
  rw [h]
  rfl

/-- Operation 10 of class 9. -/
theorem arm_UI_10 (w : Word) (h : w.extractLsb' 24 4 = 10) :
    decodeUI w = (some (.seqi (w.extractLsb' 18 6) (w.extractLsb' 12 6) (w.extractLsb' 0 12))) := by
  unfold decodeUI
  rw [h]
  rfl

/-- Operation 11 of class 9. -/
theorem arm_UI_11 (w : Word) (h : w.extractLsb' 24 4 = 11) :
    decodeUI w = (some (.sadd64i (w.extractLsb' 18 6) (w.extractLsb' 12 6) (w.extractLsb' 0 12))) := by
  unfold decodeUI
  rw [h]
  rfl

/-- A word of class 10. -/
theorem class_UK (w : Word) (r : List Word) (h : w.extractLsb' 28 4 = 10) :
    decodeWords (w :: r) = decodeUK w := by
  show (match (w.extractLsb' 28 4).toNat with
    | 0 => decodeLR w | 1 => decodeLI w | 2 => decodeLT w | 3 => decodeLM w | 4 => decodeLX w | 5 => decodeLB w r
    | 6 => decodeLE w r | 8 => decodeUR w | 9 => decodeUI w | 10 => decodeUK w | 11 => decodeUM w | 12 => decodeUB w
    | 13 => decodeUE w r | 14 => decodeUS w | _ => none) = _
  rw [h]
  rfl

/-- Operation 0 of class 10. -/
theorem arm_UK_0 (w : Word) (h : w.extractLsb' 24 4 = 0) :
    decodeUK w = (some (.smovi (w.extractLsb' 18 6) (w.extractLsb' 0 18))) := by
  unfold decodeUK
  rw [h]
  rfl

/-- Operation 1 of class 10. -/
theorem arm_UK_1 (w : Word) (h : w.extractLsb' 24 4 = 1) :
    decodeUK w = (some (.shii (w.extractLsb' 18 6) (w.extractLsb' 0 18))) := by
  unfold decodeUK
  rw [h]
  rfl

/-- Operation 2 of class 10. -/
theorem arm_UK_2 (w : Word) (h : w.extractLsb' 24 4 = 2) :
    decodeUK w = (some (.saddpc (w.extractLsb' 18 6) (w.extractLsb' 0 18))) := by
  unfold decodeUK
  rw [h]
  rfl

/-- Operation 3 of class 10. -/
theorem arm_UK_3 (w : Word) (h : w.extractLsb' 24 4 = 3) :
    decodeUK w = (if w.extractLsb' 6 6 = 0 then some (.route (w.extractLsb' 18 6) (w.extractLsb' 16 2) (w.extractLsb' 14 2)
      (w.extractLsb' 13 1) (w.extractLsb' 12 1) (w.extractLsb' 0 6)) else none) := by
  unfold decodeUK
  rw [h]
  rfl

/-- Operation 4 of class 10. -/
theorem arm_UK_4 (w : Word) (h : w.extractLsb' 24 4 = 4) :
    decodeUK w = (if w.extractLsb' 3 21 = 0 then some (.part (w.extractLsb' 0 3)) else none) := by
  unfold decodeUK
  rw [h]
  rfl

/-- Operation 5 of class 10. -/
theorem arm_UK_5 (w : Word) (h : w.extractLsb' 24 4 = 5) :
    decodeUK w = (if w.extractLsb' 16 8 = 0 then some (.mode (w.extractLsb' 8 8) (w.extractLsb' 0 8)) else none) := by
  unfold decodeUK
  rw [h]
  rfl

/-- Operation 6 of class 10. -/
theorem arm_UK_6 (w : Word) (h : w.extractLsb' 24 4 = 6) :
    decodeUK w = (if w.extractLsb' 17 1 = 0 ∧ w.extractLsb' 4 12 = 0 then some (.acq (w.extractLsb' 18 6) (w.extractLsb' 16
      1) (w.extractLsb' 0 4)) else none) := by
  unfold decodeUK
  rw [h]
  rfl

/-- Operation 7 of class 10. -/
theorem arm_UK_7 (w : Word) (h : w.extractLsb' 24 4 = 7) :
    decodeUK w = (if w.extractLsb' 4 20 = 0 then some (.rel (w.extractLsb' 0 4)) else none) := by
  unfold decodeUK
  rw [h]
  rfl

/-- A word of class 11. -/
theorem class_UM (w : Word) (r : List Word) (h : w.extractLsb' 28 4 = 11) :
    decodeWords (w :: r) = decodeUM w := by
  show (match (w.extractLsb' 28 4).toNat with
    | 0 => decodeLR w | 1 => decodeLI w | 2 => decodeLT w | 3 => decodeLM w | 4 => decodeLX w | 5 => decodeLB w r
    | 6 => decodeLE w r | 8 => decodeUR w | 9 => decodeUI w | 10 => decodeUK w | 11 => decodeUM w | 12 => decodeUB w
    | 13 => decodeUE w r | 14 => decodeUS w | _ => none) = _
  rw [h]
  rfl

/-- Operation 0 of class 11. -/
theorem arm_UM_0 (w : Word) (h : w.extractLsb' 24 4 = 0) :
    decodeUM w = (some (.sld (w.extractLsb' 18 6) (w.extractLsb' 12 6) (w.extractLsb' 9 3) (w.extractLsb' 0 9))) := by
  unfold decodeUM
  rw [h]
  rfl

/-- Operation 1 of class 11. -/
theorem arm_UM_1 (w : Word) (h : w.extractLsb' 24 4 = 1) :
    decodeUM w = (some (.sst (w.extractLsb' 18 6) (w.extractLsb' 12 6) (w.extractLsb' 9 3) (w.extractLsb' 0 9))) := by
  unfold decodeUM
  rw [h]
  rfl

/-- Operation 2 of class 11. -/
theorem arm_UM_2 (w : Word) (h : w.extractLsb' 24 4 = 2) :
    decodeUM w = (some (.sldc (w.extractLsb' 18 6) (w.extractLsb' 12 6) (w.extractLsb' 9 3) (w.extractLsb' 0 9))) := by
  unfold decodeUM
  rw [h]
  rfl

/-- A word of class 12. -/
theorem class_UB (w : Word) (r : List Word) (h : w.extractLsb' 28 4 = 12) :
    decodeWords (w :: r) = decodeUB w := by
  show (match (w.extractLsb' 28 4).toNat with
    | 0 => decodeLR w | 1 => decodeLI w | 2 => decodeLT w | 3 => decodeLM w | 4 => decodeLX w | 5 => decodeLB w r
    | 6 => decodeLE w r | 8 => decodeUR w | 9 => decodeUI w | 10 => decodeUK w | 11 => decodeUM w | 12 => decodeUB w
    | 13 => decodeUE w r | 14 => decodeUS w | _ => none) = _
  rw [h]
  rfl

/-- Operation 0 of class 12. -/
theorem arm_UB_0 (w : Word) (h : w.extractLsb' 24 4 = 0) :
    decodeUB w = (some (.jmp (w.extractLsb' 0 24))) := by
  unfold decodeUB
  rw [h]
  rfl

/-- Operation 1 of class 12. -/
theorem arm_UB_1 (w : Word) (h : w.extractLsb' 24 4 = 1) :
    decodeUB w = (some (.brz (w.extractLsb' 18 6) (w.extractLsb' 0 18))) := by
  unfold decodeUB
  rw [h]
  rfl

/-- Operation 2 of class 12. -/
theorem arm_UB_2 (w : Word) (h : w.extractLsb' 24 4 = 2) :
    decodeUB w = (some (.brnz (w.extractLsb' 18 6) (w.extractLsb' 0 18))) := by
  unfold decodeUB
  rw [h]
  rfl

/-- Operation 3 of class 12. -/
theorem arm_UB_3 (w : Word) (h : w.extractLsb' 24 4 = 3) :
    decodeUB w = (some (.call (w.extractLsb' 0 24))) := by
  unfold decodeUB
  rw [h]
  rfl

/-- Operation 4 of class 12. -/
theorem arm_UB_4 (w : Word) (h : w.extractLsb' 24 4 = 4) :
    decodeUB w = (if w.extractLsb' 0 18 = 0 then some (.callr (w.extractLsb' 18 6)) else none) := by
  unfold decodeUB
  rw [h]
  rfl

/-- Operation 5 of class 12. -/
theorem arm_UB_5 (w : Word) (h : w.extractLsb' 24 4 = 5) :
    decodeUB w = (if w.extractLsb' 0 24 = 0 then some (.ret) else none) := by
  unfold decodeUB
  rw [h]
  rfl

/-- Operation 6 of class 12. -/
theorem arm_UB_6 (w : Word) (h : w.extractLsb' 24 4 = 6) :
    decodeUB w = (if w.extractLsb' 0 24 = 0 then some (.exit) else none) := by
  unfold decodeUB
  rw [h]
  rfl

/-- Operation 7 of class 12. -/
theorem arm_UB_7 (w : Word) (h : w.extractLsb' 24 4 = 7) :
    decodeUB w = (if w.extractLsb' 0 24 = 0 then some (.yield) else none) := by
  unfold decodeUB
  rw [h]
  rfl

/-- Operation 8 of class 12. -/
theorem arm_UB_8 (w : Word) (h : w.extractLsb' 24 4 = 8) :
    decodeUB w = (if w.extractLsb' 16 8 = 0 then some (.nop (w.extractLsb' 0 16)) else none) := by
  unfold decodeUB
  rw [h]
  rfl

/-- Operation 9 of class 12. -/
theorem arm_UB_9 (w : Word) (h : w.extractLsb' 24 4 = 9) :
    decodeUB w = (if w.extractLsb' 16 8 = 0 then some (.trap (w.extractLsb' 0 16)) else none) := by
  unfold decodeUB
  rw [h]
  rfl

/-- Operation 10 of class 12. -/
theorem arm_UB_10 (w : Word) (h : w.extractLsb' 24 4 = 10) :
    decodeUB w = (if w.extractLsb' 0 24 = 0 then some (.eret) else none) := by
  unfold decodeUB
  rw [h]
  rfl

/-- Operation 11 of class 12. -/
theorem arm_UB_11 (w : Word) (h : w.extractLsb' 24 4 = 11) :
    decodeUB w = (if w.extractLsb' 16 8 = 0 then some (.brk (w.extractLsb' 0 16)) else none) := by
  unfold decodeUB
  rw [h]
  rfl

/-- A word of class 13. -/
theorem class_UE (w : Word) (r : List Word) (h : w.extractLsb' 28 4 = 13) :
    decodeWords (w :: r) = decodeUE w r := by
  show (match (w.extractLsb' 28 4).toNat with
    | 0 => decodeLR w | 1 => decodeLI w | 2 => decodeLT w | 3 => decodeLM w | 4 => decodeLX w | 5 => decodeLB w r
    | 6 => decodeLE w r | 8 => decodeUR w | 9 => decodeUI w | 10 => decodeUK w | 11 => decodeUM w | 12 => decodeUB w
    | 13 => decodeUE w r | 14 => decodeUS w | _ => none) = _
  rw [h]
  rfl

/-- Operation 0 of class 13. -/
theorem arm_UE_0 (w : Word) (inl : List Word) (h : w.extractLsb' 22 6 = 0) :
    decodeUE w inl = (if w.extractLsb' 0 4 = 0 then some (.tcopy (w.extractLsb' 16 6) (w.extractLsb' 10 6) (w.extractLsb' 4 6))
      else none) := by
  unfold decodeUE
  rw [h]
  rfl

/-- Operation 1 of class 13. -/
theorem arm_UE_1 (w : Word) (inl : List Word) (h : w.extractLsb' 22 6 = 1) :
    decodeUE w inl = (match inl with
    | x0 :: x1 :: x2 :: x3 :: _ =>
      if w.extractLsb' 0 4 = 4 ∧ x3.extractLsb' 30 2 = 0 then some (.tcopyx (w.extractLsb' 16 6) (w.extractLsb'
        10 6) (w.extractLsb' 4 6) (x0.extractLsb' 16 16) (x0.extractLsb' 0 16) (x1.extractLsb' 16 16)
        (x1.extractLsb' 0 16) (x2.extractLsb' 16 16) (x2.extractLsb' 0 16) (x3.extractLsb' 20 10)
        (x3.extractLsb' 10 10) (x3.extractLsb' 0 10)) else none
    | _ => none) := by
  unfold decodeUE
  rw [h]
  rfl

/-- Operation 2 of class 13. -/
theorem arm_UE_2 (w : Word) (inl : List Word) (h : w.extractLsb' 22 6 = 2) :
    decodeUE w inl = (if w.extractLsb' 0 4 = 0 then some (.mcopy (w.extractLsb' 16 6) (w.extractLsb' 10 6) (w.extractLsb' 4 6))
      else none) := by
  unfold decodeUE
  rw [h]
  rfl

/-- Operation 3 of class 13. -/
theorem arm_UE_3 (w : Word) (inl : List Word) (h : w.extractLsb' 22 6 = 3) :
    decodeUE w inl = (match inl with
    | x0 :: x1 :: _ =>
      if w.extractLsb' 0 4 = 2 ∧ x1.extractLsb' 12 20 = 0 then some (.bcopy (w.extractLsb' 16 6) (w.extractLsb'
        10 6) (w.extractLsb' 4 6) (x0.extractLsb' 16 16) (x0.extractLsb' 0 16) (x1.extractLsb' 6 6)
        (x1.extractLsb' 0 6)) else none
    | _ => none) := by
  unfold decodeUE
  rw [h]
  rfl

/-- Operation 4 of class 13. -/
theorem arm_UE_4 (w : Word) (inl : List Word) (h : w.extractLsb' 22 6 = 4) :
    decodeUE w inl = (match inl with
    | x0 :: x1 :: _ =>
      if w.extractLsb' 0 4 = 2 ∧ x1.extractLsb' 10 22 = 0 then some (.chain (w.extractLsb' 16 6) (w.extractLsb'
        10 6) (w.extractLsb' 4 6) x0 (x1.extractLsb' 4 6) (x1.extractLsb' 2 2) (x1.extractLsb' 0 2)) else none
    | _ => none) := by
  unfold decodeUE
  rw [h]
  rfl

/-- Operation 5 of class 13. -/
theorem arm_UE_5 (w : Word) (inl : List Word) (h : w.extractLsb' 22 6 = 5) :
    decodeUE w inl = (if w.extractLsb' 19 3 = 0 ∧ w.extractLsb' 0 16 = 0 then some (.bseal (w.extractLsb' 16 3)) else none) := by
  unfold decodeUE
  rw [h]
  rfl

/-- Operation 6 of class 13. -/
theorem arm_UE_6 (w : Word) (inl : List Word) (h : w.extractLsb' 22 6 = 6) :
    decodeUE w inl = (if w.extractLsb' 19 3 = 0 ∧ w.extractLsb' 0 16 = 0 then some (.bwait (w.extractLsb' 16 3)) else none) := by
  unfold decodeUE
  rw [h]
  rfl

/-- Operation 7 of class 13. -/
theorem arm_UE_7 (w : Word) (inl : List Word) (h : w.extractLsb' 22 6 = 7) :
    decodeUE w inl = (if w.extractLsb' 4 6 = 0 ∧ w.extractLsb' 0 4 = 0 then some (.awinit (w.extractLsb' 16 6) (w.extractLsb' 10
      6)) else none) := by
  unfold decodeUE
  rw [h]
  rfl

/-- Operation 8 of class 13. -/
theorem arm_UE_8 (w : Word) (inl : List Word) (h : w.extractLsb' 22 6 = 8) :
    decodeUE w inl = (if w.extractLsb' 0 4 = 0 then some (.await (w.extractLsb' 16 6) (w.extractLsb' 10 6) (w.extractLsb' 4 6))
      else none) := by
  unfold decodeUE
  rw [h]
  rfl

/-- Operation 9 of class 13. -/
theorem arm_UE_9 (w : Word) (inl : List Word) (h : w.extractLsb' 22 6 = 9) :
    decodeUE w inl = (match inl with
    | x0 :: _ =>
      if w.extractLsb' 0 4 = 1 ∧ x0.extractLsb' 0 17 = 0 then some (.obres (w.extractLsb' 16 6) (w.extractLsb'
        10 6) (w.extractLsb' 4 6) (x0.extractLsb' 28 4) (x0.extractLsb' 26 2) (x0.extractLsb' 23 3)
        (x0.extractLsb' 21 2) (x0.extractLsb' 20 1) (x0.extractLsb' 19 1) (x0.extractLsb' 17 2)) else none
    | _ => none) := by
  unfold decodeUE
  rw [h]
  rfl

/-- Operation 10 of class 13. -/
theorem arm_UE_10 (w : Word) (inl : List Word) (h : w.extractLsb' 22 6 = 10) :
    decodeUE w inl = (if w.extractLsb' 10 6 = 0 ∧ w.extractLsb' 4 6 = 0 ∧ w.extractLsb' 0 4 = 0 then some (.obrel (w.extractLsb'
      16 6)) else none) := by
  unfold decodeUE
  rw [h]
  rfl

/-- Operation 11 of class 13. -/
theorem arm_UE_11 (w : Word) (inl : List Word) (h : w.extractLsb' 22 6 = 11) :
    decodeUE w inl = (if w.extractLsb' 10 6 = 0 ∧ w.extractLsb' 4 6 = 0 ∧ w.extractLsb' 0 4 = 0 then some (.crew (w.extractLsb'
      16 6)) else none) := by
  unfold decodeUE
  rw [h]
  rfl

/-- Operation 12 of class 13. -/
theorem arm_UE_12 (w : Word) (inl : List Word) (h : w.extractLsb' 22 6 = 12) :
    decodeUE w inl = (match inl with
    | x0 :: _ =>
      if w.extractLsb' 10 6 = 0 ∧ w.extractLsb' 4 6 = 0 ∧ w.extractLsb' 0 4 = 1 ∧ x0.extractLsb' 30 2 = 0 ∧
        x0.extractLsb' 0 18 = 0 then some (.mma (w.extractLsb' 16 6) (x0.extractLsb' 26 4) (x0.extractLsb' 22
        4) (x0.extractLsb' 18 4))
      else if w.extractLsb' 0 4 = 1 ∧ x0.extractLsb' 30 2 = 1 ∧ x0.extractLsb' 9 9 = 0 then some (.mmaRs
        (w.extractLsb' 16 6) (w.extractLsb' 10 6) (w.extractLsb' 4 6) (x0.extractLsb' 26 4) (x0.extractLsb' 22
        4) (x0.extractLsb' 18 4) (x0.extractLsb' 8 1) (x0.extractLsb' 0 8))
      else if w.extractLsb' 0 4 = 1 ∧ x0.extractLsb' 30 2 = 2 ∧ x0.extractLsb' 0 18 = 0 then some (.mmaSs
        (w.extractLsb' 16 6) (w.extractLsb' 10 6) (w.extractLsb' 4 6) (x0.extractLsb' 26 4) (x0.extractLsb' 22
        4) (x0.extractLsb' 18 4)) else none
    | _ => none) := by
  unfold decodeUE
  rw [h]
  rfl

/-- Operation 13 of class 13. -/
theorem arm_UE_13 (w : Word) (inl : List Word) (h : w.extractLsb' 22 6 = 13) :
    decodeUE w inl = (match inl with
    | x0 :: _ =>
      if w.extractLsb' 4 6 = 0 ∧ w.extractLsb' 0 4 = 1 ∧ x0.extractLsb' 30 2 = 0 ∧ x0.extractLsb' 0 18 = 0 then
        some (.mmas (w.extractLsb' 16 6) (w.extractLsb' 10 6) (x0.extractLsb' 26 4) (x0.extractLsb' 22 4)
        (x0.extractLsb' 18 4)) else none
    | _ => none) := by
  unfold decodeUE
  rw [h]
  rfl

/-- Operation 14 of class 13. -/
theorem arm_UE_14 (w : Word) (inl : List Word) (h : w.extractLsb' 22 6 = 14) :
    decodeUE w inl = (match inl with
    | x0 :: _ =>
      if w.extractLsb' 0 4 = 1 ∧ x0.extractLsb' 31 1 = 0 ∧ x0.extractLsb' 9 9 = 0 then some (.mman
        (w.extractLsb' 16 6) (w.extractLsb' 10 6) (w.extractLsb' 4 6) (x0.extractLsb' 30 1) (x0.extractLsb' 26
        4) (x0.extractLsb' 22 4) (x0.extractLsb' 18 4) (x0.extractLsb' 8 1) (x0.extractLsb' 0 8)) else none
    | _ => none) := by
  unfold decodeUE
  rw [h]
  rfl

/-- Operation 15 of class 13. -/
theorem arm_UE_15 (w : Word) (inl : List Word) (h : w.extractLsb' 22 6 = 15) :
    decodeUE w inl = (match inl with
    | x0 :: _ =>
      if w.extractLsb' 10 6 = 0 ∧ w.extractLsb' 4 6 = 0 ∧ w.extractLsb' 0 4 = 1 ∧ x0.extractLsb' 30 2 = 0 ∧
        x0.extractLsb' 0 18 = 0 then some (.salient (w.extractLsb' 16 6) (x0.extractLsb' 26 4) (x0.extractLsb'
        22 4) (x0.extractLsb' 18 4)) else none
    | _ => none) := by
  unfold decodeUE
  rw [h]
  rfl

/-- Operation 16 of class 13. -/
theorem arm_UE_16 (w : Word) (inl : List Word) (h : w.extractLsb' 22 6 = 16) :
    decodeUE w inl = (if w.extractLsb' 0 4 = 0 then some (.accrd (w.extractLsb' 16 6) (w.extractLsb' 10 6) (w.extractLsb' 4 6))
      else none) := by
  unfold decodeUE
  rw [h]
  rfl

/-- Operation 17 of class 13. -/
theorem arm_UE_17 (w : Word) (inl : List Word) (h : w.extractLsb' 22 6 = 17) :
    decodeUE w inl = (if w.extractLsb' 10 6 = 0 ∧ w.extractLsb' 4 6 = 0 ∧ w.extractLsb' 0 4 = 0 then some (.accz (w.extractLsb'
      16 6)) else none) := by
  unfold decodeUE
  rw [h]
  rfl

/-- Operation 18 of class 13. -/
theorem arm_UE_18 (w : Word) (inl : List Word) (h : w.extractLsb' 22 6 = 18) :
    decodeUE w inl = (if w.extractLsb' 0 4 = 0 then some (.capb (w.extractLsb' 16 6) (w.extractLsb' 10 6) (w.extractLsb' 4 6))
      else none) := by
  unfold decodeUE
  rw [h]
  rfl

/-- Operation 19 of class 13. -/
theorem arm_UE_19 (w : Word) (inl : List Word) (h : w.extractLsb' 22 6 = 19) :
    decodeUE w inl = (if w.extractLsb' 0 22 = 0 then some (.capeStep)
    else if w.extractLsb' 16 6 = 0 ∧ w.extractLsb' 10 6 = 1 ∧ w.extractLsb' 0 10 = 0 then some (.capeEnd) else
      none) := by
  unfold decodeUE
  rw [h]
  rfl

/-- Operation 20 of class 13. -/
theorem arm_UE_20 (w : Word) (inl : List Word) (h : w.extractLsb' 22 6 = 20) :
    decodeUE w inl = (match inl with
    | x0 :: _ =>
      if w.extractLsb' 0 4 = 1 ∧ x0.extractLsb' 22 3 = 0 then some (.satom (w.extractLsb' 16 6) (w.extractLsb'
        10 6) (w.extractLsb' 4 6) (x0.extractLsb' 27 5) (x0.extractLsb' 26 1) (x0.extractLsb' 25 1)
        (x0.extractLsb' 16 6) (x0.extractLsb' 0 16)) else none
    | _ => none) := by
  unfold decodeUE
  rw [h]
  rfl

/-- Operation 21 of class 13. -/
theorem arm_UE_21 (w : Word) (inl : List Word) (h : w.extractLsb' 22 6 = 21) :
    decodeUE w inl = (match inl with
    | x0 :: _ =>
      if w.extractLsb' 0 4 = 1 ∧ x0.extractLsb' 0 24 = 0 then some (.redw (w.extractLsb' 16 6) (w.extractLsb'
        10 6) (w.extractLsb' 4 6) (x0.extractLsb' 28 4) (x0.extractLsb' 25 3) (x0.extractLsb' 24 1)) else none
    | _ => none) := by
  unfold decodeUE
  rw [h]
  rfl

/-- Operation 22 of class 13. -/
theorem arm_UE_22 (w : Word) (inl : List Word) (h : w.extractLsb' 22 6 = 22) :
    decodeUE w inl = (if w.extractLsb' 0 4 = 0 then some (.poolp (w.extractLsb' 16 6) (w.extractLsb' 10 6) (w.extractLsb' 4 6))
      else none) := by
  unfold decodeUE
  rw [h]
  rfl

/-- Operation 23 of class 13. -/
theorem arm_UE_23 (w : Word) (inl : List Word) (h : w.extractLsb' 22 6 = 23) :
    decodeUE w inl = (if w.extractLsb' 0 4 = 0 then some (.poold (w.extractLsb' 16 6) (w.extractLsb' 10 6) (w.extractLsb' 4 6))
      else none) := by
  unfold decodeUE
  rw [h]
  rfl

/-- Operation 24 of class 13. -/
theorem arm_UE_24 (w : Word) (inl : List Word) (h : w.extractLsb' 22 6 = 24) :
    decodeUE w inl = (if w.extractLsb' 10 6 = 0 ∧ w.extractLsb' 0 4 = 0 then some (.launch (w.extractLsb' 16 6) (w.extractLsb' 4
      6)) else none) := by
  unfold decodeUE
  rw [h]
  rfl

/-- Operation 25 of class 13. -/
theorem arm_UE_25 (w : Word) (inl : List Word) (h : w.extractLsb' 22 6 = 25) :
    decodeUE w inl = (if w.extractLsb' 16 6 = 0 ∧ w.extractLsb' 10 6 = 0 ∧ w.extractLsb' 4 6 = 0 ∧ w.extractLsb' 0 4 = 0 then
      some (.succ) else none) := by
  unfold decodeUE
  rw [h]
  rfl

/-- Operation 26 of class 13. -/
theorem arm_UE_26 (w : Word) (inl : List Word) (h : w.extractLsb' 22 6 = 26) :
    decodeUE w inl = (if w.extractLsb' 16 6 = 0 ∧ w.extractLsb' 10 6 = 0 ∧ w.extractLsb' 4 6 = 0 ∧ w.extractLsb' 0 4 = 0 then
      some (.waitpred) else none) := by
  unfold decodeUE
  rw [h]
  rfl

/-- A word of class 14. -/
theorem class_US (w : Word) (r : List Word) (h : w.extractLsb' 28 4 = 14) :
    decodeWords (w :: r) = decodeUS w := by
  show (match (w.extractLsb' 28 4).toNat with
    | 0 => decodeLR w | 1 => decodeLI w | 2 => decodeLT w | 3 => decodeLM w | 4 => decodeLX w | 5 => decodeLB w r
    | 6 => decodeLE w r | 8 => decodeUR w | 9 => decodeUI w | 10 => decodeUK w | 11 => decodeUM w | 12 => decodeUB w
    | 13 => decodeUE w r | 14 => decodeUS w | _ => none) = _
  rw [h]
  rfl

/-- Operation 0 of class 14. -/
theorem arm_US_0 (w : Word) (h : w.extractLsb' 22 6 = 0) :
    decodeUS w = (if w.extractLsb' 0 15 = 0 then some (.bara (w.extractLsb' 19 3) (w.extractLsb' 15 4)) else none) := by
  unfold decodeUS
  rw [h]
  rfl

/-- Operation 1 of class 14. -/
theorem arm_US_1 (w : Word) (h : w.extractLsb' 22 6 = 1) :
    decodeUS w = (if w.extractLsb' 0 15 = 0 then some (.barw (w.extractLsb' 19 3) (w.extractLsb' 15 4)) else none) := by
  unfold decodeUS
  rw [h]
  rfl

/-- Operation 2 of class 14. -/
theorem arm_US_2 (w : Word) (h : w.extractLsb' 22 6 = 2) :
    decodeUS w = (if w.extractLsb' 0 15 = 0 then some (.bars (w.extractLsb' 19 3) (w.extractLsb' 15 4)) else none) := by
  unfold decodeUS
  rw [h]
  rfl

/-- Operation 3 of class 14. -/
theorem arm_US_3 (w : Word) (h : w.extractLsb' 22 6 = 3) :
    decodeUS w = (if w.extractLsb' 0 17 = 0 then some (.fence (w.extractLsb' 20 2) (w.extractLsb' 17 3)) else none) := by
  unfold decodeUS
  rw [h]
  rfl

/-- Operation 4 of class 14. -/
theorem arm_US_4 (w : Word) (h : w.extractLsb' 22 6 = 4) :
    decodeUS w = (if w.extractLsb' 0 4 = 0 then some (.csrr (w.extractLsb' 16 6) (w.extractLsb' 4 12)) else none) := by
  unfold decodeUS
  rw [h]
  rfl

/-- Operation 5 of class 14. -/
theorem arm_US_5 (w : Word) (h : w.extractLsb' 22 6 = 5) :
    decodeUS w = (if w.extractLsb' 0 4 = 0 then some (.csrw (w.extractLsb' 16 6) (w.extractLsb' 4 12)) else none) := by
  unfold decodeUS
  rw [h]
  rfl

/-- Operation 6 of class 14. -/
theorem arm_US_6 (w : Word) (h : w.extractLsb' 22 6 = 6) :
    decodeUS w = (if w.extractLsb' 0 16 = 0 then some (.tick (w.extractLsb' 16 6)) else none) := by
  unfold decodeUS
  rw [h]
  rfl

/-- Operation 7 of class 14. -/
theorem arm_US_7 (w : Word) (h : w.extractLsb' 22 6 = 7) :
    decodeUS w = (if w.extractLsb' 0 16 = 0 then some (.sleep (w.extractLsb' 16 6)) else none) := by
  unfold decodeUS
  rw [h]
  rfl

/-- Operation 8 of class 14. -/
theorem arm_US_8 (w : Word) (h : w.extractLsb' 22 6 = 8) :
    decodeUS w = (if w.extractLsb' 0 16 = 0 then some (.tmarm (w.extractLsb' 16 6)) else none) := by
  unfold decodeUS
  rw [h]
  rfl

/-- Operation 9 of class 14. -/
theorem arm_US_9 (w : Word) (h : w.extractLsb' 22 6 = 9) :
    decodeUS w = (some (.trace (w.extractLsb' 16 6) (w.extractLsb' 10 6) (w.extractLsb' 0 10))) := by
  unfold decodeUS
  rw [h]
  rfl

/-! ## The round trip -/

/-- Decoding the words of a well-formed instruction, whatever follows them, gives it back; an operation of another agent
has no words. -/
def Encoding.Statement (i : Instr) : Prop :=
  i.wf = true → encode i ≠ [] → ∀ r, decodeWords (encode i ++ r) = some i

theorem Encoding.vadd (vd va vb : BitVec 6) (ra rb : BitVec 2) : Encoding.Statement (.vadd vd va vb ra rb) := by
  intro _ _ r
  refine (class_LR _ _ ?_).trans ((arm_LR_0 _ ?_).trans ?_) <;>
    simp (disch := decide) only [field_hi, field_lo, field_all, Nat.reduceSub, and_self, if_true]

theorem Encoding.vsub (vd va vb : BitVec 6) (ra rb : BitVec 2) : Encoding.Statement (.vsub vd va vb ra rb) := by
  intro _ _ r
  refine (class_LR _ _ ?_).trans ((arm_LR_1 _ ?_).trans ?_) <;>
    simp (disch := decide) only [field_hi, field_lo, field_all, Nat.reduceSub, and_self, if_true]

theorem Encoding.vmul (vd va vb : BitVec 6) (ra rb : BitVec 2) : Encoding.Statement (.vmul vd va vb ra rb) := by
  intro _ _ r
  refine (class_LR _ _ ?_).trans ((arm_LR_2 _ ?_).trans ?_) <;>
    simp (disch := decide) only [field_hi, field_lo, field_all, Nat.reduceSub, and_self, if_true]

theorem Encoding.vmulhI32 (vd va vb : BitVec 6) (ra rb : BitVec 2) : Encoding.Statement (.vmulhI32 vd va vb ra rb) := by
  intro _ _ r
  refine (class_LR _ _ ?_).trans ((arm_LR_3 _ ?_).trans ?_) <;>
    simp (disch := decide) only [field_hi, field_lo, field_all, Nat.reduceSub, and_self, if_true]

theorem Encoding.vmulhN32 (vd va vb : BitVec 6) (ra rb : BitVec 2) : Encoding.Statement (.vmulhN32 vd va vb ra rb) := by
  intro _ _ r
  refine (class_LR _ _ ?_).trans ((arm_LR_4 _ ?_).trans ?_) <;>
    simp (disch := decide) only [field_hi, field_lo, field_all, Nat.reduceSub, and_self, if_true]

theorem Encoding.vminI32 (vd va vb : BitVec 6) (ra rb : BitVec 2) : Encoding.Statement (.vminI32 vd va vb ra rb) := by
  intro _ _ r
  refine (class_LR _ _ ?_).trans ((arm_LR_5 _ ?_).trans ?_) <;>
    simp (disch := decide) only [field_hi, field_lo, field_all, Nat.reduceSub, and_self, if_true]

theorem Encoding.vminN32 (vd va vb : BitVec 6) (ra rb : BitVec 2) : Encoding.Statement (.vminN32 vd va vb ra rb) := by
  intro _ _ r
  refine (class_LR _ _ ?_).trans ((arm_LR_6 _ ?_).trans ?_) <;>
    simp (disch := decide) only [field_hi, field_lo, field_all, Nat.reduceSub, and_self, if_true]

theorem Encoding.vmaxI32 (vd va vb : BitVec 6) (ra rb : BitVec 2) : Encoding.Statement (.vmaxI32 vd va vb ra rb) := by
  intro _ _ r
  refine (class_LR _ _ ?_).trans ((arm_LR_7 _ ?_).trans ?_) <;>
    simp (disch := decide) only [field_hi, field_lo, field_all, Nat.reduceSub, and_self, if_true]

theorem Encoding.vmaxN32 (vd va vb : BitVec 6) (ra rb : BitVec 2) : Encoding.Statement (.vmaxN32 vd va vb ra rb) := by
  intro _ _ r
  refine (class_LR _ _ ?_).trans ((arm_LR_8 _ ?_).trans ?_) <;>
    simp (disch := decide) only [field_hi, field_lo, field_all, Nat.reduceSub, and_self, if_true]

theorem Encoding.vand (vd va vb : BitVec 6) (ra rb : BitVec 2) : Encoding.Statement (.vand vd va vb ra rb) := by
  intro _ _ r
  refine (class_LR _ _ ?_).trans ((arm_LR_9 _ ?_).trans ?_) <;>
    simp (disch := decide) only [field_hi, field_lo, field_all, Nat.reduceSub, and_self, if_true]

theorem Encoding.vor (vd va vb : BitVec 6) (ra rb : BitVec 2) : Encoding.Statement (.vor vd va vb ra rb) := by
  intro _ _ r
  refine (class_LR _ _ ?_).trans ((arm_LR_10 _ ?_).trans ?_) <;>
    simp (disch := decide) only [field_hi, field_lo, field_all, Nat.reduceSub, and_self, if_true]

theorem Encoding.vxor (vd va vb : BitVec 6) (ra rb : BitVec 2) : Encoding.Statement (.vxor vd va vb ra rb) := by
  intro _ _ r
  refine (class_LR _ _ ?_).trans ((arm_LR_11 _ ?_).trans ?_) <;>
    simp (disch := decide) only [field_hi, field_lo, field_all, Nat.reduceSub, and_self, if_true]

theorem Encoding.vandn (vd va vb : BitVec 6) (ra rb : BitVec 2) : Encoding.Statement (.vandn vd va vb ra rb) := by
  intro _ _ r
  refine (class_LR _ _ ?_).trans ((arm_LR_12 _ ?_).trans ?_) <;>
    simp (disch := decide) only [field_hi, field_lo, field_all, Nat.reduceSub, and_self, if_true]

theorem Encoding.vshl (vd va vb : BitVec 6) (ra rb : BitVec 2) : Encoding.Statement (.vshl vd va vb ra rb) := by
  intro _ _ r
  refine (class_LR _ _ ?_).trans ((arm_LR_13 _ ?_).trans ?_) <;>
    simp (disch := decide) only [field_hi, field_lo, field_all, Nat.reduceSub, and_self, if_true]

theorem Encoding.vshr (vd va vb : BitVec 6) (ra rb : BitVec 2) : Encoding.Statement (.vshr vd va vb ra rb) := by
  intro _ _ r
  refine (class_LR _ _ ?_).trans ((arm_LR_14 _ ?_).trans ?_) <;>
    simp (disch := decide) only [field_hi, field_lo, field_all, Nat.reduceSub, and_self, if_true]

theorem Encoding.vsar (vd va vb : BitVec 6) (ra rb : BitVec 2) : Encoding.Statement (.vsar vd va vb ra rb) := by
  intro _ _ r
  refine (class_LR _ _ ?_).trans ((arm_LR_15 _ ?_).trans ?_) <;>
    simp (disch := decide) only [field_hi, field_lo, field_all, Nat.reduceSub, and_self, if_true]

theorem Encoding.vrotl (vd va vb : BitVec 6) (ra rb : BitVec 2) : Encoding.Statement (.vrotl vd va vb ra rb) := by
  intro _ _ r
  refine (class_LR _ _ ?_).trans ((arm_LR_16 _ ?_).trans ?_) <;>
    simp (disch := decide) only [field_hi, field_lo, field_all, Nat.reduceSub, and_self, if_true]

theorem Encoding.vaddsI32 (vd va vb : BitVec 6) (ra rb : BitVec 2) : Encoding.Statement (.vaddsI32 vd va vb ra rb) := by
  intro _ _ r
  refine (class_LR _ _ ?_).trans ((arm_LR_17 _ ?_).trans ?_) <;>
    simp (disch := decide) only [field_hi, field_lo, field_all, Nat.reduceSub, and_self, if_true]

theorem Encoding.vsubsI32 (vd va vb : BitVec 6) (ra rb : BitVec 2) : Encoding.Statement (.vsubsI32 vd va vb ra rb) := by
  intro _ _ r
  refine (class_LR _ _ ?_).trans ((arm_LR_18 _ ?_).trans ?_) <;>
    simp (disch := decide) only [field_hi, field_lo, field_all, Nat.reduceSub, and_self, if_true]

theorem Encoding.vabsdN32 (vd va vb : BitVec 6) (ra rb : BitVec 2) : Encoding.Statement (.vabsdN32 vd va vb ra rb) := by
  intro _ _ r
  refine (class_LR _ _ ?_).trans ((arm_LR_19 _ ?_).trans ?_) <;>
    simp (disch := decide) only [field_hi, field_lo, field_all, Nat.reduceSub, and_self, if_true]

theorem Encoding.vmov (vd va : BitVec 6) (ra : BitVec 2) : Encoding.Statement (.vmov vd va ra) := by
  intro _ _ r
  refine (class_LR _ _ ?_).trans ((arm_LR_20 _ ?_).trans ?_) <;>
    simp (disch := decide) only [field_hi, field_lo, field_all, Nat.reduceSub, and_self, if_true]

theorem Encoding.vfaddF32 (vd va vb : BitVec 6) (ra rb : BitVec 2) : Encoding.Statement (.vfaddF32 vd va vb ra rb) := by
  intro _ _ r
  refine (class_LR _ _ ?_).trans ((arm_LR_21 _ ?_).trans ?_) <;>
    simp (disch := decide) only [field_hi, field_lo, field_all, Nat.reduceSub, and_self, if_true]

theorem Encoding.vfsubF32 (vd va vb : BitVec 6) (ra rb : BitVec 2) : Encoding.Statement (.vfsubF32 vd va vb ra rb) := by
  intro _ _ r
  refine (class_LR _ _ ?_).trans ((arm_LR_22 _ ?_).trans ?_) <;>
    simp (disch := decide) only [field_hi, field_lo, field_all, Nat.reduceSub, and_self, if_true]

theorem Encoding.vfmulF32 (vd va vb : BitVec 6) (ra rb : BitVec 2) : Encoding.Statement (.vfmulF32 vd va vb ra rb) := by
  intro _ _ r
  refine (class_LR _ _ ?_).trans ((arm_LR_23 _ ?_).trans ?_) <;>
    simp (disch := decide) only [field_hi, field_lo, field_all, Nat.reduceSub, and_self, if_true]

theorem Encoding.vfminF32 (vd va vb : BitVec 6) (ra rb : BitVec 2) : Encoding.Statement (.vfminF32 vd va vb ra rb) := by
  intro _ _ r
  refine (class_LR _ _ ?_).trans ((arm_LR_24 _ ?_).trans ?_) <;>
    simp (disch := decide) only [field_hi, field_lo, field_all, Nat.reduceSub, and_self, if_true]

theorem Encoding.vfmaxF32 (vd va vb : BitVec 6) (ra rb : BitVec 2) : Encoding.Statement (.vfmaxF32 vd va vb ra rb) := by
  intro _ _ r
  refine (class_LR _ _ ?_).trans ((arm_LR_25 _ ?_).trans ?_) <;>
    simp (disch := decide) only [field_hi, field_lo, field_all, Nat.reduceSub, and_self, if_true]

theorem Encoding.vfscaleF32 (vd va vb : BitVec 6) (ra rb : BitVec 2) : Encoding.Statement (.vfscaleF32 vd va vb ra rb) := by
  intro _ _ r
  refine (class_LR _ _ ?_).trans ((arm_LR_26 _ ?_).trans ?_) <;>
    simp (disch := decide) only [field_hi, field_lo, field_all, Nat.reduceSub, and_self, if_true]

theorem Encoding.vfaddBf16x2 (vd va vb : BitVec 6) (ra rb : BitVec 2) : Encoding.Statement (.vfaddBf16x2 vd va vb ra rb) := by
  intro _ _ r
  refine (class_LR _ _ ?_).trans ((arm_LR_27 _ ?_).trans ?_) <;>
    simp (disch := decide) only [field_hi, field_lo, field_all, Nat.reduceSub, and_self, if_true]

theorem Encoding.vfmulBf16x2 (vd va vb : BitVec 6) (ra rb : BitVec 2) : Encoding.Statement (.vfmulBf16x2 vd va vb ra rb) := by
  intro _ _ r
  refine (class_LR _ _ ?_).trans ((arm_LR_28 _ ?_).trans ?_) <;>
    simp (disch := decide) only [field_hi, field_lo, field_all, Nat.reduceSub, and_self, if_true]

theorem Encoding.vfaddF16x2 (vd va vb : BitVec 6) (ra rb : BitVec 2) : Encoding.Statement (.vfaddF16x2 vd va vb ra rb) := by
  intro _ _ r
  refine (class_LR _ _ ?_).trans ((arm_LR_29 _ ?_).trans ?_) <;>
    simp (disch := decide) only [field_hi, field_lo, field_all, Nat.reduceSub, and_self, if_true]

theorem Encoding.vfmulF16x2 (vd va vb : BitVec 6) (ra rb : BitVec 2) : Encoding.Statement (.vfmulF16x2 vd va vb ra rb) := by
  intro _ _ r
  refine (class_LR _ _ ?_).trans ((arm_LR_30 _ ?_).trans ?_) <;>
    simp (disch := decide) only [field_hi, field_lo, field_all, Nat.reduceSub, and_self, if_true]

theorem Encoding.vfaddE4m3x4 (vd va vb : BitVec 6) (ra rb : BitVec 2) : Encoding.Statement (.vfaddE4m3x4 vd va vb ra rb) := by
  intro _ _ r
  refine (class_LR _ _ ?_).trans ((arm_LR_31 _ ?_).trans ?_) <;>
    simp (disch := decide) only [field_hi, field_lo, field_all, Nat.reduceSub, and_self, if_true]

theorem Encoding.vfmulE4m3x4 (vd va vb : BitVec 6) (ra rb : BitVec 2) : Encoding.Statement (.vfmulE4m3x4 vd va vb ra rb) := by
  intro _ _ r
  refine (class_LR _ _ ?_).trans ((arm_LR_32 _ ?_).trans ?_) <;>
    simp (disch := decide) only [field_hi, field_lo, field_all, Nat.reduceSub, and_self, if_true]

theorem Encoding.vfaddE5m2x4 (vd va vb : BitVec 6) (ra rb : BitVec 2) : Encoding.Statement (.vfaddE5m2x4 vd va vb ra rb) := by
  intro _ _ r
  refine (class_LR _ _ ?_).trans ((arm_LR_33 _ ?_).trans ?_) <;>
    simp (disch := decide) only [field_hi, field_lo, field_all, Nat.reduceSub, and_self, if_true]

theorem Encoding.vfmulE5m2x4 (vd va vb : BitVec 6) (ra rb : BitVec 2) : Encoding.Statement (.vfmulE5m2x4 vd va vb ra rb) := by
  intro _ _ r
  refine (class_LR _ _ ?_).trans ((arm_LR_34 _ ?_).trans ?_) <;>
    simp (disch := decide) only [field_hi, field_lo, field_all, Nat.reduceSub, and_self, if_true]

theorem Encoding.vdot4I8 (vd va vb : BitVec 6) (ra rb : BitVec 2) : Encoding.Statement (.vdot4I8 vd va vb ra rb) := by
  intro _ _ r
  refine (class_LR _ _ ?_).trans ((arm_LR_35 _ ?_).trans ?_) <;>
    simp (disch := decide) only [field_hi, field_lo, field_all, Nat.reduceSub, and_self, if_true]

theorem Encoding.vdot2Bf16 (vd va vb : BitVec 6) (ra rb : BitVec 2) : Encoding.Statement (.vdot2Bf16 vd va vb ra rb) := by
  intro _ _ r
  refine (class_LR _ _ ?_).trans ((arm_LR_36 _ ?_).trans ?_) <;>
    simp (disch := decide) only [field_hi, field_lo, field_all, Nat.reduceSub, and_self, if_true]

theorem Encoding.vshflIdx (x : BitVec 22) : Encoding.Statement (.vshflIdx x) := by
  intro _ _ r
  refine (class_LR _ _ ?_).trans ((arm_LR_48 _ ?_).trans ?_) <;>
    simp (disch := decide) only [field_hi, field_lo, field_all, Nat.reduceSub, and_self, if_true]

theorem Encoding.vshflUp (x : BitVec 22) : Encoding.Statement (.vshflUp x) := by
  intro _ _ r
  refine (class_LR _ _ ?_).trans ((arm_LR_49 _ ?_).trans ?_) <;>
    simp (disch := decide) only [field_hi, field_lo, field_all, Nat.reduceSub, and_self, if_true]

theorem Encoding.vshflDn (x : BitVec 22) : Encoding.Statement (.vshflDn x) := by
  intro _ _ r
  refine (class_LR _ _ ?_).trans ((arm_LR_50 _ ?_).trans ?_) <;>
    simp (disch := decide) only [field_hi, field_lo, field_all, Nat.reduceSub, and_self, if_true]

theorem Encoding.vshflXor (x : BitVec 22) : Encoding.Statement (.vshflXor x) := by
  intro _ _ r
  refine (class_LR _ _ ?_).trans ((arm_LR_51 _ ?_).trans ?_) <;>
    simp (disch := decide) only [field_hi, field_lo, field_all, Nat.reduceSub, and_self, if_true]

theorem Encoding.vaddi (vd va : BitVec 6) (ra : BitVec 2) (imm : BitVec 10) : Encoding.Statement (.vaddi vd va ra imm) := by
  intro _ _ r
  refine (class_LI _ _ ?_).trans ((arm_LI_0 _ ?_).trans ?_) <;>
    simp (disch := decide) only [field_hi, field_lo, field_all, Nat.reduceSub, and_self, if_true]

theorem Encoding.vsubri (vd va : BitVec 6) (ra : BitVec 2) (imm : BitVec 10) : Encoding.Statement (.vsubri vd va ra imm) := by
  intro _ _ r
  refine (class_LI _ _ ?_).trans ((arm_LI_1 _ ?_).trans ?_) <;>
    simp (disch := decide) only [field_hi, field_lo, field_all, Nat.reduceSub, and_self, if_true]

theorem Encoding.vmuli (vd va : BitVec 6) (ra : BitVec 2) (imm : BitVec 10) : Encoding.Statement (.vmuli vd va ra imm) := by
  intro _ _ r
  refine (class_LI _ _ ?_).trans ((arm_LI_2 _ ?_).trans ?_) <;>
    simp (disch := decide) only [field_hi, field_lo, field_all, Nat.reduceSub, and_self, if_true]

theorem Encoding.vandi (vd va : BitVec 6) (ra : BitVec 2) (imm : BitVec 10) : Encoding.Statement (.vandi vd va ra imm) := by
  intro _ _ r
  refine (class_LI _ _ ?_).trans ((arm_LI_3 _ ?_).trans ?_) <;>
    simp (disch := decide) only [field_hi, field_lo, field_all, Nat.reduceSub, and_self, if_true]

theorem Encoding.vori (vd va : BitVec 6) (ra : BitVec 2) (imm : BitVec 10) : Encoding.Statement (.vori vd va ra imm) := by
  intro _ _ r
  refine (class_LI _ _ ?_).trans ((arm_LI_4 _ ?_).trans ?_) <;>
    simp (disch := decide) only [field_hi, field_lo, field_all, Nat.reduceSub, and_self, if_true]

theorem Encoding.vxori (vd va : BitVec 6) (ra : BitVec 2) (imm : BitVec 10) : Encoding.Statement (.vxori vd va ra imm) := by
  intro _ _ r
  refine (class_LI _ _ ?_).trans ((arm_LI_5 _ ?_).trans ?_) <;>
    simp (disch := decide) only [field_hi, field_lo, field_all, Nat.reduceSub, and_self, if_true]

theorem Encoding.vshli (vd va : BitVec 6) (ra : BitVec 2) (imm : BitVec 10) : Encoding.Statement (.vshli vd va ra imm) := by
  intro _ _ r
  refine (class_LI _ _ ?_).trans ((arm_LI_6 _ ?_).trans ?_) <;>
    simp (disch := decide) only [field_hi, field_lo, field_all, Nat.reduceSub, and_self, if_true]

theorem Encoding.vshri (vd va : BitVec 6) (ra : BitVec 2) (imm : BitVec 10) : Encoding.Statement (.vshri vd va ra imm) := by
  intro _ _ r
  refine (class_LI _ _ ?_).trans ((arm_LI_7 _ ?_).trans ?_) <;>
    simp (disch := decide) only [field_hi, field_lo, field_all, Nat.reduceSub, and_self, if_true]

theorem Encoding.vsari (vd va : BitVec 6) (ra : BitVec 2) (imm : BitVec 10) : Encoding.Statement (.vsari vd va ra imm) := by
  intro _ _ r
  refine (class_LI _ _ ?_).trans ((arm_LI_8 _ ?_).trans ?_) <;>
    simp (disch := decide) only [field_hi, field_lo, field_all, Nat.reduceSub, and_self, if_true]

theorem Encoding.vminiI32 (vd va : BitVec 6) (ra : BitVec 2) (imm : BitVec 10) : Encoding.Statement (.vminiI32 vd va ra imm) := by
  intro _ _ r
  refine (class_LI _ _ ?_).trans ((arm_LI_9 _ ?_).trans ?_) <;>
    simp (disch := decide) only [field_hi, field_lo, field_all, Nat.reduceSub, and_self, if_true]

theorem Encoding.vmaxiI32 (vd va : BitVec 6) (ra : BitVec 2) (imm : BitVec 10) : Encoding.Statement (.vmaxiI32 vd va ra imm) := by
  intro _ _ r
  refine (class_LI _ _ ?_).trans ((arm_LI_10 _ ?_).trans ?_) <;>
    simp (disch := decide) only [field_hi, field_lo, field_all, Nat.reduceSub, and_self, if_true]

theorem Encoding.vmovi (vd : BitVec 6) (imm : BitVec 10) : Encoding.Statement (.vmovi vd imm) := by
  intro _ _ r
  refine (class_LI _ _ ?_).trans ((arm_LI_11 _ ?_).trans ?_) <;>
    simp (disch := decide) only [field_hi, field_lo, field_all, Nat.reduceSub, and_self, if_true]

theorem Encoding.vmad (vd va vb vc : BitVec 5) (ra rb : BitVec 2) (rc : BitVec 1) : Encoding.Statement (.vmad vd va vb vc ra rb rc) := by
  intro _ _ r
  refine (class_LT _ _ ?_).trans ((arm_LT_0 _ ?_).trans ?_) <;>
    simp (disch := decide) only [field_hi, field_lo, field_all, Nat.reduceSub, and_self, if_true]

theorem Encoding.vfmaF32 (vd va vb vc : BitVec 5) (ra rb : BitVec 2) (rc : BitVec 1) : Encoding.Statement (.vfmaF32 vd va vb vc ra rb rc) := by
  intro _ _ r
  refine (class_LT _ _ ?_).trans ((arm_LT_1 _ ?_).trans ?_) <;>
    simp (disch := decide) only [field_hi, field_lo, field_all, Nat.reduceSub, and_self, if_true]

theorem Encoding.vfmaBf16x2 (vd va vb vc : BitVec 5) (ra rb : BitVec 2) (rc : BitVec 1) : Encoding.Statement (.vfmaBf16x2 vd va vb vc ra rb rc) := by
  intro _ _ r
  refine (class_LT _ _ ?_).trans ((arm_LT_2 _ ?_).trans ?_) <;>
    simp (disch := decide) only [field_hi, field_lo, field_all, Nat.reduceSub, and_self, if_true]

theorem Encoding.vfmaF16x2 (vd va vb vc : BitVec 5) (ra rb : BitVec 2) (rc : BitVec 1) : Encoding.Statement (.vfmaF16x2 vd va vb vc ra rb rc) := by
  intro _ _ r
  refine (class_LT _ _ ?_).trans ((arm_LT_3 _ ?_).trans ?_) <;>
    simp (disch := decide) only [field_hi, field_lo, field_all, Nat.reduceSub, and_self, if_true]

theorem Encoding.vdot4aI8 (vd va vb vc : BitVec 5) (ra rb : BitVec 2) (rc : BitVec 1) : Encoding.Statement (.vdot4aI8 vd va vb vc ra rb rc) := by
  intro _ _ r
  refine (class_LT _ _ ?_).trans ((arm_LT_4 _ ?_).trans ?_) <;>
    simp (disch := decide) only [field_hi, field_lo, field_all, Nat.reduceSub, and_self, if_true]

theorem Encoding.vdot2aBf16 (vd va vb vc : BitVec 5) (ra rb : BitVec 2) (rc : BitVec 1) : Encoding.Statement (.vdot2aBf16 vd va vb vc ra rb rc) := by
  intro _ _ r
  refine (class_LT _ _ ?_).trans ((arm_LT_5 _ ?_).trans ?_) <;>
    simp (disch := decide) only [field_hi, field_lo, field_all, Nat.reduceSub, and_self, if_true]

theorem Encoding.vbfi (vd va vb vc : BitVec 5) (ra rb : BitVec 2) (rc : BitVec 1) : Encoding.Statement (.vbfi vd va vb vc ra rb rc) := by
  intro _ _ r
  refine (class_LT _ _ ?_).trans ((arm_LT_6 _ ?_).trans ?_) <;>
    simp (disch := decide) only [field_hi, field_lo, field_all, Nat.reduceSub, and_self, if_true]

theorem Encoding.vld (vd va : BitVec 6) (k sz : BitVec 3) (off : BitVec 6) : Encoding.Statement (.vld vd va k sz off) := by
  intro _ _ r
  refine (class_LM _ _ ?_).trans ((arm_LM_0 _ ?_).trans ?_) <;>
    simp (disch := decide) only [field_hi, field_lo, field_all, Nat.reduceSub, and_self, if_true]

theorem Encoding.vst (vs va : BitVec 6) (k sz : BitVec 3) (off : BitVec 6) : Encoding.Statement (.vst vs va k sz off) := by
  intro _ _ r
  refine (class_LM _ _ ?_).trans ((arm_LM_1 _ ?_).trans ?_) <;>
    simp (disch := decide) only [field_hi, field_lo, field_all, Nat.reduceSub, and_self, if_true]

theorem Encoding.vldc (vd va : BitVec 6) (k sz : BitVec 3) (off : BitVec 6) : Encoding.Statement (.vldc vd va k sz off) := by
  intro _ _ r
  refine (class_LM _ _ ?_).trans ((arm_LM_2 _ ?_).trans ?_) <;>
    simp (disch := decide) only [field_hi, field_lo, field_all, Nat.reduceSub, and_self, if_true]

theorem Encoding.vpref (hint va : BitVec 6) (k : BitVec 3) (off : BitVec 6) : Encoding.Statement (.vpref hint va k off) := by
  intro _ _ r
  refine (class_LM _ _ ?_).trans ((arm_LM_3 _ ?_).trans ?_) <;>
    simp (disch := decide) only [field_hi, field_lo, field_all, Nat.reduceSub, and_self, if_true]

theorem Encoding.vcmp (d a b : BitVec 6) (fn : BitVec 4) : Encoding.Statement (.vcmp d a b fn) := by
  intro _ _ r
  refine (class_LX _ _ ?_).trans ((arm_LX_0 _ ?_).trans ?_) <;>
    simp (disch := decide) only [field_hi, field_lo, field_all, Nat.reduceSub, and_self, if_true]

theorem Encoding.vsel (d a b : BitVec 6) (k : BitVec 3) : Encoding.Statement (.vsel d a b k) := by
  intro _ _ r
  refine (class_LX _ _ ?_).trans ((arm_LX_1 _ ?_).trans ?_) <;>
    simp (disch := decide) only [field_hi, field_lo, field_all, Nat.reduceSub, and_self, if_true]

theorem Encoding.vvote (d a : BitVec 6) (fn : BitVec 4) : Encoding.Statement (.vvote d a fn) := by
  intro _ _ r
  refine (class_LX _ _ ?_).trans ((arm_LX_2 _ ?_).trans ?_) <;>
    simp (disch := decide) only [field_hi, field_lo, field_all, Nat.reduceSub, and_self, if_true]

theorem Encoding.vscan (d a : BitVec 6) (fn : BitVec 4) : Encoding.Statement (.vscan d a fn) := by
  intro _ _ r
  refine (class_LX _ _ ?_).trans ((arm_LX_3 _ ?_).trans ?_) <;>
    simp (disch := decide) only [field_hi, field_lo, field_all, Nat.reduceSub, and_self, if_true]

theorem Encoding.vred (d a : BitVec 6) (fn : BitVec 4) : Encoding.Statement (.vred d a fn) := by
  intro _ _ r
  refine (class_LX _ _ ?_).trans ((arm_LX_4 _ ?_).trans ?_) <;>
    simp (disch := decide) only [field_hi, field_lo, field_all, Nat.reduceSub, and_self, if_true]

theorem Encoding.vmatch (d a : BitVec 6) (fn : BitVec 4) : Encoding.Statement (.vmatch d a fn) := by
  intro _ _ r
  refine (class_LX _ _ ?_).trans ((arm_LX_5 _ ?_).trans ?_) <;>
    simp (disch := decide) only [field_hi, field_lo, field_all, Nat.reduceSub, and_self, if_true]

theorem Encoding.vcompact (d a b : BitVec 6) (fn : BitVec 4) : Encoding.Statement (.vcompact d a b fn) := by
  intro _ _ r
  refine (class_LX _ _ ?_).trans ((arm_LX_6 _ ?_).trans ?_) <;>
    simp (disch := decide) only [field_hi, field_lo, field_all, Nat.reduceSub, and_self, if_true]

theorem Encoding.vform (d a : BitVec 6) (fn : BitVec 4) : Encoding.Statement (.vform d a fn) := by
  intro _ _ r
  refine (class_LX _ _ ?_).trans ((arm_LX_7 _ ?_).trans ?_) <;>
    simp (disch := decide) only [field_hi, field_lo, field_all, Nat.reduceSub, and_self, if_true]

theorem Encoding.vstride (d a : BitVec 6) : Encoding.Statement (.vstride d a) := by
  intro _ _ r
  refine (class_LX _ _ ?_).trans ((arm_LX_8 _ ?_).trans ?_) <;>
    simp (disch := decide) only [field_hi, field_lo, field_all, Nat.reduceSub, and_self, if_true]

theorem Encoding.vindex (d : BitVec 6) (fn : BitVec 4) : Encoding.Statement (.vindex d fn) := by
  intro _ _ r
  refine (class_LX _ _ ?_).trans ((arm_LX_10 _ ?_).trans ?_) <;>
    simp (disch := decide) only [field_hi, field_lo, field_all, Nat.reduceSub, and_self, if_true]

theorem Encoding.vpopc (d a : BitVec 6) : Encoding.Statement (.vpopc d a) := by
  intro _ _ r
  refine (class_LX _ _ ?_).trans ((arm_LX_11 _ ?_).trans ?_) <;>
    simp (disch := decide) only [field_hi, field_lo, field_all, Nat.reduceSub, and_self, if_true]

theorem Encoding.vclz (d a : BitVec 6) : Encoding.Statement (.vclz d a) := by
  intro _ _ r
  refine (class_LX _ _ ?_).trans ((arm_LX_12 _ ?_).trans ?_) <;>
    simp (disch := decide) only [field_hi, field_lo, field_all, Nat.reduceSub, and_self, if_true]

theorem Encoding.vbrev (d a : BitVec 6) : Encoding.Statement (.vbrev d a) := by
  intro _ _ r
  refine (class_LX _ _ ?_).trans ((arm_LX_13 _ ?_).trans ?_) <;>
    simp (disch := decide) only [field_hi, field_lo, field_all, Nat.reduceSub, and_self, if_true]

theorem Encoding.vbfe (d a b : BitVec 6) (sgn : BitVec 1) : Encoding.Statement (.vbfe d a b sgn) := by
  intro _ _ r
  refine (class_LX _ _ ?_).trans ((arm_LX_14 _ ?_).trans ?_) <;>
    simp (disch := decide) only [field_hi, field_lo, field_all, Nat.reduceSub, and_self, if_true]

theorem Encoding.vfrcpF32 (d a : BitVec 6) : Encoding.Statement (.vfrcpF32 d a) := by
  intro _ _ r
  refine (class_LX _ _ ?_).trans ((arm_LX_15 _ ?_).trans ?_) <;>
    simp (disch := decide) only [field_hi, field_lo, field_all, Nat.reduceSub, and_self, if_true]

theorem Encoding.vfrsqF32 (d a : BitVec 6) : Encoding.Statement (.vfrsqF32 d a) := by
  intro _ _ r
  refine (class_LX _ _ ?_).trans ((arm_LX_16 _ ?_).trans ?_) <;>
    simp (disch := decide) only [field_hi, field_lo, field_all, Nat.reduceSub, and_self, if_true]

theorem Encoding.vfsqrtF32 (d a : BitVec 6) : Encoding.Statement (.vfsqrtF32 d a) := by
  intro _ _ r
  refine (class_LX _ _ ?_).trans ((arm_LX_17 _ ?_).trans ?_) <;>
    simp (disch := decide) only [field_hi, field_lo, field_all, Nat.reduceSub, and_self, if_true]

theorem Encoding.vfexp2F32 (d a : BitVec 6) : Encoding.Statement (.vfexp2F32 d a) := by
  intro _ _ r
  refine (class_LX _ _ ?_).trans ((arm_LX_18 _ ?_).trans ?_) <;>
    simp (disch := decide) only [field_hi, field_lo, field_all, Nat.reduceSub, and_self, if_true]

theorem Encoding.vflog2F32 (d a : BitVec 6) : Encoding.Statement (.vflog2F32 d a) := by
  intro _ _ r
  refine (class_LX _ _ ?_).trans ((arm_LX_19 _ ?_).trans ?_) <;>
    simp (disch := decide) only [field_hi, field_lo, field_all, Nat.reduceSub, and_self, if_true]

theorem Encoding.vfsinpiF32 (d a : BitVec 6) : Encoding.Statement (.vfsinpiF32 d a) := by
  intro _ _ r
  refine (class_LX _ _ ?_).trans ((arm_LX_20 _ ?_).trans ?_) <;>
    simp (disch := decide) only [field_hi, field_lo, field_all, Nat.reduceSub, and_self, if_true]

theorem Encoding.vfcospiF32 (d a : BitVec 6) : Encoding.Statement (.vfcospiF32 d a) := by
  intro _ _ r
  refine (class_LX _ _ ?_).trans ((arm_LX_21 _ ?_).trans ?_) <;>
    simp (disch := decide) only [field_hi, field_lo, field_all, Nat.reduceSub, and_self, if_true]

theorem Encoding.vftanhF32 (d a : BitVec 6) : Encoding.Statement (.vftanhF32 d a) := by
  intro _ _ r
  refine (class_LX _ _ ?_).trans ((arm_LX_22 _ ?_).trans ?_) <;>
    simp (disch := decide) only [field_hi, field_lo, field_all, Nat.reduceSub, and_self, if_true]

theorem Encoding.vfclass (d a : BitVec 6) (fn : BitVec 4) : Encoding.Statement (.vfclass d a fn) := by
  intro _ _ r
  refine (class_LX _ _ ?_).trans ((arm_LX_23 _ ?_).trans ?_) <;>
    simp (disch := decide) only [field_hi, field_lo, field_all, Nat.reduceSub, and_self, if_true]

theorem Encoding.vunary (d a : BitVec 6) (fn : BitVec 4) : Encoding.Statement (.vunary d a fn) := by
  intro _ _ r
  refine (class_LX _ _ ?_).trans ((arm_LX_24 _ ?_).trans ?_) <;>
    simp (disch := decide) only [field_hi, field_lo, field_all, Nat.reduceSub, and_self, if_true]

theorem Encoding.vcvt (d a : BitVec 6) (fn : BitVec 4) : Encoding.Statement (.vcvt d a fn) := by
  intro _ _ r
  refine (class_LX _ _ ?_).trans ((arm_LX_25 _ ?_).trans ?_) <;>
    simp (disch := decide) only [field_hi, field_lo, field_all, Nat.reduceSub, and_self, if_true]

theorem Encoding.vcvtb (d a : BitVec 6) (fn : BitVec 4) : Encoding.Statement (.vcvtb d a fn) := by
  intro _ _ r
  refine (class_LX _ _ ?_).trans ((arm_LX_26 _ ?_).trans ?_) <;>
    simp (disch := decide) only [field_hi, field_lo, field_all, Nat.reduceSub, and_self, if_true]

theorem Encoding.vpack (d a b : BitVec 6) (fn : BitVec 4) : Encoding.Statement (.vpack d a b fn) := by
  intro _ _ r
  refine (class_LX _ _ ?_).trans ((arm_LX_27 _ ?_).trans ?_) <;>
    simp (disch := decide) only [field_hi, field_lo, field_all, Nat.reduceSub, and_self, if_true]

theorem Encoding.vunpack (d a b : BitVec 6) (fn : BitVec 4) : Encoding.Statement (.vunpack d a b fn) := by
  intro _ _ r
  refine (class_LX _ _ ?_).trans ((arm_LX_28 _ ?_).trans ?_) <;>
    simp (disch := decide) only [field_hi, field_lo, field_all, Nat.reduceSub, and_self, if_true]

theorem Encoding.vkmov (d a b : BitVec 6) (fn : BitVec 4) : Encoding.Statement (.vkmov d a b fn) := by
  intro _ _ r
  refine (class_LX _ _ ?_).trans ((arm_LX_29 _ ?_).trans ?_) <;>
    simp (disch := decide) only [field_hi, field_lo, field_all, Nat.reduceSub, and_self, if_true]

theorem Encoding.vbr (k tag : BitVec 3) (off : BitVec 18) : Encoding.Statement (.vbr k tag off) := by
  intro _ _ r
  refine (class_LB _ _ ?_).trans ((arm_LB_0 _ _ ?_).trans ?_) <;>
    simp (disch := decide) only [field_hi, field_lo, field_all, Nat.reduceSub, and_self, if_true, List.append_eq, List.cons_append, List.nil_append]

theorem Encoding.vbrn (k tag : BitVec 3) (off : BitVec 18) : Encoding.Statement (.vbrn k tag off) := by
  intro _ _ r
  refine (class_LB _ _ ?_).trans ((arm_LB_1 _ _ ?_).trans ?_) <;>
    simp (disch := decide) only [field_hi, field_lo, field_all, Nat.reduceSub, and_self, if_true, List.append_eq, List.cons_append, List.nil_append]

theorem Encoding.vjoin (tag : BitVec 3) (live : BitVec 8) : Encoding.Statement (.vjoin tag live) := by
  intro _ _ r
  refine (class_LB _ _ ?_).trans ((arm_LB_2 _ _ ?_).trans ?_) <;>
    simp (disch := decide) only [field_hi, field_lo, field_all, Nat.reduceSub, and_self, if_true, List.append_eq, List.cons_append, List.nil_append]

theorem Encoding.vreform (tag : BitVec 3) (live : BitVec 8) : Encoding.Statement (.vreform tag live) := by
  intro _ _ r
  refine (class_LB _ _ ?_).trans ((arm_LB_3 _ _ ?_).trans ?_) <;>
    simp (disch := decide) only [field_hi, field_lo, field_all, Nat.reduceSub, and_self, if_true, List.append_eq, List.cons_append, List.nil_append]

theorem Encoding.vcall (off : BitVec 18) : Encoding.Statement (.vcall off) := by
  intro _ _ r
  refine (class_LB _ _ ?_).trans ((arm_LB_4 _ _ ?_).trans ?_) <;>
    simp (disch := decide) only [field_hi, field_lo, field_all, Nat.reduceSub, and_self, if_true, List.append_eq, List.cons_append, List.nil_append]

theorem Encoding.vcallr (va : BitVec 6) : Encoding.Statement (.vcallr va) := by
  intro _ _ r
  refine (class_LB _ _ ?_).trans ((arm_LB_5 _ _ ?_).trans ?_) <;>
    simp (disch := decide) only [field_hi, field_lo, field_all, Nat.reduceSub, and_self, if_true, List.append_eq, List.cons_append, List.nil_append]

theorem Encoding.vswitch (tag : BitVec 3) (va : BitVec 6) (cases : List (BitVec 32)) : Encoding.Statement (.vswitch tag va cases) := by
  intro hw _ r
  have hw' : 1 ≤ cases.length ∧ cases.length ≤ 16 := by simpa [Instr.wf] using hw
  have hn : (BitVec.ofNat 4 (cases.length - 1)).toNat + 1 = cases.length := by
    rw [BitVec.toNat_ofNat, Nat.mod_eq_of_lt (by omega)]
    omega
  refine (class_LB _ _ ?_).trans ((arm_LB_8 _ _ ?_).trans ?_)
  · simp (disch := decide) only [field_hi, field_lo, field_all, Nat.reduceSub, and_self, if_true]
  · simp (disch := decide) only [field_hi, field_lo, field_all, Nat.reduceSub, and_self, if_true]
  · simp (disch := decide) only [field_hi, field_lo, field_all, Nat.reduceSub, and_self, if_true, hn, List.length_append, true_and]
    rw [if_pos (by rw [List.append_eq, List.length_append]; omega)]
    exact congrArg (fun x => some (Instr.vswitch tag va x)) (List.take_left ..)

theorem Encoding.vmovl (vd : BitVec 6) (imm : BitVec 32) : Encoding.Statement (.vmovl vd imm) := by
  intro _ _ r
  refine (class_LE _ _ ?_).trans ((arm_LE_0 _ _ ?_).trans ?_) <;>
    simp (disch := decide) only [field_hi, field_lo, field_all, Nat.reduceSub, and_self, if_true, List.append_eq, List.cons_append, List.nil_append]

theorem Encoding.vatom (vd va vb : BitVec 6) (aop : BitVec 5) (w nr : BitVec 1) (vc : BitVec 6) (disp : BitVec 16) : Encoding.Statement (.vatom vd va vb aop w nr vc disp) := by
  intro _ _ r
  refine (class_LE _ _ ?_).trans ((arm_LE_1 _ _ ?_).trans ?_) <;>
    simp (disch := decide) only [field_hi, field_lo, field_all, Nat.reduceSub, and_self, if_true, List.append_eq, List.cons_append, List.nil_append]

theorem Encoding.vcopy (vd va vb : BitVec 6) (logsz : BitVec 3) : Encoding.Statement (.vcopy vd va vb logsz) := by
  intro _ _ r
  refine (class_LE _ _ ?_).trans ((arm_LE_2 _ _ ?_).trans ?_) <;>
    simp (disch := decide) only [field_hi, field_lo, field_all, Nat.reduceSub, and_self, if_true, List.append_eq, List.cons_append, List.nil_append]

theorem Encoding.vldg (vd va vb : BitVec 6) (sz : BitVec 3) (scale : BitVec 2) (ahead : BitVec 1) (tag : BitVec 3) (win : BitVec 4) (disp : BitVec 16) : Encoding.Statement (.vldg vd va vb sz scale ahead tag win disp) := by
  intro _ _ r
  refine (class_LE _ _ ?_).trans ((arm_LE_3 _ _ ?_).trans ?_) <;>
    simp (disch := decide) only [field_hi, field_lo, field_all, Nat.reduceSub, and_self, if_true, List.append_eq, List.cons_append, List.nil_append]

theorem Encoding.sadd (sd sa sb : BitVec 6) : Encoding.Statement (.sadd sd sa sb) := by
  intro _ _ r
  refine (class_UR _ _ ?_).trans ((arm_UR_0 _ ?_).trans ?_) <;>
    simp (disch := decide) only [field_hi, field_lo, field_all, Nat.reduceSub, and_self, if_true]

theorem Encoding.ssub (sd sa sb : BitVec 6) : Encoding.Statement (.ssub sd sa sb) := by
  intro _ _ r
  refine (class_UR _ _ ?_).trans ((arm_UR_1 _ ?_).trans ?_) <;>
    simp (disch := decide) only [field_hi, field_lo, field_all, Nat.reduceSub, and_self, if_true]

theorem Encoding.smul (sd sa sb : BitVec 6) : Encoding.Statement (.smul sd sa sb) := by
  intro _ _ r
  refine (class_UR _ _ ?_).trans ((arm_UR_2 _ ?_).trans ?_) <;>
    simp (disch := decide) only [field_hi, field_lo, field_all, Nat.reduceSub, and_self, if_true]

theorem Encoding.smulhI32 (sd sa sb : BitVec 6) : Encoding.Statement (.smulhI32 sd sa sb) := by
  intro _ _ r
  refine (class_UR _ _ ?_).trans ((arm_UR_3 _ ?_).trans ?_) <;>
    simp (disch := decide) only [field_hi, field_lo, field_all, Nat.reduceSub, and_self, if_true]

theorem Encoding.smulhN32 (sd sa sb : BitVec 6) : Encoding.Statement (.smulhN32 sd sa sb) := by
  intro _ _ r
  refine (class_UR _ _ ?_).trans ((arm_UR_4 _ ?_).trans ?_) <;>
    simp (disch := decide) only [field_hi, field_lo, field_all, Nat.reduceSub, and_self, if_true]

theorem Encoding.sminI32 (sd sa sb : BitVec 6) : Encoding.Statement (.sminI32 sd sa sb) := by
  intro _ _ r
  refine (class_UR _ _ ?_).trans ((arm_UR_5 _ ?_).trans ?_) <;>
    simp (disch := decide) only [field_hi, field_lo, field_all, Nat.reduceSub, and_self, if_true]

theorem Encoding.sminN32 (sd sa sb : BitVec 6) : Encoding.Statement (.sminN32 sd sa sb) := by
  intro _ _ r
  refine (class_UR _ _ ?_).trans ((arm_UR_6 _ ?_).trans ?_) <;>
    simp (disch := decide) only [field_hi, field_lo, field_all, Nat.reduceSub, and_self, if_true]

theorem Encoding.smaxI32 (sd sa sb : BitVec 6) : Encoding.Statement (.smaxI32 sd sa sb) := by
  intro _ _ r
  refine (class_UR _ _ ?_).trans ((arm_UR_7 _ ?_).trans ?_) <;>
    simp (disch := decide) only [field_hi, field_lo, field_all, Nat.reduceSub, and_self, if_true]

theorem Encoding.smaxN32 (sd sa sb : BitVec 6) : Encoding.Statement (.smaxN32 sd sa sb) := by
  intro _ _ r
  refine (class_UR _ _ ?_).trans ((arm_UR_8 _ ?_).trans ?_) <;>
    simp (disch := decide) only [field_hi, field_lo, field_all, Nat.reduceSub, and_self, if_true]

theorem Encoding.sand (sd sa sb : BitVec 6) : Encoding.Statement (.sand sd sa sb) := by
  intro _ _ r
  refine (class_UR _ _ ?_).trans ((arm_UR_9 _ ?_).trans ?_) <;>
    simp (disch := decide) only [field_hi, field_lo, field_all, Nat.reduceSub, and_self, if_true]

theorem Encoding.sor (sd sa sb : BitVec 6) : Encoding.Statement (.sor sd sa sb) := by
  intro _ _ r
  refine (class_UR _ _ ?_).trans ((arm_UR_10 _ ?_).trans ?_) <;>
    simp (disch := decide) only [field_hi, field_lo, field_all, Nat.reduceSub, and_self, if_true]

theorem Encoding.sxor (sd sa sb : BitVec 6) : Encoding.Statement (.sxor sd sa sb) := by
  intro _ _ r
  refine (class_UR _ _ ?_).trans ((arm_UR_11 _ ?_).trans ?_) <;>
    simp (disch := decide) only [field_hi, field_lo, field_all, Nat.reduceSub, and_self, if_true]

theorem Encoding.sshl (sd sa sb : BitVec 6) : Encoding.Statement (.sshl sd sa sb) := by
  intro _ _ r
  refine (class_UR _ _ ?_).trans ((arm_UR_12 _ ?_).trans ?_) <;>
    simp (disch := decide) only [field_hi, field_lo, field_all, Nat.reduceSub, and_self, if_true]

theorem Encoding.sshr (sd sa sb : BitVec 6) : Encoding.Statement (.sshr sd sa sb) := by
  intro _ _ r
  refine (class_UR _ _ ?_).trans ((arm_UR_13 _ ?_).trans ?_) <;>
    simp (disch := decide) only [field_hi, field_lo, field_all, Nat.reduceSub, and_self, if_true]

theorem Encoding.ssar (sd sa sb : BitVec 6) : Encoding.Statement (.ssar sd sa sb) := by
  intro _ _ r
  refine (class_UR _ _ ?_).trans ((arm_UR_14 _ ?_).trans ?_) <;>
    simp (disch := decide) only [field_hi, field_lo, field_all, Nat.reduceSub, and_self, if_true]

theorem Encoding.scmp (sd sa sb : BitVec 6) (fn : BitVec 4) : Encoding.Statement (.scmp sd sa sb fn) := by
  intro _ _ r
  refine (class_UR _ _ ?_).trans ((arm_UR_15 _ ?_).trans ?_) <;>
    simp (disch := decide) only [field_hi, field_lo, field_all, Nat.reduceSub, and_self, if_true]

theorem Encoding.ssel (sd sa sb : BitVec 6) : Encoding.Statement (.ssel sd sa sb) := by
  intro _ _ r
  refine (class_UR _ _ ?_).trans ((arm_UR_16 _ ?_).trans ?_) <;>
    simp (disch := decide) only [field_hi, field_lo, field_all, Nat.reduceSub, and_self, if_true]

theorem Encoding.smov (sd sa : BitVec 6) : Encoding.Statement (.smov sd sa) := by
  intro _ _ r
  refine (class_UR _ _ ?_).trans ((arm_UR_17 _ ?_).trans ?_) <;>
    simp (disch := decide) only [field_hi, field_lo, field_all, Nat.reduceSub, and_self, if_true]

theorem Encoding.spopc (sd sa : BitVec 6) : Encoding.Statement (.spopc sd sa) := by
  intro _ _ r
  refine (class_UR _ _ ?_).trans ((arm_UR_18 _ ?_).trans ?_) <;>
    simp (disch := decide) only [field_hi, field_lo, field_all, Nat.reduceSub, and_self, if_true]

theorem Encoding.sclz (sd sa : BitVec 6) : Encoding.Statement (.sclz sd sa) := by
  intro _ _ r
  refine (class_UR _ _ ?_).trans ((arm_UR_19 _ ?_).trans ?_) <;>
    simp (disch := decide) only [field_hi, field_lo, field_all, Nat.reduceSub, and_self, if_true]

theorem Encoding.sdivN32 (sd sa sb : BitVec 6) : Encoding.Statement (.sdivN32 sd sa sb) := by
  intro _ _ r
  refine (class_UR _ _ ?_).trans ((arm_UR_20 _ ?_).trans ?_) <;>
    simp (disch := decide) only [field_hi, field_lo, field_all, Nat.reduceSub, and_self, if_true]

theorem Encoding.sremN32 (sd sa sb : BitVec 6) : Encoding.Statement (.sremN32 sd sa sb) := by
  intro _ _ r
  refine (class_UR _ _ ?_).trans ((arm_UR_21 _ ?_).trans ?_) <;>
    simp (disch := decide) only [field_hi, field_lo, field_all, Nat.reduceSub, and_self, if_true]

theorem Encoding.sdivI32 (sd sa sb : BitVec 6) : Encoding.Statement (.sdivI32 sd sa sb) := by
  intro _ _ r
  refine (class_UR _ _ ?_).trans ((arm_UR_22 _ ?_).trans ?_) <;>
    simp (disch := decide) only [field_hi, field_lo, field_all, Nat.reduceSub, and_self, if_true]

theorem Encoding.sremI32 (sd sa sb : BitVec 6) : Encoding.Statement (.sremI32 sd sa sb) := by
  intro _ _ r
  refine (class_UR _ _ ?_).trans ((arm_UR_23 _ ?_).trans ?_) <;>
    simp (disch := decide) only [field_hi, field_lo, field_all, Nat.reduceSub, and_self, if_true]

theorem Encoding.sfadd (sd sa sb : BitVec 6) : Encoding.Statement (.sfadd sd sa sb) := by
  intro _ _ r
  refine (class_UR _ _ ?_).trans ((arm_UR_24 _ ?_).trans ?_) <;>
    simp (disch := decide) only [field_hi, field_lo, field_all, Nat.reduceSub, and_self, if_true]

theorem Encoding.sfmul (sd sa sb : BitVec 6) : Encoding.Statement (.sfmul sd sa sb) := by
  intro _ _ r
  refine (class_UR _ _ ?_).trans ((arm_UR_25 _ ?_).trans ?_) <;>
    simp (disch := decide) only [field_hi, field_lo, field_all, Nat.reduceSub, and_self, if_true]

theorem Encoding.sffma (sd sa sb : BitVec 6) : Encoding.Statement (.sffma sd sa sb) := by
  intro _ _ r
  refine (class_UR _ _ ?_).trans ((arm_UR_26 _ ?_).trans ?_) <;>
    simp (disch := decide) only [field_hi, field_lo, field_all, Nat.reduceSub, and_self, if_true]

theorem Encoding.sfcmp (sd sa sb : BitVec 6) (fn : BitVec 4) : Encoding.Statement (.sfcmp sd sa sb fn) := by
  intro _ _ r
  refine (class_UR _ _ ?_).trans ((arm_UR_27 _ ?_).trans ?_) <;>
    simp (disch := decide) only [field_hi, field_lo, field_all, Nat.reduceSub, and_self, if_true]

theorem Encoding.scvt (sd sa sb : BitVec 6) (fn : BitVec 4) : Encoding.Statement (.scvt sd sa sb fn) := by
  intro _ _ r
  refine (class_UR _ _ ?_).trans ((arm_UR_28 _ ?_).trans ?_) <;>
    simp (disch := decide) only [field_hi, field_lo, field_all, Nat.reduceSub, and_self, if_true]

theorem Encoding.sadd64 (sd sa sb : BitVec 6) : Encoding.Statement (.sadd64 sd sa sb) := by
  intro _ _ r
  refine (class_UR _ _ ?_).trans ((arm_UR_29 _ ?_).trans ?_) <;>
    simp (disch := decide) only [field_hi, field_lo, field_all, Nat.reduceSub, and_self, if_true]

theorem Encoding.ssub64 (sd sa sb : BitVec 6) : Encoding.Statement (.ssub64 sd sa sb) := by
  intro _ _ r
  refine (class_UR _ _ ?_).trans ((arm_UR_30 _ ?_).trans ?_) <;>
    simp (disch := decide) only [field_hi, field_lo, field_all, Nat.reduceSub, and_self, if_true]

theorem Encoding.smulw (sd sa sb : BitVec 6) : Encoding.Statement (.smulw sd sa sb) := by
  intro _ _ r
  refine (class_UR _ _ ?_).trans ((arm_UR_31 _ ?_).trans ?_) <;>
    simp (disch := decide) only [field_hi, field_lo, field_all, Nat.reduceSub, and_self, if_true]

theorem Encoding.saddi (sd sa : BitVec 6) (imm : BitVec 12) : Encoding.Statement (.saddi sd sa imm) := by
  intro _ _ r
  refine (class_UI _ _ ?_).trans ((arm_UI_0 _ ?_).trans ?_) <;>
    simp (disch := decide) only [field_hi, field_lo, field_all, Nat.reduceSub, and_self, if_true]

theorem Encoding.smuli (sd sa : BitVec 6) (imm : BitVec 12) : Encoding.Statement (.smuli sd sa imm) := by
  intro _ _ r
  refine (class_UI _ _ ?_).trans ((arm_UI_1 _ ?_).trans ?_) <;>
    simp (disch := decide) only [field_hi, field_lo, field_all, Nat.reduceSub, and_self, if_true]

theorem Encoding.sandi (sd sa : BitVec 6) (imm : BitVec 12) : Encoding.Statement (.sandi sd sa imm) := by
  intro _ _ r
  refine (class_UI _ _ ?_).trans ((arm_UI_2 _ ?_).trans ?_) <;>
    simp (disch := decide) only [field_hi, field_lo, field_all, Nat.reduceSub, and_self, if_true]

theorem Encoding.sori (sd sa : BitVec 6) (imm : BitVec 12) : Encoding.Statement (.sori sd sa imm) := by
  intro _ _ r
  refine (class_UI _ _ ?_).trans ((arm_UI_3 _ ?_).trans ?_) <;>
    simp (disch := decide) only [field_hi, field_lo, field_all, Nat.reduceSub, and_self, if_true]

theorem Encoding.sxori (sd sa : BitVec 6) (imm : BitVec 12) : Encoding.Statement (.sxori sd sa imm) := by
  intro _ _ r
  refine (class_UI _ _ ?_).trans ((arm_UI_4 _ ?_).trans ?_) <;>
    simp (disch := decide) only [field_hi, field_lo, field_all, Nat.reduceSub, and_self, if_true]

theorem Encoding.sshli (sd sa : BitVec 6) (imm : BitVec 12) : Encoding.Statement (.sshli sd sa imm) := by
  intro _ _ r
  refine (class_UI _ _ ?_).trans ((arm_UI_5 _ ?_).trans ?_) <;>
    simp (disch := decide) only [field_hi, field_lo, field_all, Nat.reduceSub, and_self, if_true]

theorem Encoding.sshri (sd sa : BitVec 6) (imm : BitVec 12) : Encoding.Statement (.sshri sd sa imm) := by
  intro _ _ r
  refine (class_UI _ _ ?_).trans ((arm_UI_6 _ ?_).trans ?_) <;>
    simp (disch := decide) only [field_hi, field_lo, field_all, Nat.reduceSub, and_self, if_true]

theorem Encoding.ssari (sd sa : BitVec 6) (imm : BitVec 12) : Encoding.Statement (.ssari sd sa imm) := by
  intro _ _ r
  refine (class_UI _ _ ?_).trans ((arm_UI_7 _ ?_).trans ?_) <;>
    simp (disch := decide) only [field_hi, field_lo, field_all, Nat.reduceSub, and_self, if_true]

theorem Encoding.sltiI32 (sd sa : BitVec 6) (imm : BitVec 12) : Encoding.Statement (.sltiI32 sd sa imm) := by
  intro _ _ r
  refine (class_UI _ _ ?_).trans ((arm_UI_8 _ ?_).trans ?_) <;>
    simp (disch := decide) only [field_hi, field_lo, field_all, Nat.reduceSub, and_self, if_true]

theorem Encoding.sltiN32 (sd sa : BitVec 6) (imm : BitVec 12) : Encoding.Statement (.sltiN32 sd sa imm) := by
  intro _ _ r
  refine (class_UI _ _ ?_).trans ((arm_UI_9 _ ?_).trans ?_) <;>
    simp (disch := decide) only [field_hi, field_lo, field_all, Nat.reduceSub, and_self, if_true]

theorem Encoding.seqi (sd sa : BitVec 6) (imm : BitVec 12) : Encoding.Statement (.seqi sd sa imm) := by
  intro _ _ r
  refine (class_UI _ _ ?_).trans ((arm_UI_10 _ ?_).trans ?_) <;>
    simp (disch := decide) only [field_hi, field_lo, field_all, Nat.reduceSub, and_self, if_true]

theorem Encoding.sadd64i (sd sa : BitVec 6) (imm : BitVec 12) : Encoding.Statement (.sadd64i sd sa imm) := by
  intro _ _ r
  refine (class_UI _ _ ?_).trans ((arm_UI_11 _ ?_).trans ?_) <;>
    simp (disch := decide) only [field_hi, field_lo, field_all, Nat.reduceSub, and_self, if_true]

theorem Encoding.smovi (sd : BitVec 6) (imm : BitVec 18) : Encoding.Statement (.smovi sd imm) := by
  intro _ _ r
  refine (class_UK _ _ ?_).trans ((arm_UK_0 _ ?_).trans ?_) <;>
    simp (disch := decide) only [field_hi, field_lo, field_all, Nat.reduceSub, and_self, if_true]

theorem Encoding.shii (sd : BitVec 6) (imm : BitVec 18) : Encoding.Statement (.shii sd imm) := by
  intro _ _ r
  refine (class_UK _ _ ?_).trans ((arm_UK_1 _ ?_).trans ?_) <;>
    simp (disch := decide) only [field_hi, field_lo, field_all, Nat.reduceSub, and_self, if_true]

theorem Encoding.saddpc (sd : BitVec 6) (imm : BitVec 18) : Encoding.Statement (.saddpc sd imm) := by
  intro _ _ r
  refine (class_UK _ _ ?_).trans ((arm_UK_2 _ ?_).trans ?_) <;>
    simp (disch := decide) only [field_hi, field_lo, field_all, Nat.reduceSub, and_self, if_true]

theorem Encoding.route (sd : BitVec 6) (slot kind : BitVec 2) (fill dyn : BitVec 1) (param : BitVec 6) : Encoding.Statement (.route sd slot kind fill dyn param) := by
  intro _ _ r
  refine (class_UK _ _ ?_).trans ((arm_UK_3 _ ?_).trans ?_) <;>
    simp (disch := decide) only [field_hi, field_lo, field_all, Nat.reduceSub, and_self, if_true]

theorem Encoding.part (tile : BitVec 3) : Encoding.Statement (.part tile) := by
  intro _ _ r
  refine (class_UK _ _ ?_).trans ((arm_UK_4 _ ?_).trans ?_) <;>
    simp (disch := decide) only [field_hi, field_lo, field_all, Nat.reduceSub, and_self, if_true]

theorem Encoding.mode (mask value : BitVec 8) : Encoding.Statement (.mode mask value) := by
  intro _ _ r
  refine (class_UK _ _ ?_).trans ((arm_UK_5 _ ?_).trans ?_) <;>
    simp (disch := decide) only [field_hi, field_lo, field_all, Nat.reduceSub, and_self, if_true]

theorem Encoding.acq (sd : BitVec 6) (wait : BitVec 1) (m : BitVec 4) : Encoding.Statement (.acq sd wait m) := by
  intro _ _ r
  refine (class_UK _ _ ?_).trans ((arm_UK_6 _ ?_).trans ?_) <;>
    simp (disch := decide) only [field_hi, field_lo, field_all, Nat.reduceSub, and_self, if_true]

theorem Encoding.rel (m : BitVec 4) : Encoding.Statement (.rel m) := by
  intro _ _ r
  refine (class_UK _ _ ?_).trans ((arm_UK_7 _ ?_).trans ?_) <;>
    simp (disch := decide) only [field_hi, field_lo, field_all, Nat.reduceSub, and_self, if_true]

theorem Encoding.sld (sd sa : BitVec 6) (sz : BitVec 3) (off : BitVec 9) : Encoding.Statement (.sld sd sa sz off) := by
  intro _ _ r
  refine (class_UM _ _ ?_).trans ((arm_UM_0 _ ?_).trans ?_) <;>
    simp (disch := decide) only [field_hi, field_lo, field_all, Nat.reduceSub, and_self, if_true]

theorem Encoding.sst (ss sa : BitVec 6) (sz : BitVec 3) (off : BitVec 9) : Encoding.Statement (.sst ss sa sz off) := by
  intro _ _ r
  refine (class_UM _ _ ?_).trans ((arm_UM_1 _ ?_).trans ?_) <;>
    simp (disch := decide) only [field_hi, field_lo, field_all, Nat.reduceSub, and_self, if_true]

theorem Encoding.sldc (sd sa : BitVec 6) (sz : BitVec 3) (off : BitVec 9) : Encoding.Statement (.sldc sd sa sz off) := by
  intro _ _ r
  refine (class_UM _ _ ?_).trans ((arm_UM_2 _ ?_).trans ?_) <;>
    simp (disch := decide) only [field_hi, field_lo, field_all, Nat.reduceSub, and_self, if_true]

theorem Encoding.jmp (off : BitVec 24) : Encoding.Statement (.jmp off) := by
  intro _ _ r
  refine (class_UB _ _ ?_).trans ((arm_UB_0 _ ?_).trans ?_) <;>
    simp (disch := decide) only [field_hi, field_lo, field_all, Nat.reduceSub, and_self, if_true]

theorem Encoding.brz (sa : BitVec 6) (off : BitVec 18) : Encoding.Statement (.brz sa off) := by
  intro _ _ r
  refine (class_UB _ _ ?_).trans ((arm_UB_1 _ ?_).trans ?_) <;>
    simp (disch := decide) only [field_hi, field_lo, field_all, Nat.reduceSub, and_self, if_true]

theorem Encoding.brnz (sa : BitVec 6) (off : BitVec 18) : Encoding.Statement (.brnz sa off) := by
  intro _ _ r
  refine (class_UB _ _ ?_).trans ((arm_UB_2 _ ?_).trans ?_) <;>
    simp (disch := decide) only [field_hi, field_lo, field_all, Nat.reduceSub, and_self, if_true]

theorem Encoding.call (off : BitVec 24) : Encoding.Statement (.call off) := by
  intro _ _ r
  refine (class_UB _ _ ?_).trans ((arm_UB_3 _ ?_).trans ?_) <;>
    simp (disch := decide) only [field_hi, field_lo, field_all, Nat.reduceSub, and_self, if_true]

theorem Encoding.callr (sa : BitVec 6) : Encoding.Statement (.callr sa) := by
  intro _ _ r
  refine (class_UB _ _ ?_).trans ((arm_UB_4 _ ?_).trans ?_) <;>
    simp (disch := decide) only [field_hi, field_lo, field_all, Nat.reduceSub, and_self, if_true]

theorem Encoding.nop (code : BitVec 16) : Encoding.Statement (.nop code) := by
  intro _ _ r
  refine (class_UB _ _ ?_).trans ((arm_UB_8 _ ?_).trans ?_) <;>
    simp (disch := decide) only [field_hi, field_lo, field_all, Nat.reduceSub, and_self, if_true]

theorem Encoding.trap (code : BitVec 16) : Encoding.Statement (.trap code) := by
  intro _ _ r
  refine (class_UB _ _ ?_).trans ((arm_UB_9 _ ?_).trans ?_) <;>
    simp (disch := decide) only [field_hi, field_lo, field_all, Nat.reduceSub, and_self, if_true]

theorem Encoding.brk (code : BitVec 16) : Encoding.Statement (.brk code) := by
  intro _ _ r
  refine (class_UB _ _ ?_).trans ((arm_UB_11 _ ?_).trans ?_) <;>
    simp (disch := decide) only [field_hi, field_lo, field_all, Nat.reduceSub, and_self, if_true]

theorem Encoding.tcopy (sa sb sc : BitVec 6) : Encoding.Statement (.tcopy sa sb sc) := by
  intro _ _ r
  refine (class_UE _ _ ?_).trans ((arm_UE_0 _ _ ?_).trans ?_) <;>
    simp (disch := decide) only [field_hi, field_lo, field_all, Nat.reduceSub, and_self, if_true, List.append_eq, List.cons_append, List.nil_append]

theorem Encoding.tcopyx (sa sb sc : BitVec 6) (e1 e0 ss1 e2 row0 ss2 : BitVec 16) (m2 m1 m0 : BitVec 10) : Encoding.Statement (.tcopyx sa sb sc e1 e0 ss1 e2 row0 ss2 m2 m1 m0) := by
  intro _ _ r
  refine (class_UE _ _ ?_).trans ((arm_UE_1 _ _ ?_).trans ?_) <;>
    simp (disch := decide) only [field_hi, field_lo, field_all, Nat.reduceSub, and_self, if_true, List.append_eq, List.cons_append, List.nil_append]

theorem Encoding.mcopy (sa sb sc : BitVec 6) : Encoding.Statement (.mcopy sa sb sc) := by
  intro _ _ r
  refine (class_UE _ _ ?_).trans ((arm_UE_2 _ _ ?_).trans ?_) <;>
    simp (disch := decide) only [field_hi, field_lo, field_all, Nat.reduceSub, and_self, if_true, List.append_eq, List.cons_append, List.nil_append]

theorem Encoding.bcopy (sa sb sc : BitVec 6) (nkey rowb : BitVec 16) (creg nreg : BitVec 6) : Encoding.Statement (.bcopy sa sb sc nkey rowb creg nreg) := by
  intro _ _ r
  refine (class_UE _ _ ?_).trans ((arm_UE_3 _ _ ?_).trans ?_) <;>
    simp (disch := decide) only [field_hi, field_lo, field_all, Nat.reduceSub, and_self, if_true, List.append_eq, List.cons_append, List.nil_append]

theorem Encoding.chain (sa sb sc : BitVec 6) (ops : BitVec 32) (kb : BitVec 6) (ot it : BitVec 2) : Encoding.Statement (.chain sa sb sc ops kb ot it) := by
  intro _ _ r
  refine (class_UE _ _ ?_).trans ((arm_UE_4 _ _ ?_).trans ?_) <;>
    simp (disch := decide) only [field_hi, field_lo, field_all, Nat.reduceSub, and_self, if_true, List.append_eq, List.cons_append, List.nil_append]

theorem Encoding.bseal (t : BitVec 3) : Encoding.Statement (.bseal t) := by
  intro _ _ r
  refine (class_UE _ _ ?_).trans ((arm_UE_5 _ _ ?_).trans ?_) <;>
    simp (disch := decide) only [field_hi, field_lo, field_all, Nat.reduceSub, and_self, if_true, List.append_eq, List.cons_append, List.nil_append]

theorem Encoding.bwait (t : BitVec 3) : Encoding.Statement (.bwait t) := by
  intro _ _ r
  refine (class_UE _ _ ?_).trans ((arm_UE_6 _ _ ?_).trans ?_) <;>
    simp (disch := decide) only [field_hi, field_lo, field_all, Nat.reduceSub, and_self, if_true, List.append_eq, List.cons_append, List.nil_append]

theorem Encoding.awinit (sa sb : BitVec 6) : Encoding.Statement (.awinit sa sb) := by
  intro _ _ r
  refine (class_UE _ _ ?_).trans ((arm_UE_7 _ _ ?_).trans ?_) <;>
    simp (disch := decide) only [field_hi, field_lo, field_all, Nat.reduceSub, and_self, if_true, List.append_eq, List.cons_append, List.nil_append]

theorem Encoding.await (sa sb sc : BitVec 6) : Encoding.Statement (.await sa sb sc) := by
  intro _ _ r
  refine (class_UE _ _ ?_).trans ((arm_UE_8 _ _ ?_).trans ?_) <;>
    simp (disch := decide) only [field_hi, field_lo, field_all, Nat.reduceSub, and_self, if_true, List.append_eq, List.cons_append, List.nil_append]

theorem Encoding.obres (sa sb sc : BitVec 6) (h : BitVec 4) (kind : BitVec 2) (fmt : BitVec 3) (lb : BitVec 2) (split layout : BitVec 1) (ns : BitVec 2) : Encoding.Statement (.obres sa sb sc h kind fmt lb split layout ns) := by
  intro _ _ r
  refine (class_UE _ _ ?_).trans ((arm_UE_9 _ _ ?_).trans ?_) <;>
    simp (disch := decide) only [field_hi, field_lo, field_all, Nat.reduceSub, and_self, if_true, List.append_eq, List.cons_append, List.nil_append]

theorem Encoding.obrel (sa : BitVec 6) : Encoding.Statement (.obrel sa) := by
  intro _ _ r
  refine (class_UE _ _ ?_).trans ((arm_UE_10 _ _ ?_).trans ?_) <;>
    simp (disch := decide) only [field_hi, field_lo, field_all, Nat.reduceSub, and_self, if_true, List.append_eq, List.cons_append, List.nil_append]

theorem Encoding.crew (sa : BitVec 6) : Encoding.Statement (.crew sa) := by
  intro _ _ r
  refine (class_UE _ _ ?_).trans ((arm_UE_11 _ _ ?_).trans ?_) <;>
    simp (disch := decide) only [field_hi, field_lo, field_all, Nat.reduceSub, and_self, if_true, List.append_eq, List.cons_append, List.nil_append]

theorem Encoding.mma (sa : BitVec 6) (ha hb hc : BitVec 4) : Encoding.Statement (.mma sa ha hb hc) := by
  intro _ _ r
  refine (class_UE _ _ ?_).trans ((arm_UE_12 _ _ ?_).trans ?_) <;>
    simp (disch := decide) only [field_hi, field_lo, field_all, Nat.reduceSub, and_self, if_true, List.append_eq, List.cons_append, List.nil_append]

theorem Encoding.mmaRs (sa sb sc : BitVec 6) (ha hb hc : BitVec 4) (sel : BitVec 1) (rsel : BitVec 8) : Encoding.Statement (.mmaRs sa sb sc ha hb hc sel rsel) := by
  intro _ _ r
  refine (class_UE _ _ ?_).trans ((arm_UE_12 _ _ ?_).trans ?_) <;>
    simp (disch := decide) only [field_hi, field_lo, field_all, Nat.reduceSub, and_self, if_true, List.append_eq, List.cons_append, List.nil_append]
  rw [if_neg (fun h => absurd h.2.2.2.1 (by decide))]

theorem Encoding.mmaSs (sa sb sc : BitVec 6) (ha hb hc : BitVec 4) : Encoding.Statement (.mmaSs sa sb sc ha hb hc) := by
  intro _ _ r
  refine (class_UE _ _ ?_).trans ((arm_UE_12 _ _ ?_).trans ?_) <;>
    simp (disch := decide) only [field_hi, field_lo, field_all, Nat.reduceSub, and_self, if_true, List.append_eq, List.cons_append, List.nil_append]
  rw [if_neg (fun h => absurd h.2.2.2.1 (by decide)), if_neg (fun h => absurd h.2.1 (by decide))]

theorem Encoding.mmas (sa sb : BitVec 6) (ha hb hc : BitVec 4) : Encoding.Statement (.mmas sa sb ha hb hc) := by
  intro _ _ r
  refine (class_UE _ _ ?_).trans ((arm_UE_13 _ _ ?_).trans ?_) <;>
    simp (disch := decide) only [field_hi, field_lo, field_all, Nat.reduceSub, and_self, if_true, List.append_eq, List.cons_append, List.nil_append]

theorem Encoding.mman (sa sb sc : BitVec 6) (form : BitVec 1) (ha hb hc : BitVec 4) (sel : BitVec 1) (rsel : BitVec 8) : Encoding.Statement (.mman sa sb sc form ha hb hc sel rsel) := by
  intro _ _ r
  refine (class_UE _ _ ?_).trans ((arm_UE_14 _ _ ?_).trans ?_) <;>
    simp (disch := decide) only [field_hi, field_lo, field_all, Nat.reduceSub, and_self, if_true, List.append_eq, List.cons_append, List.nil_append]

theorem Encoding.salient (sa : BitVec 6) (ha hb hc : BitVec 4) : Encoding.Statement (.salient sa ha hb hc) := by
  intro _ _ r
  refine (class_UE _ _ ?_).trans ((arm_UE_15 _ _ ?_).trans ?_) <;>
    simp (disch := decide) only [field_hi, field_lo, field_all, Nat.reduceSub, and_self, if_true, List.append_eq, List.cons_append, List.nil_append]

theorem Encoding.accrd (sa sb sc : BitVec 6) : Encoding.Statement (.accrd sa sb sc) := by
  intro _ _ r
  refine (class_UE _ _ ?_).trans ((arm_UE_16 _ _ ?_).trans ?_) <;>
    simp (disch := decide) only [field_hi, field_lo, field_all, Nat.reduceSub, and_self, if_true, List.append_eq, List.cons_append, List.nil_append]

theorem Encoding.accz (sa : BitVec 6) : Encoding.Statement (.accz sa) := by
  intro _ _ r
  refine (class_UE _ _ ?_).trans ((arm_UE_17 _ _ ?_).trans ?_) <;>
    simp (disch := decide) only [field_hi, field_lo, field_all, Nat.reduceSub, and_self, if_true, List.append_eq, List.cons_append, List.nil_append]

theorem Encoding.capb (sa sb sc : BitVec 6) : Encoding.Statement (.capb sa sb sc) := by
  intro _ _ r
  refine (class_UE _ _ ?_).trans ((arm_UE_18 _ _ ?_).trans ?_) <;>
    simp (disch := decide) only [field_hi, field_lo, field_all, Nat.reduceSub, and_self, if_true, List.append_eq, List.cons_append, List.nil_append]

theorem Encoding.satom (sa sb sc : BitVec 6) (aop : BitVec 5) (w nr : BitVec 1) (cmp : BitVec 6) (disp : BitVec 16) : Encoding.Statement (.satom sa sb sc aop w nr cmp disp) := by
  intro _ _ r
  refine (class_UE _ _ ?_).trans ((arm_UE_20 _ _ ?_).trans ?_) <;>
    simp (disch := decide) only [field_hi, field_lo, field_all, Nat.reduceSub, and_self, if_true, List.append_eq, List.cons_append, List.nil_append]

theorem Encoding.redw (sa sb sc : BitVec 6) (ty : BitVec 4) (op : BitVec 3) (x : BitVec 1) : Encoding.Statement (.redw sa sb sc ty op x) := by
  intro _ _ r
  refine (class_UE _ _ ?_).trans ((arm_UE_21 _ _ ?_).trans ?_) <;>
    simp (disch := decide) only [field_hi, field_lo, field_all, Nat.reduceSub, and_self, if_true, List.append_eq, List.cons_append, List.nil_append]

theorem Encoding.poolp (sa sb sc : BitVec 6) : Encoding.Statement (.poolp sa sb sc) := by
  intro _ _ r
  refine (class_UE _ _ ?_).trans ((arm_UE_22 _ _ ?_).trans ?_) <;>
    simp (disch := decide) only [field_hi, field_lo, field_all, Nat.reduceSub, and_self, if_true, List.append_eq, List.cons_append, List.nil_append]

theorem Encoding.poold (sa sb sc : BitVec 6) : Encoding.Statement (.poold sa sb sc) := by
  intro _ _ r
  refine (class_UE _ _ ?_).trans ((arm_UE_23 _ _ ?_).trans ?_) <;>
    simp (disch := decide) only [field_hi, field_lo, field_all, Nat.reduceSub, and_self, if_true, List.append_eq, List.cons_append, List.nil_append]

theorem Encoding.launch (sa sc : BitVec 6) : Encoding.Statement (.launch sa sc) := by
  intro _ _ r
  refine (class_UE _ _ ?_).trans ((arm_UE_24 _ _ ?_).trans ?_) <;>
    simp (disch := decide) only [field_hi, field_lo, field_all, Nat.reduceSub, and_self, if_true, List.append_eq, List.cons_append, List.nil_append]

theorem Encoding.bara (level : BitVec 3) (b : BitVec 4) : Encoding.Statement (.bara level b) := by
  intro _ _ r
  refine (class_US _ _ ?_).trans ((arm_US_0 _ ?_).trans ?_) <;>
    simp (disch := decide) only [field_hi, field_lo, field_all, Nat.reduceSub, and_self, if_true]

theorem Encoding.barw (level : BitVec 3) (b : BitVec 4) : Encoding.Statement (.barw level b) := by
  intro _ _ r
  refine (class_US _ _ ?_).trans ((arm_US_1 _ ?_).trans ?_) <;>
    simp (disch := decide) only [field_hi, field_lo, field_all, Nat.reduceSub, and_self, if_true]

theorem Encoding.bars (level : BitVec 3) (b : BitVec 4) : Encoding.Statement (.bars level b) := by
  intro _ _ r
  refine (class_US _ _ ?_).trans ((arm_US_2 _ ?_).trans ?_) <;>
    simp (disch := decide) only [field_hi, field_lo, field_all, Nat.reduceSub, and_self, if_true]

theorem Encoding.fence (kind : BitVec 2) (scope : BitVec 3) : Encoding.Statement (.fence kind scope) := by
  intro _ _ r
  refine (class_US _ _ ?_).trans ((arm_US_3 _ ?_).trans ?_) <;>
    simp (disch := decide) only [field_hi, field_lo, field_all, Nat.reduceSub, and_self, if_true]

theorem Encoding.csrr (sd : BitVec 6) (num : BitVec 12) : Encoding.Statement (.csrr sd num) := by
  intro _ _ r
  refine (class_US _ _ ?_).trans ((arm_US_4 _ ?_).trans ?_) <;>
    simp (disch := decide) only [field_hi, field_lo, field_all, Nat.reduceSub, and_self, if_true]

theorem Encoding.csrw (sa : BitVec 6) (num : BitVec 12) : Encoding.Statement (.csrw sa num) := by
  intro _ _ r
  refine (class_US _ _ ?_).trans ((arm_US_5 _ ?_).trans ?_) <;>
    simp (disch := decide) only [field_hi, field_lo, field_all, Nat.reduceSub, and_self, if_true]

theorem Encoding.tick (sd : BitVec 6) : Encoding.Statement (.tick sd) := by
  intro _ _ r
  refine (class_US _ _ ?_).trans ((arm_US_6 _ ?_).trans ?_) <;>
    simp (disch := decide) only [field_hi, field_lo, field_all, Nat.reduceSub, and_self, if_true]

theorem Encoding.sleep (sa : BitVec 6) : Encoding.Statement (.sleep sa) := by
  intro _ _ r
  refine (class_US _ _ ?_).trans ((arm_US_7 _ ?_).trans ?_) <;>
    simp (disch := decide) only [field_hi, field_lo, field_all, Nat.reduceSub, and_self, if_true]

theorem Encoding.tmarm (sa : BitVec 6) : Encoding.Statement (.tmarm sa) := by
  intro _ _ r
  refine (class_US _ _ ?_).trans ((arm_US_8 _ ?_).trans ?_) <;>
    simp (disch := decide) only [field_hi, field_lo, field_all, Nat.reduceSub, and_self, if_true]

theorem Encoding.trace (sa sb : BitVec 6) (code : BitVec 10) : Encoding.Statement (.trace sa sb code) := by
  intro _ _ r
  refine (class_US _ _ ?_).trans ((arm_US_9 _ ?_).trans ?_) <;>
    simp (disch := decide) only [field_hi, field_lo, field_all, Nat.reduceSub, and_self, if_true]

theorem Encoding.moduleReset : Encoding.Statement .moduleReset := fun _ h => absurd rfl h

theorem Encoding.firmwareBoot : Encoding.Statement .firmwareBoot := fun _ h => absurd rfl h

theorem Encoding.throttleEvaluation : Encoding.Statement .throttleEvaluation := fun _ h => absurd rfl h

theorem Encoding.thermalTrip : Encoding.Statement .thermalTrip := fun _ h => absurd rfl h

theorem Encoding.moduleFatalEvent : Encoding.Statement .moduleFatalEvent := fun _ h => absurd rfl h

theorem Encoding.patrolScrub : Encoding.Statement .patrolScrub := fun _ h => absurd rfl h

theorem Encoding.tickAlignment : Encoding.Statement .tickAlignment := fun _ h => absurd rfl h

theorem Encoding.ticksyncPeriod : Encoding.Statement .ticksyncPeriod := fun _ h => absurd rfl h

theorem Encoding.ticksync : Encoding.Statement .ticksync := fun _ h => absurd rfl h

theorem Encoding.stoptickWrite : Encoding.Statement .stoptickWrite := fun _ h => absurd rfl h

theorem Encoding.stopOnTick : Encoding.Statement .stopOnTick := fun _ h => absurd rfl h

theorem Encoding.flitTransmit : Encoding.Statement .flitTransmit := fun _ h => absurd rfl h

theorem Encoding.flitReceive : Encoding.Statement .flitReceive := fun _ h => absurd rfl h

theorem Encoding.ackStallTimeout : Encoding.Statement .ackStallTimeout := fun _ h => absurd rfl h

theorem Encoding.linkRetrainComplete : Encoding.Statement .linkRetrainComplete := fun _ h => absurd rfl h

theorem Encoding.portBringUp : Encoding.Statement .portBringUp := fun _ h => absurd rfl h

theorem Encoding.read : Encoding.Statement .read := fun _ h => absurd rfl h

theorem Encoding.write : Encoding.Statement .write := fun _ h => absurd rfl h

theorem Encoding.atomic : Encoding.Statement .atomic := fun _ h => absurd rfl h

theorem Encoding.respdata : Encoding.Statement .respdata := fun _ h => absurd rfl h

theorem Encoding.respack : Encoding.Statement .respack := fun _ h => absurd rfl h

theorem Encoding.resperr : Encoding.Statement .resperr := fun _ h => absurd rfl h

theorem Encoding.red : Encoding.Statement .red := fun _ h => absurd rfl h

theorem Encoding.redb : Encoding.Statement .redb := fun _ h => absurd rfl h

theorem Encoding.retry : Encoding.Statement .retry := fun _ h => absurd rfl h

theorem Encoding.retryResend : Encoding.Statement .retryResend := fun _ h => absurd rfl h

theorem Encoding.barrier : Encoding.Statement .barrier := fun _ h => absurd rfl h

theorem Encoding.remoteTimeout : Encoding.Statement .remoteTimeout := fun _ h => absurd rfl h

theorem Encoding.windowTimeout : Encoding.Statement .windowTimeout := fun _ h => absurd rfl h

theorem Encoding.winbaseWrite : Encoding.Statement .winbaseWrite := fun _ h => absurd rfl h

theorem Encoding.winctlWrite : Encoding.Statement .winctlWrite := fun _ h => absurd rfl h

theorem Encoding.dbarWrite : Encoding.Statement .dbarWrite := fun _ h => absurd rfl h

theorem Encoding.bar0RegisterWrite : Encoding.Statement .bar0RegisterWrite := fun _ h => absurd rfl h

theorem Encoding.createContext : Encoding.Statement .createContext := fun _ h => absurd rfl h

theorem Encoding.destroyContext : Encoding.Statement .destroyContext := fun _ h => absurd rfl h

theorem Encoding.bindQueue : Encoding.Statement .bindQueue := fun _ h => absurd rfl h

theorem Encoding.attestationReport : Encoding.Statement .attestationReport := fun _ h => absurd rfl h

theorem Encoding.readDumpDescriptor : Encoding.Statement .readDumpDescriptor := fun _ h => absurd rfl h

theorem Encoding.firmwareUpdate : Encoding.Statement .firmwareUpdate := fun _ h => absurd rfl h

theorem Encoding.reclaimCodeHeap : Encoding.Statement .reclaimCodeHeap := fun _ h => absurd rfl h

theorem Encoding.mailboxCommandComplete : Encoding.Statement .mailboxCommandComplete := fun _ h => absurd rfl h

theorem Encoding.mailboxDataWrite : Encoding.Statement .mailboxDataWrite := fun _ h => absurd rfl h

theorem Encoding.barwinWrite : Encoding.Statement .barwinWrite := fun _ h => absurd rfl h

theorem Encoding.bar2Access : Encoding.Statement .bar2Access := fun _ h => absurd rfl h

theorem Encoding.qctlWrite : Encoding.Statement .qctlWrite := fun _ h => absurd rfl h

theorem Encoding.qprodWrite : Encoding.Statement .qprodWrite := fun _ h => absurd rfl h

theorem Encoding.launchRecord : Encoding.Statement .launchRecord := fun _ h => absurd rfl h

theorem Encoding.signal : Encoding.Statement .signal := fun _ h => absurd rfl h

theorem Encoding.signalCompletion : Encoding.Statement .signalCompletion := fun _ h => absurd rfl h

theorem Encoding.isync : Encoding.Statement .isync := fun _ h => absurd rfl h

theorem Encoding.isyncInvalidate : Encoding.Statement .isyncInvalidate := fun _ h => absurd rfl h

theorem Encoding.vorxusTranslation : Encoding.Statement .vorxusTranslation := fun _ h => absurd rfl h

theorem Encoding.translationCommit : Encoding.Statement .translationCommit := fun _ h => absurd rfl h

theorem Encoding.gangPlacement : Encoding.Statement .gangPlacement := fun _ h => absurd rfl h

theorem Encoding.headWaitExpiry : Encoding.Statement .headWaitExpiry := fun _ h => absurd rfl h

theorem Encoding.gangHalt : Encoding.Statement .gangHalt := fun _ h => absurd rfl h

theorem Encoding.saveComplete : Encoding.Statement .saveComplete := fun _ h => absurd rfl h

theorem Encoding.gangRestore : Encoding.Statement .gangRestore := fun _ h => absurd rfl h

theorem Encoding.overflowStrandExchange : Encoding.Statement .overflowStrandExchange := fun _ h => absurd rfl h

theorem Encoding.workgroupDrainComplete : Encoding.Statement .workgroupDrainComplete := fun _ h => absurd rfl h

theorem Encoding.expansionCursorAdvance : Encoding.Statement .expansionCursorAdvance := fun _ h => absurd rfl h

theorem Encoding.joinWaitTimeout : Encoding.Statement .joinWaitTimeout := fun _ h => absurd rfl h

theorem Encoding.faultReplay : Encoding.Statement .faultReplay := fun _ h => absurd rfl h

theorem Encoding.pageWalkComplete : Encoding.Statement .pageWalkComplete := fun _ h => absurd rfl h

theorem Encoding.translationOverflowReplay : Encoding.Statement .translationOverflowReplay := fun _ h => absurd rfl h

theorem Encoding.pageRequestResponse : Encoding.Statement .pageRequestResponse := fun _ h => absurd rfl h

theorem Encoding.fsrdoneWrite : Encoding.Statement .fsrdoneWrite := fun _ h => absurd rfl h

theorem Encoding.faultServiceTimeout : Encoding.Statement .faultServiceTimeout := fun _ h => absurd rfl h

theorem Encoding.homeWriteApply : Encoding.Statement .homeWriteApply := fun _ h => absurd rfl h

theorem Encoding.writeVisibility : Encoding.Statement .writeVisibility := fun _ h => absurd rfl h

theorem Encoding.memoryOperationComplete : Encoding.Statement .memoryOperationComplete := fun _ h => absurd rfl h

theorem Encoding.vcopyCompletion : Encoding.Statement .vcopyCompletion := fun _ h => absurd rfl h

theorem Encoding.copyRowCompletion : Encoding.Statement .copyRowCompletion := fun _ h => absurd rfl h

theorem Encoding.awaitDeadline : Encoding.Statement .awaitDeadline := fun _ h => absurd rfl h

theorem Encoding.waitTimeout : Encoding.Statement .waitTimeout := fun _ h => absurd rfl h

theorem Encoding.emulationCommit : Encoding.Statement .emulationCommit := fun _ h => absurd rfl h

theorem Encoding.timerExpiry : Encoding.Statement .timerExpiry := fun _ h => absurd rfl h

theorem Encoding.sleepExpiry : Encoding.Statement .sleepExpiry := fun _ h => absurd rfl h

theorem Encoding.chunkCommit : Encoding.Statement .chunkCommit := fun _ h => absurd rfl h

theorem Encoding.replayIndexWrite : Encoding.Statement .replayIndexWrite := fun _ h => absurd rfl h

theorem Encoding.clauseFetch : Encoding.Statement .clauseFetch := fun _ h => absurd rfl h

theorem Encoding.acqGrant : Encoding.Statement .acqGrant := fun _ h => absurd rfl h

theorem Encoding.acqWaitTimeout : Encoding.Statement .acqWaitTimeout := fun _ h => absurd rfl h

theorem Encoding.runAheadSplit : Encoding.Statement .runAheadSplit := fun _ h => absurd rfl h

theorem Encoding.mxeRequestAccept : Encoding.Statement .mxeRequestAccept := fun _ h => absurd rfl h

theorem Encoding.mxePassGrant : Encoding.Statement .mxePassGrant := fun _ h => absurd rfl h

theorem Encoding.mxePassComplete : Encoding.Statement .mxePassComplete := fun _ h => absurd rfl h

theorem Encoding.assayInstall : Encoding.Statement .assayInstall := fun _ h => absurd rfl h

theorem Encoding.vexpand : Encoding.Statement .vexpand := by
  intro _ _ r
  refine (class_LX _ _ ?_).trans ((arm_LX_9 _ ?_).trans ?_) <;>
    simp (disch := decide) only [field_hi, field_lo, field_all, Nat.reduceSub, and_self, if_true]

theorem Encoding.vret : Encoding.Statement .vret := by
  intro _ _ r
  refine (class_LB _ _ ?_).trans ((arm_LB_6 _ _ ?_).trans ?_) <;>
    simp (disch := decide) only [field_hi, field_lo, field_all, Nat.reduceSub, and_self, if_true, List.append_eq, List.cons_append, List.nil_append]

theorem Encoding.vexit : Encoding.Statement .vexit := by
  intro _ _ r
  refine (class_LB _ _ ?_).trans ((arm_LB_7 _ _ ?_).trans ?_) <;>
    simp (disch := decide) only [field_hi, field_lo, field_all, Nat.reduceSub, and_self, if_true, List.append_eq, List.cons_append, List.nil_append]

theorem Encoding.ret : Encoding.Statement .ret := by
  intro _ _ r
  refine (class_UB _ _ ?_).trans ((arm_UB_5 _ ?_).trans ?_) <;>
    simp (disch := decide) only [field_hi, field_lo, field_all, Nat.reduceSub, and_self, if_true]

theorem Encoding.exit : Encoding.Statement .exit := by
  intro _ _ r
  refine (class_UB _ _ ?_).trans ((arm_UB_6 _ ?_).trans ?_) <;>
    simp (disch := decide) only [field_hi, field_lo, field_all, Nat.reduceSub, and_self, if_true]

theorem Encoding.yield : Encoding.Statement .yield := by
  intro _ _ r
  refine (class_UB _ _ ?_).trans ((arm_UB_7 _ ?_).trans ?_) <;>
    simp (disch := decide) only [field_hi, field_lo, field_all, Nat.reduceSub, and_self, if_true]

theorem Encoding.eret : Encoding.Statement .eret := by
  intro _ _ r
  refine (class_UB _ _ ?_).trans ((arm_UB_10 _ ?_).trans ?_) <;>
    simp (disch := decide) only [field_hi, field_lo, field_all, Nat.reduceSub, and_self, if_true]

theorem Encoding.capeStep : Encoding.Statement .capeStep := by
  intro _ _ r
  refine (class_UE _ _ ?_).trans ((arm_UE_19 _ _ ?_).trans ?_) <;>
    simp (disch := decide) only [field_hi, field_lo, field_all, Nat.reduceSub, and_self, if_true, List.append_eq, List.cons_append, List.nil_append]

theorem Encoding.capeEnd : Encoding.Statement .capeEnd := by
  intro _ _ r
  refine (class_UE _ _ ?_).trans ((arm_UE_19 _ _ ?_).trans ?_) <;>
    simp (disch := decide) only [field_hi, field_lo, field_all, Nat.reduceSub, and_self, if_true, List.append_eq, List.cons_append, List.nil_append]
  rw [if_neg (by decide)]

theorem Encoding.succ : Encoding.Statement .succ := by
  intro _ _ r
  refine (class_UE _ _ ?_).trans ((arm_UE_25 _ _ ?_).trans ?_) <;>
    simp (disch := decide) only [field_hi, field_lo, field_all, Nat.reduceSub, and_self, if_true, List.append_eq, List.cons_append, List.nil_append]

theorem Encoding.waitpred : Encoding.Statement .waitpred := by
  intro _ _ r
  refine (class_UE _ _ ?_).trans ((arm_UE_26 _ _ ?_).trans ?_) <;>
    simp (disch := decide) only [field_hi, field_lo, field_all, Nat.reduceSub, and_self, if_true, List.append_eq, List.cons_append, List.nil_append]

theorem Encoding.stallAccountClock : Encoding.Statement .stallAccountClock := fun _ h => absurd rfl h

theorem Encoding.fsrconsWrite : Encoding.Statement .fsrconsWrite := fun _ h => absurd rfl h

theorem Encoding.atsTranslationCompletion : Encoding.Statement .atsTranslationCompletion := fun _ h => absurd rfl h

theorem Encoding.rejectedRecord : Encoding.Statement .rejectedRecord := fun _ h => absurd rfl h

theorem Encoding.unknownOp : Encoding.Statement .unknownOp := fun _ h => absurd rfl h

theorem Encoding.railOutOfRegulation : Encoding.Statement .railOutOfRegulation := fun _ h => absurd rfl h

end Sys2Proof.Laws
end

