-- ==== Sys2Proof/Tests/Slice0.lean ====
section
/-! SUPPORT. Tests: words of the spec, refused operands, and for every statement with hypotheses a state and operands that
meet them. -/

namespace Sys2Proof.Tests

open Sys2Proof.Machine Sys2Proof.Claims

/-- Every list of words decodes to its instruction, which is well formed. -/
def reads (l : List (List Word × Instr)) : Bool := l.all fun p => decide (decodeWords p.1 = some p.2) && p.2.wf


/-! ## A word of every instruction, written out from the fields of its family -/

theorem test_words_lr1 : reads [
  ([0x00065229], .vadd 6 20 34 2 1),
  ([0x00465229], .vsub 6 20 34 2 1),
  ([0x00865229], .vmul 6 20 34 2 1),
  ([0x00C65229], .vmulhI32 6 20 34 2 1),
  ([0x01065229], .vmulhN32 6 20 34 2 1),
  ([0x01465229], .vminI32 6 20 34 2 1),
  ([0x01865229], .vminN32 6 20 34 2 1),
  ([0x01C65229], .vmaxI32 6 20 34 2 1),
  ([0x02065229], .vmaxN32 6 20 34 2 1),
  ([0x02465229], .vand 6 20 34 2 1),
  ([0x02865229], .vor 6 20 34 2 1),
  ([0x02C65229], .vxor 6 20 34 2 1),
  ([0x03065229], .vandn 6 20 34 2 1),
  ([0x03465229], .vshl 6 20 34 2 1),
  ([0x03865229], .vshr 6 20 34 2 1),
  ([0x03C65229], .vsar 6 20 34 2 1)] = true := by
  decide

theorem test_words_lr2 : reads [
  ([0x04065229], .vrotl 6 20 34 2 1),
  ([0x04465229], .vaddsI32 6 20 34 2 1),
  ([0x04865229], .vsubsI32 6 20 34 2 1),
  ([0x04C65229], .vabsdN32 6 20 34 2 1),
  ([0x05065008], .vmov 6 20 2),
  ([0x05465229], .vfaddF32 6 20 34 2 1),
  ([0x05865229], .vfsubF32 6 20 34 2 1),
  ([0x05C65229], .vfmulF32 6 20 34 2 1),
  ([0x06065229], .vfminF32 6 20 34 2 1),
  ([0x06465229], .vfmaxF32 6 20 34 2 1),
  ([0x06865229], .vfscaleF32 6 20 34 2 1),
  ([0x06C65229], .vfaddBf16x2 6 20 34 2 1),
  ([0x07065229], .vfmulBf16x2 6 20 34 2 1),
  ([0x07465229], .vfaddF16x2 6 20 34 2 1),
  ([0x07865229], .vfmulF16x2 6 20 34 2 1),
  ([0x07C65229], .vfaddE4m3x4 6 20 34 2 1)] = true := by
  decide

theorem test_words_lr3 : reads [
  ([0x08065229], .vfmulE4m3x4 6 20 34 2 1),
  ([0x08465229], .vfaddE5m2x4 6 20 34 2 1),
  ([0x08865229], .vfmulE5m2x4 6 20 34 2 1),
  ([0x08C65229], .vdot4I8 6 20 34 2 1),
  ([0x09065229], .vdot2Bf16 6 20 34 2 1),
  ([0x0C2A5A5A], .vshflIdx 0x2a5a5a),
  ([0x0C6A5A5A], .vshflUp 0x2a5a5a),
  ([0x0CAA5A5A], .vshflDn 0x2a5a5a),
  ([0x0CEA5A5A], .vshflXor 0x2a5a5a)] = true := by
  decide

theorem test_words_li : reads [
  ([0x10194AA5], .vaddi 6 20 2 0x2a5),
  ([0x11194AA5], .vsubri 6 20 2 0x2a5),
  ([0x12194AA5], .vmuli 6 20 2 0x2a5),
  ([0x13194AA5], .vandi 6 20 2 0x2a5),
  ([0x14194AA5], .vori 6 20 2 0x2a5),
  ([0x15194AA5], .vxori 6 20 2 0x2a5),
  ([0x16194815], .vshli 6 20 2 21),
  ([0x17194815], .vshri 6 20 2 21),
  ([0x18194815], .vsari 6 20 2 21),
  ([0x19194AA5], .vminiI32 6 20 2 0x2a5),
  ([0x1A194AA5], .vmaxiI32 6 20 2 0x2a5),
  ([0x1B1802A5], .vmovi 6 0x2a5)] = true := by
  decide

theorem test_words_lt : reads [
  ([0x206A0B13], .vmad 6 20 2 24 2 1 1),
  ([0x226A0B13], .vfmaF32 6 20 2 24 2 1 1),
  ([0x246A0B13], .vfmaBf16x2 6 20 2 24 2 1 1),
  ([0x266A0B13], .vfmaF16x2 6 20 2 24 2 1 1),
  ([0x286A0B13], .vdot4aI8 6 20 2 24 2 1 1),
  ([0x2A6A0B13], .vdot2aBf16 6 20 2 24 2 1 1),
  ([0x2C6A0B13], .vbfi 6 20 2 24 2 1 1)] = true := by
  decide

theorem test_words_lm : reads [
  ([0x30194B2D], .vld 6 20 5 4 45),
  ([0x31314B2D], .vst 12 20 5 4 45),
  ([0x32194B2D], .vldc 6 20 5 4 45),
  ([0x33094B2D], .vpref 2 20 5 45)] = true := by
  decide

theorem test_words_lx1 : reads [
  ([0x40031461], .vcmp 3 5 6 1),
  ([0x40431465], .vsel 3 5 6 5),
  ([0x40831401], .vvote 3 5 1),
  ([0x40C31401], .vscan 3 5 1),
  ([0x41031401], .vred 3 5 1),
  ([0x41431401], .vmatch 3 5 1),
  ([0x41831461], .vcompact 3 5 6 1),
  ([0x41C31400], .vform 3 5 0),
  ([0x42031400], .vstride 3 5),
  ([0x42830001], .vindex 3 1),
  ([0x42C31400], .vpopc 3 5),
  ([0x43031400], .vclz 3 5),
  ([0x43431400], .vbrev 3 5),
  ([0x43831461], .vbfe 3 5 6 1),
  ([0x43C31400], .vfrcpF32 3 5),
  ([0x44031400], .vfrsqF32 3 5)] = true := by
  decide

theorem test_words_lx2 : reads [
  ([0x44431400], .vfsqrtF32 3 5),
  ([0x44831400], .vfexp2F32 3 5),
  ([0x44C31400], .vflog2F32 3 5),
  ([0x45031400], .vfsinpiF32 3 5),
  ([0x45431400], .vfcospiF32 3 5),
  ([0x45831400], .vftanhF32 3 5),
  ([0x45C31401], .vfclass 3 5 1),
  ([0x46031401], .vunary 3 5 1),
  ([0x46431401], .vcvt 3 5 1),
  ([0x46831401], .vcvtb 3 5 1),
  ([0x46C31461], .vpack 3 5 6 1),
  ([0x47031461], .vunpack 3 5 6 1),
  ([0x47431462], .vkmov 3 5 6 2),
  ([0x42400000], .vexpand)] = true := by
  decide

theorem test_words_lb : reads [
  ([0x50B4002D], .vbr 5 5 45),
  ([0x51B4002D], .vbrn 5 5 45),
  ([0x52B64000], .vjoin 5 0xb2),
  ([0x53B64000], .vreform 5 0xb2),
  ([0x5400002D], .vcall 45),
  ([0x55500000], .vcallr 20),
  ([0x58A14100, 0x00000011, 0x00000022], .vswitch 5 20 [0x11, 0x22]),
  ([0x56000000], .vret),
  ([0x57000000], .vexit)] = true := by
  decide

theorem test_words_le : reads [
  ([0x60060001, 0x000002A5], .vmovl 6 0x2a5),
  ([0x60465221, 0x48188123], .vatom 6 20 34 9 0 0 24 0x8123),
  ([0x60865221, 0x00000004], .vcopy 6 20 34 4),
  ([0x60C65221, 0x12DB8123], .vldg 6 20 34 4 2 1 5 11 0x8123)] = true := by
  decide

theorem test_words_ur1 : reads [
  ([0x800A6280], .sadd 10 24 40),
  ([0x804A6280], .ssub 10 24 40),
  ([0x808A6280], .smul 10 24 40),
  ([0x80CA6280], .smulhI32 10 24 40),
  ([0x810A6280], .smulhN32 10 24 40),
  ([0x814A6280], .sminI32 10 24 40),
  ([0x818A6280], .sminN32 10 24 40),
  ([0x81CA6280], .smaxI32 10 24 40),
  ([0x820A6280], .smaxN32 10 24 40),
  ([0x824A6280], .sand 10 24 40),
  ([0x828A6280], .sor 10 24 40),
  ([0x82CA6280], .sxor 10 24 40),
  ([0x830A6280], .sshl 10 24 40),
  ([0x834A6280], .sshr 10 24 40),
  ([0x838A6280], .ssar 10 24 40),
  ([0x83CA6281], .scmp 10 24 40 1)] = true := by
  decide

theorem test_words_ur2 : reads [
  ([0x840A6280], .ssel 10 24 40),
  ([0x844A6000], .smov 10 24),
  ([0x848A6000], .spopc 10 24),
  ([0x84CA6000], .sclz 10 24),
  ([0x850A6280], .sdivN32 10 24 40),
  ([0x854A6280], .sremN32 10 24 40),
  ([0x858A6280], .sdivI32 10 24 40),
  ([0x85CA6280], .sremI32 10 24 40),
  ([0x860A6280], .sfadd 10 24 40),
  ([0x864A6280], .sfmul 10 24 40),
  ([0x868A6280], .sffma 10 24 40),
  ([0x86CA6281], .sfcmp 10 24 40 1),
  ([0x870A6001], .scvt 10 24 0 1),
  ([0x874A6280], .sadd64 10 24 40),
  ([0x878A6280], .ssub64 10 24 40),
  ([0x87CA6280], .smulw 10 24 40)] = true := by
  decide

theorem test_words_ui : reads [
  ([0x902982A5], .saddi 10 24 0x2a5),
  ([0x912982A5], .smuli 10 24 0x2a5),
  ([0x922982A5], .sandi 10 24 0x2a5),
  ([0x932982A5], .sori 10 24 0x2a5),
  ([0x942982A5], .sxori 10 24 0x2a5),
  ([0x95298015], .sshli 10 24 21),
  ([0x96298015], .sshri 10 24 21),
  ([0x97298015], .ssari 10 24 21),
  ([0x982982A5], .sltiI32 10 24 0x2a5),
  ([0x992982A5], .sltiN32 10 24 0x2a5),
  ([0x9A2982A5], .seqi 10 24 0x2a5),
  ([0x9B2982A5], .sadd64i 10 24 0x2a5)] = true := by
  decide

theorem test_words_uk : reads [
  ([0xA02802A5], .smovi 10 0x2a5),
  ([0xA12802A5], .shii 10 0x2a5),
  ([0xA22802A5], .saddpc 10 0x2a5),
  ([0xA3026013], .route 0 2 1 1 0 19),
  ([0xA4000004], .part 4),
  ([0xA50037A2], .mode 55 0xa2),
  ([0xA6290006], .acq 10 1 6),
  ([0xA7000006], .rel 6)] = true := by
  decide

theorem test_words_um : reads [
  ([0xB029882D], .sld 10 24 4 45),
  ([0xB139882D], .sst 14 24 4 45),
  ([0xB229882D], .sldc 10 24 4 45)] = true := by
  decide

theorem test_words_ub : reads [
  ([0xC000002D], .jmp 45),
  ([0xC160002D], .brz 24 45),
  ([0xC260002D], .brnz 24 45),
  ([0xC300002D], .call 45),
  ([0xC4600000], .callr 24),
  ([0xC8001003], .nop 0x1003),
  ([0xC9001234], .trap 0x1234),
  ([0xCB001234], .brk 0x1234),
  ([0xC5000000], .ret),
  ([0xC6000000], .exit),
  ([0xC7000000], .yield),
  ([0xCA000000], .eret)] = true := by
  decide

theorem test_words_ue1 : reads [
  ([0xD018A100], .tcopy 24 40 16),
  ([0xD058A104, 0x22221111, 0x44443333, 0x66665555, 0x28390A01], .tcopyx 24 40 16 0x2222 0x1111 0x4444 0x3333 0x6666 0x5555 0x283 0x242 0x201),
  ([0xD098A100], .mcopy 24 40 16),
  ([0xD0D8A102, 0x01230450, 0x000005A5], .bcopy 24 40 16 0x123 0x450 22 37),
  ([0xD118A102, 0x00000056, 0x00000214], .chain 24 40 16 86 33 1 0),
  ([0xD1450000], .bseal 5),
  ([0xD1850000], .bwait 5),
  ([0xD1D8A000], .awinit 24 40),
  ([0xD218A100], .await 24 40 16),
  ([0xD258A101, 0x95300000], .obres 24 40 16 9 1 2 1 1 0 0),
  ([0xD2980000], .obrel 24),
  ([0xD2D80000], .crew 24),
  ([0xD3180001, 0x25340000], .mma 24 9 4 13),
  ([0xD318A101, 0x653401A6], .mmaRs 24 40 16 9 4 13 1 0xa6),
  ([0xD318A101, 0xA5340000], .mmaSs 24 40 16 9 4 13),
  ([0xD358A001, 0x25340000], .mmas 24 40 9 4 13)] = true := by
  decide

theorem test_words_ue2 : reads [
  ([0xD398A101, 0x653401A6], .mman 24 40 16 1 9 4 13 1 0xa6),
  ([0xD3D80001, 0x25340000], .salient 24 9 4 13),
  ([0xD418A100], .accrd 24 40 16),
  ([0xD4580000], .accz 24),
  ([0xD498A100], .capb 24 40 16),
  ([0xD518A101, 0x48168123], .satom 24 40 16 9 0 0 22 0x8123),
  ([0xD558A101, 0x35000000], .redw 24 40 16 3 2 1),
  ([0xD598A100], .poolp 24 40 16),
  ([0xD5D8A100], .poold 24 40 16),
  ([0xD6180100], .launch 24 16),
  ([0xD4C00000], .capeStep),
  ([0xD4C00400], .capeEnd),
  ([0xD6400000], .succ),
  ([0xD6800000], .waitpred)] = true := by
  decide

theorem test_words_us : reads [
  ([0xE01B0000], .bara 3 6),
  ([0xE05B0000], .barw 3 6),
  ([0xE09B0000], .bars 3 6),
  ([0xE0DA0000], .fence 1 5),
  ([0xE10A0120], .csrr 10 18),
  ([0xE1580120], .csrw 24 18),
  ([0xE18A0000], .tick 10),
  ([0xE1D80000], .sleep 24),
  ([0xE2180000], .tmarm 24),
  ([0xE258A234], .trace 24 40 0x234)] = true := by
  decide

/-! ## Words that the spec itself writes out -/

theorem test_spec_lane_words : reads [
  ([0x000920A0], .vadd 9 8 10 0 0), ([0x00831050], .vmul 3 4 5 0 0), ([0x00C31050], .vmulhI32 3 4 5 0 0),
  ([0x01031050], .vmulhN32 3 4 5 0 0), ([0x03431440], .vshl 3 5 4 0 0), ([0x04031440], .vrotl 3 5 4 0 0),
  ([0x110873FF], .vsubri 2 7 0 0x3FF), ([0x08C31050], .vdot4I8 3 4 5 0 0), ([0x22408860], .vfmaF32 4 1 2 3 0 0 0),
  ([0x20208C80], .vmad 2 1 3 4 0 0 0), ([0x16182002], .vshli 6 2 0 2), ([0x17142001], .vshri 5 2 0 1),
  ([0x43820C41], .vbfe 2 3 4 1), ([0x44820C00], .vfexp2F32 2 3), ([0x46871806], .vcvtb 7 6 6), ([0x46C90014], .vpack 9 0 1 4),
  ([0x470C24D4], .vunpack 12 9 13 4), ([0x40010032], .vcmp 1 0 3 2), ([0x40440423], .vsel 4 1 2 3), ([0x40C51001], .vscan 5 4 1),
  ([0x41020000], .vred 2 0 0), ([0x42800000], .vindex 0 0), ([0x41C60400], .vform 6 1 0)] = true := by
  decide

theorem test_spec_memory_words : reads [
  ([0x60050001, 0x40004000], .vmovl 5 0x40004000), ([0x31184502], .vst 6 4 2 4 2), ([0x30204104], .vld 8 4 0 4 4),
  ([0x60CC1061, 0x12A20000], .vldg 12 4 6 4 2 1 2 2 0), ([0x60431051, 0], .vatom 3 4 5 0 0 0 0 0), ([0xB0104802], .sld 4 4 4 2),
  ([0xD5082891, 0], .satom 8 10 9 0 0 0 0 0), ([0xD1410000], .bseal 1), ([0xD1800000], .bwait 0), ([0xD1C82800], .awinit 8 10),
  ([0xD2082CC0], .await 8 11 12), ([0xD0045180], .tcopy 4 20 24),
  ([0xD0C420C2, 0x00030008, 0x0000028E], .bcopy 4 8 12 3 8 10 14)] = true := by
  decide

theorem test_spec_transfer_words : reads [
  ([0x50240010], .vbr 1 1 16), ([0x52202000], .vjoin 1 1), ([0x53606000], .vreform 3 3), ([0x54000020], .vcall 32),
  ([0x55280000], .vcallr 10), ([0x56000000], .vret), ([0x57000000], .vexit),
  ([0x58403100, 0x00000010, 0x00050020], .vswitch 2 3 [0x10, 0x00050020]), ([0xC6000000], .exit)] = true := by
  decide

theorem test_spec_uniform_words : reads [
  ([0x90087FFF], .saddi 2 7 0xFFF), ([0xA6250004], .acq 9 1 4), ([0xA7000002], .rel 2), ([0xA3012001], .route 0 1 0 1 0 1),
  ([0xA3028004], .route 0 2 2 0 0 4), ([0xA303E00C], .route 0 3 3 1 0 12), ([0xA31D7000], .route 7 1 1 1 1 0),
  ([0xE0880000], .bars 1 0), ([0xE0218000], .bara 4 3), ([0xE0D80000], .fence 1 4), ([0xE0E80000], .fence 2 4),
  ([0xE10C0800], .csrr 12 0x080), ([0xE2090000], .tmarm 9), ([0xE2482803], .trace 8 10 3)] = true := by
  decide

theorem test_spec_engine_words : reads [
  ([0xD2D00000], .crew 16), ([0xD4155880], .accrd 21 22 8), ([0xD4570000], .accz 23), ([0xD3C80001, 0x010C0000], .salient 8 0 4 3),
  ([0xD3483001, 0x00480000], .mmas 8 12 0 1 2), ([0xD4A8AAC0], .capb 40 42 44), ([0xD4C00000], .capeStep),
  ([0xD4C00400], .capeEnd), ([0xD5884090], .poolp 8 16 9), ([0xD5C84090], .poold 8 16 9), ([0xD60C0090], .launch 12 9)] = true := by
  decide


/-! ## Limits on operands: one ill-formed instruction for each check of Instr.wf -/

theorem test_wf_refuses_lane : ([.vshli 1 2 0 32, .vshri 1 2 0 32, .vsari 1 2 0 0x3FF, .vld 1 3 0 4 0, .vld 1 2 0 5 0,
    .vld 2 4 0 6 0, .vld 0 2 0 7 0, .vldc 1 3 0 4 0, .vst 1 3 0 4 0, .vst 1 2 0 1 0, .vst 1 2 0 3 0, .vst 1 2 0 7 0,
    .vst 1 2 0 5 0, .vpref 3 2 0 0, .vpref 0 1 0 0, .vcmp 0 1 2 0, .vcmp 8 1 2 0, .vcmp 1 1 2 11, .vvote 0 1 0,
    .vvote 1 8 0, .vvote 1 1 3, .vscan 1 2 13, .vred 1 2 11, .vmatch 0 2 1, .vmatch 1 2 2, .vcompact 1 2 8 0,
    .vcompact 1 2 3 2, .vform 1 2 4, .vform 1 2 1, .vindex 1 4, .vfclass 1 2 5, .vunary 1 2 9, .vcvt 1 2 6,
    .vpack 1 2 3 5, .vkmov 1 8 0 0, .vkmov 1 2 1 0, .vkmov 0 1 0 1, .vkmov 1 8 1 2, .vkmov 1 1 8 5, .vkmov 1 1 1 6,
    .vkmov 1 1 1 8, .vcallr 1, .vswitch 0 1 []] : List Instr).all (fun i => !i.wf) = true := by
  decide

theorem test_wf_refuses_inline : ([.vatom 2 1 4 0 0 0 0 0, .vatom 2 2 4 13 0 0 0 0, .vatom 2 2 4 10 1 0 0 0,
    .vatom 2 2 4 0 0 1 0 0, .vatom 2 2 4 0 0 0 6 0, .vatom 3 2 4 9 1 0 6 0, .vcopy 1 2 3 0, .vcopy 2 1 3 0, .vcopy 2 2 3 6,
    .vldg 1 1 2 4 0 0 0 0 0, .vldg 1 2 3 4 0 0 1 0 0, .vldg 1 2 3 4 0 1 1 0 0, .vldg 1 2 3 7 0 0 0 0 0] :
    List Instr).all (fun i => !i.wf) = true := by
  decide

theorem test_wf_refuses_uniform : ([.scmp 1 2 3 6, .sfcmp 1 2 3 5, .scvt 1 2 3 0, .scvt 1 2 0 6, .sadd64 1 2 4,
    .ssub64 2 3 4, .smulw 1 2 3, .sshli 1 2 32, .sshri 1 2 32, .ssari 1 2 32, .sadd64i 2 1 0, .saddpc 1 0,
    .route 0 0 0 0 0 0, .route 1 1 0 0 0 0, .route 1 1 0 0 1 1, .route 1 1 3 0 1 0, .route 0 1 0 0 0 32, .part 0, .part 6,
    .mode 8 0, .acq 1 0 0, .acq 1 0 9, .rel 0, .rel 9, .sld 1 1 4 0, .sld 1 2 5 0, .sldc 1 1 4 0, .sst 1 1 4 0, .sst 1 2 1 0,
    .callr 1, .nop 1, .nop 0x1008, .satom 1 2 3 0 0 0 0 0, .satom 2 2 4 13 0 0 0 0, .redw 1 2 0 0 0 0, .redw 2 2 0 5 0 0,
    .redw 2 2 0 0 3 0, .redw 2 2 0 0 6 0, .redw 2 2 1 0 0 0, .redw 2 1 0 4 0 0] : List Instr).all (fun i => !i.wf) = true := by
  decide

theorem test_wf_refuses_engines : ([.tcopy 1 0 0, .tcopy 2 62 0, .tcopy 2 0 59, .tcopyx 2 0 0 0 0 0 0 0 0 0 0 1,
    .tcopyx 2 0 0 0 0 0 0 0 0 0 0x380 0, .tcopyx 2 0 0 0 0 0 0 0 0 0 0x201 0x202, .mcopy 1 0 0, .mcopy 2 0 62,
    .bcopy 1 2 4 1 4 6 0, .bcopy 2 2 4 1 6 6 0, .bcopy 2 2 4 1 0 6 0, .bcopy 2 2 4 0 4 6 0, .bcopy 2 2 4 4097 4 6 0,
    .bcopy 2 2 4 1 4 7 0, .chain 1 2 4 0 0 0 0, .chain 2 2 4 0 0 2 0, .chain 2 2 4 0 0 0 2, .chain 2 2 4 12 0 0 0,
    .chain 2 2 4 0x10 0 0 0, .chain 2 2 4 0x11 63 0 0, .awinit 1 2, .await 1 2 3, .obres 1 2 3 0 2 0 0 0 0 0,
    .obres 1 2 0 0 0 3 1 0 0 0, .obres 1 2 0 0 0 0 0 1 0 0, .obres 1 2 0 0 0 0 0 0 1 0, .obres 1 2 0 0 0 0 0 0 0 1,
    .obres 1 2 0 0 3 0 0 0 0 3, .obres 1 2 3 0 0 3 0 0 0 0, .crew 1, .mmaRs 1 61 0 0 0 0 0 0, .mmaSs 1 1 2 0 0 0,
    .mmas 1 1 0 0 0, .mman 1 2 0 0 0 0 0 0 0, .mman 1 2 61 1 0 0 0 0 0, .accrd 1 2 4] : List Instr).all (fun i => !i.wf) = true := by
  decide

theorem test_wf_refuses_system : ([.capb 1 2 4, .capb 2 1 4, .capb 2 4 1, .poolp 1 0 2, .poold 2 4 2, .launch 1 2, .bara 6 0,
    .barw 7 0, .bars 6 0, .fence 0 0, .fence 1 7, .csrr 1 0, .csrr 2 4, .csrr 2 0x2F0, .csrw 1 8, .csrw 2 0x800, .tick 1,
    .trace 1 2 0, .trace 2 1 0] : List Instr).all (fun i => !i.wf) = true := by
  decide


/-! ## Witnesses: states and operands that meet the hypotheses of each statement -/

/-- The issue under way in the states below. -/
def c0 : Issue := ⟨0, 0x10004, 0⟩

/-- The strand that withFetchWord places, with the words of `i` in its clause. -/
def strandOf (i : Instr) : Strand := fetchStrand (encode i)

/-- The state in which strand 0, changed by `f`, issues `i`; `g` changes the rest. -/
def on (i : Instr) (f : Strand → Strand := id) (g : State → State := id) : State :=
  g { State.reset.withFetchWord 32 0 with cur := some c0, strands := [(0, f (strandOf i))] }

/-- Each instruction, with the registers that it names, issues there. -/
def ready (l : List (Instr × List Use)) (f : Strand → Strand := id) (g : State → State := id) : Bool :=
  l.all fun p => decide ((on p.1 f g).Issues c0 (f (strandOf p.1)) p.1 p.2)

/-- The strand as a range strand of threads 0 to 31. -/
def asRange (x : Strand) : Strand := { x with kind := .range 0 32, forms := [(1, ⟨5, 3⟩), (2, ⟨7, 0⟩)] }

def u3 (a b c : BitVec 6) : List Use := useS a ++ useS b ++ useS c
def u2 (a b : BitVec 6) : List Use := useS a ++ useS b
def v3 (a b c : BitVec 6) : List Use := useV a ++ useV b ++ useV c
def v2 (a b : BitVec 6) : List Use := useV a ++ useV b

theorem witness_DecodingEncodedBytes : ([.vswitch 7 63 [1, 2, 3], .vadd 63 62 61 3 3, .mma 1 2 3 4, .exit] : List Instr).all
    (fun i => i.wf && decide (encode i ≠ [])) = true := by
  decide

theorem witness_DecodedWordsAreTheEncoding : decodeWords [0x60050001, 0x40004000, 0xFFFFFFFF] = some (.vmovl 5 0x40004000) := by
  decide

/-- The state of withFetchWord with the words `ws` in its clause, in a context with CFLAGS `f`. -/
def picked (ws : List Word) (f : BitVec 16) : State :=
  { State.reset.withFetchWord 32 0x90042001 with ctxs := [(1, { ctxNone with cflags := f })], strands := [(0, fetchStrand ws)] }

/-- What the statement asks of the state before the step. -/
def runnable (ws : List Word) (f : BitVec 16) : Bool :=
  let s := picked ws f
  let st := fetchStrand ws
  s.events.isEmpty && !s.halted && s.mod.booted && s.issueQ == [0] && s.eligible 0 st &&
    (match st.clause with
      | some k => !st.async.any k.covers
      | none => false) &&
    (s.ctxOf (s.ctxNo st)).chunked == decide (f = 2) && s.chunkOf st.core (s.ctxNo st) == none

/-- A strand that step runs: unpredicated, with a prefix, and in a context that records. -/
theorem witness_StepRunsTheDecodedInstruction :
    (runnable [0x90042001] 0 && runnable [0x90042001] 2 && runnable [0xC8001003, 0x000920A0] 0 &&
      runnable [0xC8001003, 0x000920A0] 2) = true ∧
    prefixOf 0x90042001 = none ∧ decodeWords [0x90042001] = some (.saddi 1 2 1) ∧
    prefixOf 0xC8001003 = some 3 ∧ takesPrefix 0x000920A0 = true ∧ decodeWords [0x000920A0] = some (.vadd 9 8 10 0 0) := by
  decide

/-- Stopped on a tick, after a fatal event, after a boot that failed, each with and without an operation that waits. -/
theorem witness_StoppedModuleStandsStill :
    (State.reset.setMod fun m => { m with stopped := true }).halted = true ∧
    (State.reset.setMod fun m => { m with fatal := true }).halted = true ∧
    (State.reset.setMod fun m => { m with failedBoot := true }).halted = true ∧ State.reset.events = [] ∧
    State.halted { State.reset with mod := { State.reset.mod with fatal := true }, events := [ev .moduleReset, ev .clauseFetch] } =
      true ∧ readsDump .clauseFetch = false ∧
    (State.reset.setMod fun m => { m with fatal := true }).mod.stopped = false ∧
    (State.reset.setMod fun m => { m with fatal := true }).mod.failedBoot = false := by
  decide

theorem witness_UniformIntegerResults : ready [
    (.sadd 1 2 3, u3 1 2 3), (.ssub 1 1 1, u3 1 1 1), (.smul 0 2 3, u3 0 2 3), (.smulhI32 63 2 3, u3 63 2 3),
    (.smulhN32 1 2 3, u3 1 2 3), (.sminI32 1 2 3, u3 1 2 3), (.sminN32 1 2 3, u3 1 2 3), (.smaxI32 1 2 3, u3 1 2 3),
    (.smaxN32 1 2 3, u3 1 2 3), (.sand 1 2 3, u3 1 2 3), (.sor 1 2 3, u3 1 2 3), (.sxor 1 2 3, u3 1 2 3),
    (.sshl 1 2 3, u3 1 2 3), (.sshr 1 2 3, u3 1 2 3), (.ssar 1 2 3, u3 1 2 3), (.scmp 1 2 3 0, u3 1 2 3),
    (.scmp 1 2 3 5, u3 1 2 3), (.ssel 1 2 3, u3 1 2 3), (.smov 1 2, u2 1 2), (.saddi 1 2 0x800, u2 1 2),
    (.smuli 1 2 3, u2 1 2), (.sandi 1 2 3, u2 1 2), (.sori 1 2 3, u2 1 2), (.sxori 1 2 3, u2 1 2), (.sshli 1 2 31, u2 1 2),
    (.sshri 1 2 0, u2 1 2), (.ssari 1 2 31, u2 1 2), (.sltiI32 1 2 0xFFF, u2 1 2), (.sltiN32 1 2 0xFFF, u2 1 2),
    (.seqi 1 2 3, u2 1 2), (.sadd64 2 4 6, useS 2 2 ++ useS 4 2 ++ useS 6 2), (.ssub64 62 4 6, useS 62 2 ++ useS 4 2 ++ useS 6 2),
    (.smulw 2 5 7, useS 2 2 ++ useS 5 ++ useS 7), (.sadd64i 2 4 0xFFF, useS 2 2 ++ useS 4 2), (.spopc 1 2, u2 1 2),
    (.sclz 1 2, u2 1 2)] = true := by
  decide

theorem witness_UniformDivisionTruncates : ready [(.sdivN32 1 2 3, u3 1 2 3), (.sremN32 1 2 3, u3 1 2 3),
    (.sdivI32 1 1 1, u3 1 1 1), (.sremI32 63 0 2, u3 63 0 2)] = true := by
  decide

theorem witness_UniformConstants : ready [(.smovi 1 0x3FFFF, useS 1), (.shii 1 5, useS 1), (.saddpc 2 0x20000, useS 2 2),
    (.mode 0xF7 0xFF, [])] = true := by
  decide

/-- Without an event that MODE traps, and (0x7F80_0001 is a signaling NaN) with one. -/
theorem witness_UniformFloatResults :
    ready [(.sfadd 1 2 3, u3 1 2 3), (.sfmul 1 2 3, u3 1 2 3), (.sffma 1 2 3, u3 1 2 3), (.sfcmp 1 2 3 4, u3 1 2 3),
      (.scvt 1 2 0 5, u2 1 2)] = true ∧
    (let f : Strand → Strand := fun x => { x with mode := 0xF0, s := [(2, 0x7F800001), (3, 0x3F800000)] }
     ready [(.sfadd 1 2 3, u3 1 2 3), (.sfmul 1 2 3, u3 1 2 3), (.sfcmp 1 2 3 2, u3 1 2 3), (.scvt 1 2 0 2, u2 1 2)] f = true ∧
     trapsOn 0xF0 (Fmt.f32.add ⟨0, false, false⟩ 0x7F800001 0x3F800000).2 = true ∧
     trapsOn 0 (Fmt.f32.add ⟨0, false, false⟩ 0x7F800001 0x3F800000).2 = false) := by
  decide

/-- One instruction of each shape, with no trap enabled. -/
theorem witness_UniformFrame :
    ready [(.sadd 1 2 3, u3 1 2 3), (.ssel 1 2 3, u3 1 2 3), (.sremI32 63 0 2, u3 63 0 2), (.sfadd 1 2 3, u3 1 2 3),
      (.scmp 1 2 3 5, u3 1 2 3), (.sfcmp 1 2 3 4, u3 1 2 3), (.scvt 1 2 0 5, u2 1 2), (.smulw 2 5 7, useS 2 2 ++ useS 5 ++ useS 7),
      (.smov 1 2, u2 1 2), (.ssub64 62 4 6, useS 62 2 ++ useS 4 2 ++ useS 6 2), (.seqi 1 2 3, u2 1 2),
      (.sadd64i 2 4 0xFFF, useS 2 2 ++ useS 4 2), (.smovi 1 0x3FFFF, useS 1), (.shii 1 5, useS 1), (.saddpc 2 0x20000, useS 2 2),
      (.mode 0xF7 0xFF, [])] = true ∧ (∀ ev : Ev, trapsOn (strandOf .exit).mode ev = false) := by
  decide

/-- Direct and routed sources, on a lane strand and on a range strand. -/
theorem witness_LaneIntegerResults :
    ready [(.vadd 1 2 3 0 0, v3 1 2 3), (.vsub 1 2 3 1 2, v3 1 2 3), (.vmul 1 2 3 0 3, v3 1 2 3), (.vmulhI32 1 2 3 0 0, v3 1 2 3),
      (.vmulhN32 63 2 3 0 0, v3 63 2 3), (.vminI32 1 2 3 0 0, v3 1 2 3), (.vminN32 1 2 3 0 0, v3 1 2 3),
      (.vmaxI32 1 2 3 0 0, v3 1 2 3), (.vmaxN32 1 2 3 0 0, v3 1 2 3), (.vand 1 2 3 0 0, v3 1 2 3), (.vor 1 2 3 0 0, v3 1 2 3),
      (.vxor 1 2 3 0 0, v3 1 2 3), (.vandn 1 2 3 0 0, v3 1 2 3), (.vshl 1 2 3 0 0, v3 1 2 3), (.vshr 1 2 3 0 0, v3 1 2 3),
      (.vsar 1 2 3 0 0, v3 1 2 3), (.vrotl 1 2 3 0 0, v3 1 2 3), (.vaddsI32 1 2 3 0 0, v3 1 2 3), (.vsubsI32 1 2 3 0 0, v3 1 2 3),
      (.vabsdN32 1 2 3 0 0, v3 1 2 3), (.vdot4I8 1 2 3 0 0, v3 1 2 3), (.vmov 1 2 3, v2 1 2),
      (.vmad 1 2 3 4 0 0 0, v3 1 2 3 ++ useV 4), (.vdot4aI8 1 2 3 4 0 0 1, v3 1 2 3 ++ useV 4), (.vpopc 1 2, v2 1 2),
      (.vclz 1 2, v2 1 2), (.vbrev 1 2, v2 1 2), (.vbfi 1 2 3 4 0 0 0, v3 1 2 3 ++ useV 4), (.vbfe 1 2 3 1, v3 1 2 3)] = true ∧
    ready [(.vaddi 1 2 0 0x200, v2 1 2), (.vsubri 1 2 0 3, v2 1 2), (.vmuli 1 2 0 3, v2 1 2), (.vandi 1 2 0 3, v2 1 2),
      (.vori 1 2 0 3, v2 1 2), (.vxori 1 2 0 3, v2 1 2), (.vshli 1 2 0 31, v2 1 2), (.vshri 1 2 0 31, v2 1 2),
      (.vsari 1 2 0 0, v2 1 2), (.vminiI32 1 2 0 3, v2 1 2), (.vmaxiI32 1 2 0 3, v2 1 2), (.vmovi 1 3, useV 1),
      (.vmovl 1 3, useV 1)] = true ∧
    ready [(.vadd 1 2 3 0 0, v3 1 2 3), (.vshri 1 2 0 31, v2 1 2)] asRange = true ∧
    (asRange (strandOf (.vadd 1 2 3 0 0))).constPred 0 = some true ∧
    (let x := { asRange (strandOf (.vadd 1 2 3 0 0)) with runs := [(1, [(32, false)]), (2, [(16, true), (16, false)])] }
     x.constPred 1 = some false ∧ x.constPred 2 = none ∧ x.uniSrc 2 0 = true) := by
  decide

theorem witness_LaneFloatResults : ready [(.vfaddF32 1 2 3 0 0, v3 1 2 3), (.vfsubF32 1 2 3 0 0, v3 1 2 3),
    (.vfmulF32 1 2 3 0 0, v3 1 2 3), (.vfminF32 1 2 3 0 0, v3 1 2 3), (.vfmaxF32 1 2 3 0 0, v3 1 2 3),
    (.vfscaleF32 1 2 3 0 0, v3 1 2 3), (.vfmaF32 1 2 3 4 0 0 0, v3 1 2 3 ++ useV 4), (.vdot2Bf16 1 2 3 0 0, v3 1 2 3),
    (.vdot2aBf16 1 2 3 4 0 0 0, v3 1 2 3 ++ useV 4), (.vfaddBf16x2 1 2 3 0 0, v3 1 2 3), (.vfmulBf16x2 1 2 3 0 0, v3 1 2 3),
    (.vfaddF16x2 1 2 3 0 0, v3 1 2 3), (.vfmulF16x2 1 2 3 0 0, v3 1 2 3), (.vfaddE4m3x4 1 2 3 0 0, v3 1 2 3),
    (.vfmulE4m3x4 1 2 3 0 0, v3 1 2 3), (.vfaddE5m2x4 1 2 3 0 0, v3 1 2 3), (.vfmulE5m2x4 1 2 3 0 0, v3 1 2 3),
    (.vfmaBf16x2 1 2 3 4 0 0 0, v3 1 2 3 ++ useV 4), (.vfmaF16x2 1 2 3 4 0 0 0, v3 1 2 3 ++ useV 4), (.vfrcpF32 1 2, v2 1 2),
    (.vfrsqF32 1 2, v2 1 2), (.vfsqrtF32 1 2, v2 1 2), (.vfexp2F32 1 2, v2 1 2), (.vflog2F32 1 2, v2 1 2),
    (.vfsinpiF32 1 2, v2 1 2), (.vfcospiF32 1 2, v2 1 2), (.vftanhF32 1 2, v2 1 2)] = true ∧
    isNan .f32 0x7F800001 = true ∧ isSignalling .f32 0x7F800001 = true ∧ isNan .e4m3 0xFF = true ∧ isInf .f32 0xFF800000 = true ∧
    isNum .f32 0x7F7FFFFF ∧ isNum .e4m3 0x7E ∧ isInf .f16 0x7C00 = true := by
  decide

/-- The values 0, 1, 3 and 1/2 (R164). -/
theorem witness_ValuesOfPatterns : numIn .f32 false 0 = 0 ∧ numIn .f32 false 0x3F800000 = 1 ∧ numIn .f32 false 0x40400000 = 3 ∧
    numIn .f32 false 0x3F000000 = 1 / 2 ∧ numIn .f32 false 0xBF800000 < 0 ∧ numIn .f32 true 1 = 0 := by
  norm_num [numIn, num, negative, expOf, Fmt.fw, Fmt.ew, Fmt.bias]

/-- Functions on elements whose results fit, and operands at the top of a format. -/
theorem witness_FloatingPointRoundsOnce : (∀ x y : Nat, ((fun a b => (a * b % 2 ^ 8, 0)) x y : Nat × Ev).1 < 2 ^ 8) ∧
    0xFFFF < 2 ^ Fmt.bf16.width ∧ 0xFFFF < 2 ^ Fmt.f16.width ∧ 0xFF < 2 ^ Fmt.e5m2.width ∧ 0xFF < 2 ^ Fmt.e4m3.width :=
  ⟨fun _ _ => Nat.mod_lt _ (by decide), by decide, by decide, by decide, by decide⟩

/-- 1 is its own rounding in a quantum of 1 and of 2^-23, and lies in the binade of 2^0; a tie goes to the even 0. -/
theorem witness_Nearest : Nearest 0 0 1 1 ∧ Nearest 3 (0 - (23 : Nat)) 1 1 ∧ (2 : ℝ) ^ (0 : Int) ≤ |1| ∧ |(1 : ℝ)| < 2 ^ ((0 : Int) + 1) ∧
    Nearest 0 0 (1 / 2) 0 := by
  refine ⟨⟨1, ?_⟩, ⟨2 ^ 23, ?_⟩, ?_, ?_, ⟨0, ?_⟩⟩ <;> norm_num

theorem witness_LaneConversionResults : ready [(.vfclass 1 2 4, v2 1 2), (.vunary 1 2 8, v2 1 2), (.vunary 1 2 0, v2 1 2),
    (.vcvt 1 2 5, v2 1 2), (.vcvtb 1 2 15, v2 1 2), (.vpack 1 2 3 0, v3 1 2 3), (.vpack 1 2 3 12, v3 1 2 3 ++ useV 1),
    (.vunpack 1 2 3 15, v3 1 2 3)] = true := by
  decide

/-- A range strand with an AFF and a UNI form, and the edges 0 and all ones. -/
theorem witness_FormsGiveEveryThreadItsOwnResult : ready [(.vadd 3 1 2 0 0, v3 3 1 2), (.vsub 3 1 1 0 0, v3 3 1 1),
    (.vmul 3 1 2 0 0, v3 3 1 2), (.vmad 3 1 2 1 0 0 0, v3 3 1 2 ++ useV 1), (.vshl 3 1 2 0 0, v3 3 1 2),
    (.vand 3 1 4 0 0, v3 3 1 4), (.vor 3 1 4 0 0, v3 3 1 4), (.vxor 3 1 4 0 0, v3 3 1 4), (.vandn 3 1 4 0 0, v3 3 1 4),
    (.vmov 3 1 0, v2 3 1), (.vaddi 3 1 0 5, v2 3 1), (.vsubri 3 1 0 5, v2 3 1), (.vmuli 3 1 0 5, v2 3 1),
    (.vandi 3 1 0 0x3FF, v2 3 1), (.vori 3 1 0 0, v2 3 1), (.vxori 3 1 0 0, v2 3 1), (.vshli 3 1 0 31, v2 3 1),
    (.vmovi 3 5, useV 3), (.vmovl 3 5, useV 3), (.vindex 3 0, useV 3), (.vsel 3 1 2 0, v3 3 1 2)] asRange = true ∧
    (let x := asRange (strandOf (.vadd 3 1 2 0 0))
     x.kind = .range 0 32 ∧ x.constPred 0 = some true ∧ (x.form 2).stride = 0 ∧ (x.form 1).stride ≠ 0 ∧ x.form 4 = ⟨0, 0⟩) := by
  decide

theorem witness_OtherSourcesExpandARange :
    ready [(.vminI32 3 1 2 0 0, v3 3 1 2), (.vfaddF32 3 2 1 0 0, v3 3 2 1), (.vdot2Bf16 3 1 2 0 0, v3 3 1 2),
      (.vshri 3 1 0 5, v2 3 1), (.vmaxiI32 3 1 0 5, v2 3 1), (.vpopc 3 1, v2 3 1), (.vftanhF32 3 1, v2 3 1),
      (.vfclass 3 1 0, v2 3 1), (.vcvtb 3 1 15, v2 3 1), (.vmul 3 1 1 0 0, v3 3 1 1), (.vvote 1 2 2, useK 1 ++ useV 2),
      (.vvote 1 2 0, useK 1 ++ useK 2), (.vscan 3 1 0, v2 3 1), (.vred 3 1 0, v2 3 1), (.vmatch 3 1 0, v2 3 1),
      (.vmatch 3 1 1, useK 3 ++ useV 1), (.vcompact 3 1 2 0, v2 3 1 ++ useK 2), (.vexpand, [])] asRange = true ∧
    (asRange (strandOf .vexpand)).uniSrc 1 0 = false ∧ (asRange (strandOf .vexpand)).constPred 0 ≠ some false := by
  decide

/-- Threads 0 to 63 with v1 = (0, 0x60000000), whose sign changes often, v2 = (0x15, 0), and k2 true of the first 16. -/
def wide (x : Strand) : Strand :=
  { x with kind := .range 0 64, forms := [(1, ⟨0, 0x60000000⟩), (2, ⟨0x15, 0⟩)], runs := [(2, [(16, true), (48, false)])] }

/-- The operands that the table of R108 does not admit. -/
theorem witness_OperandsOutsideTheTable :
    ready [(.vfmaF32 3 1 2 2 0 0 0, v3 3 1 2 ++ useV 2), (.vmad 3 1 1 2 0 0 0, v3 3 1 1 ++ useV 2), (.vmad 3 1 2 2 1 0 0, v3 3 1 2 ++ useV 2),
      (.vadd 3 1 2 1 0, v3 3 1 2), (.vmov 3 1 2, v2 3 1), (.vaddi 3 1 3 5, v2 3 1), (.vshl 3 2 1 0 0, v3 3 2 1), (.vand 3 1 2 0 0, v3 3 1 2),
      (.vori 3 1 0 5, v2 3 1), (.vbfe 3 1 2 0, v3 3 1 2), (.vunpack 3 2 1 15, v3 3 2 1), (.vpack 3 1 2 0, v3 3 1 2),
      (.vpack 1 2 2 3, v3 1 2 2 ++ useV 1), (.vcmp 3 1 2 6, useK 3 ++ v2 1 2), (.vcmp 3 1 2 2, useK 3 ++ v2 1 2),
      (.vsel 3 1 2 2, v3 3 1 2 ++ useK 2), (.vindex 3 1, useV 3), (.vindex 3 2, useV 3), (.vindex 3 3, useV 3),
      (.vkmov 3 2 0 0, useV 3 ++ useK 2), (.vkmov 3 2 0 1, useK 3 ++ useV 2)] wide = true ∧
    (let x := wide (strandOf .vexpand)
     x.uniSrc 1 1 = false ∧ (x.form 1).stride ≠ 0 ∧ (x.form 2).base ≠ 0 ∧ (x.form 2).base ≠ BitVec.allOnes 32 ∧
     2 < changes (fun j => (Claims.compare 2 ⟨0, 0⟩ ((x.form 1).base + (x.form 1).stride * BitVec.ofNat 32 j) 0x15).1) x.count ∧
     x.constPred 2 = none ∧ x.names.1 / 32 ≠ (x.names.1 + x.count - 1) / 32 ∧
     x.names.1 / 2 ^ x.tile.toNat ≠ (x.names.1 + x.count - 1) / 2 ^ x.tile.toNat ∧
     2 < changes (fun j => (x.form 2).base.getLsbD ((x.names.1 + j) % 32 % 2 ^ x.tile.toNat)) x.count) := by
  decide

theorem witness_ExpansionFillsTheLanes : let s := on .vexpand asRange
    tfind (s.wgOf 0).warps 0 = some ⟨8, []⟩ ∧ (tfind s.wgs 0).isSome = true := by
  decide

theorem witness_IllegalOperandsTrap : let i : Instr := .vshli 1 2 0 32
    encode i ≠ [] ∧ i.wf = false ∧ (on i).cur = some c0 ∧ tfind (on i).strands c0.uid = some (strandOf i) := by
  decide


/-! ## Single instructions: the worked lines of the spec -/

/-- v(r) of lane 0 after `i` in a strand of lane 0 alone, with these words in lane 0 of its registers, under MODE `m`, and the
flags that it raised. -/
def lane0 (i : Instr) (regs : List (Nat × Word)) (r : Nat) (m : BitVec 8 := 0) : Option (Word × Ev) :=
  match exec i (on i (fun x => { x with kind := .lane 0 1, mode := m }) fun s =>
      { s with wgs := [(0, { wgStart 0 0 0 0 0 with warps := [(0, ⟨8, regs.map fun x => (32 * x.1, x.2)⟩)] })] }) with
  | .next t => some ((t.wgOf 0).lane 0 r 0, t.flagsOf 0)
  | _ => none

/-- s(r) after `i` with these words in the uniform registers. -/
def uni (i : Instr) (regs : List (Nat × Word)) (r : Nat) : Option Word :=
  match exec i (on i fun x => { x with s := regs }) with
  | .next t => (tfind t.strands 0).map (·.sreg r)
  | _ => none

/-- R234: v4 = 0x8000_0000, v5 = 3. -/
theorem test_lane_products : lane0 (.vmul 3 4 5 0 0) [(4, 0x80000000), (5, 3)] 3 = some (0x80000000, 0) ∧
    lane0 (.vmulhI32 3 4 5 0 0) [(4, 0x80000000), (5, 3)] 3 = some (0xFFFFFFFE, 0) ∧
    lane0 (.vmulhN32 3 4 5 0 0) [(4, 0x80000000), (5, 3)] 3 = some (1, 0) := by
  decide

theorem test_lane_shift_counts : lane0 (.vshl 3 5 4 0 0) [(4, 0x80000000), (5, 3)] 3 = some (0, 0) ∧
    lane0 (.vrotl 3 5 4 0 0) [(4, 0x80000000), (5, 3)] 3 = some (3, 0) := by
  decide

theorem test_vdot4 : lane0 (.vdot4I8 3 4 5 0 0) [(4, 0x80FF0102), (5, 0x7F020304)] 3 = some (0xFFFFC089, 0) := by
  decide

/-- The worked line of VFMA: 0 times infinity, with a quiet NaN as addend. -/
theorem test_vfma_invalid : lane0 (.vfmaF32 4 1 2 3 0 0 0) [(1, 0), (2, 0x7F800000), (3, 0x7FC12345)] 4 =
    some (0x7FC12345, evNV ||| evNI) := by
  decide

/-- The same with TNV: v4 stays, and the flags take the events. -/
theorem test_vfma_traps : lane0 (.vfmaF32 4 1 2 3 0 0 0) [(1, 0), (2, 0x7F800000), (3, 0x7FC12345), (4, 7)] 4 0x10 =
    some (7, evNV ||| evNI) := by
  decide

/-- The worked line of R175. -/
theorem test_vfadd_e4m3 : lane0 (.vfaddE4m3x4 3 1 2 0 0) [(1, 0xC07F7E38), (2, 0x38387038)] 3 =
    some (0xB87F7F40, evOF ||| evNX ||| evNI) := by
  decide

theorem test_saddi_minus_one : uni (.saddi 2 7 0xFFF) [(7, 0)] 2 = some 0xFFFFFFFF := by
  decide

/-- R334: a zero divisor, the one overflow, and a remainder with the sign of the dividend. -/
theorem test_division : uni (.sdivI32 1 2 3) [(2, 5)] 1 = some 0xFFFFFFFF ∧
    uni (.sdivI32 1 2 3) [(2, 0x80000000), (3, 0xFFFFFFFF)] 1 = some 0x80000000 ∧
    uni (.sremI32 1 2 3) [(2, 0xFFFFFFF9), (3, 2)] 1 = some 0xFFFFFFFF := by
  decide

/-- A routed source: lane 0 reads lane 1, by rotation by one within the tile. -/
theorem test_rotation_reads_next_lane :
    (match exec (.vmov 3 4 1) (on (.vmov 3 4 1) (fun x => { x with kind := .lane 0 3, route := [(1, 0x2001)] }) fun s =>
        { s with wgs := [(0, { wgStart 0 0 0 0 0 with warps := [(0, ⟨8, [(128, 10), (129, 11)]⟩)] })] }) with
      | .next t => some ((t.wgOf 0).lane 0 3 0)
      | _ => none) = some 11 := by
  decide

/-- The whole step: the word of `saddi s2, s7, #-1` is fetched from its clause, decoded and run. -/
theorem test_step_runs_saddi :
    (match step (State.reset.withFetchWord 32 0x90087FFF) with
      | .next t => (tfind t.strands 0).map fun x => (x.sreg 2, x.pc)
      | _ => none) = some (0xFFFFFFFF, 0x10008) := by
  decide


/-! ### Traps -/

/-- The strand as a timer handler. -/
def asHandler (x : Strand) : Strand := { x with kind := .handler }

/-- An operation of strand 0 in flight, with destination v(r) and s(r). -/
def flying (r : Nat) (s : State) : State :=
  { s with ops := [(7, { flag := 0, setB := false, holders := [0], wg := 0, warp := 0, dstV := [r], dstS := [r], res := []
                         sres := [], external := false, ahead := none })] }

/-- What stops `i` in such a state. -/
def stop (i : Instr) (uses : List Use) (f : Strand → Strand := id) (g : State → State := id) : Option (Nat × Nat) :=
  (on i f g).gate c0 (f (strandOf i)) i uses none

/-- A clause breach, the handler's rules, block 8 of a warp of 8 blocks, a hazard in each file, idle flags, a capsule. -/
theorem witness_GateOrder :
    ({ strandOf .exit with clause := none }).clauseBreach c0 .exit = true ∧
    (asHandler (strandOf .waitpred)).isHandler = true ∧ Instr.waitpred.notInHandler = true ∧
    (strandOf .eret).isHandler = false ∧
    (on .vexpand).blocks (strandOf .vexpand) ≤ 64 / 8 ∧
    (on (.vmovi 1 0) id (flying 1)).hazard 0 (strandOf (.vmovi 1 0)) (useV 1) = some 0x101 ∧
    (on (.smovi 1 0) id (flying 1)).hazard 0 (strandOf (.smovi 1 0)) (useS 1) = some 0x201 ∧
    (on .vret id (flying 1)).hazard 0 (strandOf .vret) [] = none ∧ Instr.vret.needsIdle = true ∧
    (on .vret id (flying 1)).opsOf 0 ≠ [] ∧ (strandOf .capeStep).capsBreach .capeStep [] = true ∧
    (strandOf .vret).midway = false := by
  decide

/-- A trap of kind P and one of kind G; an event that MODE traps in lane 3 of v2. -/
theorem witness_TakingATrap :
    (let i : Instr := .brk 7
     let s := on i
     tfind s.strands 0 = some (strandOf i) ∧ (s.ctxOf (s.ctxNo (strandOf i))).conf = false ∧
     tfind s.ctxs (s.ctxNo (strandOf i)) ≠ none ∧ Trap.ends { cls := 0x0D } = true ∧ Trap.ends { cls := 0x12 } = false) := by
  decide

/-- MODE with every trap enabled. -/
def trapping (x : Strand) : Strand := { x with mode := 0xF0 }

/-- Lane 3 of v2 holds a signaling NaN. -/
def nanInLane3 (s : State) : State := { s with wgs := [(0, { wgStart 0 0 0 0 0 with warps := [(0, ⟨8, [(67, 0x7F800001)]⟩)] })] }

theorem witness_FloatTrap :
    ready [(.vfaddF32 1 2 3 0 0, v3 1 2 3), (.vfmaF32 1 2 3 4 0 0 0, v3 1 2 3 ++ useV 4), (.vfsqrtF32 1 2, v2 1 2),
      (.vcvt 1 2 2, v2 1 2), (.vfscaleF32 1 2 3 0 0, v3 1 2 3), (.vdot2Bf16 1 2 3 0 0, v3 1 2 3),
      (.vdot2aBf16 1 2 3 4 0 0 0, v3 1 2 3 ++ useV 4), (.vfmaBf16x2 1 2 3 4 0 0 0, v3 1 2 3 ++ useV 4),
      (.vfmaF16x2 1 2 3 4 0 0 0, v3 1 2 3 ++ useV 4), (.vunary 1 2 5, v2 1 2), (.vcvtb 1 2 0, v2 1 2), (.vpack 1 2 3 0, v3 1 2 3),
      (.vunpack 1 3 2 15, v3 1 3 2), (.vcmp 1 2 3 8, useK 1 ++ v2 2 3), (.vscan 1 2 9, v2 1 2), (.vred 1 2 8, v2 1 2)] trapping
      nanInLane3 = true ∧
    (let f : Strand → Strand := fun x => trapping { x with kind := .range 0 32, forms := [(2, ⟨0x7F800001, 0⟩)] }
     ready [(.vfaddF32 1 2 3 0 0, v3 1 2 3)] f = true ∧ (f (strandOf .vexpand)).constPred 0 = some true ∧
     (f (strandOf .vexpand)).uniSrc 2 0 = true) ∧
    trapsOn 0xF0 (Claims.compare 8 ⟨0, 0⟩ 0x7FC00000 0).2 = true ∧ trapsOn 0xF0 (scanOp 9 ⟨0, 0⟩ 0 0x7F800001).2 = true ∧
    trapsOn 0xF0 (unaryOp 5 ⟨0, 0⟩ 0x7F800001).2 = true ∧ trapsOn 0xF0 (packOp 0 ⟨0, 0⟩ 0x7F800001 0 0).2 = true ∧
    trapsOn 0xF0 (fscale ⟨0, false, false⟩ 0x7F800001 0).2 = true ∧
    (on (.vcvt 1 2 2) trapping nanInLane3).vreg (strandOf (.vcvt 1 2 2)) 2 3 = 0x7F800001 ∧
    trapsOn 0xF0 (cvtOp 2 ((on (.vcvt 1 2 2) trapping nanInLane3).env (strandOf (.vcvt 1 2 2))) 0x7F800001).2 = true ∧
    trapsOn 0xF0 (Fmt.f32.add ⟨0, false, false⟩ 0x7F800001 0).2 = true := by
  decide

/-! ### Comparison, selection, work across lanes -/

/-- Range strands whose comparison changes twice and more often along the threads. -/
theorem witness_CompareAndSelect :
    ready [(.vcmp 1 2 3 0, useK 1 ++ v2 2 3), (.vcmp 7 2 3 10, useK 7 ++ v2 2 3), (.vsel 1 2 3 0, v3 1 2 3),
      (.vsel 1 2 3 7, v3 1 2 3 ++ useK 7)] = true ∧
    ready [(.vcmp 1 2 3 0, useK 1 ++ v2 2 3), (.vcmp 1 1 3 5, useK 1 ++ v2 1 3), (.vsel 1 2 3 0, v3 1 2 3)] asRange = true ∧
    (asRange (strandOf .vexpand)).constPred 0 = some true := by
  decide

theorem witness_MasksAndWordsAcrossLanes : ready [(.vvote 1 2 0, useK 1 ++ useK 2), (.vvote 1 2 1, useK 1 ++ useK 2),
    (.vvote 1 2 2, useK 1 ++ useV 2), (.vmatch 1 2 1, useK 1 ++ useV 2), (.vkmov 1 2 0 1, useK 1 ++ useV 2),
    (.vkmov 1 2 3 2, useK 1 ++ useK 2 ++ useK 3), (.vkmov 1 2 3 5, useK 1 ++ useK 2 ++ useK 3), (.vkmov 1 2 0 6, useK 1 ++ useK 2),
    (.vkmov 1 2 0 7, useK 1 ++ useK 2), (.vmatch 1 2 0, v2 1 2), (.vkmov 1 2 0 0, useV 1 ++ useK 2),
    (.vcompact 1 2 3 0, v2 1 2 ++ useK 3), (.vcompact 1 2 3 1, v2 1 2 ++ useK 3)] = true := by
  decide

theorem witness_ScansAndReductions : ready [(.vscan 1 2 0, v2 1 2), (.vscan 1 2 1, v2 1 2), (.vscan 1 2 12, v2 1 2),
    (.vred 1 2 0, v2 1 2), (.vred 1 2 10, v2 1 2)] = true ∧ (strandOf .vexpand).mode = 0 ∧ trapsOn 0 0x7F = false := by
  decide

theorem witness_FormQueriesAnswer :
    ready [(.vindex 1 0, useV 1), (.vindex 1 3, useV 1), (.vform 1 2 0, v2 1 2), (.vform 1 0 3, useV 1), (.vstride 1 2, v2 1 2),
      (.vexpand, [])] = true ∧
    ready [(.vindex 1 0, useV 1), (.vform 1 2 0, v2 1 2), (.vstride 1 2, v2 1 2)] asRange = true := by
  decide

/-- One value, a progression with a least stride, and neither. -/
theorem witness_LaneFormIsTheLeastStride :
    ([(0, 5), (4, 5)] : List (Nat × Word)).Pairwise (fun x y => x.1 < y.1) ∧ (∀ x ∈ ([(0, 5), (31, 5)] : List (Nat × Word)), x.1 < 32) ∧
    ((9 : Word) = 5 + 2 * BitVec.ofNat 32 (2 - 0)) ∧ (5 : Word) ≠ 9 := by
  decide

/-! ### Memory -/

/-- Two lanes whose address pair v4 names bytes 0 and 8 of the workgroup's own slice, with v2 for data. -/
def twoLanes (x : Strand) : Strand := { x with kind := .lane 0 3 }

def inSlice (s : State) : State := { s with wgs := [(0, { wgStart 0 0 0 0 0 with
  warps := [(0, ⟨8, [(64, 0x11111111), (65, 0x22222222), (129, 8), (160, 0x01000000), (161, 0x01000000)]⟩)] })] }

/-- A range strand of two threads with a UNI address pair in v4. -/
def twoThreads (x : Strand) : Strand := { x with kind := .range 0 2, forms := [(2, ⟨7, 1⟩), (4, ⟨16, 0⟩), (5, ⟨0x01000000, 0⟩)] }

/-- The element of each thread passes its checks, at the key that follows from its address. -/
def lands (i : Instr) (acc : Acc) (f : Strand → Strand) (ts : List Touch) (key : Nat → Nat) : Bool :=
  let s := on i f inSlice
  let st := f (strandOf i)
  let r := (State.checkAll (dieOf st.core) (s.who st) acc st.isRange ts s).2
  r.length == ts.length && (r.zip ts).all fun x => x.1.1 == x.2 && (match x.1.2 with
    | .ok (.loc k) => k == key x.2.j
    | _ => false)

theorem witness_LaneLoadsReadMemory :
    ready [(.vld 8 4 0 4 0, useV 8 ++ useV 4 2), (.vld 8 4 3 6 0x3F, useV 8 4 ++ useV 4 2 ++ useK 3),
      (.vldc 8 4 0 5 0, useV 8 2 ++ useV 4 2), (.vldg 8 4 6 0 3 0 0 0 0, useV 8 ++ useV 4 2 ++ useV 6),
      (.vldg 8 4 6 4 0 1 7 15 0x8000, useV 8 ++ useV 4 2 ++ useV 6)] twoLanes inSlice = true ∧
    (on (.vld 8 4 0 4 0) twoLanes inSlice).chunkOf 0 1 = none ∧
    (strandOf (.vld 8 4 0 4 0)).core = 0 ∧
    (let i : Instr := .vld 8 4 0 4 0
     let s := on i twoLanes inSlice
     lands i .read twoLanes ((twoLanes (strandOf i)).laneTouches 0 4 fun j => s.pairV (twoLanes (strandOf i)) 4 j)
       (fun j => sKey (8 * j)) = true ∧
     (twoLanes (strandOf i)).laneTouches 0 4 (fun j => s.pairV (twoLanes (strandOf i)) 4 j) ≠ []) ∧
    ready [(.vld 8 4 0 4 0, useV 8 ++ useV 4 2), (.vld 8 2 0 4 0, useV 8 ++ useV 2 2)] twoThreads inSlice = true ∧
    lands (.vld 8 4 0 4 0) .read twoThreads [⟨0, 0x0100000000000010, 4⟩] (fun _ => sKey 16) = true ∧
    uniPair 4 (twoThreads (strandOf .vexpand)) = true ∧ uniPair 2 (twoThreads (strandOf .vexpand)) = false := by
  decide

/-- An operation with a result for one lane of a warp that is there. -/
theorem witness_LoadResultsArrive :
    let o : Op := { flag := 0, setB := false, holders := [0], wg := 0, warp := 0, dstV := [8], dstS := [], res := [(0, 8, 5), (31, 8, 6)]
                    sres := [], external := false, ahead := none }
    let s := { on .vexpand with ops := [(0, o)], arg := { a := 0 } }
    tfind s.ops s.arg.a = some o ∧ o.external = false ∧ s.arg.nats = [] ∧ o.sres = [] ∧ (∀ r ∈ o.res, r.1 < 32) ∧
      (o.res.map fun r => (r.1, r.2.1)).Nodup ∧ (tfind (s.wgOf o.wg).warps o.warp).isSome = true := by
  decide

theorem witness_LaneStoresWriteMemory :
    ready [(.vst 2 4 0 4 0, useV 4 2 ++ useV 2), (.vst 8 4 0 6 0, useV 4 2 ++ useV 8 4), (.vst 2 4 1 0 0, useV 4 2 ++ useV 2 ++ useK 1)]
      twoLanes inSlice = true ∧
    (let i : Instr := .vst 2 4 0 4 0
     let s := on i twoLanes inSlice
     lands i .write twoLanes ((twoLanes (strandOf i)).laneTouches 0 4 fun j => s.pairV (twoLanes (strandOf i)) 4 j)
       (fun j => sKey (8 * j)) = true) ∧
    ready [(.vst 2 4 0 4 0, useV 4 2 ++ useV 2)] twoThreads inSlice = true ∧
    lands (.vst 2 4 0 4 0) .write twoThreads
      ((twoThreads (strandOf (.vst 2 4 0 4 0))).rangeTouches 4 fun _ => 0x0100000000000010) (fun _ => sKey 16) = true ∧
    (let w : PWrite := { die := 0, core := 0, wg := 0, kind := .lane 0 1, loc := sKey 0, bytes := [1, 2], epoch := 0, covers := false, grp := 0 }
     let s := (on .vexpand).setHome fun h => { h with writes := [(0, w)] }
     tfind s.home.writes 0 = some w ∧ s.canApply 0 w = true ∧ s.buffered w = false) := by
  decide

theorem witness_LaneAtomicsActAtTheHome :
    ready [(.vatom 8 4 2 0 0 0 0 0, useV 8 ++ useV 4 2 ++ useV 2), (.vatom 0 4 2 12 0 1 0 0, useV 4 2 ++ useV 2),
      (.vatom 8 4 2 9 0 0 6 0, useV 8 ++ useV 4 2 ++ useV 2 ++ useV 6),
      (.vatom 8 4 2 8 1 0 0 0, useV 8 2 ++ useV 4 2 ++ useV 2 2)] twoLanes inSlice = true ∧
    ready [(.vatom 0 4 2 0 0 1 0 0, useV 4 2 ++ useV 2)] twoThreads inSlice = true ∧
    (let i : Instr := .vatom 8 4 2 0 0 0 0 0
     let s := on i twoLanes inSlice
     lands i (.atomic true) twoLanes ((twoLanes (strandOf i)).laneTouches 0 4 fun j => s.pairV (twoLanes (strandOf i)) 4 j)
       (fun j => sKey (8 * j)) = true) ∧
    (on .vexpand).home.words = [] := by
  decide

/-- The pair s4 names byte 8 of the slice, and an address outside every region. -/
def sInSlice (x : Strand) : Strand := { x with s := [(2, 0x55), (4, 8), (5, 0x01000000), (6, 8), (7, 0x04000000)] }

/-- Where a uniform element goes (0 and its key), or the class that ends it (1 and the class). -/
def goes (acc : Acc) (addr : DWord) (n : Nat) : Nat × Nat :=
  match (on .exit sInSlice).resolve 0 ⟨1, some 0⟩ acc addr n with
  | .ok (.loc k) => (0, k)
  | .error (.cls c) => (1, c)
  | _ => (2, 0)

theorem witness_UniformMemoryAccesses :
    ready [(.sld 8 4 4 0, useS 8 ++ useS 4 2), (.sldc 8 4 6 0, useS 8 4 ++ useS 4 2), (.sst 2 4 4 0, useS 4 2 ++ useS 2),
      (.satom 4 2 9 0 0 0 0 0, useS 9 ++ useS 4 2 ++ useS 2), (.satom 4 2 0 9 0 1 3 0, useS 4 2 ++ useS 2 ++ useS 3),
      (.sld 8 6 4 0, useS 8 ++ useS 6 2), (.sst 2 6 4 0, useS 6 2 ++ useS 2), (.satom 6 2 9 0 0 0 0 0, useS 9 ++ useS 6 2 ++ useS 2)]
      sInSlice = true ∧
    goes .read 0x0100000000000008 4 = (0, sKey 8) ∧ goes .write 0x0100000000000008 4 = (0, sKey 8) ∧
    goes (.atomic true) 0x0100000000000008 4 = (0, sKey 8) ∧ goes .read 0x0400000000000008 4 = (1, 0x10) ∧
    goes .write 0x0100000000000009 4 = (1, 0x11) ∧ goes .write 0x0100000000000800 4 = (1, 0x17) ∧
    (sInSlice (strandOf .exit)).caps = none ∧ (sInSlice (strandOf .exit)).count = 32 := by
  decide


/-! ### Copies and arrival words -/

/-- Lanes whose pair v2 names slots 0 and 8 of the slice, whose pair v4 is in no mapped page, and whose v6 is 8. -/
def copyLanes (s : State) : State := { s with wgs := [(0, { wgStart 0 0 0 0 0 with
  warps := [(0, ⟨8, [(65, 8), (96, 0x01000000), (97, 0x01000000), (192, 8), (193, 8)]⟩)] })] }

/-- A per-thread copy of thread 3, open or sealed into batch 2. -/
def copying (batch : Option (BitVec 3)) (s : State) : State :=
  { s with copies := [(0, { wg := 0, uid := 0, thread := 3, batch := batch, dst := 0, src := 0, size := 4, valid := 4, pc := 0, inst := 0
                            failed := none })] }

theorem witness_CopiesAndBatches :
    ready [(.vpref 2 4 0 0, useV 4 2), (.vcopy 2 4 6 3, useV 2 2 ++ useV 4 2 ++ useV 6), (.bseal 7, []), (.bwait 2, [])] twoLanes
      copyLanes = true ∧
    ready [(.vpref 0 4 0 0, useV 4 2)] twoThreads = true ∧
    (let i : Instr := .vcopy 2 4 6 3
     let s := on i twoLanes copyLanes
     let st := twoLanes (strandOf i)
     (st.laneTouches 0 8 (s.pairV st 2)).all fun x => s.copyCheck st (s.pairV st 2 x.j) (s.pairV st 4 x.j) 8 8 == none) = true ∧
    (on (.bwait 2) id (copying none)).copies.all (fun x => x.2.batch != some 2) = true ∧
    ((on (.bwait 2) id (copying (some 2))).copies.any fun x => x.2.wg == 0 && (strandOf (.bwait 2)).holds x.2.thread &&
      x.2.batch == some 2) = true ∧
    ready [(.bwait 2, [])] id (copying none) = true ∧ ready [(.bwait 2, [])] id (copying (some 2)) = true := by
  decide

/-- The key of an arrival word, or the class that ends the access. -/
def wordGoes (acc : Acc) (addr : DWord) : Nat × Nat :=
  match (on .exit).wordAt (strandOf .exit) acc addr with
  | .ok k => (0, k)
  | .error c => (1, c)

theorem witness_ArrivalWords :
    ready [(.awinit 4 2, useS 4 2 ++ useS 2), (.await 4 2 8, useS 8 ++ useS 4 2 ++ useS 2)] (fun x => { x with s := [(5, 0x01000000)] })
      = true ∧
    wordGoes .write 0x0100000000000000 = (0, sKey 0) ∧ wordGoes .read 0x0100000000000000 = (0, sKey 0) ∧
    (strandOf (.await 4 2 8)).async = [] ∧
    (on .exit).home.words = [] ∧ leNat (mread (mwrite [] (sKey 0) (leBytes 4 16)) (sKey 0) 4) ≠ 0 := by
  decide

/-! ### Transfers, divergence, exits -/

/-- The strand with an address on its return stack. -/
def called (x : Strand) : Strand := { x with ret := [0x20000] }

/-- The instruction cache holds, at `t`, a word that is no clause header. -/
def noHeaderAt (t : Nat) (s : State) : State := s.setHome fun h => { h with icache := [(1, t, 0)] }

theorem witness_UniformTransfers :
    ready [(.jmp 16, []), (.brz 1 16, useS 1), (.brnz 2 16, useS 2), (.call 0x800000, []), (.callr 4, useS 4 2), (.ret, [])]
      (fun x => { x with s := [(2, 1)] }) = true ∧
    ready [(.ret, [])] called = true ∧
    (on (.jmp 16)).badTarget 0 (strandOf (.jmp 16)) (0x10004 + 64) = false ∧
    (on (.jmp 16) id (noHeaderAt 0x10044)).badTarget 0 (strandOf (.jmp 16)) 0x10044 = true ∧
    ready [(.jmp 16, [])] id (noHeaderAt 0x10044) = true ∧ (strandOf .ret).div = [] ∧ (strandOf .ret).frames = [] := by
  decide

/-- k1 is all ones, k2 zero. -/
def decided (x : Strand) : Strand := { x with masks := [(1, 0xFFFFFFFF), (2, 0)] }

theorem witness_LaneTransfersOfAWholeStrand :
    ready [(.vbr 1 1 16, useK 1), (.vbr 2 1 16, useK 2), (.vbrn 1 1 16, useK 1), (.vbrn 2 1 16, useK 2),
      (.vswitch 1 3 [0x10, 0x00050020], useV 3), (.vcall 16, []), (.vcallr 4, useV 4 2), (.vret, [])] decided = true ∧
    ready [(.vret, [])] called = true ∧
    ready [(.vbr 0 1 16, [])] asRange = true ∧ (asRange (strandOf .vret)).constPred 0 = some true ∧
    (∀ j < 32, (decided (strandOf .vret)).kmask 1 |>.getLsbD j) ∧ (∀ j < 32, ((decided (strandOf .vret)).kmask 2).getLsbD j = false) ∧
    caseOf [0x10, 0x00050020] 0 = 1 ∧ caseOf [0x10, 0x00050020] 5 = 2 ∧ caseOf [0x10, 0x00050020] 6 = 0 := by
  decide

/-- k1 is true in lanes 0 to 3 alone. -/
def mixed (x : Strand) : Strand := { x with masks := [(1, 0xF)] }

/-- 32 split strands hold every split slot, and the core has no slot to lend. -/
def noSlot (s : State) : State :=
  { s with
    next := 33
    strands := s.strands ++ (List.range 32).map fun k =>
      (k + 1, { strandOf .exit with split := true, slot := k + 1, kind := .lane 0 0 }) }

/-- Lane j of v3 holds j, and the pair v4 of lane j is 4 j. -/
def byLane (s : State) : State := { s with wgs := [(0, { wgStart 0 0 0 0 0 with
  warps := [(0, ⟨8, (List.range 32).map (fun j => (96 + j, BitVec.ofNat 32 j)) ++ (List.range 32).map fun j => (128 + j, BitVec.ofNat 32 (4 * j))⟩)] })] }

/-- Threads 0 to 31, k1 true of the first four, and v3 = (0, 1); the workgroup has form entries for two range strands. -/
def mixedRange (x : Strand) : Strand := { x with kind := .range 0 32, forms := [(3, ⟨0, 1⟩)], runs := [(1, [(4, true), (28, false)])] }

def twoForms (s : State) : State := { s with grids := tmap s.grids fun _ g => { g with hdr := { g.hdr with flags := 2 } } }

/-- What the statement asks of a strand that splits into `n`. -/
def splits (n : Nat) (i : Instr) (f : Strand → Strand) (g : State → State) : Bool :=
  let s := on i f g
  let st := f (strandOf i)
  decide (0 < s.next) && !s.busyA 0 && st.frames.isEmpty && (tfind s.wgs st.wg).isSome &&
    (s.strands.all fun x => decide (x.2.div.length ≤ 4)) && decide (st.div.length + n ≤ 4 ∨ st.div.length ≤ 3 ∧ splitsOf s st + n ≤ 33)

/-- The words at these targets are there, and none is bad. -/
def clear (i : Instr) (f : Strand → Strand) (g : State → State) (ts : List DWord) : Bool :=
  let s := (on i f g).begun c0
  let st := (on i f g).at_ (f (strandOf i))
  (s.awaitTargets c0 st ts).isNone && ts.all fun t => !s.badTarget 0 st t

theorem witness_BranchDivergence :
    ready [(.vbr 1 1 16, useK 1), (.vbrn 1 1 16, useK 1)] mixed = true ∧
    splits 2 (.vbr 1 1 16) mixed id = true ∧ clear (.vbr 1 1 16) mixed id [0x10044] = true ∧
    (on (.vbr 1 1 16) mixed).slotFor 0 false false ≠ none ∧ ready [(.vbr 1 1 16, useK 1)] mixed (flying 40) = true ∧
    (on (.vbr 1 1 16) mixed (flying 40)).busyA 0 = true ∧
    ((lanesOf 0xFFFFFFFF).map fun j => if ((mixed (strandOf .exit)).kmask 1).getLsbD j then 1 else 0).eraseDups = [1, 0] := by
  decide

theorem witness_BranchWithoutASlot : ready [(.vbr 1 1 16, useK 1)] mixed noSlot = true ∧ splits 2 (.vbr 1 1 16) mixed noSlot = true ∧
    (on (.vbr 1 1 16) mixed noSlot).slotFor 0 false false = none := by
  decide

theorem witness_SwitchDivergence : ready [(.vswitch 1 3 [0x10, 0x00050020], useV 3)] id byLane = true ∧
    splits 3 (.vswitch 1 3 [0x10, 0x00050020]) id byLane = true ∧
    clear (.vswitch 1 3 [0x10, 0x00050020]) id byLane [0x10044, 0x10084] = true ∧
    ((lanesOf 0xFFFFFFFF).map fun j => caseOf [0x10, 0x00050020] ((on .exit id byLane).vreg (strandOf .exit) 3 j)).eraseDups =
      [1, 0, 2] := by
  decide

/-- Two runs with and without room for them, and the four runs of R272. -/
theorem witness_RangeDivergence : ready [(.vbr 1 1 16, useK 1), (.vswitch 1 3 [0x10, 0x00050020], useV 3)] mixedRange twoForms = true ∧
    splits 1 (.vbr 1 1 16) mixedRange twoForms = true ∧
    (let s := on (.vbr 1 1 16) mixedRange twoForms
     let st := mixedRange (strandOf .exit)
     st.spansOfK 1 = [(0, 4, 1), (4, 28, 0)] ∧ splitsOf s st + 2 ≤ 33 ∧ s.rangesOf 0 + 2 ≤ (s.gridAt st).forms + 1 ∧
     ((s.strandsOf 0).filter fun x => x.2.split && x.2.isRange).length + 2 ≤ 17 ∧
     (st.spansBy fun j => caseOf [0x10, 0x00050020] (s.vreg st 3 j)).length = 4) ∧
    (on (.vbr 1 1 16) mixedRange fun s => noSlot (twoForms s)).slotFor 0 true false = none := by
  decide

/-- Of ten lanes, ten targets; of eight, eight. -/
def lanesTo (n : Nat) (x : Strand) : Strand := { x with kind := .lane 0 (maskWhere (List.range n) fun _ => true) }

theorem witness_CallDivergence : ready [(.vcallr 4, useV 4 2)] (lanesTo 10) byLane = true ∧
    splits 9 (.vcallr 4) (lanesTo 10) byLane = true ∧
    splitsOf (on (.vcallr 4) (lanesTo 10) byLane) (strandOf .exit) + 9 ≤ 33 := by
  decide

theorem witness_CallDivergence_targets : clear (.vcallr 4) (lanesTo 10) byLane [0, 4, 8, 12, 16, 20, 24, 28, 32, 36] = true := by
  decide

theorem witness_CallDivergence_counts :
    ((lanesOf 0xFF).map fun j => (on .exit id byLane).pairV (strandOf .exit) 4 j).eraseDups.length = 8 ∧
    ((lanesOf 0x3FF).map fun j => (on .exit id byLane).pairV (strandOf .exit) 4 j).eraseDups.length = 10 := by
  decide

/-- A strand with one entry of tag 1 on its stack. -/
def withEntry (kind : BitVec 2) (x : Strand) : Strand :=
  { x with kind := .lane 0 0xF, div := [{ groupEntry 1 0x70 kind 0 0 with pc := 0x20000 }] }

theorem witness_JoinsActOnTheTopEntry :
    ready [(.vjoin 1 1, []), (.vjoin 2 1, []), (.vreform 1 1, []), (.vreform 3 0, [])] (withEntry 0) = true ∧
    ready [(.vjoin 1 1, []), (.vreform 1 1, [])] (withEntry 1) = true ∧
    ready [(.vjoin 0 1, []), (.vjoin 7 1, [])] = true ∧
    (on (.vjoin 1 1) (withEntry 0)).busyA 0 = false ∧ ((on (.vjoin 1 1) (withEntry 0)).strands.map (·.1)).Nodup := by
  decide

/-- A DEFER entry of a tag whose lanes have all run, while lanes 4 to 7 wait at the join, above the entries `r`. -/
def allRan (tag : BitVec 4) (r : List DivEntry) (x : Strand) : Strand :=
  { x with kind := .lane 0 0xF, div := { groupEntry tag 0 1 0 0 with maskB := 0xF0, pc := 0x20000 } :: r }

theorem witness_JoinBehindADeferEntry :
    ready [(.vjoin 0 1, []), (.vreform 0 1, [])] (allRan 0 []) = true ∧ ready [(.vjoin 1 1, []), (.vreform 1 1, [])] (allRan 1 []) = true ∧
    ready [(.vjoin 1 1, [])] (allRan 1 [groupEntry 1 0x70 0 0 0]) = true ∧
    ready [(.vjoin 1 1, [])] (allRan 1 [groupEntry 1 0x70 1 0 0]) = true ∧ (groupEntry 1 0x70 1 0 0).maskA ≠ 0 ∧
    (on (.vjoin 1 1) (allRan 1 [])).busyA 0 = false := by
  decide

theorem witness_ExitsEndThreads :
    ready [(.vexit, []), (.exit, [])] = true ∧ ready [(.vexit, []), (.exit, [])] (withEntry 1) = true ∧
    ready [(.vexit, []), (.exit, [])] (allRan 1 [groupEntry 1 0x70 0 0 0]) = true ∧ ready [(.vexit, []), (.exit, [])] asRange = true ∧
    ready [(.eret, [])] asHandler = true ∧ (strandOf .exit).caps = none ∧ (strandOf .exit).arrivals = [] ∧
    (tfind (on .exit).wgs 0).isSome = true := by
  decide

/-! ### Routes, blocks, software traps -/

/-- The kernel may hold two blocks, its warp holds `n`, and `o` blocks are reserved. -/
def blocksHeld (n o : Nat) (s : State) : State := { s with
  grids := [(0, { fetchGrid with hdr := { fetchHeader with acqmax := 2, vblk := o } })]
  wgs := [(0, { wgStart 0 0 0 0 0 with warps := [(0, ⟨n, []⟩)] })] }

theorem witness_RoutesAndSmallState :
    ready [(.nop 0x1007, []), (.yield, []), (.route 0 3 3 1 0 63, []), (.route 5 1 0 0 1 0, useS 5), (.part 5, [])] = true ∧
    1 ≤ (strandOf .yield).tile.toNat ∧ (strandOf .yield).tile.toNat ≤ 5 ∧
    ready [(.acq 5 0 1, useS 5), (.acq 5 0 2, useS 5), (.acq 5 1 2, useS 5), (.rel 1, []), (.rel 8, [])] id (blocksHeld 1 0) = true ∧
    ready [(.acq 5 0 2, useS 5), (.acq 5 1 2, useS 5)] id (blocksHeld 1 512) = true ∧
    2 - 1 ≤ (on .yield id (blocksHeld 1 0)).freeBlocks 0 ∧ (on .yield id (blocksHeld 1 512)).freeBlocks 0 < 2 - 1 ∧
    2 ≤ ((on .yield id (blocksHeld 1 0)).gridAt (strandOf .yield)).hdr.acqmax := by
  decide

theorem witness_TrapsAndRetiredOpcodes :
    ready [(.trap 0xFFFF, []), (.brk 0, [])] = true ∧
    (strandOf (.vshflIdx 5)).clauseBreach c0 (.vshflIdx 5) = false ∧ (strandOf (.vshflXor 0)).clauseBreach c0 (.vshflXor 0) = false ∧
    (asRange (strandOf (.vshflUp 0))).constPred 0 ≠ some false := by
  decide

/-! ### Engine commands -/

/-- s4: byte 0 of the slice; s6: outside every region; s20 and after: a tile of one 16-byte row at byte 256. -/
def tileRegs (x : Strand) : Strand := { x with s := [(4, 64), (5, 0x01000000), (6, 0), (7, 0x04000000), (20, 256), (21, 1), (22, 16),
  (24, 0x00010010), (25, 0x00010001)] }

/-- Whether the values of the tile's destination and its arrival word pass. -/
def tileOk : Bool :=
  let i : Instr := .tcopy 4 20 24
  let s := on i tileRegs
  let st := tileRegs (strandOf i)
  (match s.tileDst st (st.sreg 20) 16 with
    | .ok _ => true
    | .error _ => false) &&
  (match s.arrivalReg st (st.sreg 29) with
    | .ok none => true
    | _ => false)

theorem witness_EngineCommands :
    ready [(.tcopy 4 20 24, useS 20 3 ++ useS 4 2 ++ useS 24 6), (.tcopy 6 20 24, useS 20 3 ++ useS 6 2 ++ useS 24 6),
      (.tcopyx 4 20 24 1 16 0 1 0 0 0 0 0x25E, useS 20 3 ++ useS 4 2 ++ useS 24 ++ useS 30), (.mcopy 4 20 24, useS 20 ++ useS 4 2 ++ useS 24 3),
      (.bcopy 4 8 12 3 8 10 14, useS 12 2 ++ useS 4 2 ++ useS 8 2 ++ useS 14 ++ useS 10 2), (.bcopy 6 8 12 3 8 10 14, useS 12 2 ++ useS 6 2 ++ useS 8 2 ++ useS 14 ++ useS 10 2),
      (.chain 4 8 12 0x16 40 1 0, useS 8 2 ++ useS 4 2 ++ useS 12 2 ++ [(2, 41)]), (.redw 4 8 12 0 0 1, useS 4 2 ++ useS 8 ++ useS 12),
      (.redw 4 8 0 4 5 0, useS 4 2 ++ useS 8 2)] tileRegs = true ∧
    (on .exit tileRegs).badRegion (strandOf .exit) 0x0100000000000040 = false ∧
    (on .exit tileRegs).badRegion (strandOf .exit) 0x0400000000000000 = true ∧ tileOk = true := by
  decide

/-- A command of one row that has met a fault, and one that has no row left. -/
theorem witness_EngineRows :
    let e : Engine := { op := 7, uid := 0, wg := 0, core := 0, flag := 1, names := (0, 1), kind := .redw 0 [] 0 0 false 0, next := 1, total := 1
                        arr := none, pc := 0, failed := some (0x10, 5, true) }
    let s := { on .exit with engines := [(8, e)], arg := { a := 8 } }
    tfind s.engines s.arg.a = some e ∧ e.total ≤ e.next ∧ e.arr = none ∧ (strandOf .exit).block = .none ∧ s.home.words = [] := by
  decide

/-! ### The matrix engine -/

/-- s4: a scaled A record's offset, s5 its length, s6 its scales' offset, s8: warps 0 and 1. -/
def obRegs (x : Strand) : Strand := { x with s := [(4, 0), (5, 4096), (8, 0x3)] }

def twoWarps (s : State) : State := { s with
  grids := [(0, { fetchGrid with levels := [⟨64, 0, 0⟩, ⟨1, 0, 4⟩], hdr := { fetchHeader with obuf := 0x20000 } })] }

/-- The crew register names warp 0 of the gang, or nobody. -/
def crewOf (v : DWord) (s : State) : State := { s with wgs := [(0, { wgStart 0 0 0 0 0 with crew := v, warps := [(0, ⟨8, []⟩)] })] }

theorem witness_ReservationsAndCrews :
    ready [(.obres 4 5 0 3 0 3 0 0 0 0, useS 4 ++ useS 5), (.obrel 5, useS 5), (.crew 8, useS 8 2), (.crew 6, useS 6 2)] obRegs twoWarps = true ∧
    ((on .exit obRegs twoWarps).recKey 0 3).isSome = true ∧ (on .exit obRegs twoWarps).handleBusy 0 3 = false ∧
    (ObRec.mk true 0 3 0 false false 0 0 4096 0).unit = 4096 ∧
    ready [(.mma 5 1 2 3, useS 5), (.mmaRs 5 8 12 1 2 3 0 0xE4, useS 5 ++ rselUse 8 0xE4 ++ rselUse 12 0xE4),
      (.mmaSs 5 8 12 1 2 3, useS 5 ++ useS 8 2 ++ useS 12), (.mmas 5 8 1 2 3, useS 5 ++ useS 8 2), (.mman 5 0 0 0 1 2 3 0 0, useS 5),
      (.mman 5 8 12 1 1 2 3 0 0, useS 5 ++ rselUse 8 0 ++ rselUse 12 0), (.salient 5 1 2 3, useS 5), (.accz 5, useS 5)] obRegs (crewOf 1) = true ∧
    ready [(.mma 5 1 2 3, useS 5)] obRegs = true ∧
    (crewNames 1).contains (0, 0) = true ∧ (crewNames 0).contains (0, 0) = false ∧
    ready [(.accrd 5 6 8, useV 8 8 ++ useS 5 ++ useS 6)] obRegs = true ∧
    ready [(.accrd 5 6 8, useV 8 8 ++ useS 5 ++ useS 6)] asRange = true := by
  decide

/-- The state in which the strand waits for the acceptance of `i`, with these records of handles: V, KIND, FMT, LEN, OFF. -/
def asking (i : Instr) (b : Block) (recs : List (Nat × ObRec)) : State :=
  let s := on i (fun x => { x with block := b, pc := 0x10004, s := [(9, 1)] }) twoWarps
  { s with mem := recs.foldl (fun m r => mwrite m ((s.recKey 0 r.1).getD 0) (leBytes 16 r.2.toNat)) s.mem }

def recA : ObRec := ⟨true, 0, 3, 0, false, false, 0, 0, 4096, 0⟩
def recB : ObRec := ⟨true, 1, 3, 0, false, false, 0, 0, 4096, 0x1000⟩
def recC : ObRec := ⟨true, 2, 7, 0, false, false, 0, 0, 65536, 0x2000⟩

def recS : ObRec := ⟨true, 3, 3, 0, false, false, 0, 0, 4096, 0x20000⟩

/-- The strand that waits in `asking`. -/
def lead (i : Instr) : Strand := { strandOf i with block := .crew 1, pc := 0x10004, s := [(9, 1)] }

theorem witness_RequestsAreAccepted :
    (let s := asking (.accz 9) .accept [(1, recC)]
     tfind s.strands 0 ≠ none ∧ (s.obRec 0 1).v = true ∧ (s.obRec 0 1).kind = 2 ∧ s.mxeRoom 0 = true) ∧
    (let s := asking (.salient 9 0 1 2) .accept [(0, recA), (1, recA), (2, recS)]
     s.salientCheck (.salient 9 0 1 2) 0 1 = true ∧ s.mxeRoom 0 = true) ∧
    (let s := asking (.mma 9 0 1 2) (.crew 1) []
     s.acceptCheck (.mma 9 0 1 2) 0 1 0 0 ≠ none ∧ s.latchClosed (lead (.mma 9 0 1 2)) (s.latch (lead (.mma 9 0 1 2))) = true) ∧
    (let s := asking (.mma 9 0 1 2) (.crew 3) []
     s.latchClosed { lead (.mma 9 0 1 2) with block := .crew 3 } (s.latch { lead (.mma 9 0 1 2) with block := .crew 3 }) = false) := by
  decide

/-- A crew of one warp at a latch that is closed, all of whose checks pass. -/
theorem witness_CrewReady : CrewReady (asking (.mma 9 0 1 2) (.crew 1) [(0, recA), (1, recB), (2, recC)]) 0 (.mma 9 0 1 2)
    (lead (.mma 9 0 1 2)) [0] 1 := by
  refine ⟨by decide, by decide, lead (.mma 9 0 1 2), 0, 0, 9, 0, 0, by decide, by decide, by decide, by decide, by decide, by decide,
    by decide, by decide, by decide, by decide, ⟨by decide, by decide, by decide, by decide, by decide, nofun⟩, nofun⟩

/-! ### Passes, capsules, pools, barriers, control registers -/

/-- A request of workgroup 0 in its quad's table, and the pass under way of it. -/
def request (i : Instr) (running : Tab (Nat × Nat)) (s : State) : State := { s with
  sched := { s.sched with
    running := running
    mxe := [(9, { wg := 0, op := 7, word := (encode i).headD 0, inl := (encode i).getD 1 0, passw := 1, done := 0, total := 1, addr := 64
                  sbytes := 0, leader := 0, uid := 0, pc := 0, acceptTick := 0, order := 0, lastGrant := none, dense := false })] } }

theorem witness_PassesWriteTheAccumulators :
    (let s := on .exit id (request (.accz 9) [])
     tfind s.sched.running s.arg.a = none ∧ s.sched.mxe.length = 1 ∧ quadOf (s.wgOf 0).core = s.arg.a ∧
     (s.gridOf (s.wgOf 0).grid).st = .live ∧ s.gangSt 0 = .resident) ∧
    (let s := on .exit id (request (.accz 9) [(0, (9, 0))])
     tfind s.sched.running s.arg.a = some (9, 0) ∧ 0 ≤ s.mod.clock ∧ s.home.words = [] ∧
     (tfind s.sched.mxe 9).map (·.instr) = some (.accz 9)) ∧
    ((tfind (on .exit id (request (.mma 9 0 1 2) [(0, (9, 0))])).sched.mxe 9).map (·.instr) = some (.mma 9 0 1 2)) := by
  decide

/-- The pairs s4, s6 and s8 name the record, the reply block and the exit of a capsule in the slice. -/
def capsRegs (x : Strand) : Strand := { x with s := [(4, 0), (5, 0x01000000), (6, 64), (7, 0x01000000), (58, 128), (59, 0x01000000)] }

/-- Inside a capsule whose record lies at byte 0 of the slice. -/
def inCapsule (x : Strand) : Strand := { capsRegs x with caps := some ⟨0x0100000000000000, sKey 0, 0x0100000000000040, 0, false, 5, 0, 0, 0, [], 5,
  false, [], 0, none⟩ }

/-- The record's STATE and TOKEN. -/
def recordOf (state token : Nat) (s : State) : State := { s with mem := mwrite [] (sKey 0) (leBytes 8 (state * 2 ^ 62 + token)) }

/-- Where an access of a capsule instruction goes. -/
def capsGoes (acc : Acc) (addr : DWord) (n : Nat) : Nat × Nat :=
  match (on .exit).capsPlace (strandOf .exit) acc addr n with
  | .ok k => (0, k)
  | .error c => (1, c)

theorem witness_CapsuleInstructions :
    ready [(.capb 4 6 8, useS 4 2 ++ useS 6 2 ++ useS 8 2)] capsRegs = true ∧
    ready [(.capeStep, []), (.capeEnd, []), (.sld 58 58 4 0, useS 58 ++ useS 58 2), (.sst 60 58 4 0, useS 58 2 ++ useS 60)] inCapsule = true ∧
    capsGoes (.atomic true) 0x0100000000000000 64 = (0, sKey 0) ∧ capsGoes .write 0x0100000000000040 8 = (0, sKey 64) ∧
    sKey 0 + 64 ≤ sKey 64 + 32 ∧
    (capsRead (on .exit).mem (sKey 0)).state = 0 ∧ (capsRead (on .exit id (recordOf 1 5)).mem (sKey 0)).state = 1 ∧
    (capsRead (on .exit id (recordOf 1 5)).mem (sKey 0)).token = 5 ∧ (capsRead (on .exit id (recordOf 3 5)).mem (sKey 0)).state = 3 ∧
    (on .exit).sameHome (sKey 128) (sKey 0) = true ∧ (on .exit).sameHome 0 (sKey 0) = false ∧
    (on .exit).home.writes = [] ∧ (on .exit).home.words = [] := by
  decide

/-- The state after firmware's boot. -/
def boot (s : State) : State :=
  match exec .firmwareBoot (s.setMod fun m => { m with booted := false }) with
  | .next t => t
  | _ => s

/-- Page 1 of context 1 is device memory from 0x10000 on, with W, and page 2 the same without, in the translator's cache. -/
def page1 (s : State) : State := (boot s).setHome fun h => { h with tlb := [(1, 1, 0x8018000000010000, 16), (1, 2, 0x8010000000010000, 16)] }

theorem witness_ElementChecks :
    let s := on .exit id page1
    s.cached 1 0x10008 = some (0x8018000000010000, 16) ∧ s.cached 1 0x2FFF8 = some (0x8010000000010000, 16) ∧
    pteW 0x8018000000010000 = true ∧ pteW 0x8010000000010000 = false ∧ pteTarget 0x8018000000010000 = 0 ∧ s.home.poison = [] ∧
    pteAddr 0x8018000000010000 + 0x1FFF8 % 2 ^ 16 + 8 ≤ s.memTop := by
  decide

/-- The crew instruction MMAS of a tile without a nonzero element whose descriptor and bitmap lie in page 1. -/
def emptyTile : State × Strand :=
  let f := fun x : Strand => { lead (.mmas 9 4 0 1 2) with kind := x.kind, s := [(4, 0x10000), (9, 1)] }
  let s := page1 (asking (.mmas 9 4 0 1 2) (.crew 1) [(0, recA), (1, recB), (2, recC)])
  let st := f (strandOf .exit)
  ({ s with
     strands := [(0, st)]
     mem := mwrite s.mem 0x10000 (leBytes 8 0x10200 ++ leBytes 8 0x11000 ++ leBytes 4 0 ++ [3, 0] ++ leBytes 2 1) }, st)

set_option maxRecDepth 20000 in
theorem witness_EmptyTile :
    let s := emptyTile.1
    let y := s.publish.tileMisses (.strand 0) 0 (emptyTile.2.dreg 4)
    (match y.tileGet (.strand 0) 0 (s.obRec 0 0) (emptyTile.2.dreg 4) with
     | .ok d m => !tileDense (Tile.ofBytes d) m
     | _ => false) = true ∧ s.latchClosed emptyTile.2 (s.latch emptyTile.2) = true ∧ s.mxeRoom 0 = true ∧
      s.home.words = [] ∧ s.acceptCheck (.mmas 9 4 0 1 2) 0 1 (emptyTile.2.dreg 4) 0 = none := by
  decide

/-- s4: a pool or launch record at byte 0 of page 1. -/
def pageRegs (x : Strand) : Strand := { x with s := [(4, 0x10000)] }

/-- Where the element of a pool's descriptor goes. -/
def poolGoes : Nat × Nat :=
  match (on .exit id page1).resolve 0 ⟨1, some 0⟩ (.atomic true) 0x10000 64 with
  | .ok (.loc k) => (0, k)
  | .error (.cls c) => (1, c)
  | _ => (2, 0)

/-- A pool with room for 16 entries in page 1, and what the strand finds there: the key and the fields of the descriptor,
and the place of the entry at TAIL. -/
def poolFound : Option (Nat × Pool × Option Nat) :=
  let s := { on (.poolp 4 16 9) pageRegs page1 with
    mem := mwrite [] 0x10000 (leBytes 8 0x18000 ++ leBytes 4 4 ++ leBytes 4 1 ++ leBytes 8 2 ++ leBytes 8 3) }
  let st := pageRegs (strandOf (.poolp 4 16 9))
  match s.poolPlace st (st.dreg 4) with
  | .ok (k, p) => some (k, p, match s.resolve 0 (s.who st) .write (p.entry p.tail) 32 with
    | .ok (.loc e) => some e
    | _ => none)
  | .error _ => none

/-- A LAUNCH record whose fields are all 0 but KIND, in a kernel that may launch: it is found, and rejected. -/
def launchFound : Bool :=
  let s := { on (.launch 4 9) pageRegs page1 with mem := mwrite [] 0x10000 (leBytes 8 (2 ^ 60)) }
  let st := pageRegs (strandOf (.launch 4 9))
  match s.launchPlace st (st.dreg 4) with
  | .ok b => match ((s.begun c0).accept (.strand 0) 1 none (some 0) 0 0 none (Rec.ofBytes b)).2 with
    | .rejected => true
    | _ => false
  | .error _ => false

theorem witness_PoolsAndLaunch :
    ready [(.poolp 4 16 9, useS 4 2 ++ useS 16 8 ++ useS 9), (.poold 4 16 9, useS 4 2 ++ useS 16 8 ++ useS 9),
      (.launch 4 9, useS 4 2 ++ useS 9)] pageRegs page1 = true ∧
    (poolRead (mwrite [] 0x20000 (leBytes 8 0x3000 ++ leBytes 4 4 ++ leBytes 4 1 ++ leBytes 8 2 ++ leBytes 8 3)) 0x20000).map
      (fun p => (p.ring, p.caps, p.open_, p.head, p.tail)) = some (0x3000, 4, 1, 2, 3) ∧
    poolGoes = (0, 0x10000) ∧ poolFound.map (fun x => (x.1, x.2.1.tail, x.2.2)) = some (0x10000, 3, some 0x18060) ∧
    launchFound = true ∧ ((on .exit).gridAt (strandOf .exit)).hdr.flags.getLsbD 0 = false ∧ (on .exit).launched 1 = 0 := by
  decide

/-- A second strand of the workgroup that has arrived at barrier 0 in generation 0, or has not. -/
def sibling (arrived : Bool) (s : State) : State := { s with strands := s.strands ++
  [(1, { strandOf .exit with kind := .lane 1 1, arrivals := if arrived then [⟨⟨1, 0, 0, 0⟩, 0, 1⟩] else [] })] }

theorem witness_BarriersAndFence :
    ready [(.bara 1 0, []), (.barw 1 15, []), (.bars 1 0, []), (.bara 4 3, []), (.bars 0 15, []), (.fence 1 6, []), (.fence 2 0, []),
      (.fence 3 4, [])] = true ∧
    (let s := on (.bars 1 0)
     (s.gridAt (strandOf .exit)).hdr.declared 1 = 16 ∧ (s.gridAt (strandOf .exit)).hdr.declared 4 = 0 ∧
     s.pendingAt (strandOf .exit) (s.barKeys (strandOf .exit) 1 0) = [] ∧ (strandOf .exit).asBarw = false ∧
     s.home.writes = [] ∧ s.home.words = []) ∧
    (let f := fun x : Strand => { x with arrivals := [⟨⟨1, 0, 0, 0⟩, 0, 1⟩] }
     (on (.barw 1 0) f).pendingAt (f (strandOf (.barw 1 0))) [⟨1, 0, 0, 0⟩] ≠ []) ∧
    (((on (.bars 1 0) id (sibling true)).strands.map (·.1)).Nodup ∧
      (tfind (on (.bars 1 0) id (sibling true)).strands 1).map (·.hasArrived ⟨1, 0, 0, 0⟩ 0) = some true ∧
      (tfind (on (.bars 1 0) id (sibling false)).strands 1).map (·.hasArrived ⟨1, 0, 0, 0⟩ 0) = some false) := by
  decide

/-- The workgroup has a timer vector, a trace buffer in the slice, and the grid a predecessor in state `p`. -/
def equipped (p : Option GridSt) (s : State) : State := { s with
  wgs := [(0, { wgStart 0 0 0 0 0 with tmvec := 0x4000, trbase := 0x0100000000000000, warps := [(0, ⟨8, []⟩)] })]
  grids := [(0, { fetchGrid with pred := p.map fun _ => 7 }), (7, { fetchGrid with st := p.getD .live })] }

theorem witness_ControlRegisters :
    ready [(.csrr 4 0, useS 4 2), (.csrr 4 0x13F, useS 4 2), (.csrr 4 0x400, useS 4 2), (.csrw 4 0x008, useS 4 2), (.csrw 4 0x090, useS 4 2),
      (.csrw 4 0x020, useS 4 2), (.tick 4, useS 4 2), (.sleep 4, useS 4), (.sleep 5, useS 5), (.tmarm 4, useS 4),
      (.trace 4 6 1023, useS 4 2 ++ useS 6 2), (.succ, []), (.waitpred, [])] sInSlice = true ∧
    ready [(.csrr 4 0x400, useS 4 2), (.csrr 4 0x5FF, useS 4 2), (.csrw 4 0x090, useS 4 2)] asHandler = true ∧
    csrHandler 0x400 = true ∧ csrHandler 0x13F = false ∧
    ready [(.tmarm 4, useS 4), (.trace 4 6 1, useS 4 2 ++ useS 6 2)] id (equipped none) = true ∧
    ready [(.waitpred, [])] id (equipped (some .live)) = true ∧ ready [(.waitpred, [])] id (equipped (some (.done 0))) = true ∧
    ((on .waitpred id (equipped (some (.done 2)))).gridAt (strandOf .exit)).pred = some 7 ∧
    ((on .waitpred id (equipped (some (.done 2)))).gridOf 7).st = .done 2 := by
  decide

/-! ### Other agents -/

/-- The state after reset with what an operation acts on. -/
def given (a : Arg) (f : State → State := id) : State := { f State.reset with arg := a }

theorem witness_ModuleEvents :
    (let b := State.reset.mod.image
     State.reset.mod.booted = false ∧ State.reset.mod.failedBoot = false ∧ b.quads.length = 4 ∧ b.ports.length = 4 ∧
     192 ≤ (b.quads.map popcount).foldl (· + ·) 0 ∧ 88 ≤ b.channels ∧ b.channels ≤ 96 ∧ 48 ≤ (b.ports.map popcount).foldl (· + ·) 0) ∧
    115 ≤ (sensed (given { nats := [0, 115] })).getD 1 0 ∧ (given {} fun s => s.setMod fun m => { m with booted := true }).mod.fatal = false ∧
    (given { a := 0, ok := true } fun s => s).mod.stopTick = none ∧ (given { v := 1 }).mod.tick.toNat < (1 : DWord).toNat ∧
    0 < (boot State.reset).memTop := by
  decide

/-- Port 0 with these fields. -/
def port0 (f : Port → Port) (s : State) : State := s.updPort 0 f

def up (x : Port) : Port := { x with st := 2 }
def flit5 : Flit := { seq := 5, vc := 0, beats := [1], owners := [] }

theorem witness_LinkEvents :
    ((given {}).port 0).st = 1 ∧ ((given {} (port0 up)).port 0).st = 2 ∧
    ((given {} (port0 fun x => { up x with resend := [flit5] })).port 0).resend = [flit5] ∧
    (let x := (given {} (port0 fun x => { up x with txq := [(0, Msg.none)] })).port 0
     x.st = 2 ∧ x.resend = [] ∧ x.unacked.length < 512 ∧ x.peerPause = 0 ∧ x.txRest = [] ∧ x.txq ≠ [] ∧ x.sameReplay < 7) ∧
    (let x := (given {} (port0 up)).port 0
     x.occ 0 < tget x.size 0 256 ∧ x.rxSeq = 0) ∧
    (let s := given {} fun s => (port0 (fun x => { up x with unacked := [flit5], retrainTicks := [1, 2, 3] }) s).setMod fun m =>
       { m with tick := 70000 }
     (s.port 0).unacked ≠ [] ∧ (s.port 0).lastAck + 65536 ≤ s.mod.tick.toNat ∧
     3 ≤ ((s.port 0).retrainTicks.filter fun r => decide (s.mod.tick.toNat < r + 2 ^ 30)).length ∧ flit5.owners = []) ∧
    ((given {} (port0 fun x => { x with st := 0 })).port 0).st = 0 ∧ (given {}).master = false ∧ (given {}).ctxs = [] ∧
    ((given {} (port0 fun x => { x with roundTrip := some 4 })).port 0).roundTrip.isSome = true ∧
    (given {} fun s => s.setMod fun m => { m with twcfg := 0xFFFFFFFFFFFFFFFF }).master = true := by
  decide

/-- A request of module 2 for `n` bytes at domain address 64, with data. -/
def msg (n : Nat) (aop : BitVec 8) (data : List Byte) : Msg := { Msg.none with smod := 2, bytes := n, tag := 5, aop := aop, addr := 64, data := data }

/-- A request of this module that has no answer. -/
def req (retry : Option Nat) : Req := ⟨.strand 0, 0, 0, msg 4 0 [], 0, 0, some 0, retry⟩

/-- Window 0: enabled, indexed, 32-bit sums, NCONTRIB 3; `e` is the element at offset 0. -/
def win (e : Elem) : Window := { base := 0, ctl := 0xC800000000300001, failed := false, elems := [(0, e)] }

/-- A booted module with this message, windows and requests. -/
def served (m : Msg) (f : Fabric → Fabric := id) : State := given { msg := m } fun s => (boot s).setFab f

theorem witness_MessagesAreServed :
    (let s := served (msg 4 0 [1, 2, 3, 4])
     64 + 4 ≤ s.memTop ∧ s.confOf 64 = none ∧ s.windowFailed 64 = false ∧ s.home.words = [] ∧ s.poisoned 64 4 = false ∧
     redBad 0 0 = false ∧ s.windowAt s.modnum 64 = none ∧ 64 % 4 = 0) ∧
    (served (msg 256 0 [])).memTop < 2 ^ 40 - 1 + 256 ∧
    (let w := win ⟨1, []⟩
     w.failed = false ∧ w.idx = true ∧ w.en = true ∧ w.ncontrib = 3 ∧ w.ty = 2 ∧ w.op = 0 ∧ redBad 2 0 = false) ∧
    (tfind (served (msg 4 0 []) fun f => { f with reqs := [(5, req none)] }).fab.reqs 5).isSome = true ∧
    (tfind (served (msg 4 0 []) fun f => { f with reqs := [(5, req (some 0))] }).fab.reqs 5).map (·.retryAt) = some (some 0) ∧
    (served (msg 4 0 []) fun f => { f with ports := [(0, up portReset)] }).upPorts 0 = [0] ∧
    (let s := served (msg 8 0 (leBytes 8 32)) fun f => { f with dbar := [(0, 0x8000010000000000)] }
     leNat s.arg.msg.data / 32 % 2 = 1 ∧ s.gen ⟨5, 0, 0, 0⟩ % 2 = 0 ∧ dbarEn (s.dbar 0) = true ∧ dbarRoot (s.dbar 0) = s.modnum ∧
     0 < dbarNmod (s.dbar 0)) ∧
    (win ⟨1, [(0, 2, [], 0)]⟩).firstHeld = some 0 ∧ (win ⟨1, [(0, 2, [], 0)]⟩).timeout = 1 ∧
    (given {}).windowBad 0 (win ⟨1, []⟩) = false ∧ (given {}).windowBad 0 { win ⟨1, []⟩ with ctl := 0xD400000000000000 } = true ∧
    (given {}).barrierUsed 0 = false := by
  decide

/-- MBCMD's value for a command, and the request bytes. -/
def command (op len : Nat) (bytes : List Byte) (f : State → State := id) : State :=
  given { v := BitVec.ofNat 64 (len * 2 ^ 32 + op) } fun s => f (s.setHost fun h => { h with mbdata := (bytes.zipIdx).map fun x => (x.2, x.1) })

theorem witness_MailboxCommands :
    (∀ x ∈ ([(1, 71), (2, 1), (3, 15), (4, 33), (5, 7), (6, 15), (7, 1), (1, 257)] : List (Nat × Nat)),
      let s := command x.1 x.2 []
      (s.arg.v.extractLsb' 0 16).toNat = x.1 ∧ s.host.mbPending = none ∧ (s.arg.v.extractLsb' 32 9).toNat = x.2) ∧
    (onlyNamed ((command 2 2 [1, 0]).mbBytes.take 2) [(0, 2)] = true ∧ field (command 2 2 [1, 0]) 0 2 = 1) ∧
    (field (command 3 16 [5, 0, 0, 0]) 0 2 = 5 ∧ onlyNamed ((command 3 16 [5, 0, 0, 0]).mbBytes.take 16) [(0, 4), (8, 8)] = true ∧
      ((command 3 16 [5]).queue 5).en = false) ∧
    (command 1 72 []).freeCtx = some 1 ∧ field (command 1 72 (List.replicate 48 0 ++ [6])) 48 2 = 6 ∧
    (tfind (command 7 2 [1, 0] fun s => { s with ctxs := [(1, ctxNone)] }).ctxs 1).isSome = true ∧
    (command 7 2 [1, 0]).gangsLeft 1 = false ∧
    (on .exit).gangsLeft 1 = true := by
  decide

theorem witness_HostRegisters :
    (let s := given { v := 0x0000000010000000 } boot
     s.arg.v.extractLsb' 40 24 = 0 ∧ s.arg.v.extractLsb' 0 28 = 0) ∧
    (given {} boot).host.barwin.toNat + 8 ≤ (given {} boot).memTop ∧ (given {} boot).ctxs = [] ∧
    (let x := { (given {}).queue 3 with prod := 5, cons := 4, logsz := 4 }
     (x.prod - x.cons).toNat ≤ ((20 : BitVec 32) - x.cons).toNat ∧ ((20 : BitVec 32) - x.cons).toNat ≤ 2 ^ x.logsz ∧
     2 ^ x.logsz < ((21 : BitVec 32) - x.cons).toNat) := by
  decide

/-- A queue in host memory with one record: its first 8 bytes are `w`. -/
def queued (w : Nat) (waits : List QWait) : State := given { a := 3 } fun s =>
  { s with
    mem := mwrite [] (hostKey 0) (leBytes 8 w)
    host := { s.host with queues := [(3, { queueReset with en := true, host := true, ctx := 1, logsz := 4, prod := 1, waits := waits })] } }

def aWait (isync : Bool) (grids : List Nat) : QWait := ⟨isync, 1, grids, 0, 0, 0, none⟩

/-- KIND of the record that the headframe reads next. -/
def recordKind (s : State) : Option Nat :=
  match s.nextRecord 3 with
  | some (.data b) => some (Rec.ofBytes b).kind
  | _ => none

theorem witness_QueueRecords :
    (queued 0 []).mod.failedBoot = false ∧
    recordKind (queued (1 * 2 ^ 60) []) = some 1 ∧ recordKind (queued (2 * 2 ^ 60) []) = some 2 ∧
    recordKind (queued (3 * 2 ^ 60) []) = some 3 ∧ recordKind (queued (4 * 2 ^ 60) []) = some 4 ∧
    (let r := Rec.ofBytes (leBytes 8 (2 * 2 ^ 60) ++ List.replicate 56 0)
     r.shortOk = true ∧ r.ok 0 = false ∧ r.dep = false ∧ r.vector = none ∧ r.compaddr = 0) ∧
    (((queued 0 []).setHost fun h => { h with hostRefused := [0] }).nextRecord 3) = some .fails ∧
    (queued 0 [aWait false []]).waitOver (aWait false []) = true ∧ ((queued 0 [aWait true []]).queue 3).waits = [aWait true []] ∧
    (on .exit).waitOver (aWait true [0]) = false ∧ ((queued 0 []).queue 3).wb = 0 := by
  decide

/-- Gang 0 of grid 0 in a state. -/
def gangIs (x : GangSt) (s : State) : State :=
  { s with grids := [(0, { fetchGrid with gangs := [(0, { st := x, quad := 0, placed := 0, since := 0, reqTick := 0, members := [0] })] })] }

/-- Context areas have not been set apart. -/
def noArea (s : State) : State := { s with grids := tmap s.grids fun _ g => { g with area := none } }

/-- Nothing stops the save and the restore of gang 0, which is the one that comes back. -/
theorem witness_SaveAndRestore :
    ((on .exit id fun s => noArea (gangIs .saving s)).updGang 0 0 fun y => { y with since := 0 }).saveStops [0] = [] ∧
    (let s := on .exit id fun s => noArea (gangIs .out s)
     s.nextMove.1.map (fun x => (x.1.grid, x.1.gang, x.1.back)) = some (0, 0, true) ∧ s.candUnit ⟨0, 0, 0, true⟩ = [0] ∧
     (s.backHeads [0]).backStops [0] = [] ∧ ((s.backHeads [0]).wgOf 0).dirty = false) := by
  decide

theorem witness_GangEvents :
    (tfind (on .exit).grids 0).isSome = true ∧ ({ fetchHeader with flags := 2 } : Header).rangeStart = true ∧
    (on .exit id (gangIs .resident)).unitOf 0 0 = [0] ∧ (on .exit id (gangIs .resident)).gangAlive ⟨.resident, 0, 0, 0, 0, [0]⟩ = true ∧
    ((on .exit id (gangIs .halting)).gang 0 0).map (·.st) = some .halting ∧
    ((on .exit id (gangIs .saving)).gang 0 0).map (·.st) = some .saving ∧ (on .exit).engines = [] ∧ (on .exit).sched.running = [] ∧
    (on .exit).cands = [] ∧ (on .exit).nextMove.1.isNone = true ∧ (on .exit).sched.head = none ∧
    (on .exit).exchange 0 false = none ∧ (on .exit).gangSt 0 = .resident ∧
    ({ on .exit with strands := [] }).quiet 0 = true ∧ (on .exit).quiet 0 = false ∧ ((on .exit).wgOf 0).drained = false := by
  decide

/-- The strand in a block. -/
def blocked (b : Block) (x : Strand) : Strand := { x with block := b }

/-- A stub of context 1. -/
def stubbed (x : Stub) (s : State) : State := { s with ctxs := [(1, { ctxNone with stubs := [(0x40, x)] })], arg := { a := 1, b := 0x40 } }

theorem witness_FaultsAreResolved :
    (on .exit (blocked (.parked 0x12 1 0x10000 0))).resolved (blocked (.parked 0x12 1 0x10000 0) (strandOf .exit)) = true ∧
    (on .exit (blocked (.parked 0x13 1 0x10000 0))).resolved (blocked (.parked 0x13 1 0x10000 0) (strandOf .exit)) = true ∧
    ((on .exit (blocked (.parked 0x13 1 0x10000 0))).setHost fun h => { h with fsrOpen := [⟨4, 1, 1, fsKind 0, 0⟩] }).resolved
      (blocked (.parked 0x13 1 0x10000 0) (strandOf .exit)) = false ∧
    (on .exit).cached 1 0x10000 = none ∧ (tget (on .exit).home.misses 0 []).length < 2048 ∧
    ((on .exit).strands.map (·.1)).Nodup ∧ (strandOf .exit).caps = none ∧
    (blocked (.parked 0x19 1 0x50000 0) (strandOf .exit)).parkedOn 0x19 1 5 = true ∧
    tfind ((on .exit id (stubbed ⟨0, 0, 0, 0, none, false⟩)).ctxOf 1).stubs 0x40 = some ⟨0, 0, 0, 0, none, false⟩ ∧
    (on .exit id (stubbed ⟨0, 0, 0, 0, none, false⟩)).headTry (ctxAsker 1) 1 0 0 = .data [] ∧ (on .exit id (stubbed ⟨0, 0, 0, 0, none, false⟩)).translating = false ∧
    regionsOk 0 [] = true ∧
    tfind ((on .exit id (stubbed ⟨0, 0, 0, 0, some 0x80, false⟩)).ctxOf 1).stubs 0x40 = some ⟨0, 0, 0, 0, some 0x80, false⟩ ∧
    (on .exit).chunkOf 0 1 = none ∧ ((on .exit).ctxOf 1).replays = false := by
  decide

/-- The strand waits in `b`; its group is entry 0 of its stack. -/
def waits (b : Block) : State := on .exit fun x => withEntry 0 (blocked b x)

/-- The strand's clause waits for flag 0. -/
def atFlag0 (x : Strand) : Strand := { x with clause := x.clause.map fun k => { k with wait := 1 } }

/-- Lanes 0 to 3 loaded with run-ahead window 1, and lane 3 alone has no element yet after 16 clocks. -/
def runAhead : State := on .exit atFlag0 fun s => { s.setMod fun m => { m with clock := 16 } with ops := [(7,
  { flag := 0, setB := false, holders := [0], wg := 0, warp := 0, dstV := [9], dstS := [], res := [(3, 9, 1)], sres := [], external := false
    ahead := some ⟨1, 1, 0xF⟩ })] }

theorem witness_WaitsEnd :
    (tfind (waits (.await (sKey 0) 0 (some 0) 9)).strands 0).map (·.block) = some (.await (sKey 0) 0 (some 0) 9) ∧
    (waits (.sleep 0)).gangSt 0 = .resident ∧ 0 ≤ (waits (.sleep 0)).mod.tick.toNat ∧ (waits (.sleep 1)).mod.tick.toNat < 1 ∧
    (waits (.acq 8 9 0)).blocks (strandOf .exit) = 8 ∧
    (let s := (waits (.crew 3)).setMod fun m => { m with tick := 5 }
     (strandOf .exit).waitTick + (s.ctxOf (s.ctxNo (strandOf .exit))).waitLim < s.mod.tick.toNat) ∧
    (let s := { on .exit with wgs := [(0, { wgStart 0 0 0 0 0 with tmexp := 1, tmvec := 64, warps := [(0, ⟨8, []⟩)] })] }
     (s.wgOf 0).tmexp ≠ 0 ∧ (tget s.cores 0 coreReset).expired = [] ∧ s.handlerFree 0 = true ∧
     ({ s with strands := [(0, asHandler (strandOf .exit))] }).handlerFree 0 = false) ∧
    (tfind (on .exit (blocked (.emulate 5 9 1 [7]))).strands 0).map (·.block) = some (.emulate 5 9 1 [7]) ∧
    (tfind (on .exit id (copying none)).copies 0).isSome = true ∧
    (on .exit fun x => asRange (blocked .expand x)).pieceSlot (asRange (blocked .expand (strandOf .exit))) true =
      some ((false, false), true) ∧ (on .exit fun x => asRange (blocked .expand x)).spilled 0 = [] ∧
    ((on .exit fun x => asRange (blocked .expand x)).gangSt 0 = .resident) ∧
    (tfind ((on .exit asRange).wgOf 0).warps 0).isSome = true ∧
    (waits (.join (some 0x70) 1 0 false 0)).busyA 0 = false ∧
    runAhead.aheadSplit 0 (atFlag0 (strandOf .exit)) = some (0, 1, 8) ∧ runAhead.spilled 0 = [] ∧
    runAhead.slotFor 0 false false ≠ none ∧ (on .exit).aheadSplit 0 (strandOf .exit) = none := by
  decide

/-- The fetch of a clause: a header, and the words after it, in the instruction cache. -/
theorem witness_ClauseFetchReadsMemory :
    (let s := { on .exit (fun x => { x with clause := none, pc := 0x20000 }) with
       home := { (on .exit).home with icache := [(1, 0x20000, 0xF0000000), (1, 0x20004, 0xC6000000)] }, arg := { a := 0 } }
     (tfind s.strands 0).map (fun x => (x.clause, x.block, x.pc)) = some (none, .none, 0x20000) ∧ isHeader 0xF0000000 = true ∧
     (0xF0000000 : Word).extractLsb' 0 3 = 0) ∧
    ((on .exit).home.icache.find? fun e => e.1 == 1 && e.2.1 == 0x10000) = none := by
  decide

end Sys2Proof.Tests
end

section
/-! SUPPORT. Software traps and the retired opcodes (R8, R184, R189, R196 to R198). -/

namespace Sys2Proof.Machine

/-- TRAP past the gate takes class 0x0C with its code as AUX (R184). -/
theorem exec_trap_pass {s : State} {c : Issue} {st : Strand} {code : BitVec 16} (h : s.Issues c st (.trap code) []) :
    exec (.trap code) s = .next (s.trapped c { cls := 0x0C, addr := code.setWidth 64, pc := some c.pc }) := by
  obtain ⟨hc, hs, hg⟩ := h
  rw [exec_trap, execTrap, issue_pass hc hs hg]
  rfl

/-- BRK past the gate takes class 0x0D with its code as AUX (R184). -/
theorem exec_brk_pass {s : State} {c : Issue} {st : Strand} {code : BitVec 16} (h : s.Issues c st (.brk code) []) :
    exec (.brk code) s = .next (s.trapped c { cls := 0x0D, addr := code.setWidth 64, pc := some c.pc }) := by
  obtain ⟨hc, hs, hg⟩ := h
  rw [exec_brk, execBrk, issue_pass hc hs hg]
  rfl

section retired
variable {s : State} {c : Issue} {st : Strand} {i : Instr} (hc : s.cur = some c) (hs : tfind s.strands c.uid = some st)
  (hb : st.clauseBreach c i = false)
include hc hs hb

/-- A retired opcode on a lane strand, inside its clause (R196, R198). -/
theorem retiredOp_lane {w : Nat} {m : BitVec 32} (hk : st.kind = .lane w m) :
    retiredOp i s = .next (if Config.emulDefined ((encode i).headD 0) then
        ((s.begun c).takeEmulation c.uid ((encode i).headD 0) (m &&& st.kmask c.pred.toNat)).ended
      else s.trapped c { cls := 0x0B, pc := some c.pc }) := by
  have hhandler : st.isHandler = false := by simp [Strand.isHandler, hk]
  have hrange : st.isRange = false := by simp [Strand.isRange, hk]
  have hactive : st.active c.pred.toNat = m &&& st.kmask c.pred.toNat := by simp [Strand.active, Strand.mask, hk]
  cases hd : Config.emulDefined ((encode i).headD 0) <;>
    · simp only [retiredOp, hc, hs, hb, hhandler, hrange, hactive, hd]
      rfl

/-- A retired opcode on a range strand, inside its clause, expands it first (R198, R226). -/
theorem retiredOp_range {lo n : Nat} (hk : st.kind = .range lo n) :
    retiredOp i s = .next ((s.begun c).expandStrand c.uid).ended := by
  have hhandler : st.isHandler = false := by simp [Strand.isHandler, hk]
  have hrange : st.isRange = true := by simp [Strand.isRange, hk]
  simp only [retiredOp, hc, hs, hb, hhandler, hrange]
  rfl

end retired

/-- The four shuffles are retired opcodes (R8). -/
theorem exec_vshfl {x : BitVec 22} {i : Instr}
    (hi : i = .vshflIdx x ∨ i = .vshflUp x ∨ i = .vshflDn x ∨ i = .vshflXor x) (s : State) : exec i s = retiredOp i s := by
  rcases hi with rfl | rfl | rfl | rfl <;> rfl

/-- Settles O43: TRAP and BRK pass the gate into their trap; the shuffles are retired opcodes on both kinds of strand. -/
theorem trapsAndRetiredOpcodes : Obligations.TrapsAndRetiredOpcodes := by
  refine ⟨fun s c st code => ⟨exec_trap_pass, exec_brk_pass⟩, fun s c st x i hi hc hs hb => ?_⟩
  rw [exec_vshfl hi]
  exact ⟨fun w m hk => retiredOp_lane hc hs hb hk, fun lo n hk => retiredOp_range hc hs hb hk⟩

end Sys2Proof.Machine
end
section
/-! SUPPORT. Memory is in canonical form after reset. -/

namespace Sys2Proof.Machine

/-- Settles O7: memory lists nothing after reset. -/
theorem resetMemoryIsCanonical : Obligations.ResetMemoryIsCanonical :=
  ⟨List.Pairwise.nil, fun _ hc => absurd hc List.not_mem_nil⟩

end Sys2Proof.Machine
end

section
/-! SUPPORT. The canonical form of memory: what keeps it, shape by shape. A state is canonical when its memory is
(`State.Inv`); a result is when every state in it is. -/

namespace Sys2Proof.Machine

/-! ## Results that hold states -/

/-- The state that an answer goes on with is canonical. -/
def Keeps : Out → Prop
  | .next t => t.Inv
  | _ => True

/-- The state that may be there is canonical. -/
def SomeInv : Option State → Prop
  | some t => t.Inv
  | none => True

/-- The state of a result without error is canonical. -/
def OkInv {ε : Type} : Except ε State → Prop
  | .ok t => t.Inv
  | .error _ => True

/-- The state beside the value of a result without error is canonical. -/
def OkFstInv {ε α : Type} : Except ε (State × α) → Prop
  | .ok r => r.1.Inv
  | .error _ => True

/-- The state of a result that is a state where it is an error is canonical. -/
def ErrInv {α : Type} : Except State α → Prop
  | .error t => t.Inv
  | .ok _ => True

/-- Both states that a result may be are canonical. -/
def BothInv : Except State State → Prop
  | .error t => t.Inv
  | .ok t => t.Inv

/-- The state that a split has made is canonical. -/
def DoneInv : Split → Prop
  | .done t => t.Inv
  | .expand => True

/-- The state in which a picked strand issues, or in which the step ends, is canonical. -/
def PickInv : Pick → Prop
  | .run _ t => t.Inv
  | .done t => t.Inv

theorem DoneInv.get {r : Split} {t : State} (h : DoneInv r) (e : r = .done t) : t.Inv := by
  subst e
  exact h

theorem PickInv.run {r : Pick} {i : Instr} {t : State} (h : PickInv r) (e : r = .run i t) : t.Inv := by
  subst e
  exact h

theorem PickInv.done {r : Pick} {t : State} (h : PickInv r) (e : r = .done t) : t.Inv := by
  subst e
  exact h

theorem Keeps.next {o : Out} {t : State} (h : Keeps o) (e : o = .next t) : t.Inv := by
  subst e
  exact h

theorem SomeInv.get {o : Option State} {t : State} (h : SomeInv o) (e : o = some t) : t.Inv := by
  subst e
  exact h

theorem OkInv.get {ε : Type} {r : Except ε State} {t : State} (h : OkInv r) (e : r = .ok t) : t.Inv := by
  subst e
  exact h

theorem OkFstInv.get {ε α : Type} {r : Except ε (State × α)} {t : State} {a : α} (h : OkFstInv r) (e : r = .ok (t, a)) :
    t.Inv := by
  subst e
  exact h

theorem ErrInv.get {α : Type} {r : Except State α} {t : State} (h : ErrInv r) (e : r = .error t) : t.Inv := by
  subst e
  exact h

theorem BothInv.ok {r : Except State State} {t : State} (h : BothInv r) (e : r = .ok t) : t.Inv := by
  subst e
  exact h

theorem BothInv.error {r : Except State State} {t : State} (h : BothInv r) (e : r = .error t) : t.Inv := by
  subst e
  exact h

/-- The state of a pair that has been taken apart. -/
theorem fst_inv {α : Type} {p : State × α} {t : State} {a : α} (h : p.1.Inv) (e : p = (t, a)) : t.Inv := by
  subst e
  exact h

/-- A result without error whose state is mapped beside a value. -/
theorem okFstInv_map {ε α : Type} {r : Except ε State} {f : State → State × α} (h : OkInv r)
    (hf : ∀ t, t.Inv → (f t).1.Inv) : OkFstInv (r.map f) := by
  cases r with
  | error _ => trivial
  | ok t => exact hf t h

/-- A result without error that is a state made from a value. -/
theorem okInv_map {ε α : Type} {r : Except ε α} {f : α → State} (hf : ∀ a, (f a).Inv) : OkInv (r.map f) := by
  cases r with
  | error _ => trivial
  | ok a => exact hf a

/-- The state that may be there, or another in its place. -/
theorem inv_getD {o : Option State} {t : State} (ho : SomeInv o) (ht : t.Inv) : (o.getD t).Inv := by
  cases o with
  | none => exact ht
  | some _ => exact ho

/-! ## The shapes of a definition -/

theorem inv_ite {c : Prop} [Decidable c] {a b : State} (ha : a.Inv) (hb : b.Inv) : (if c then a else b).Inv := by
  split
  · exact ha
  · exact hb

/-- A choice between two values that both have a property has it. -/
theorem of_ite {α : Type} {P : α → Prop} {c : Prop} [Decidable c] {a b : α} (ha : P a) (hb : P b) :
    P (if c then a else b) := by
  split
  · exact ha
  · exact hb

theorem inv_elim {α : Type} {o : Option α} {a : State} {f : α → State} (ha : a.Inv) (hf : ∀ x, (f x).Inv) :
    (o.elim a f).Inv := by
  cases o with
  | none => exact ha
  | some x => exact hf x

/-- What every step of a fold keeps, the fold keeps. -/
theorem foldl_keeps {α σ : Type} {P : σ → Prop} {f : σ → α → σ} (hf : ∀ r x, P r → P (f r x)) (l : List α) :
    ∀ {r : σ}, P r → P (l.foldl f r) := by
  induction l with
  | nil => intro r h; exact h
  | cons x l ih => intro r h; exact ih (hf r x h)

theorem inv_foldl {α : Type} {f : State → α → State} (hf : ∀ t x, t.Inv → (f t x).Inv) (l : List α) {s : State}
    (h : s.Inv) : (l.foldl f s).Inv := foldl_keeps hf l h

/-- A fold that carries a value beside the state. -/
theorem inv_foldl_fst {α β : Type} {f : State × β → α → State × β} (hf : ∀ p x, p.1.Inv → (f p x).1.Inv) (l : List α)
    {p : State × β} (h : p.1.Inv) : (l.foldl f p).1.Inv := foldl_keeps (P := fun p : State × β => p.1.Inv) hf l h

/-- A state with other fields than memory changed. -/
theorem inv_with {s : State} (h : s.Inv) {mod home fab host ctxs grids wgs strands ops copies engines bars sched cores cur
    issueQ events arg next} :
    State.Inv ⟨mod, s.mem, home, fab, host, ctxs, grids, wgs, strands, ops, copies, engines, bars, sched, cores, cur, issueQ,
      events, arg, next⟩ := h

/-- A state whose memory is written. -/
theorem inv_withMem {m : Memory} (h : m.wf) {mod home fab host ctxs grids wgs strands ops copies engines bars sched cores cur
    issueQ events arg next} :
    State.Inv ⟨mod, m, home, fab, host, ctxs, grids, wgs, strands, ops, copies, engines, bars, sched, cores, cur, issueQ,
      events, arg, next⟩ := h

end Sys2Proof.Machine
end

section
/-! SUPPORT. Canonical memory: homes, translation misses and visibility (R136, R137, R150 to R158). -/

namespace Sys2Proof.Machine

theorem State.cacheWalk_inv {s : State} (h : s.Inv) {ctx va} : (s.cacheWalk ctx va).Inv := by
  unfold State.cacheWalk
  refine inv_ite h ?_
  split
  · exact inv_with h
  · exact h

theorem State.noteMiss_inv {s : State} (h : s.Inv) {die who addr} : (s.noteMiss die who addr).Inv := by
  unfold State.noteMiss
  split
  · exact h
  · exact inv_ite h (inv_with h)

theorem State.dropTlb_inv {s : State} (h : s.Inv) {ctx} : (s.dropTlb ctx).Inv := inv_with h

theorem State.touchOut_inv {s : State} (h : s.Inv) : s.touchOut.Inv := inv_with h

theorem State.setHome_inv {s : State} (h : s.Inv) {f} : (s.setHome f).Inv := inv_with h

theorem State.showAll_inv {s : State} (h : s.Inv) {die} : (s.showAll die).Inv := setHome_inv h

theorem State.homeWrite_inv {s : State} (h : s.Inv) {die k bytes covers} : (s.homeWrite die k bytes covers).Inv :=
  wf_mwrite _ _ _ h

theorem State.poisonAt_inv {s : State} (h : s.Inv) {k n} : (s.poisonAt k n).Inv := setHome_inv h

theorem State.addWrite_inv {s : State} (h : s.Inv) {v k bytes covers grp} : (s.addWrite v k bytes covers grp).Inv :=
  setHome_inv h

theorem State.releaseDie_inv {s : State} (h : s.Inv) {die} : (s.releaseDie die).Inv := setHome_inv h

end Sys2Proof.Machine
end

section
/-! SUPPORT. Canonical memory: updates of a state, writes at their homes, grids that end, traps, issue (R147 to R163, R184 to R199). -/

namespace Sys2Proof.Machine

theorem State.updStrand_inv {s : State} (h : s.Inv) {u f} : (s.updStrand u f).Inv := inv_with h

theorem State.updWg_inv {s : State} (h : s.Inv) {k f} : (s.updWg k f).Inv := inv_with h

theorem State.updGrid_inv {s : State} (h : s.Inv) {k f} : (s.updGrid k f).Inv := inv_with h

theorem State.updCtx_inv {s : State} (h : s.Inv) {k f} : (s.updCtx k f).Inv := inv_with h

theorem State.updCore_inv {s : State} (h : s.Inv) {k f} : (s.updCore k f).Inv := inv_with h

theorem State.setMod_inv {s : State} (h : s.Inv) {f} : (s.setMod f).Inv := inv_with h

theorem State.setHost_inv {s : State} (h : s.Inv) {f} : (s.setHost f).Inv := inv_with h

theorem State.setFab_inv {s : State} (h : s.Inv) {f} : (s.setFab f).Inv := inv_with h

theorem State.setSched_inv {s : State} (h : s.Inv) {f} : (s.setSched f).Inv := inv_with h

theorem State.fresh_inv {s : State} (h : s.Inv) : s.fresh.Inv := inv_with h

theorem State.raise_inv {s : State} (h : s.Inv) {v} : (s.raise v).Inv := setHost_inv h

theorem State.canary_inv {s : State} (h : s.Inv) {die src ev unit data} : (s.canary die src ev unit data).Inv :=
  setMod_inv h

theorem State.retire_inv {s : State} (h : s.Inv) {c i} : (s.retire c i).Inv := updStrand_inv h

theorem State.wait_inv {s : State} (h : s.Inv) {c b} : (s.wait c b).Inv := updStrand_inv h

theorem State.waitAnew_inv {s : State} (h : s.Inv) {c b} : (s.waitAnew c b).Inv := updStrand_inv h

theorem State.countWaiters_inv {s : State} (h : s.Inv) {k} : (s.countWaiters k).Inv :=
  inv_ite h (wf_mwrite _ _ _ h)

theorem State.wakeWord_inv {s : State} (h : s.Inv) {k} : (s.wakeWord k).Inv :=
  inv_ite (inv_with h) (countWaiters_inv (inv_foldl (fun _ _ ht => showAll_inv ht) _ (inv_with h)))

theorem State.homeStore_inv {s : State} (h : s.Inv) {die k bytes covers} : (s.homeStore die k bytes covers).Inv :=
  inv_foldl (fun _ _ ht => inv_ite ht (wakeWord_inv ht)) _ (setSched_inv (homeWrite_inv h))

theorem State.arrive_inv {s : State} (h : s.Inv) {die k b} : (s.arrive die k b).Inv := inv_ite h (homeStore_inv h)

theorem State.applyWrite_inv {s : State} (h : s.Inv) {id} : (s.applyWrite id).Inv := by
  unfold State.applyWrite
  split
  · exact h
  · exact homeStore_inv (setHome_inv h)

theorem State.applyAll_inv {s : State} (h : s.Inv) {p} : (s.applyAll p).Inv :=
  inv_foldl (fun _ _ ht => applyWrite_inv ht) _ h

theorem State.flushDie_inv {s : State} (h : s.Inv) {die} : (s.flushDie die).Inv := applyAll_inv h

theorem State.publish_inv {s : State} (h : s.Inv) : s.publish.Inv :=
  inv_foldl (fun _ _ ht => showAll_inv ht) _ (applyAll_inv h)

theorem State.releaseAt_inv {s : State} (h : s.Inv) {st scope} : (s.releaseAt st scope).Inv :=
  inv_ite (flushDie_inv h) (releaseDie_inv h)

theorem State.releaseSync_inv {s : State} (h : s.Inv) {st scope} : (s.releaseSync st scope).Inv :=
  inv_ite (flushDie_inv h) (releaseDie_inv h)

theorem State.acquireAt_inv {s : State} (h : s.Inv) {st scope} : (s.acquireAt st scope).Inv :=
  inv_ite (showAll_inv (inv_ite (flushDie_inv h) h)) (inv_ite (flushDie_inv h) h)

theorem State.sealedStore_inv {s : State} (h : s.Inv) {die ctx owner k bytes covers} :
    (s.sealedStore die ctx owner k bytes covers).Inv :=
  inv_foldl (fun _ _ ht => homeStore_inv ht) _ h

theorem State.runMisses_inv {s : State} (h : s.Inv) {die who a n} : (s.runMisses die who a n).Inv :=
  inv_foldl (fun _ _ ht => noteMiss_inv ht) _ h

/-- The state of a write that has gone so far is canonical. -/
def SomeFstInv {α : Type} : Option (State × α) → Prop
  | some r => r.1.Inv
  | none => True

theorem SomeFstInv.map {α : Type} {o : Option (State × α)} (h : SomeFstInv o) : SomeInv (o.map (·.1)) := by
  cases o with
  | none => trivial
  | some r => exact h

theorem State.headWrite_inv {s : State} (h : s.Inv) {ctx a bytes} : SomeInv (s.headWrite ctx a bytes) := by
  unfold State.headWrite
  split
  · trivial
  · refine SomeFstInv.map (foldl_keeps (P := SomeFstInv) (fun r p hr => ?_) _ h)
    split
    · exact homeStore_inv hr
    · exact sealedStore_inv hr
    · trivial

theorem State.homePut_inv {s : State} (h : s.Inv) {who die k b} : (s.homePut who die k b).Inv := by
  unfold State.homePut
  split
  · exact homeStore_inv h
  · exact updWg_inv h

theorem State.capsMark_inv {s : State} (h : s.Inv) {st dest} : (s.capsMark st dest).Inv := by
  unfold State.capsMark
  split
  · exact h
  · exact inv_ite (inv_with (homePut_inv h)) h

theorem State.headFailed_inv {s : State} (h : s.Inv) {queue kind seq} : (s.headFailed queue kind seq).Inv :=
  canary_inv h

theorem State.headDropped_inv {s : State} (h : s.Inv) {o} : (s.headDropped o).Inv := by
  unfold State.headDropped
  extract_lets s1
  have h1 : s1.Inv := headFailed_inv h
  split
  · exact raise_inv h1
  · exact h1

theorem State.headPut_inv {s : State} (h : s.Inv) {o} : (s.headPut o).Inv := by
  unfold State.headPut
  refine inv_ite (setHost_inv h) ?_
  split
  · exact headDropped_inv h
  next e =>
    split
    · exact raise_inv ((headWrite_inv h).get e)
    · exact (headWrite_inv h).get e

theorem State.completion_inv {s : State} (h : s.Inv) {ctx queue addr value seq status irq} :
    (s.completion ctx queue addr value seq status irq).Inv := by
  unfold State.completion
  extract_lets _ s1
  have h1 : s1.Inv := publish_inv h
  refine inv_ite ?_ (inv_ite (headDropped_inv h1) (headPut_inv (fresh_inv h1)))
  split
  · exact raise_inv h1
  · exact h1

theorem State.wakePred_inv {s : State} (h : s.Inv) {g} : (s.wakePred g).Inv := inv_with h

theorem State.clearRange_inv {s : State} (h : s.Inv) {k n} : (s.clearRange k n).Inv := wf_filter _ h _

theorem State.freeAllocs_inv {s : State} (h : s.Inv) {ctx p} : (s.freeAllocs ctx p).Inv :=
  setHome_inv (inv_ite h (inv_foldl (fun _ _ ht => clearRange_inv ht) _ h))

theorem finishGrid_inv {f : Nat} : ∀ {s : State} {g status : Nat}, s.Inv → (finishGrid f s g status).Inv := by
  induction f with
  | zero => intro s g status h; exact h
  | succ f ih =>
    intro s g status h
    unfold finishGrid
    extract_lets gr s1 s2 s3 s4 s5
    have h5 : s5.Inv := State.completion_inv (inv_with (State.freeAllocs_inv (State.updCtx_inv (State.updGrid_inv h))))
    exact inv_foldl (fun _ _ ht => inv_ite (ih ht) (State.wakePred_inv ht)) _ h5

theorem State.settle_inv {s : State} (h : s.Inv) {g} : (s.settle g).Inv := by
  unfold State.settle
  extract_lets
  split
  · exact inv_ite (finishGrid_inv h) h
  · exact h

theorem State.endGrid_inv {s : State} (h : s.Inv) {g status} : (s.endGrid g status).Inv :=
  inv_ite h (settle_inv (inv_foldl (fun _ _ ht => capsMark_inv ht) _ (updGrid_inv h)))

theorem State.logRecord_inv {s : State} (h : s.Inv) {ctx r} : (s.logRecord ctx r).Inv :=
  inv_ite (canary_inv (updCtx_inv h)) (canary_inv (updCtx_inv h))

theorem State.fsrPush_inv {s : State} (h : s.Inv) {e} : (s.fsrPush e).Inv :=
  inv_ite h (wf_mwrite _ _ _ h)

theorem State.fsrAsk_inv {s : State} (h : s.Inv) {ctx page kind} : (s.fsrAsk ctx page kind).Inv :=
  inv_ite h (fsrPush_inv (setHost_inv h))

theorem State.hold_inv {s : State} (h : s.Inv) {a cls ctx page} : (s.hold a cls ctx page).Inv :=
  inv_ite h (setHost_inv h)

theorem State.forgetHolds_inv {s : State} (h : s.Inv) {a} : (s.forgetHolds a).Inv := setHost_inv h

theorem State.askPage_inv {s : State} (h : s.Inv) {cls ctx page kind} : (s.askPage cls ctx page kind).Inv :=
  inv_ite (fsrAsk_inv h) (inv_ite (setHost_inv h) h)

theorem State.parkEnded_inv {s : State} (h : s.Inv) {u} : (s.parkEnded u).Inv := by
  unfold State.parkEnded
  split
  · exact h
  · exact endGrid_inv (updStrand_inv (capsMark_inv h))

theorem State.takeTrap_inv {s : State} (h : s.Inv) {u t} : (s.takeTrap u t).Inv := by
  unfold State.takeTrap
  split
  · exact h
  · extract_lets _ _ _ s1 s2
    have h1 : s1.Inv := logRecord_inv h
    have h2 : s2.Inv := updStrand_inv (capsMark_inv h1)
    exact inv_ite (parkEnded_inv h1) (askPage_inv h2)

theorem State.contextFatal_inv {s : State} (h : s.Inv) {ctx} : (s.contextFatal ctx).Inv :=
  inv_ite h (inv_foldl (fun _ _ ht => endGrid_inv ht) _ (logRecord_inv (updCtx_inv h)))

theorem State.takeEmulation_inv {s : State} (h : s.Inv) {u word act} : (s.takeEmulation u word act).Inv := by
  unfold State.takeEmulation
  split
  · exact h
  · extract_lets _ s1
    have h1 : s1.Inv := updStrand_inv (capsMark_inv h)
    exact inv_ite (canary_inv h1) (canary_inv h1)

theorem State.handlerReturn_inv {s : State} (h : s.Inv) {u} : (s.handlerReturn u).Inv := inv_with h

/-- An instruction at issue: it traps, or its body acts. -/
theorem issue_inv {s : State} (h : s.Inv) {i uses excess body} (hb : ∀ t c st, t.Inv → (body t c st).Inv) :
    Keeps (issue i uses excess body s) := by
  rcases issue_cases i uses excess body s with e | ⟨c, st, k, a, _, _, _, e⟩ | ⟨c, st, _, _, _, e⟩ <;> rw [e]
  · trivial
  · exact State.takeTrap_inv h
  · exact hb _ _ _ h

end Sys2Proof.Machine
end

section
/-! SUPPORT. Canonical memory: requests to other modules (R34 to R38). -/

namespace Sys2Proof.Machine

theorem State.updPort_inv {s : State} (h : s.Inv) {p f} : (s.updPort p f).Inv := setFab_inv h

theorem State.sendOn_inv {s : State} (h : s.Inv) {p vc m} : (s.sendOn p vc m).Inv := updPort_inv h

theorem State.putAnswer_inv {s : State} (h : s.Inv) {a} : (s.putAnswer a).Inv := setFab_inv h

theorem State.clearAnswers_inv {s : State} (h : s.Inv) {a} : (s.clearAnswers a).Inv := setFab_inv h

theorem State.forgetAsks_inv {s : State} (h : s.Inv) {a} : (s.forgetAsks a).Inv := setFab_inv (clearAnswers_inv h)

theorem State.ask1_inv {s : State} (h : s.Inv) {a core vc k} : (s.ask1 a core vc k).Inv := by
  unfold State.ask1
  refine inv_ite h (inv_ite (putAnswer_inv h) ?_)
  split
  · exact putAnswer_inv h
  · exact inv_ite h (sendOn_inv (setFab_inv (inv_ite h (setSched_inv h))))

theorem State.askAll_inv {s : State} (h : s.Inv) {a core vc ks} : (s.askAll a core vc ks).Inv :=
  inv_foldl (fun _ _ ht => ask1_inv ht) _ h

theorem State.headAsk_inv {s : State} (h : s.Inv) {a core ks} : (s.headAsk a core ks).Inv := askAll_inv h

theorem State.wakeRemote_inv {s : State} (h : s.Inv) : s.wakeRemote.Inv := inv_with h

end Sys2Proof.Machine
end

section
/-! SUPPORT. Canonical memory: the fetch of clauses and the report of asynchronous faults (R190, R219). -/

namespace Sys2Proof.Machine

theorem State.cacheWord_inv {s : State} (h : s.Inv) {ctx pc w} : (s.cacheWord ctx pc w).Inv :=
  inv_ite h (setHome_inv h)

theorem State.fetchMisses_inv {s : State} (h : s.Inv) {st pc n} : (s.fetchMisses st pc n).Inv :=
  inv_foldl (fun _ _ ht => noteMiss_inv ht) _ h

theorem State.askCode_inv {s : State} (h : s.Inv) {u st pc n} : (s.askCode u st pc n).Inv :=
  updStrand_inv (askAll_inv h)

theorem State.fetchFails_inv {s : State} (h : s.Inv) {u b pc} : (s.fetchFails u b pc).Inv := by
  unfold State.fetchFails
  split
  · exact takeTrap_inv h
  · exact updStrand_inv h

theorem State.fetchClause_inv {s : State} (h : s.Inv) {u} : (s.fetchClause u).Inv := by
  unfold State.fetchClause
  split
  · exact h
  · refine inv_ite h (inv_ite (updStrand_inv (capsMark_inv h)) (inv_ite (takeTrap_inv h) ?_))
    extract_lets s1
    have h1 : s1.Inv := fetchMisses_inv h
    split
    · exact fetchFails_inv h1
    · exact askCode_inv h1
    · extract_lets _ _ s2
      have h22 : s2.Inv := fetchMisses_inv h1
      refine inv_ite (takeTrap_inv h1) (inv_ite (takeTrap_inv h1) ?_)
      split
      · exact fetchFails_inv h22
      · exact askCode_inv h22
      · exact updStrand_inv (clearAnswers_inv (inv_foldl (fun _ _ ht => cacheWord_inv ht) _ h22))

theorem State.reportAsync_inv {s : State} (h : s.Inv) {u p} : (s.reportAsync u p).Inv := by
  unfold State.reportAsync
  split
  · exact h
  · exact parkEnded_inv (updStrand_inv (inv_foldl (fun _ _ ht => inv_ite ht (inv_with (logRecord_inv ht))) _ h))

end Sys2Proof.Machine
end

section
/-! SUPPORT. Canonical memory: slots, splits, expansion, joins, and the split at a fault (R114 to R129). -/

namespace Sys2Proof.Machine

theorem State.addStrand_inv {s : State} (h : s.Inv) {parent st k} : (s.addStrand parent st k).Inv := inv_with h

theorem State.dropStrand_inv {s : State} (h : s.Inv) {u heir} : (s.dropStrand u heir).Inv := inv_with h

theorem State.areaMisses_inv {s : State} (h : s.Inv) {die who runs} : (s.areaMisses die who runs).Inv :=
  inv_foldl (fun _ _ ht => runMisses_inv ht) _ h

theorem State.areaDone_inv {s : State} (h : s.Inv) {die ctx l} : (s.areaDone die ctx l).Inv := by
  unfold State.areaDone
  refine inv_foldl (fun _ _ ht => ?_) _ h
  split
  · exact homeStore_inv ht
  · exact sealedStore_inv ht
  · exact ht

theorem State.areaWrites_inv {s : State} (h : s.Inv) {u st ws} : OkInv (s.areaWrites u st ws) := by
  unfold State.areaWrites
  refine okInv_map fun _ => ?_
  refine inv_foldl (fun _ _ ht => ?_) _ (areaMisses_inv h)
  split
  · exact addWrite_inv ht
  · exact sealedStore_inv ht
  · exact ht

theorem State.areaStop_inv {s : State} (h : s.Inv) {u pc st x} : (s.areaStop u pc st x).Inv := by
  unfold State.areaStop
  split
  · exact takeTrap_inv (clearAnswers_inv h)
  · exact takeTrap_inv (noteMiss_inv (clearAnswers_inv h))
  · exact updStrand_inv h
  · exact updStrand_inv (askAll_inv h)

theorem State.pushFrame_inv {s : State} (h : s.Inv) {u st rets} : OkFstInv (s.pushFrame u st rets) := by
  unfold State.pushFrame
  split
  · exact okFstInv_map (areaWrites_inv h) fun _ ht => ht
  · trivial

theorem State.areaFor_inv {s : State} (h : s.Inv) {u st spill n} : OkFstInv (s.areaFor u st spill n) := by
  unfold State.areaFor
  split
  · trivial
  · extract_lets
    split
    · trivial
    · trivial
    · exact okFstInv_map (areaWrites_inv (inv_ite h (areaMisses_inv h))) fun _ ht => ht

theorem State.giveFrames_inv {s : State} (h : s.Inv) {l} : (s.giveFrames l).Inv :=
  inv_foldl (fun _ _ ht => updStrand_inv ht) _ h

theorem State.placeChildren_inv {u st e} {os : List Outcome} :
    ∀ {s : State}, s.Inv → (s.placeChildren u st e os).1.Inv := by
  induction os with
  | nil => intro s h; exact h
  | cons o r ih =>
    intro s h
    unfold State.placeChildren
    split
    · exact h
    · exact ih (addStrand_inv h)

theorem State.trapBad_inv {s : State} (h : s.Inv) {pc l} : (s.trapBad pc l).Inv :=
  inv_foldl (fun _ _ ht => inv_ite (takeTrap_inv ht) ht) _ h

theorem State.splitTry_inv {s : State} (h : s.Inv) {u st tag kind live first rest} :
    (s.splitTry u st tag kind live first rest).1.Inv := by
  unfold State.splitTry
  dsimp only
  exact updStrand_inv (placeChildren_inv (updStrand_inv (updWg_inv h)))

theorem State.parkBad_inv {s : State} (h : s.Inv) {u st pc outs} : (s.parkBad u st pc outs).Inv := takeTrap_inv h

theorem State.split_inv {s : State} (h : s.Inv) {u st pc tag kind live outs} :
    DoneInv (s.split u st pc tag kind live outs) := by
  unfold State.split
  split
  · exact h
  · refine of_ite (P := DoneInv) (updStrand_inv h) ?_
    split
    · refine of_ite (P := DoneInv) trivial (of_ite (P := DoneInv) (parkBad_inv h) ?_)
      split
      · exact areaStop_inv h
      next e2 =>
        split
        next e3 =>
          exact trapBad_inv (clearAnswers_inv (giveFrames_inv (fst_inv (splitTry_inv ((areaFor_inv h).get e2)) e3)))

theorem State.takeWarp_inv {s : State} (h : s.Inv) {wg warp} : (s.takeWarp wg warp).Inv := inv_ite h (updWg_inv h)

theorem State.dropWarp_inv {s : State} (h : s.Inv) {wg warp} : (s.dropWarp wg warp).Inv := inv_ite h (updWg_inv h)

theorem State.fillLanes_inv {s : State} (h : s.Inv) {st warp m} : (s.fillLanes st warp m).Inv := updWg_inv h

theorem State.cutPiece_inv {s : State} (h : s.Inv) {u st lo n w c m k takes} :
    (s.cutPiece u st lo n w c m k takes).Inv := by
  unfold State.cutPiece
  extract_lets _ s1 s2
  have h1 : s1.Inv := addStrand_inv (fillLanes_inv (takeWarp_inv h))
  have h2 : s2.Inv := inv_ite (updStrand_inv h1) h1
  exact inv_ite (dropStrand_inv h2) (updStrand_inv h2)

theorem State.expandStop_inv {s : State} (h : s.Inv) {u st e} : (s.expandStop u st e).Inv := by
  unfold State.expandStop
  refine updStrand_inv ?_
  split
  · exact askAll_inv h
  · exact askPage_inv h
  · exact h
  · exact h

theorem State.expandLoop_inv {u} {f : Nat} : ∀ {s : State}, s.Inv → (State.expandLoop f s u).Inv := by
  induction f with
  | zero => intro s h; exact h
  | succ f ih =>
    intro s h
    unfold State.expandLoop
    split
    · exact h
    · split
      · dsimp only
        split
        · split
          · exact expandStop_inv h
          next s' fr e =>
            exact ih (clearAnswers_inv (giveFrames_inv (cutPiece_inv ((areaFor_inv h).get e))))
        · exact updStrand_inv h
      · exact h

theorem State.advanceCursors_inv {s : State} (h : s.Inv) {wg} : (s.advanceCursors wg).Inv :=
  inv_foldl (fun _ _ ht => expandLoop_inv (updStrand_inv ht)) _ h

theorem State.expandStrand_inv {s : State} (h : s.Inv) {u} : (s.expandStrand u).Inv := by
  unfold State.expandStrand
  split
  · exact h
  · exact inv_ite (updStrand_inv h) (advanceCursors_inv (updStrand_inv h))

theorem State.mergeAll_inv {m} {f : Nat} : ∀ {s : State} {us : List Nat}, s.Inv → (State.mergeAll m f s us).Inv := by
  induction f with
  | zero => intro s us h; unfold State.mergeAll; exact h
  | succ f ih =>
    intro s us h
    cases us with
    | nil => exact h
    | cons u r =>
      unfold State.mergeAll
      split
      · exact ih h
      · split
        · exact ih h
        · exact ih (dropStrand_inv (updStrand_inv h))

theorem State.reform_inv {s : State} (h : s.Inv) {u m} : (s.reform u m).Inv := by
  unfold State.reform
  split
  · exact h
  · split
    · extract_lets
      refine inv_ite ?_ h
      split
      · exact h
      · exact dropWarp_inv (updStrand_inv h)
    · exact h

theorem State.releaseJoin_inv {s : State} (h : s.Inv) {st} : (s.releaseJoin st).Inv := by
  unfold State.releaseJoin
  split
  · exact h
  · extract_lets _ _ _ s1 _ s2 s3 s4
    have h1 : s1.Inv := inv_foldl (fun _ _ ht => updStrand_inv ht) _ h
    have h2 : s2.Inv := mergeAll_inv h1
    have h3 : s3.Inv := inv_foldl (fun _ _ ht => reform_inv ht) _ h2
    have h4 : s4.Inv := inv_ite (mergeAll_inv h3) h2
    exact inv_ite h (inv_ite (inv_foldl (fun _ _ ht => askAll_inv ht) _ h)
        (inv_foldl (fun _ _ ht => clearAnswers_inv ht) _ h4))

theorem State.releaseJoins_inv {s : State} (h : s.Inv) : s.releaseJoins.Inv := by
  unfold State.releaseJoins
  refine inv_foldl (fun _ _ ht => ?_) _ h
  split
  · exact inv_ite (releaseJoin_inv ht) ht
  · exact ht

theorem State.groupJoin_inv {s : State} (h : s.Inv) {u g tag m re} : (s.groupJoin u g tag m re).Inv :=
  releaseJoins_inv (updStrand_inv h)

theorem State.leaveJoin_inv {s : State} (h : s.Inv) {u m re} : (s.leaveJoin u m re).Inv :=
  inv_ite (updStrand_inv h) (inv_ite (updStrand_inv h) (reform_inv (updStrand_inv h)))

theorem State.joinStep_inv {u tag m re} {f : Nat} : ∀ {s : State}, s.Inv → (s.joinStep u tag m re f).Inv := by
  induction f with
  | zero => intro s h; exact h
  | succ f ih =>
    intro s h
    unfold State.joinStep
    split
    · exact h
    · split
      · exact inv_ite (groupJoin_inv h) (leaveJoin_inv h)
      · exact inv_ite (leaveJoin_inv h)
          (inv_ite (inv_ite (updStrand_inv h) (ih (updStrand_inv h))) (groupJoin_inv h))

theorem State.splitFault_inv {s whole : State} (h : s.Inv) (hwhole : whole.Inv) {u st slot cut}
    (hc : ∀ t k, t.Inv → (cut t k).Inv) :
    OkFstInv (s.splitFault u st slot whole cut) := by
  unfold State.splitFault
  split
  · exact hwhole
  · split
    · trivial
    · trivial
    · exact hwhole
    next e => exact giveFrames_inv (hc _ _ ((areaFor_inv h).get e))

theorem State.splitLanes_inv {s : State} (h : s.Inv) {c st i bad} : OkFstInv (s.splitLanes c st i bad) :=
  of_ite (P := OkFstInv) h (splitFault_inv h (updStrand_inv h)
      (fun _ _ ht => retire_inv (updStrand_inv (addStrand_inv ht))))

theorem State.splitRange_inv {s : State} (h : s.Inv) {c st i k} : OkFstInv (s.splitRange c st i k) :=
  of_ite (P := OkFstInv) h (splitFault_inv h (updStrand_inv h)
      (fun _ _ ht => retire_inv (updStrand_inv (addStrand_inv ht))))

end Sys2Proof.Machine
end

section
/-! SUPPORT. Canonical memory: sticky flags and the floating-point trap (R168 to R174). -/

namespace Sys2Proof.Machine

theorem State.addEvents_inv {s : State} (h : s.Inv) {u ev} : (s.addEvents u ev).Inv := updStrand_inv h

theorem State.fpTrap_inv {s : State} (h : s.Inv) {c ev who} : (s.fpTrap c ev who).Inv :=
  takeTrap_inv (addEvents_inv h)

end Sys2Proof.Machine
end

section
/-! SUPPORT. Canonical memory: results of lanes and forms, and the elementwise instruction (R107, R229). -/

namespace Sys2Proof.Machine

theorem State.writeLanes_inv {s : State} (h : s.Inv) {st r vals} : (s.writeLanes st r vals).Inv := updWg_inv h

theorem State.writeForm_inv {s : State} (h : s.Inv) {u r f} : (s.writeForm u r f).Inv := updStrand_inv h

theorem State.commitLanes_inv {s : State} (h : s.Inv) {c st i vd rs} : (s.commitLanes c st i vd rs).Inv :=
  inv_ite (retire_inv (addEvents_inv (writeLanes_inv h))) (fpTrap_inv h)

theorem elementwise_inv {a : State} (h : a.Inv) {i vd srcs form f} : Keeps (elementwise i vd srcs form f a) := by
  unfold elementwise
  refine issue_inv h fun _ _ _ ht => ?_
  extract_lets
  split
  · split
    · exact State.expandStrand_inv ht
    · exact State.retire_inv ht
    · split
      · exact State.retire_inv (State.writeForm_inv ht)
      · refine inv_ite ?_ (State.expandStrand_inv ht)
        split
        · exact inv_ite (State.fpTrap_inv ht) (State.retire_inv (State.addEvents_inv (State.writeForm_inv ht)))
  · exact State.commitLanes_inv ht
  · exact State.retire_inv ht

end Sys2Proof.Machine
end

section
/-! SUPPORT. Canonical memory: masks and work across lanes (R257 to R269). -/

namespace Sys2Proof.Machine

theorem State.writeMask_inv {s : State} (h : s.Inv) {u r act bits} : (s.writeMask u r act bits).Inv := updStrand_inv h

theorem State.writeRuns_inv {s : State} (h : s.Inv) {u r v} : (s.writeRuns u r v).Inv := updStrand_inv h

theorem crossLane_inv {a : State} (h : a.Inv) {i uses body} (hb : ∀ t c st m, t.Inv → (body t c st m).Inv) :
    Keeps (crossLane i uses body a) := by
  unfold crossLane
  refine issue_inv h fun _ _ _ ht => ?_
  split
  · exact inv_ite (State.retire_inv ht) (State.expandStrand_inv ht)
  · exact hb _ _ _ _ ht
  · exact State.retire_inv ht

theorem laneOrRange_inv {a : State} (h : a.Inv) {i uses range body}
    (hr : ∀ t c st lo n, t.Inv → SomeInv (range t c st lo n)) (hb : ∀ t c st m, t.Inv → (body t c st m).Inv) :
    Keeps (laneOrRange i uses range body a) := by
  unfold laneOrRange
  refine issue_inv h fun _ _ _ ht => ?_
  split
  · split
    · exact State.retire_inv ht
    · split
      next e3 => exact (hr _ _ _ _ _ ht).get e3
      · exact State.expandStrand_inv ht
    · exact State.expandStrand_inv ht
  · exact hb _ _ _ _ ht
  · exact State.retire_inv ht

theorem execVcmp_inv {a' : State} (h : a'.Inv) {d a b fn} : Keeps (execVcmp d a b fn a') := by
  unfold execVcmp
  refine laneOrRange_inv h (fun _ _ _ _ _ ht => ?_) fun _ _ _ _ ht => inv_ite
      (State.retire_inv (State.addEvents_inv (State.writeMask_inv ht))) (State.fpTrap_inv ht)
  extract_lets
  exact of_ite (P := SomeInv) (of_ite (P := SomeInv) (State.fpTrap_inv ht)
      (State.retire_inv (State.addEvents_inv (State.writeRuns_inv ht))))
      (of_ite (P := SomeInv) trivial (of_ite (P := SomeInv) (State.retire_inv (State.writeRuns_inv ht)) trivial))

theorem execVsel_inv {a' : State} (h : a'.Inv) {d a b k} : Keeps (execVsel d a b k a') := by
  unfold execVsel
  refine laneOrRange_inv h (fun _ _ _ _ _ ht => ?_) fun _ _ _ _ ht => State.retire_inv (State.writeLanes_inv ht)
  split
  · exact State.retire_inv (State.writeForm_inv ht)
  · trivial

theorem execVmatch_inv {a' : State} (h : a'.Inv) {d a fn} : Keeps (execVmatch d a fn a') :=
  crossLane_inv h fun _ _ _ _ ht => inv_ite (State.retire_inv (State.writeLanes_inv ht))
      (State.retire_inv (State.writeMask_inv ht))

theorem execVkmov_inv {s : State} (h : s.Inv) {d a b fn} : Keeps (execVkmov d a b fn s) := by
  unfold execVkmov
  refine laneOrRange_inv h (fun t c st lo n ht => ?_) fun t c st m ht => ?_
  · have hw {r v i} : SomeInv (some ((t.writeRuns c.uid r v).retire c i)) := State.retire_inv (State.writeRuns_inv ht)
    exact of_ite (P := SomeInv) trivial (of_ite (P := SomeInv)
      (of_ite (P := SomeInv) trivial (of_ite (P := SomeInv) hw trivial)) (of_ite (P := SomeInv) hw trivial))
  · exact inv_ite (State.retire_inv (State.writeLanes_inv ht))
      (inv_ite (State.retire_inv (State.writeMask_inv ht)) (State.retire_inv (State.writeMask_inv ht)))

theorem execVindex_inv {a : State} (h : a.Inv) {d fn} : Keeps (execVindex d fn a) := by
  unfold execVindex
  refine laneOrRange_inv h (fun _ _ _ _ _ ht => ?_) fun _ _ _ _ ht => State.retire_inv (State.writeLanes_inv ht)
  extract_lets
  split
  · exact State.retire_inv (State.writeForm_inv ht)
  · exact of_ite (P := SomeInv) (State.retire_inv (State.writeForm_inv ht)) trivial
  · exact of_ite (P := SomeInv) (State.retire_inv (State.writeForm_inv ht)) trivial
  · exact of_ite (P := SomeInv) (State.retire_inv (State.writeForm_inv ht)) trivial

theorem execVform_inv {s : State} (h : s.Inv) {d a fn} : Keeps (execVform d a fn s) := by
  unfold execVform
  refine laneOrRange_inv h (fun t c st lo n ht => ?_) fun t c st m ht => ?_
  · exact State.retire_inv (State.writeForm_inv ht)
  · exact State.retire_inv (State.writeLanes_inv ht)

theorem execVstride_inv {a' : State} (h : a'.Inv) {d a} : Keeps (execVstride d a a') :=
  laneOrRange_inv h (fun _ _ _ _ _ ht => State.retire_inv (State.writeForm_inv ht)) fun _ _ _ _ ht => State.retire_inv
      (State.writeLanes_inv ht)

theorem execVexpand_inv {a : State} (h : a.Inv) : Keeps (execVexpand a) := by
  unfold execVexpand
  refine issue_inv h fun _ _ _ ht => ?_
  split
  · exact inv_ite (State.retire_inv ht) (State.expandStrand_inv ht)
  · exact State.retire_inv ht

end Sys2Proof.Machine
end

section
/-! SUPPORT. Canonical memory: barriers, targets that wait, and the exit of threads (R93, R127, R302 to R306). -/

namespace Sys2Proof.Machine

theorem State.setGen_inv {s : State} (h : s.Inv) {k g} : (s.setGen k g).Inv := inv_with h

theorem State.advanceGen_inv {s : State} (h : s.Inv) {k} : (s.advanceGen k).Inv :=
  inv_with (inv_foldl (fun _ _ ht => showAll_inv ht) _ (touchOut_inv (setGen_inv h)))

theorem State.sendBarrier_inv {s : State} (h : s.Inv) {dest beat} : (s.sendBarrier dest beat).Inv := by
  unfold State.sendBarrier
  split
  · exact sendOn_inv h
  · exact h

theorem State.rootArrival_inv {s : State} (h : s.Inv) {b genBit m} : (s.rootArrival b genBit m).Inv := by
  unfold State.rootArrival
  extract_lets _ s1 s2 s3
  have h1 : s1.Inv := setFab_inv h
  have h2 : s2.Inv := setFab_inv h1
  have h3 : s3.Inv := inv_foldl (fun _ _ ht => inv_ite ht (sendBarrier_inv ht)) _ h2
  exact inv_ite h (inv_ite h1 (inv_ite (advanceGen_inv h3) h3))

theorem State.domainArrival_inv {s : State} (h : s.Inv) {k} : (s.domainArrival k).Inv :=
  inv_ite h (inv_ite (rootArrival_inv (setGen_inv h)) (sendBarrier_inv (setGen_inv h)))

theorem State.tryComplete_inv {s : State} (h : s.Inv) {k} : (s.tryComplete k).Inv :=
  inv_ite h (inv_ite (domainArrival_inv h) (advanceGen_inv h))

theorem State.checkDomain_inv {s : State} (h : s.Inv) : s.checkDomain.Inv :=
  inv_foldl (fun _ _ ht => tryComplete_inv ht) _ h

theorem State.checkBarriers_inv {s : State} (h : s.Inv) : s.checkBarriers.Inv :=
  checkDomain_inv (inv_foldl (fun _ _ ht => tryComplete_inv ht) _ h)

theorem State.arriveAt_inv {s : State} (h : s.Inv) {u ks} : (s.arriveAt u ks).Inv :=
  inv_foldl (fun _ _ ht => tryComplete_inv ht) _ (updStrand_inv h)

theorem State.giveWay_inv {s : State} (h : s.Inv) {c st waits} : SomeInv (s.giveWay c st waits) := by
  unfold State.giveWay
  split
  · exact of_ite (P := SomeInv) (updStrand_inv h) trivial
  · trivial

theorem State.barWait_inv {s : State} (h : s.Inv) {c i ks} : (s.barWait c i ks).Inv := by
  unfold State.barWait
  split
  · exact h
  · split
    · exact retire_inv (updStrand_inv h)
    · split
      next e3 => exact (giveWay_inv h).get e3
      · exact wait_inv h

theorem barrierOp_inv {a : State} (h : a.Inv) {i level b arrives waits} :
    Keeps (barrierOp i level b arrives waits a) := by
  unfold barrierOp
  refine issue_inv h fun _ _ _ ht => ?_
  extract_lets _ _ s1
  have h1 : s1.Inv := State.arriveAt_inv (State.releaseSync_inv ht)
  refine inv_ite (State.takeTrap_inv ht) (inv_ite (State.barWait_inv (State.acquireAt_inv ht)) ?_)
  refine inv_ite (State.barWait_inv (State.acquireAt_inv ht)) ?_
  split
  · exact inv_ite (State.barWait_inv (State.acquireAt_inv h1)) (State.retire_inv h1)
  · exact State.wait_inv ht

theorem execFence_inv {a : State} (h : a.Inv) {kind scope} : Keeps (execFence kind scope a) :=
  issue_inv h fun _ _ _ ht => State.retire_inv (inv_ite (State.acquireAt_inv (inv_ite (State.releaseAt_inv ht) ht))
      (inv_ite (State.releaseAt_inv ht) ht))

theorem State.nextTarget_inv {s : State} (h : s.Inv) {u} : (s.nextTarget u).Inv := by
  unfold State.nextTarget
  split
  · exact h
  next e =>
    extract_lets _ _ stop cut
    have hstop : ∀ e, (stop e).Inv := by
      intro _
      dsimp only [stop]
      split
      · exact askAll_inv h
      · exact areaStop_inv h
      · exact areaStop_inv h
    have hcut : ∀ t, t.Inv → (cut t).Inv := fun _ ht => updStrand_inv ht
    refine inv_ite (updStrand_inv h) ?_
    split
    · extract_lets cut2
      have hcut2 : ∀ t, t.Inv → (cut2 t).Inv := fun _ ht => updStrand_inv (addStrand_inv ht)
      split
      · exact hstop _
      next e3 => exact clearAnswers_inv (giveFrames_inv (hcut2 _ ((areaFor_inv h).get e3)))
    · split
      · exact hstop _
      next e3 => exact clearAnswers_inv (hcut _ ((areaFor_inv h).get e3))

theorem State.startTargets_inv {s : State} (h : s.Inv) {wg} : (s.startTargets wg).Inv := by
  unfold State.startTargets
  refine inv_foldl (fun _ _ ht => ?_) _ h
  split
  · exact inv_ite (nextTarget_inv ht) ht
  · exact ht

theorem State.exitThreads_inv {s : State} (h : s.Inv) {u} : (s.exitThreads u).Inv := by
  unfold State.exitThreads
  split
  · exact h
  · extract_lets s1 s2 s3 s4
    have h1 : s1.Inv := capsMark_inv h
    have h2 : s2.Inv := updWg_inv h1
    have h3 : s3.Inv := inv_with h2
    have h4 : s4.Inv := updWg_inv h3
    split
    · exact checkBarriers_inv (startTargets_inv (updStrand_inv h3))
    · exact checkBarriers_inv (startTargets_inv (dropWarp_inv (dropStrand_inv h4)))

end Sys2Proof.Machine
end

section
/-! SUPPORT. Canonical memory: accesses of strands and atomics at the home (R140, R158, R282, R288). -/

namespace Sys2Proof.Machine

theorem State.checkAll_inv {die who acc stop} {ts : List Touch} :
    ∀ {s : State}, s.Inv → (State.checkAll die who acc stop ts s).1.Inv := by
  induction ts with
  | nil => intro s h; exact h
  | cons t r ih =>
    intro s h
    have h1 : (s.noteMiss die who t.addr).Inv := noteMiss_inv h
    unfold State.checkAll
    dsimp only
    split
    · split
      · exact h1
      · exact ih h1
    · exact ih h1

theorem State.askPages_inv {s : State} (h : s.Inv) {ctx acc bads} : (s.askPages ctx acc bads).Inv :=
  inv_ite h (inv_foldl (fun _ _ ht => askPage_inv ht) _ h)

theorem State.stayParked_inv {s : State} (h : s.Inv) {c st acc v rest} : (s.stayParked c st acc v rest).Inv := by
  unfold State.stayParked
  split
  · exact h
  · exact updStrand_inv h

theorem State.lanesStay_inv {s : State} (h : s.Inv) {c st i acc good bs act} (ha : ∀ t gs, t.Inv → (act t gs).Inv) :
    (s.lanesStay c st i acc good bs act).Inv := by
  unfold State.lanesStay
  extract_lets
  split
  · exact areaStop_inv h
  next e =>
    extract_lets s1 s2 s3
    have h1 : s1.Inv := clearAnswers_inv (inv_ite ((splitLanes_inv h).get e) (ha _ _ ((splitLanes_inv h).get e)))
    have h2 : s2.Inv := updStrand_inv h1
    have h3 : s3.Inv := by
      dsimp only [s3]
      split
      · exact h2
      · exact askPages_inv (takeTrap_inv h2)
    exact stayParked_inv h3

theorem State.laneFinish_inv {s : State} (h : s.Inv) {c st i acc xs ask act} (ha : ∀ t gs, t.Inv → (act t gs).Inv) :
    (s.laneFinish c st i acc xs ask act).Inv := by
  unfold State.laneFinish
  extract_lets _ pages ks
  clear_value pages
  clear_value ks
  split
  · exact wait_inv h
  · exact inv_ite (retire_inv (clearAnswers_inv (ha _ _ h))) (inv_ite (wait_inv h) (lanesStay_inv h ha))
  · exact wait_inv (askAll_inv h)
  · extract_lets
    refine inv_ite (wait_inv h) (inv_ite (wait_inv (askAll_inv h)) ?_)
    split
    · extract_lets
      split
      · exact areaStop_inv h
      next e3 =>
        exact takeTrap_inv (clearAnswers_inv (inv_ite ((splitRange_inv h).get e3)
            (ha _ _ ((splitRange_inv h).get e3))))
    · exact lanesStay_inv h ha

theorem State.laneAccess_inv {s : State} (h : s.Inv) {c st i acc ts ask act} (ha : ∀ t gs, t.Inv → (act t gs).Inv) :
    (s.laneAccess c st i acc ts ask act).Inv :=
  laneFinish_inv (checkAll_inv h) ha

theorem State.uniformAccess_inv {s : State} (h : s.Inv) {c st i acc addr n ask act}
    (ha : ∀ t p, t.Inv → (act t p).Inv) :
    (s.uniformAccess c st i acc addr n ask act).Inv := by
  unfold State.uniformAccess
  extract_lets _ _ x s1
  have h1 : s1.Inv := noteMiss_inv h
  clear_value x
  split
  · exact takeTrap_inv (clearAnswers_inv h1)
  · exact wait_inv h1
  · exact h1
  · exact retire_inv (ha _ _ h1)
  · exact retire_inv (ha _ _ h1)
  · exact inv_ite (retire_inv (clearAnswers_inv (ha _ _ h1))) (wait_inv (askAll_inv h1))

theorem State.noteBeats_inv {s : State} (h : s.Inv) {v p data} : (s.noteBeats v p data).1.Inv := by
  unfold State.noteBeats
  dsimp only
  split
  · exact updCore_inv h
  · exact h

theorem State.startOp_inv {s : State} (h : s.Inv) {c st dstV dstS res sres external ahead} :
    (s.startOp c st dstV dstS res sres external ahead).Inv :=
  inv_with (fresh_inv (updStrand_inv h))

theorem State.storeAll_inv {s : State} (h : s.Inv) {ws} : (s.storeAll ws).Inv := by
  unfold State.storeAll
  extract_lets
  refine inv_foldl (fun _ _ ht => ?_) _ h
  split
  · exact addWrite_inv ht
  · exact sealedStore_inv ht
  · exact ht

theorem State.atomSealed_inv {s : State} (h : s.Inv) {die ctx k o aop n b cmp} :
    (s.atomSealed die ctx k o aop n b cmp).1.Inv :=
  sealedStore_inv h

theorem State.atomAt_inv {s : State} (h : s.Inv) {die k aop n b cmp} : (s.atomAt die k aop n b cmp).1.Inv :=
  homeStore_inv h

end Sys2Proof.Machine
end

section
/-! SUPPORT. Canonical memory: lane memory instructions (R282 to R291). -/

namespace Sys2Proof.Machine

theorem State.rangePred_inv {s act : State} (h : s.Inv) (hact : act.Inv) {c st i k} :
    (s.rangePred c st i k act).Inv := by
  unfold State.rangePred
  split
  · exact expandStrand_inv h
  · exact retire_inv h
  · exact hact

theorem State.loadAct_inv {s : State} (h : s.Inv) {c st vd sz ahead gs} : (State.loadAct c st vd sz ahead s gs).Inv := by
  unfold State.loadAct
  extract_lets got res
  have hgot : got.1.Inv := by
    refine inv_foldl_fst (fun _ _ hr => ?_) _ h
    exact noteBeats_inv hr
  exact startOp_inv hgot

theorem laneLoad_inv {a : State} (h : a.Inv) {i vd va sz more k uni addr ahead} :
    Keeps (laneLoad i vd va sz more k uni addr ahead a) := by
  unfold laneLoad
  refine issue_inv h fun _ _ _ ht => ?_
  split
  · exact State.rangePred_inv ht (inv_ite (State.laneAccess_inv ht (fun _ _ ht2 => State.loadAct_inv ht2))
      (State.expandStrand_inv ht))
  · exact State.laneAccess_inv ht fun _ _ ht2 => State.loadAct_inv ht2

theorem execVpref_inv {a : State} (h : a.Inv) {hint va k off} : Keeps (execVpref hint va k off a) := by
  unfold execVpref
  refine issue_inv h fun t _ _ ht => ?_
  extract_lets _ near
  have hnear : ∀ t ts, t.Inv → (near t ts).Inv := by
    intro _ _ ht2
    dsimp only [near]
    refine inv_foldl (fun _ _ ht3 => ?_) _ ht2
    split
    · exact State.noteMiss_inv ht3
    · exact ht3
  split
  · exact State.rangePred_inv ht (State.retire_inv (inv_ite (hnear _ _ ht) ht))
  · exact State.retire_inv (hnear _ _ ht)

theorem execVst_inv {a : State} (h : a.Inv) {vs va k sz off} : Keeps (execVst vs va k sz off a) := by
  unfold execVst
  refine issue_inv h fun _ _ _ ht => ?_
  extract_lets _ _ _ act
  have hact : ∀ x gs, x.Inv → (act x gs).Inv := fun _ _ ht2 => State.storeAll_inv ht2
  split
  · exact State.rangePred_inv ht (State.laneAccess_inv ht hact)
  · exact State.laneAccess_inv ht hact

theorem execVatom_inv {a : State} (h : a.Inv) {vd va vb aop w nr vc disp} :
    Keeps (execVatom vd va vb aop w nr vc disp a) := by
  unfold execVatom
  refine issue_inv h fun _ _ _ ht => ?_
  extract_lets _ _ _ act
  have hact : ∀ x gs, x.Inv → (act x gs).Inv := by
    intro _ _ ht2
    dsimp only [act]
    refine State.startOp_inv (inv_foldl_fst (fun _ _ h2 => ?_) _ (State.flushDie_inv ht2))
    refine State.noteBeats_inv ?_
    split
    · exact State.atomAt_inv h2
    · exact State.atomSealed_inv h2
    · exact h2
  split
  · exact State.rangePred_inv ht (inv_ite (State.laneAccess_inv ht hact) (State.expandStrand_inv ht))
  · exact State.laneAccess_inv ht hact

theorem execVcopy_inv {a : State} (h : a.Inv) {vd va vb logsz} : Keeps (execVcopy vd va vb logsz a) := by
  unfold execVcopy
  refine issue_inv h fun _ _ _ ht => ?_
  extract_lets _ _ _ go
  have hgo : ∀ ts, (go ts).Inv := by
    intro _
    dsimp only [go]
    refine State.laneFinish_inv ht fun _ _ ht2 => ?_
    refine inv_foldl (fun _ _ ht3 => ?_) _ (State.flushDie_inv ht2)
    split
    · exact inv_with (State.fresh_inv ht3)
    · exact ht3
  split
  · exact State.rangePred_inv ht (hgo _)
  · exact hgo _

theorem execBwait_inv {a : State} (h : a.Inv) {t} : Keeps (execBwait t a) :=
  issue_inv h fun _ _ _ ht2 => inv_ite (State.wait_inv ht2) (inv_ite (State.reportAsync_inv ht2)
      (State.retire_inv ht2))

end Sys2Proof.Machine
end

section
/-! SUPPORT. Canonical memory: uniform memory instructions and arrival words (R292, R293, R337, R338). -/

namespace Sys2Proof.Machine

theorem State.capsTrap_inv {s : State} (h : s.Inv) {c} : (s.capsTrap c).Inv := takeTrap_inv h

theorem uniformLoad_inv {a : State} (h : a.Inv) {i sd sa sz off} : Keeps (uniformLoad i sd sa sz off a) := by
  unfold uniformLoad
  refine issue_inv h fun _ _ _ ht => ?_
  extract_lets _ _ _ give r s1 s2
  have hgive : ∀ x b, x.Inv → (give x b).Inv := fun _ _ ht2 => State.startOp_inv ht2
  have h1 : s1.Inv := State.noteMiss_inv ht
  have h2 : s2.Inv := State.flushDie_inv h1
  split
  · exact State.uniformAccess_inv ht fun _ _ ht2 => hgive _ _ (State.noteBeats_inv ht2)
  · clear_value r
    split
    · exact inv_ite (State.retire_inv (hgive _ _ h2)) (State.capsTrap_inv h1)
    · exact State.capsTrap_inv h1
    · exact State.waitAnew_inv h1
    · exact State.takeTrap_inv h1

theorem execSst_inv {a : State} (h : a.Inv) {ss sa sz off} : Keeps (execSst ss sa sz off a) := by
  unfold execSst
  refine issue_inv h fun _ _ _ ht => ?_
  extract_lets _ _ _ r s1
  have h1 : s1.Inv := State.noteMiss_inv ht
  split
  · exact State.uniformAccess_inv ht fun _ _ ht2 => State.storeAll_inv ht2
  · clear_value r
    split
    · exact inv_ite (State.retire_inv (State.updStrand_inv h1)) (State.capsTrap_inv h1)
    · exact State.capsTrap_inv h1
    · exact State.waitAnew_inv h1
    · exact State.takeTrap_inv h1

theorem execSatom_inv {a : State} (h : a.Inv) {sa sb sc aop w nr cmp disp} :
    Keeps (execSatom sa sb sc aop w nr cmp disp a) := by
  unfold execSatom
  refine issue_inv h fun _ _ _ ht => ?_
  extract_lets
  refine State.uniformAccess_inv ht fun _ _ ht2 => ?_
  extract_lets r q2
  refine State.startOp_inv ?_
  dsimp only [q2]
  refine State.noteBeats_inv ?_
  dsimp only [r]
  split
  · exact State.atomAt_inv (State.flushDie_inv ht2)
  · exact State.atomSealed_inv ht2
  · exact ht2

theorem State.watchWord_inv {s : State} (h : s.Inv) {k} : (s.watchWord k).Inv :=
  inv_ite h (countWaiters_inv (setHome_inv h))

theorem execAwinit_inv {a : State} (h : a.Inv) {sa sb} : Keeps (execAwinit sa sb a) := by
  unfold execAwinit
  refine issue_inv h fun _ _ _ ht => ?_
  split
  · exact State.takeTrap_inv ht
  · exact State.retire_inv (State.homeStore_inv (State.flushDie_inv (State.watchWord_inv ht)))

theorem execAwait_inv {a : State} (h : a.Inv) {sa sb sc} : Keeps (execAwait sa sb sc a) := by
  unfold execAwait
  refine issue_inv h fun _ _ _ ht => ?_
  split
  · exact State.takeTrap_inv ht
  · refine inv_ite (State.reportAsync_inv ht) ?_
    extract_lets s1
    have h1 : s1.Inv := State.flushDie_inv (State.watchWord_inv ht)
    exact inv_ite (State.retire_inv (State.updStrand_inv (State.acquireAt_inv h1)))
        (State.countWaiters_inv (State.wait_inv h1))

end Sys2Proof.Machine
end

section
/-! SUPPORT. Canonical memory: capsules (R340 to R345). -/

namespace Sys2Proof.Machine

theorem State.wakeCaps_inv {s : State} (h : s.Inv) {k} : (s.wakeCaps k).Inv := inv_with h

theorem State.capsPut_inv {s : State} (h : s.Inv) {die k b} : (s.capsPut die k b).Inv :=
  wakeCaps_inv (homeStore_inv h)

theorem State.dropLoads_inv {s : State} (h : s.Inv) {u} : (s.dropLoads u).Inv := inv_with h

theorem State.takeReply_inv {s : State} (h : s.Inv) {u} : (s.takeReply u).Inv := by
  unfold State.takeReply
  split
  · exact h
  · split
    · exact h
    · split
      · exact h
      · exact updStrand_inv (acquireAt_inv h)

theorem State.rejected_inv {s : State} (h : s.Inv) {u} : (s.rejected u).Inv := by
  unfold State.rejected
  split
  · exact h
  · split
    · exact h
    · exact inv_ite (updStrand_inv (dropLoads_inv h)) (takeReply_inv (updStrand_inv (dropLoads_inv h)))

theorem State.takeReplies_inv {s : State} (h : s.Inv) : s.takeReplies.Inv :=
  inv_foldl (fun _ _ ht => inv_ite (takeReply_inv ht) ht) _ h

theorem State.capsEnter_inv {s : State} (h : s.Inv) {c st i sa sb sc k r} :
    (s.capsEnter c st i sa sb sc k r).Inv := by
  unfold State.capsEnter
  extract_lets _ s1 _ s2 _ _ _ s3 s4
  have h1 : s1.Inv := flushDie_inv h
  have h2 : s2.Inv := updCore_inv h1
  have h3 : s3.Inv := homeStore_inv (capsPut_inv h2)
  have h4 : s4.Inv := capsPut_inv h2
  exact inv_ite (updStrand_inv h1) (inv_ite (retire_inv (updStrand_inv (acquireAt_inv h3)))
      (updStrand_inv (acquireAt_inv h4)))

theorem execCapb_inv {a : State} (h : a.Inv) {sa sb sc} : Keeps (execCapb sa sb sc a) := by
  unfold execCapb
  refine issue_inv h fun _ _ _ ht => ?_
  extract_lets x s1 x2 s2
  have h1 : s1.Inv := State.noteMiss_inv ht
  have h2 : s2.Inv := State.noteMiss_inv h1
  clear_value x
  split
  · exact State.takeTrap_inv h1
  · clear_value x2
    split
    · exact State.takeTrap_inv h2
    · exact State.capsEnter_inv h2

theorem State.giveReply_inv {s : State} (h : s.Inv) {c st x} : (s.giveReply c st x).Inv := by
  unfold State.giveReply
  extract_lets x2 s1
  have h1 : s1.Inv := noteMiss_inv h
  clear_value x2
  split
  · exact takeTrap_inv (updStrand_inv h1)
  · exact takeReplies_inv (updStrand_inv (homeStore_inv (homeStore_inv h1)))

theorem State.capsCommit_inv {s : State} (h : s.Inv) {c st i x last} : (s.capsCommit c st i x last).Inv := by
  unfold State.capsCommit
  extract_lets _ s1 _ s2 _ _ s3
  have h1 : s1.Inv := flushDie_inv h
  have h2 : s2.Inv := inv_foldl (fun _ _ ht => homeStore_inv ht) _ h1
  have h3 : s3.Inv := capsPut_inv h2
  exact inv_ite (giveReply_inv h1) (inv_ite (takeTrap_inv h1)
      (inv_ite (rejected_inv h1) (inv_ite (retire_inv (updStrand_inv h3))
      (inv_ite (giveReply_inv h3) (retire_inv (updStrand_inv h3))))))

theorem capeOp_inv {a : State} (h : a.Inv) {i last} : Keeps (capeOp i last a) := by
  unfold capeOp
  refine issue_inv h fun _ _ _ ht => ?_
  split
  · exact State.capsTrap_inv ht
  · exact State.capsCommit_inv ht

theorem State.reclaim_inv {s : State} (h : s.Inv) {u} : (s.reclaim u).Inv := by
  unfold State.reclaim
  split
  · exact h
  · split
    · exact h
    · extract_lets _ s1
      have h1 : s1.Inv := dropLoads_inv (wakeCaps_inv (homePut_inv h))
      exact inv_ite h (inv_ite (rejected_inv h) (inv_ite (updStrand_inv h1) h))

theorem State.unpark_inv {s : State} (h : s.Inv) {u} : (s.unpark u).Inv := by
  unfold State.unpark
  extract_lets s1
  have h1 : s1.Inv := updStrand_inv h
  split
  · exact h1
  · exact inv_ite (reclaim_inv h1) h1

end Sys2Proof.Machine
end

section
/-! SUPPORT. Canonical memory: reduction windows and contributions (R40 to R44). -/

namespace Sys2Proof.Machine

theorem State.redApply_inv {s : State} (h : s.Inv) {k ty op v} : (s.redApply k ty op v).Inv := homeStore_inv h

theorem State.updWindow_inv {s : State} (h : s.Inv) {w f} : (s.updWindow w f).Inv := setFab_inv h

theorem redDrain_inv {w off k} {f : Nat} : ∀ {s : State}, s.Inv → (redDrain f s w off k).Inv := by
  induction f with
  | zero => intro s h; exact h
  | succ f ih =>
    intro s h
    unfold redDrain
    dsimp only
    split
    · exact h
    · split
      · exact h
      · exact inv_ite (State.updWindow_inv (State.redApply_inv h)) (ih (State.updWindow_inv (State.redApply_inv h)))

theorem State.contribute_inv {s : State} (h : s.Inv) {w port off k seqidx v} :
    (s.contribute w port off k seqidx v).1.Inv := by
  unfold State.contribute
  dsimp only
  split
  · exact h
  · split
    · exact redApply_inv h
    · split
      · exact redDrain_inv (updWindow_inv (redApply_inv h))
      · split
        · exact h
        · split
          · exact h
          · exact updWindow_inv h

theorem State.setWindow_inv {s : State} (h : s.Inv) {w x} : (s.setWindow w x).Inv := by
  unfold State.setWindow
  extract_lets _ s1
  have h1 : s1.Inv := by
    refine inv_ite h ?_
    split
    · exact canary_inv h
    · exact h
  exact updWindow_inv h1

theorem State.setBase_inv {s : State} (h : s.Inv) {w v} : (s.setBase w v).Inv := setWindow_inv h

theorem State.setCtl_inv {s : State} (h : s.Inv) {w v} : (s.setCtl w v).Inv := setWindow_inv h

theorem State.setDbar_inv {s : State} (h : s.Inv) {b v} : (s.setDbar b v).Inv := setFab_inv h

end Sys2Proof.Machine
end

section
/-! SUPPORT. Canonical memory: engine commands (R294 to R301). -/

namespace Sys2Proof.Machine

theorem State.homeRun_inv {s : State} (h : s.Inv) {die k bytes} : (s.homeRun die k bytes).Inv :=
  inv_foldl (fun _ _ ht => homeStore_inv ht) _ h

theorem State.engFault_inv {s : State} (h : s.Inv) {id cls addr write} : (s.engFault id cls addr write).Inv :=
  inv_with h

theorem State.engPark_inv {s : State} (h : s.Inv) {id e cls addr write} : (s.engPark id e cls addr write).Inv :=
  askPage_inv (inv_ite (hold_inv h) h)

theorem State.engSees_inv {s : State} (h : s.Inv) {id e addrs} : (s.engSees id e addrs).Inv :=
  inv_ite h (inv_with (showAll_inv (applyAll_inv h)))

theorem State.engWrote_inv {s : State} (h : s.Inv) {id ws} : (s.engWrote id ws).Inv := inv_with h

theorem State.engAsk_inv {s : State} (h : s.Inv) {id e gs} : (s.engAsk id e gs).Inv := askAll_inv h

theorem State.engHold_inv {s : State} (h : s.Inv) {id e gs write} : SomeInv (s.engHold id e gs write) :=
  of_ite (P := SomeInv) (inv_foldl (fun _ _ ht => engPark_inv ht) _ h) (of_ite (P := SomeInv) (engAsk_inv h) trivial)

theorem State.engMove_inv {s : State} (h : s.Inv) {id e idx reads mk fin} (hf : ∀ t us ok, t.Inv → (fin t us ok).Inv)
    :
    (s.engMove id e idx reads mk fin).Inv := by
  unfold State.engMove
  extract_lets s1 _ _ _ s2 _ _ s3 s4 s5 s6
  have h1 : s1.Inv := inv_foldl (fun _ _ ht => noteMiss_inv ht) _ (engSees_inv h)
  have h2 : s2.Inv := inv_foldl (fun _ _ ht => noteMiss_inv ht) _ h1
  have h3 : s3.Inv := by
    refine inv_foldl (fun _ _ ht => ?_) _ h2
    split
    · exact engFault_inv ht
    · exact ht
  have h4 : s4.Inv := by
    refine inv_foldl (fun _ _ ht => ?_) _ h3
    split
    · exact engFault_inv ht
    · exact homeStore_inv ht
    · exact sealedStore_inv ht
    · exact ht
  have h5 : s5.Inv := by
    refine inv_foldl (fun _ _ ht => ?_) _ h4
    split
    · exact inv_ite (poisonAt_inv ht) ht
    · exact inv_ite (poisonAt_inv ht) ht
    · exact ht
  have h6 : s6.Inv := engWrote_inv h5
  split
  next e2 => exact (engHold_inv h1).get e2
  · split
    next e3 => exact (engHold_inv h2).get e3
    · exact hf _ _ _ h6

theorem State.postAsync_inv {s : State} (h : s.Inv) {uid a} : (s.postAsync uid a).Inv := updStrand_inv h

theorem State.engDone_inv {s : State} (h : s.Inv) {id} : (s.engDone id).Inv := by
  unfold State.engDone
  split
  · exact h
  · extract_lets _ s1
    have h1 : s1.Inv := touchOut_inv (forgetHolds_inv (clearAnswers_inv (inv_with h)))
    split
    · exact h1
    · exact inv_foldl (fun _ _ ht => postAsync_inv ht) _ h1

theorem State.engNext_inv {s : State} (h : s.Inv) {id} : (s.engNext id).Inv :=
  forgetHolds_inv (clearAnswers_inv (inv_with h))

theorem State.arriveWord_inv {s : State} (h : s.Inv) {who die k b} : (s.arriveWord who die k b).Inv := by
  unfold State.arriveWord
  split
  · exact arrive_inv h
  · exact inv_ite (arrive_inv h) (inv_ite h (inv_ite h (updWg_inv h)))

theorem State.tcopyRow_inv {s : State} (h : s.Inv) {id e src segs base e0 e1 e2 ds1 ds2 ds3 ss1 ss2 ss3 mode} :
    (s.tcopyRow id e src segs base e0 e1 e2 ds1 ds2 ds3 ss1 ss2 ss3 mode).Inv := by
  unfold State.tcopyRow
  extract_lets
  refine engMove_inv h fun _ _ _ ht => ?_
  refine engNext_inv ?_
  split
  · exact inv_ite (arriveWord_inv ht) ht
  · exact ht

theorem State.mcopyStep_inv {s : State} (h : s.Inv) {id e src count targets base data} :
    (s.mcopyStep id e src count targets base data).Inv := by
  unfold State.mcopyStep
  split
  · exact engMove_inv h fun _ _ _ ht => clearAnswers_inv (inv_with ht)
  · split
    · refine engMove_inv h fun _ _ _ ht => ?_
      refine engNext_inv ?_
      split
      · exact inv_ite (arriveWord_inv ht) ht
      · exact ht

theorem State.bcopyAll_inv {s : State} (h : s.Inv) {id e rows keys dst counts n rowb nkey} :
    (s.bcopyAll id e rows keys dst counts n rowb nkey).Inv :=
  engMove_inv h fun _ _ _ ht => engMove_inv ht (fun _ _ _ ht2 => engNext_inv ht2)

theorem State.chainStep_inv {s : State} (h : s.Inv) {id e src dst elems it ot ops rnd ftz} :
    (s.chainStep id e src dst elems it ot ops rnd ftz).Inv := by
  unfold State.chainStep
  exact engMove_inv h fun _ _ _ ht => engNext_inv (inv_with ht)

theorem State.redwStep_inv {s : State} (h : s.Inv) {id e addr value ty op x seqidx} :
    (s.redwStep id e addr value ty op x seqidx).Inv := by
  unfold State.redwStep
  extract_lets refuse s1
  have hrefuse : ∀ t, t.Inv → (refuse t).Inv := fun _ ht => engNext_inv (engFault_inv ht)
  have h1 : s1.Inv := noteMiss_inv h
  split
  · exact h1
  · split
    · exact engNext_inv (engFault_inv h1)
    · exact engPark_inv h1
  · extract_lets _ w
    refine inv_ite (hrefuse _ h1) ?_
    clear_value w
    split
    · exact engNext_inv (redApply_inv (flushDie_inv h1))
    · split
      next e3 => exact engNext_inv (fst_inv (contribute_inv h1) e3)
      next e3 => exact inv_with (fst_inv (contribute_inv h1) e3)
      next e3 => exact hrefuse _ (fst_inv (contribute_inv h1) e3)
  · exact inv_ite (hrefuse _ h1) (engNext_inv (sealedStore_inv h1))
  · extract_lets
    refine inv_ite (hrefuse _ h1) ?_
    split
    · exact askAll_inv h1
    · split
      · exact engNext_inv (engFault_inv h1)
      · exact engNext_inv h1

theorem execCopyRowCompletion_inv {s : State} (h : s.Inv) : Keeps (execCopyRowCompletion s) := by
  unfold execCopyRowCompletion
  extract_lets
  split
  · exact h
  · extract_lets s1
    have h1 : s1.Inv := by
      refine inv_ite h ?_
      split
      · exact State.tcopyRow_inv h
      · exact State.mcopyStep_inv h
      · exact State.bcopyAll_inv h
      · exact State.chainStep_inv h
      · exact State.redwStep_inv h
    split
    · exact inv_ite (State.engDone_inv h1) h1
    · exact h1

theorem engineOp_inv {a : State} (h : a.Inv) {i uses body} : Keeps (engineOp i uses body a) := by
  unfold engineOp
  refine issue_inv h fun _ _ _ ht => ?_
  split
  · exact State.takeTrap_inv ht
  · exact State.retire_inv (inv_with (inv_foldl (fun _ _ ht2 => State.watchWord_inv ht2) _ (State.flushDie_inv ht)))

end Sys2Proof.Machine
end

section
/-! SUPPORT. Canonical memory: the matrix engine (R307 to R331). -/

namespace Sys2Proof.Machine

theorem State.wakeRequests_inv {s : State} (h : s.Inv) {wg} : (s.wakeRequests wg).Inv := inv_with h

theorem execObres_inv {a : State} (h : a.Inv) {sa sb sc h' kind fmt lb split layout ns} :
    Keeps (execObres sa sb sc h' kind fmt lb split layout ns a) := by
  unfold execObres
  refine issue_inv h fun _ _ _ ht => ?_
  extract_lets
  split
  · exact State.takeTrap_inv ht
  · exact State.takeTrap_inv ht
  · exact inv_ite (State.wait_inv ht) (State.retire_inv (State.homeStore_inv (State.flushDie_inv ht)))

theorem execObrel_inv {a : State} (h : a.Inv) {sa} : Keeps (execObrel sa a) := by
  unfold execObrel
  refine issue_inv h fun _ _ _ ht => ?_
  extract_lets
  refine inv_ite (State.wait_inv ht) (State.retire_inv (inv_foldl (fun _ _ ht2 => ?_) _ (State.flushDie_inv ht)))
  split
  · exact ht2
  · exact State.homeStore_inv ht2

theorem State.accReady_inv {s : State} (h : s.Inv) {id} : (s.accReady id).Inv := inv_with h

theorem execAccrd_inv {a : State} (h : a.Inv) {sa sb sc} : Keeps (execAccrd sa sb sc a) := by
  unfold execAccrd
  refine issue_inv h fun _ _ _ ht => ?_
  extract_lets _ _ _ _ _ s1
  have h1 : s1.Inv := State.startOp_inv ht
  exact inv_ite (State.expandStrand_inv ht) (inv_ite (State.takeTrap_inv ht)
      (State.retire_inv (inv_ite h1 (inv_with h1))))

theorem State.matAsk_inv {s : State} (h : s.Inv) {a core ctx ks pages} : (s.matAsk a core ctx ks pages).Inv :=
  inv_foldl (fun _ _ ht => askPage_inv (inv_ite (hold_inv ht) ht)) _ (askAll_inv h)

theorem State.matMisses_inv {s : State} (h : s.Inv) {wg addr n} : (s.matMisses wg addr n).Inv :=
  inv_foldl (fun _ _ ht => noteMiss_inv ht) _ h

theorem State.rsScales_inv {s : State} (h : s.Inv) {st warp i w} : (s.rsScales st warp i w).Inv := by
  unfold State.rsScales
  extract_lets _ go
  have hgo : ∀ sb sc sel rsel, (go sb sc sel rsel).Inv := by
    intro _ _ _ _
    dsimp only [go]
    exact inv_foldl (fun _ _ ht => homeRun_inv (homeRun_inv ht)) _ h
  split
  · exact hgo _ _ _ _
  · exact inv_ite (hgo _ _ _ _) h
  · exact h

theorem State.acceptReq_inv {s : State} (h : s.Inv) {u st i crew w total addr sbytes leader dense assay tile} :
    (s.acceptReq u st i crew w total addr sbytes leader dense assay tile).Inv :=
  inv_foldl (fun _ _ ht => updStrand_inv ht) _ (setSched_inv (inv_with h))

theorem State.crewTrap_inv {s : State} (h : s.Inv) {crew cls addr} : (s.crewTrap crew cls addr).Inv :=
  inv_foldl (fun _ _ ht => takeTrap_inv ht) _ h

theorem State.crewPark_inv {s : State} (h : s.Inv) {crew cls addr} : (s.crewPark crew cls addr).Inv :=
  inv_foldl (fun _ _ ht => takeTrap_inv ht) _ h

theorem State.crewWait_inv {s : State} (h : s.Inv) {a wg crew ks pages} : (s.crewWait a wg crew ks pages).Inv := by
  unfold State.crewWait
  split
  · exact crewPark_inv (clearAnswers_inv h)
  · exact askAll_inv h

theorem State.tileMisses_inv {s : State} (h : s.Inv) {a wg desc} : (s.tileMisses a wg desc).Inv := by
  unfold State.tileMisses
  extract_lets s1
  have h1 : s1.Inv := matMisses_inv h
  split
  · exact matMisses_inv (matMisses_inv h1)
  · exact h1

theorem State.takePath_inv {s : State} (h : s.Inv) {wg a desc d p} : (s.takePath wg a desc d p).Inv := by
  unfold State.takePath
  extract_lets
  split
  · exact homeRun_inv h
  · exact setSched_inv h
  · refine inv_ite h ?_
    split
    · exact setSched_inv h
    · exact h
  · exact h

theorem State.acceptTile_inv {s : State} (h : s.Inv) {u st i crew w desc leader} :
    (s.acceptTile u st i crew w desc leader).Inv := by
  unfold State.acceptTile
  extract_lets _ _ s1
  have h1 : s1.Inv := tileMisses_inv (publish_inv h)
  split
  · exact crewTrap_inv (clearAnswers_inv h1)
  · exact crewWait_inv h1
  · split
    · exact crewWait_inv h1
    · exact crewTrap_inv (clearAnswers_inv h1)
    · exact acceptReq_inv (takePath_inv (clearAnswers_inv h1))

theorem State.mxeAccept_inv {s : State} (h : s.Inv) {u} : (s.mxeAccept u).Inv := by
  unfold State.mxeAccept
  split
  · exact h
  · refine inv_ite ?_ ?_
    · extract_lets i
      clear_value i
      split
      · exact inv_ite (takeTrap_inv h) (inv_ite (acceptReq_inv h) h)
      · exact inv_ite (takeTrap_inv h) (inv_ite (acceptReq_inv h) h)
      · exact h
    · refine inv_ite ?_ h
      extract_lets
      split
      · exact h
      next w _ _ =>
        split
        · exact h
        · extract_lets i go plain
          have hgo : ∀ sa stream sbytes accepted, (∀ w, (accepted w).Inv) → (go sa stream sbytes accepted).Inv := by
            intro _ _ _ _ hacc
            dsimp only [go]
            split
            · exact crewTrap_inv h
            · exact inv_ite (hacc _) h
          have hplain : ∀ stream sbytes w, (plain stream sbytes w).Inv := fun _ _ _ => acceptReq_inv (rsScales_inv h)
          clear_value i
          split
          · exact hgo _ _ _ _ fun _ => hplain _ _ _
          · exact hgo _ _ _ _ fun _ => hplain _ _ _
          · exact hgo _ _ _ _ fun _ => hplain _ _ _
          · exact hgo _ _ _ _ fun _ => hplain _ _ _
          · exact hgo _ _ _ _ fun _ => acceptTile_inv h
          · exact h

theorem crewOp_inv {a : State} (h : a.Inv) {i uses} : Keeps (crewOp i uses a) :=
  issue_inv h fun _ _ _ ht => inv_ite (State.mxeAccept_inv (State.wait_inv ht)) (State.takeTrap_inv ht)

theorem execMxePassGrant_inv {s : State} (h : s.Inv) : Keeps (execMxePassGrant s) := by
  unfold execMxePassGrant
  extract_lets
  refine of_ite (P := Keeps) h ?_
  split
  · exact h
  · exact State.setSched_inv h

theorem State.reqOver_inv {s : State} (h : s.Inv) {id r keep} : (s.reqOver id r keep).Inv :=
  accReady_inv (wakeRequests_inv (setSched_inv (forgetHolds_inv (clearAnswers_inv (inv_with h)))))

theorem State.failReq_inv {s : State} (h : s.Inv) {id r cls addr} : (s.failReq id r cls addr).Inv := by
  unfold State.failReq
  extract_lets o s1
  have h1 : s1.Inv := reqOver_inv h
  clear_value o
  split
  · exact h1
  · exact inv_foldl (fun _ _ ht => postAsync_inv ht) _ h1

theorem State.passDone_inv {s : State} (h : s.Inv) {id r} : (s.passDone id r).Inv := by
  unfold State.passDone
  extract_lets s1
  have h1 : s1.Inv := forgetHolds_inv (clearAnswers_inv h)
  exact inv_ite (setSched_inv h1) (reqOver_inv h1)

theorem State.passWait_inv {s : State} (h : s.Inv) {id r ks pages} : (s.passWait id r ks pages).1.Inv := matAsk_inv h

theorem State.runPlain_inv {s : State} (h : s.Inv) {id r} : (s.runPlain id r).Inv := by
  unfold State.runPlain
  split
  · extract_lets _ _ _ _ _ _ s1 s2
    have h1 : s1.Inv := homeRun_inv h
    have h2 : s2.Inv := inv_ite (inv_foldl (fun _ _ ht => inv_ite (homeRun_inv ht) ht) _ h1) h1
    split
    · exact passDone_inv (homeStore_inv h)
    · exact inv_ite (failReq_inv h) (passDone_inv h2)

theorem State.passReads_inv {s : State} (h : s.Inv) {id r a kb} : (s.passReads id r a kb).1.Inv := by
  unfold State.passReads
  dsimp only
  split
  · split
    · exact failReq_inv (tileMisses_inv h)
    · exact passWait_inv (tileMisses_inv h)
    · split
      · exact failReq_inv (tileMisses_inv h)
      · exact passWait_inv (tileMisses_inv h)
      · exact setSched_inv (takePath_inv (tileMisses_inv h))
  · split
    · exact failReq_inv (matMisses_inv h)
    · exact failReq_inv (matMisses_inv h)
    · exact setSched_inv (matMisses_inv h)
    · exact passWait_inv (matMisses_inv h)
    · exact passWait_inv (matMisses_inv h)
    · exact passWait_inv (matMisses_inv h)
  · exact h

theorem State.runMma_inv {s : State} (h : s.Inv) {id r} : (s.runMma id r).1.Inv := by
  unfold State.runMma
  split
  · dsimp only
    split
    next e2 => exact fst_inv (passReads_inv (publish_inv h)) e2
    next e2 =>
      split
      · split
        · exact failReq_inv (fst_inv (passReads_inv (publish_inv h)) e2)
        · split
          · exact failReq_inv (fst_inv (passReads_inv (publish_inv h)) e2)
          · exact passWait_inv (fst_inv (passReads_inv (publish_inv h)) e2)
          · exact passDone_inv (homeStore_inv (fst_inv (passReads_inv (publish_inv h)) e2))
      · split
        · exact failReq_inv (fst_inv (passReads_inv (publish_inv h)) e2)
        · split
          · exact failReq_inv (fst_inv (passReads_inv (publish_inv h)) e2)
          · exact passWait_inv (fst_inv (passReads_inv (publish_inv h)) e2)
          · exact passDone_inv (homeStore_inv (fst_inv (passReads_inv (publish_inv h)) e2))

theorem State.runPass_inv {s : State} (h : s.Inv) {id r} : (s.runPass id r).1.Inv := by
  unfold State.runPass
  split
  · exact runPlain_inv h
  · exact runPlain_inv h
  · split
    · exact h
    · exact runMma_inv h

theorem execMxePassComplete_inv {s : State} (h : s.Inv) : Keeps (execMxePassComplete s) := by
  unfold execMxePassComplete
  extract_lets
  split
  · exact h
  · refine of_ite (P := Keeps) h ?_
    split
    · exact State.setSched_inv h
    · split
      next e3 =>
        exact inv_ite (fst_inv (State.runPass_inv h) e3) (State.setSched_inv (fst_inv (State.runPass_inv h) e3))

theorem execAssayInstall_inv {s : State} (h : s.Inv) : Keeps (execAssayInstall s) := by
  unfold execAssayInstall
  extract_lets
  split
  · exact h
  · exact inv_ite (State.setSched_inv (State.setSched_inv h)) (State.setSched_inv h)

end Sys2Proof.Machine
end

section
/-! SUPPORT. Canonical memory: pools, successors, control registers, time and trace (R95 to R99, R346 to R354). -/

namespace Sys2Proof.Machine

theorem State.poolEntry_inv {s : State} (h : s.Inv) {c st acc k e used data} :
    ErrInv (s.poolEntry c st acc k e used data) := by
  unfold State.poolEntry
  extract_lets
  split
  · exact wait_inv h
  · exact of_ite (P := ErrInv) (takeTrap_inv h) trivial
  · exact takeTrap_inv h
  · exact takeTrap_inv h
  · refine of_ite (P := ErrInv) trivial (of_ite (P := ErrInv) (wait_inv h) ?_)
    split
    · exact wait_inv (askAll_inv h)
    · split
      · exact takeTrap_inv (clearAnswers_inv h)
      · trivial
  · trivial
  · trivial

theorem poolOp_inv {a : State} (h : a.Inv) {i uses sa sb sc acc idx used act}
    (ha : ∀ t st k p pl b, t.Inv → (act t st k p pl b).1.Inv) :
    Keeps (poolOp i uses sa sb sc acc idx used act a) := by
  unfold poolOp
  refine issue_inv h fun _ _ _ ht => ?_
  extract_lets _ s1
  have h1 : s1.Inv := State.noteMiss_inv (State.releaseSync_inv ht)
  split
  · exact State.wait_inv h1
  · exact State.takeTrap_inv h1
  · extract_lets s2
    have h2 : s2.Inv := State.noteMiss_inv h1
    split
    next e2 => exact (State.poolEntry_inv h2).get e2
    · exact State.retire_inv (State.clearAnswers_inv (State.startOp_inv (ha _ _ _ _ _ _ h2)))

theorem execPoolp_inv {a : State} (h : a.Inv) {sa sb sc} : Keeps (execPoolp sa sb sc a) := by
  unfold execPoolp
  refine poolOp_inv h fun _ _ _ _ _ _ ht => ?_
  dsimp only
  split
  · exact State.homeStore_inv ht
  · split
    · refine State.homeStore_inv (State.homeStore_inv ?_)
      split
      · exact State.homeStore_inv ht
      · exact State.sealedStore_inv ht
      · exact ht
    · refine State.homeStore_inv ?_
      split
      · exact State.homeStore_inv ht
      · exact State.sealedStore_inv ht
      · exact ht

theorem execPoold_inv {a : State} (h : a.Inv) {sa sb sc} : Keeps (execPoold sa sb sc a) := by
  unfold execPoold
  refine poolOp_inv h fun _ _ _ _ _ _ ht => ?_
  split
  · exact State.acquireAt_inv (State.homeStore_inv ht)
  · exact ht

theorem execSucc_inv {a : State} (h : a.Inv) : Keeps (execSucc a) := by
  unfold execSucc
  refine issue_inv h fun _ _ _ ht => ?_
  extract_lets _ s1
  have h1 : s1.Inv := by
    dsimp only [s1]
    split
    · exact State.releaseSync_inv ht
    · exact ht
  exact State.retire_inv (State.updGrid_inv h1)

theorem execWaitpred_inv {a : State} (h : a.Inv) : Keeps (execWaitpred a) := by
  unfold execWaitpred
  refine issue_inv h fun _ _ _ ht => ?_
  extract_lets
  split
  · exact State.retire_inv ht
  · split
    · exact State.retire_inv (State.acquireAt_inv ht)
    · exact State.takeTrap_inv ht
    · exact State.wait_inv ht

theorem execCsrr_inv {a : State} (h : a.Inv) {sd num} : Keeps (execCsrr sd num a) := by
  unfold execCsrr
  exact issue_inv h fun _ _ _ ht => inv_ite (State.takeTrap_inv ht)
      (State.retire_inv (State.updStrand_inv (inv_ite (State.updCore_inv ht) ht)))

theorem State.csrWrite_inv {s : State} (h : s.Inv) {c st n v} : SomeInv (s.csrWrite c st n v) :=
  of_ite (P := SomeInv) (of_ite (P := SomeInv) trivial (updStrand_inv h))
      (of_ite (P := SomeInv) (of_ite (P := SomeInv) trivial (updStrand_inv h))
      (of_ite (P := SomeInv) (of_ite (P := SomeInv) trivial (updWg_inv (inv_with h)))
      (of_ite (P := SomeInv) (of_ite (P := SomeInv) trivial (updWg_inv h))
      (of_ite (P := SomeInv) (of_ite (P := SomeInv) trivial (updWg_inv h))
      (of_ite (P := SomeInv) (of_ite (P := SomeInv) trivial (setHome_inv h))
      (of_ite (P := SomeInv) (of_ite (P := SomeInv) trivial (updWg_inv h))
      (of_ite (P := SomeInv) (of_ite (P := SomeInv) trivial (updWg_inv h))
      (of_ite (P := SomeInv) (of_ite (P := SomeInv) trivial (updWg_inv h))
      (of_ite (P := SomeInv) (of_ite (P := SomeInv) trivial (updCore_inv h)) trivial)))))))))

theorem execCsrw_inv {a : State} (h : a.Inv) {sa num} : Keeps (execCsrw sa num a) := by
  unfold execCsrw
  refine issue_inv h fun _ _ _ ht => ?_
  split
  · exact State.takeTrap_inv ht
  next e => exact State.retire_inv ((State.csrWrite_inv ht).get e)

theorem execTrace_inv {a : State} (h : a.Inv) {sa sb code} : Keeps (execTrace sa sb code a) := by
  unfold execTrace
  exact issue_inv h fun _ _ _ ht => inv_ite (State.retire_inv ht)
      (State.uniformAccess_inv ht (fun _ _ ht2 => State.updWg_inv (State.storeAll_inv ht2)))

end Sys2Proof.Machine
end

section
/-! SUPPORT. Canonical memory: launches and Vorxus modules (R54 to R60, R347). -/

namespace Sys2Proof.Machine

theorem State.takeRun_inv {s : State} (h : s.Inv) {g} : (s.takeRun g).Inv := by
  unfold State.takeRun
  extract_lets
  refine inv_ite h ?_
  split
  · exact h
  · exact updGrid_inv (updCtx_inv h)

theorem State.takeRuns_inv {s : State} (h : s.Inv) : s.takeRuns.Inv := inv_foldl (fun _ _ ht => takeRun_inv ht) _ h

theorem State.heapWrite_inv {s : State} (h : s.Inv) {ctx a b} : (s.heapWrite ctx a b).Inv := by
  unfold State.heapWrite
  split
  · exact h
  · refine inv_foldl_fst (fun _ _ h2 => ?_) _ h
    split
    · exact homeStore_inv h2
    · exact sealedStore_inv h2
    · exact h2

theorem State.layStub_inv {s : State} (h : s.Inv) {ctx f} : (s.layStub ctx f).Inv :=
  inv_ite h (updCtx_inv (heapWrite_inv h))

theorem State.accept_inv {s : State} (h : s.Inv) {who ctx queue parent recNo prioMax pred r} :
    (s.accept who ctx queue parent recNo prioMax pred r).1.Inv := by
  unfold State.accept
  split
  · exact h
  · split
    · exact headFailed_inv h
    · exact h
    · split
      · exact h
      · dsimp only
        split
        · exact h
        · split
          · exact h
          · exact h
          · exact takeRun_inv (inv_with (inv_foldl (fun _ _ ht => layStub_inv ht) _ (fresh_inv h)))

theorem execLaunch_inv {a : State} (h : a.Inv) {sa sc} : Keeps (execLaunch sa sc a) := by
  unfold execLaunch
  refine issue_inv h fun t _ _ ht => ?_
  extract_lets _ _ s1 give
  have h1 : s1.Inv := State.releaseSync_inv ht
  have hgive : ∀ t v, t.Inv → (give t v).Inv := fun _ _ ht2 => State.forgetAsks_inv
      (State.retire_inv (State.updStrand_inv ht2))
  refine inv_ite (State.takeTrap_inv h1) ?_
  split
  · exact State.takeTrap_inv h1
  · refine inv_ite (hgive _ _ h1) ?_
    extract_lets _ x2
    split
    · refine hgive _ _ ?_
      · dsimp only [x2]
        split
        · exact h1
        · exact State.accept_inv h1
    · refine State.wait_inv (State.headAsk_inv ?_)
      dsimp only [x2]
      split
      · exact h1
      · exact State.accept_inv h1
    · refine hgive _ _ ?_
      · refine State.completion_inv ?_
        dsimp only [x2]
        split
        · exact h1
        · exact State.accept_inv h1

end Sys2Proof.Machine
end

section
/-! SUPPORT. Canonical memory: images of workgroups (R89, R90). -/

namespace Sys2Proof.Machine

theorem State.imageStore_inv {s : State} (h : s.Inv) {wg ps} : OkInv (s.imageStore wg ps) := by
  unfold State.imageStore
  extract_lets
  split
  · exact h
  · exact okInv_map fun _ => areaDone_inv (areaMisses_inv h)

theorem State.imagePoison_inv {s : State} (h : s.Inv) {wg} : (s.imagePoison wg).Inv := by
  unfold State.imagePoison
  extract_lets
  split
  · exact h
  · refine inv_foldl (fun _ _ ht => ?_) _ h
    split
    · exact poisonAt_inv ht
    · exact ht

theorem State.imageMisses_inv {s : State} (h : s.Inv) {wg} : (s.imageMisses wg).Inv := by
  unfold State.imageMisses
  extract_lets
  split
  · exact h
  · exact areaMisses_inv h

theorem State.imageAsk_inv {s : State} (h : s.Inv) {wg ks} : (s.imageAsk wg ks).Inv := askAll_inv h

theorem State.imageSync_inv {s : State} (h : s.Inv) {wg} : (s.imageSync wg).Inv := by
  unfold State.imageSync
  extract_lets
  split
  next e => exact updWg_inv (clearAnswers_inv ((imageStore_inv h).get e))
  · exact imageAsk_inv h
  · exact h
  · exact updWg_inv (clearAnswers_inv h)

theorem State.imageSyncs_inv {s : State} (h : s.Inv) : s.imageSyncs.Inv :=
  inv_foldl (fun _ _ ht => imageSync_inv ht) _ h

theorem State.touchImage_inv {s : State} (h : s.Inv) {wg} : (s.touchImage wg).Inv := updWg_inv h

end Sys2Proof.Machine
end

section
/-! SUPPORT. Canonical memory: reset, boot, throttle, soft errors and the fatal dump (R12 to R24, R208). -/

namespace Sys2Proof.Machine

theorem act_inv {s : State} (h : s.Inv) {f} (hf : ∀ t, t.Inv → (f t).Inv) : Keeps (act f s) := hf _ h

theorem State.resetNow_inv {s : State} (h : s.Inv) : s.resetNow.Inv := wf_filter _ h _

theorem State.boot_inv {s : State} (h : s.Inv) : s.boot.Inv := by
  unfold State.boot
  extract_lets _ s1 s2 s3 s4
  have h1 : s1.Inv := setMod_inv h
  have h2 : s2.Inv := setHost_inv h1
  have h3 : s3.Inv := inv_foldl (fun _ _ ht => updPort_inv ht) _ h2
  have h4 : s4.Inv := inv_foldl (fun _ _ ht => setCtl_inv (setBase_inv ht)) _ h3
  exact inv_ite h (inv_ite (setMod_inv h) (inv_foldl (fun _ _ ht => setDbar_inv ht) _ h4))

theorem State.throttle_inv {s : State} (h : s.Inv) : s.throttle.Inv :=
  inv_ite (setMod_inv h) (canary_inv (setMod_inv h))

theorem State.senseNow_inv {s : State} (h : s.Inv) : s.senseNow.Inv := inv_ite h (setMod_inv h)

theorem execPatrolScrub_inv {a : State} (h : a.Inv) : Keeps (execPatrolScrub a) :=
  act_inv h fun _ ht => inv_ite ht (inv_ite (State.setMod_inv ht)
      (inv_ite ht (State.canary_inv (State.poisonAt_inv ht))))

/-- Bytes set one after the other keep a memory canonical. -/
theorem wf_foldl_mset {α : Type} (f : α → Nat) (g : α → Byte) (l : List α) :
    ∀ m : Memory, m.wf → (l.foldl (fun m x => mset m (f x) (g x)) m).wf := by
  induction l with
  | nil => intro m h; exact h
  | cons x l ih => intro m h; exact ih _ (wf_mset m h _ _)

theorem State.fatalNow_inv {s : State} (h : s.Inv) {cause} : (s.fatalNow cause).Inv :=
  inv_ite h (wf_foldl_mset _ _ _ _ (wf_filter _ h _))

theorem execThermalTrip_inv {a : State} (h : a.Inv) : Keeps (execThermalTrip a) :=
  act_inv h fun _ ht => inv_ite (State.senseNow_inv ht) (State.setMod_inv
      (State.fatalNow_inv (State.senseNow_inv ht)))

theorem execStoptickWrite_inv {a : State} (h : a.Inv) : Keeps (execStoptickWrite a) :=
  act_inv h fun _ ht => inv_ite (State.canary_inv ht) (inv_ite (State.canary_inv ht) (State.setMod_inv ht))

theorem execStopOnTick_inv {a : State} (h : a.Inv) : Keeps (execStopOnTick a) := by
  unfold execStopOnTick
  refine act_inv h fun _ ht => ?_
  split
  · exact inv_ite (State.setMod_inv ht) ht
  · exact ht

end Sys2Proof.Machine
end

section
/-! SUPPORT. Canonical memory: links (R25 to R31). -/

namespace Sys2Proof.Machine

theorem State.msgDone_inv {s : State} (h : s.Inv) {p vc} : (s.msgDone p vc).Inv := inv_ite h (updPort_inv h)

theorem State.portDown_inv {s : State} (h : s.Inv) {p} : (s.portDown p).Inv := by
  unfold State.portDown
  extract_lets _ s1 _ s2 s3
  have h1 : s1.Inv := canary_inv h
  have h2 : s2.Inv := updPort_inv h1
  have h3 : s3.Inv := by
    refine inv_foldl (fun _ _ ht => ?_) _ h2
    refine inv_ite (setFab_inv ht) ?_
    split
    · exact sendOn_inv ht
    · exact ht
  exact inv_foldl (fun _ _ ht => contextFatal_inv ht) _ h3

theorem State.retrain_inv {s : State} (h : s.Inv) {p cause} : (s.retrain p cause).Inv :=
  inv_ite (portDown_inv h) (updPort_inv (canary_inv h))

theorem execFlitTransmit_inv {a : State} (h : a.Inv) : Keeps (execFlitTransmit a) := by
  unfold execFlitTransmit
  refine act_inv h fun _ ht => ?_
  extract_lets
  refine inv_ite ht ?_
  split
  · exact State.updPort_inv ht
  · split
    · exact State.updPort_inv ht
    · split
      · exact State.updPort_inv ht

theorem State.deliver_inv {s : State} (h : s.Inv) {p vc m} : (s.deliver p vc m).Inv := by
  unfold State.deliver
  split
  · exact canary_inv (msgDone_inv h)
  · exact inv_with h

theorem State.discard_inv {s : State} (h : s.Inv) {p} : (s.discard p).Inv := updPort_inv h

theorem execFlitReceive_inv {a : State} (h : a.Inv) : Keeps (execFlitReceive a) := by
  unfold execFlitReceive
  refine act_inv h fun _ ht => ?_
  extract_lets _ _ _ s1
  have h1 : s1.Inv := State.updPort_inv ht
  refine inv_ite ht ?_
  split
  · exact State.discard_inv h1
  · extract_lets s2 s3 _ _ s4 s5 s6
    have h22 : s2.Inv := State.updPort_inv h1
    have h3 : s3.Inv := inv_ite h22 (State.updPort_inv h22)
    have h4 : s4.Inv := State.updPort_inv h3
    have h5 : s5.Inv := inv_foldl (fun _ _ ht2 => State.deliver_inv ht2) _ h4
    have h6 : s6.Inv := inv_ite h3 (inv_ite (State.discard_inv h3) (State.updPort_inv h5))
    exact inv_ite (State.retrain_inv h6) h6

end Sys2Proof.Machine
end

section
/-! SUPPORT. Canonical memory: messages (R32 to R43, R305). -/

namespace Sys2Proof.Machine

theorem State.reply_inv {s : State} (h : s.Inv) {m die op status data} : (s.reply m die op status data).Inv := by
  unfold State.reply
  split
  · exact sendOn_inv h
  · exact h

theorem State.holdMsg_inv {s : State} (h : s.Inv) {i m} : (s.holdMsg i m).Inv := setFab_inv h

theorem State.serve_inv {s : State} (h : s.Inv) {i n f} (hf : ∀ t k, t.Inv → (f t k).Inv) : (s.serve i n f).Inv := by
  unfold State.serve
  extract_lets _ _ s1
  have h1 : s1.Inv := msgDone_inv h
  split
  · exact holdMsg_inv h1
  · refine inv_ite (reply_inv h1) ?_
    split
    · exact reply_inv h1
    · exact hf _ _ h1

theorem execAtomic_inv {a : State} (h : a.Inv) : Keeps (execAtomic a) := by
  unfold execAtomic
  refine act_inv h fun _ ht => ?_
  extract_lets
  exact State.serve_inv ht fun _ _ ht2 => inv_ite (State.reply_inv ht2)
      (inv_ite (State.reply_inv ht2) (State.reply_inv (State.atomAt_inv ht2)))

theorem State.contribAt_inv {s : State} (h : s.Inv) {m port idx v} : (s.contribAt m port idx v).Inv := by
  unfold State.contribAt
  extract_lets
  split
  · exact holdMsg_inv h
  · refine inv_ite (reply_inv h) ?_
    split
    · exact reply_inv h
    · split
      · exact inv_ite (reply_inv h) (inv_ite (reply_inv h) (reply_inv (redApply_inv h)))
      · refine inv_ite (reply_inv h) ?_
        extract_lets
        split
        · exact reply_inv (contribute_inv h)
        · exact reply_inv (contribute_inv h)
        · exact reply_inv (contribute_inv h)

theorem State.answered_inv {s : State} (h : s.Inv) {tag data fault} : (s.answered tag data fault).Inv := by
  unfold State.answered
  split
  · exact h
  · exact putAnswer_inv (setFab_inv h)

theorem State.response_inv {s : State} (h : s.Inv) {data fault} : (s.response data fault).Inv :=
  answered_inv (msgDone_inv h)

theorem State.sendReq_inv {s : State} (h : s.Inv) {tag r} : (s.sendReq tag r).Inv := by
  unfold State.sendReq
  split
  · exact answered_inv h
  · exact inv_ite h (sendOn_inv (setFab_inv h))

theorem State.sendHeld_inv {s : State} (h : s.Inv) : s.sendHeld.Inv := inv_foldl (fun _ _ ht => sendReq_inv ht) _ h

theorem execRetryResend_inv {a : State} (h : a.Inv) : Keeps (execRetryResend a) := by
  unfold execRetryResend
  refine act_inv h fun _ ht => ?_
  split
  · exact ht
  · split
    · exact ht
    · exact inv_ite ht (State.sendReq_inv ht)

theorem execRemoteTimeout_inv {a : State} (h : a.Inv) : Keeps (execRemoteTimeout a) := by
  unfold execRemoteTimeout
  refine act_inv h fun _ ht => ?_
  split
  · exact ht
  · exact inv_ite ht (State.answered_inv ht)

theorem execBarrier_inv {a : State} (h : a.Inv) : Keeps (execBarrier a) := by
  unfold execBarrier
  refine act_inv h fun _ ht => ?_
  extract_lets _ _ _ _ s1
  have h1 : s1.Inv := State.msgDone_inv ht
  exact inv_ite (inv_ite (State.rootArrival_inv h1) h1) (inv_ite (State.advanceGen_inv h1) h1)

theorem State.sendTick_inv {s : State} (h : s.Inv) {p} : (s.sendTick p).Inv := sendOn_inv h

theorem State.tickCheck_inv {s : State} (h : s.Inv) {p t} : (s.tickCheck p t).Inv :=
  inv_ite h (canary_inv (setMod_inv h))

theorem execTicksync_inv {a : State} (h : a.Inv) : Keeps (execTicksync a) := by
  unfold execTicksync
  refine act_inv h fun _ ht => ?_
  extract_lets _ _ s1 _ s2
  have h1 : s1.Inv := State.msgDone_inv ht
  have h2 : s2.Inv := State.tickCheck_inv h1
  refine inv_ite (State.sendTick_inv h1) ?_
  split
  · exact State.sendTick_inv (State.updPort_inv h1)
  · exact inv_with (State.updPort_inv h1)
  · exact inv_ite (inv_with h2) h2

theorem execWindowTimeout_inv {a : State} (h : a.Inv) : Keeps (execWindowTimeout a) := by
  unfold execWindowTimeout
  refine act_inv h fun _ ht => ?_
  extract_lets
  split
  · exact ht
  · exact State.canary_inv (State.updWindow_inv ht)

end Sys2Proof.Machine
end

section
/-! SUPPORT. Canonical memory: the host interface (R46 to R54, R205). -/

namespace Sys2Proof.Machine

theorem State.mbRefused_inv {s : State} (h : s.Inv) {off} : (s.mbRefused off).Inv := canary_inv h

theorem State.mbCommand_inv {s : State} (h : s.Inv) {op least named f} (hf : ∀ t b, t.Inv → (f t b).1.Inv) :
    (s.mbCommand op least named f).Inv := by
  unfold State.mbCommand
  extract_lets _ _ _ r s1
  have h1 : s1.Inv := by
    refine inv_ite ?_ h
    dsimp only [r]
    split
    · exact h
    · exact hf _ _ h
  exact inv_ite h (inv_ite (mbRefused_inv h) (setHost_inv h1))

theorem mbErr_inv {s : State} (h : s.Inv) {e} : (mbErr e s).1.Inv := h

theorem execCreateContext_inv {a : State} (h : a.Inv) : Keeps (execCreateContext a) := by
  unfold execCreateContext
  refine act_inv h fun _ ht => ?_
  refine State.mbCommand_inv ht fun _ _ ht2 => ?_
  dsimp only
  split
  · split
    · exact mbErr_inv ht2
    · split
      · exact mbErr_inv ht2
      · exact inv_with ht2
  · split
    · exact mbErr_inv ht2
    · split
      · exact mbErr_inv ht2
      · exact inv_with ht2

theorem State.updQueue_inv {s : State} (h : s.Inv) {q f} : (s.updQueue q f).Inv := setHost_inv h

theorem execDestroyContext_inv {a : State} (h : a.Inv) : Keeps (execDestroyContext a) := by
  unfold execDestroyContext
  refine act_inv h fun _ ht => ?_
  refine State.mbCommand_inv ht fun _ _ ht2 => ?_
  dsimp only
  split
  · exact mbErr_inv ht2
  · exact inv_foldl (fun _ _ ht3 => State.endGrid_inv ht3) _ (State.setHost_inv ht2)

theorem execBindQueue_inv {a : State} (h : a.Inv) : Keeps (execBindQueue a) := by
  unfold execBindQueue
  refine act_inv h fun _ ht => ?_
  refine State.mbCommand_inv ht fun _ _ ht2 => ?_
  dsimp only
  split
  · exact mbErr_inv ht2
  · split
    · exact mbErr_inv ht2
    · exact State.updQueue_inv ht2

theorem execAttestationReport_inv {a : State} (h : a.Inv) : Keeps (execAttestationReport a) := by
  unfold execAttestationReport
  refine act_inv h fun _ ht => ?_
  refine State.mbCommand_inv ht fun _ _ ht2 => ?_
  dsimp only
  split
  · exact mbErr_inv ht2
  · exact ht2

theorem execReadDumpDescriptor_inv {a : State} (h : a.Inv) : Keeps (execReadDumpDescriptor a) := by
  unfold execReadDumpDescriptor
  refine act_inv h fun _ ht => ?_
  refine State.mbCommand_inv ht fun _ _ ht2 => ?_
  split
  · exact mbErr_inv ht2
  · exact ht2

theorem execFirmwareUpdate_inv {a : State} (h : a.Inv) : Keeps (execFirmwareUpdate a) := by
  unfold execFirmwareUpdate
  refine act_inv h fun _ ht => ?_
  refine State.mbCommand_inv ht fun _ _ ht2 => ?_
  dsimp only
  split
  · exact mbErr_inv ht2
  · split
    · exact mbErr_inv ht2
    · exact State.setMod_inv ht2

theorem execReclaimCodeHeap_inv {a : State} (h : a.Inv) : Keeps (execReclaimCodeHeap a) := by
  unfold execReclaimCodeHeap
  refine act_inv h fun _ ht => ?_
  refine State.mbCommand_inv ht fun _ _ ht2 => ?_
  dsimp only
  split
  · exact mbErr_inv ht2
  · split
    · exact mbErr_inv ht2
    · exact State.updCtx_inv (State.setHome_inv (inv_foldl (fun _ _ ht3 => State.heapWrite_inv ht3) _ ht2))

theorem State.removeCtx_inv {s : State} (h : s.Inv) {c} : (s.removeCtx c).Inv := by
  unfold State.removeCtx
  extract_lets ps mine s1 s2 s3 s4
  exact (of_ite h (wf_filter _ h _) : s1.mem.wf)

theorem execMailboxCommandComplete_inv {a : State} (h : a.Inv) : Keeps (execMailboxCommandComplete a) := by
  unfold execMailboxCommandComplete
  refine act_inv h fun _ ht => ?_
  split
  · exact ht
  · refine inv_ite ht ?_
    extract_lets s1
    have h1 : s1.Inv := by
      dsimp only [s1]
      split
      · exact State.removeCtx_inv ht
      · exact ht
    exact State.raise_inv (State.setHost_inv h1)

theorem State.barResized_inv {s : State} (h : s.Inv) : s.barResized.Inv := by
  unfold State.barResized
  split
  · exact setHost_inv h
  · exact h

theorem execBarwinWrite_inv {a : State} (h : a.Inv) : Keeps (execBarwinWrite a) :=
  act_inv h fun _ ht => inv_ite (State.mbRefused_inv (State.barResized_inv ht))
      (State.setHost_inv (State.barResized_inv ht))

theorem execBar2Access_inv {a : State} (h : a.Inv) : Keeps (execBar2Access a) := by
  unfold execBar2Access
  refine act_inv h fun _ ht => ?_
  extract_lets
  exact inv_ite (State.setHost_inv ht) (inv_ite (inv_foldl (fun _ _ ht2 => inv_ite ht2 (State.homeStore_inv ht2)) _
      (State.setHome_inv ht)) (State.setHost_inv ht))

theorem State.queueStop_inv {s : State} (h : s.Inv) {q} : (s.queueStop q).Inv := raise_inv (updQueue_inv h)

theorem execQctlWrite_inv {a : State} (h : a.Inv) : Keeps (execQctlWrite a) :=
  act_inv h fun _ ht => inv_ite ht (inv_ite (State.queueStop_inv (State.updQueue_inv ht)) (State.updQueue_inv ht))

theorem execQprodWrite_inv {a : State} (h : a.Inv) : Keeps (execQprodWrite a) := by
  unfold execQprodWrite
  refine act_inv h fun _ ht => ?_
  extract_lets
  exact inv_ite ht (inv_ite (State.canary_inv (State.queueStop_inv ht))
      (inv_foldl (fun _ _ ht2 => State.showAll_inv ht2) _ (State.updQueue_inv ht)))

theorem execBar0RegisterWrite_inv {a : State} (h : a.Inv) : Keeps (execBar0RegisterWrite a) := by
  unfold execBar0RegisterWrite
  refine act_inv h fun _ ht => ?_
  extract_lets
  exact inv_ite (inv_ite (State.updQueue_inv ht) ht) (inv_ite (State.setHost_inv ht)
      (inv_ite (State.setHost_inv ht) (inv_ite ht (State.setHost_inv ht))))

theorem State.recordFails_inv {s : State} (h : s.Inv) {q} : (s.recordFails q).Inv :=
  forgetAsks_inv (headFailed_inv (queueStop_inv h))

theorem State.consume_inv {s : State} (h : s.Inv) {q v} : (s.consume q v).Inv :=
  inv_ite (updQueue_inv h) (headPut_inv (fresh_inv (updQueue_inv h)))

theorem State.takeRecord_inv {s : State} (h : s.Inv) {kinds f} (hf : ∀ t q x r, t.Inv → BothInv (f t q x r)) :
    (s.takeRecord kinds f).Inv := by
  unfold State.takeRecord
  extract_lets
  refine inv_ite h ?_
  split
  · exact h
  · exact recordFails_inv h
  · exact headAsk_inv h
  · refine inv_ite h ?_
    split
    next e2 => exact (hf _ _ _ _ h).error e2
    next e2 => exact forgetAsks_inv (consume_inv (updQueue_inv ((hf _ _ _ _ h).ok e2)))

theorem State.rejectRec_inv {s : State} (h : s.Inv) {q x r} : (s.rejectRec q x r).Inv := completion_inv h

theorem execLaunchRecord_inv {a : State} (h : a.Inv) : Keeps (execLaunchRecord a) := by
  unfold execLaunchRecord
  refine act_inv h fun _ ht => ?_
  refine State.takeRecord_inv ht fun _ _ _ _ ht2 => ?_
  extract_lets dep y
  split
  · refine State.headAsk_inv ?_
    dsimp only [y]
    clear_value dep
    split
    · exact ht2
    · exact State.accept_inv ht2
  · refine State.rejectRec_inv (State.updQueue_inv ?_)
    dsimp only [y]
    clear_value dep
    split
    · exact ht2
    · exact State.accept_inv ht2
  · extract_lets s1
    have h1 : s1.Inv := by
      refine State.updQueue_inv ?_
      dsimp only [y]
      clear_value dep
      split
      · exact ht2
      · exact State.accept_inv ht2
    clear_value dep
    split
    · split
      · exact inv_ite h1 (finishGrid_inv h1)
      · exact h1
    · exact h1

theorem State.queueWait_inv {s : State} (h : s.Inv) {isync q x r} : BothInv (s.queueWait isync q x r) :=
  of_ite (P := BothInv) (rejectRec_inv h) (updQueue_inv h)

theorem State.endWait_inv {s : State} (h : s.Inv) {isync f} (hf : ∀ t w, t.Inv → (f t w).Inv) :
    (s.endWait isync f).Inv := by
  unfold State.endWait
  extract_lets
  split
  · exact h
  · exact forgetAsks_inv (consume_inv (completion_inv (hf _ _ (updQueue_inv h))))

theorem execIsyncInvalidate_inv {a : State} (h : a.Inv) : Keeps (execIsyncInvalidate a) := by
  unfold execIsyncInvalidate
  refine act_inv h fun _ ht => ?_
  refine State.endWait_inv ht fun _ _ ht2 => ?_
  extract_lets s1 s2
  have h1 : s1.Inv := State.setHome_inv (State.dropTlb_inv ht2)
  have h2 : s2.Inv := State.setSched_inv h1
  exact inv_ite (State.updCtx_inv h2) h2

theorem State.headStep_inv {s : State} (h : s.Inv) {o} : (s.headStep o).Inv := by
  unfold State.headStep
  extract_lets gone
  have hgone : ∀ t, t.Inv → (gone t).Inv := fun _ ht => forgetAsks_inv (setHost_inv ht)
  split
  · exact askAll_inv h
  · exact h
  · exact headDropped_inv (hgone _ h)
  · extract_lets s1
    have h1 : s1.Inv := areaDone_inv (hgone _ h)
    split
    · exact raise_inv h1
    · exact h1

theorem State.headSteps_inv {s : State} (h : s.Inv) : s.headSteps.Inv := inv_foldl (fun _ _ ht => headStep_inv ht) _ h

end Sys2Proof.Machine
end

section
/-! SUPPORT. Canonical memory: control transfers, calls, ROUTE, PART, ACQ and REL (R62, R126, R254, R270 to R279). -/

namespace Sys2Proof.Machine

theorem State.awaitTargets_inv {s : State} (h : s.Inv) {c st ts} : SomeInv (s.awaitTargets c st ts) := by
  unfold State.awaitTargets
  extract_lets s1 _ ks pages
  have h1 : s1.Inv := inv_foldl (fun _ _ ht => fetchMisses_inv ht) _ h
  clear_value pages
  clear_value ks
  split
  · exact waitAnew_inv h1
  · trivial
  · exact waitAnew_inv (askAll_inv h1)

theorem State.branchTo_inv {s : State} (h : s.Inv) {c st t} : (s.branchTo c st t).Inv :=
  inv_ite (takeTrap_inv (clearAnswers_inv h)) (clearAnswers_inv (updStrand_inv h))

theorem State.branchAll_inv {s : State} (h : s.Inv) {c st x} : (s.branchAll c st x).Inv := by
  unfold State.branchAll
  split
  · exact updStrand_inv h
  · exact inv_getD (awaitTargets_inv h) (branchTo_inv h)

theorem State.branch_inv {s : State} (h : s.Inv) {c st tag spans target maxRuns} :
    (s.branch c st tag spans target maxRuns).Inv := by
  unfold State.branch
  split
  · split
    · exact branchAll_inv h
    · refine inv_ite (expandStrand_inv h) (inv_getD (awaitTargets_inv h) ?_)
      split
      next e3 => exact (split_inv h).get e3
      · exact expandStrand_inv h
  · extract_lets _ nums
    clear_value nums
    split
    · exact branchAll_inv h
    · refine inv_getD (awaitTargets_inv h) ?_
      split
      next e3 => exact (split_inv h).get e3
      · exact h
  · exact h

theorem State.callGo_inv {s : State} (h : s.Inv) {c st t} : (s.callGo c st t).Inv := by
  unfold State.callGo
  refine inv_ite (clearAnswers_inv (updStrand_inv h)) ?_
  split
  · exact areaStop_inv h
  next e => exact clearAnswers_inv (updStrand_inv ((pushFrame_inv h).get e))

theorem State.callTo_inv {s : State} (h : s.Inv) {c st t} : (s.callTo c st t).Inv :=
  inv_getD (awaitTargets_inv h) (inv_ite (takeTrap_inv (clearAnswers_inv h)) (callGo_inv h))

theorem execVcallr_inv {a : State} (h : a.Inv) {va} : Keeps (execVcallr va a) := by
  unfold execVcallr
  refine issue_inv h fun _ _ _ ht => ?_
  split
  · exact inv_ite (State.callTo_inv ht) (State.expandStrand_inv ht)
  · extract_lets _ ts
    clear_value ts
    split
    · exact State.callTo_inv ht
    · refine inv_getD (State.awaitTargets_inv ht) ?_
      split
      · exact ht
      next e3 => exact inv_with ((State.split_inv ht).get e3)
  · exact ht

theorem State.returnTo_inv {s : State} (h : s.Inv) {c t ret frames} : (s.returnTo c t ret frames).Inv := by
  unfold State.returnTo
  extract_lets s1
  have h1 : s1.Inv := clearAnswers_inv (updStrand_inv h)
  split
  · exact h1
  · extract_lets s2
    have h2 : s2.Inv := startTargets_inv h1
    split
    · exact inv_ite (joinStep_inv h2) h2
    · exact h2

theorem State.popReturn_inv {s : State} (h : s.Inv) {c st} : (s.popReturn c st).Inv := by
  unfold State.popReturn
  split
  · exact returnTo_inv h
  · split
    · exact areaStop_inv h
    · exact returnTo_inv (runMisses_inv h)
  · exact takeTrap_inv h

theorem State.takeBlocks_inv {s : State} (h : s.Inv) {wg warp m} : (s.takeBlocks wg warp m).Inv := updWg_inv h

theorem execAcq_inv {a : State} (h : a.Inv) {sd wait m} : Keeps (execAcq sd wait m a) := by
  unfold execAcq
  refine issue_inv h fun t _ _ ht => ?_
  extract_lets done
  have hdone : ∀ t v, t.Inv → (done t v).Inv := fun _ _ ht2 => State.retire_inv (State.updStrand_inv ht2)
  split
  · exact State.expandStrand_inv ht
  · exact inv_ite (hdone _ _ ht) (inv_ite (hdone _ _ (State.takeBlocks_inv ht))
      (inv_ite (hdone _ _ ht) (State.wait_inv ht)))

theorem execRel_inv {a : State} (h : a.Inv) {m} : Keeps (execRel m a) := by
  unfold execRel
  refine issue_inv h fun _ _ _ ht => ?_
  split
  · exact State.retire_inv (inv_ite (State.updWg_inv ht) ht)
  · exact State.retire_inv ht

end Sys2Proof.Machine
end

section
/-! SUPPORT. Canonical memory: placement, pre-emption, saving and restoring (R74 to R94). -/

namespace Sys2Proof.Machine

theorem State.updGang_inv {s : State} (h : s.Inv) {g k f} : (s.updGang g k f).Inv := updGrid_inv h

theorem State.startStrands_inv {s : State} (h : s.Inv) {wg} : (s.startStrands wg).Inv :=
  inv_ite (inv_with h) (inv_foldl (fun _ _ ht => inv_with (updWg_inv ht)) _ h)

theorem State.zeroRange_inv {s : State} (h : s.Inv) {k n} : (s.zeroRange k n).Inv := setHome_inv (clearRange_inv h)

theorem State.reserve_inv {s : State} (h : s.Inv) {gk k q places} : (s.reserve gk k q places).Inv := by
  unfold State.reserve
  extract_lets
  exact updGrid_inv (inv_foldl_fst (fun _ _ h2 => inv_ite (zeroRange_inv (zeroRange_inv (inv_with h2)))
      (inv_with (zeroRange_inv (zeroRange_inv (inv_with h2))))) _ h)

theorem State.reserveAll_inv {gk quads} {ks : List Nat} :
    ∀ {s : State}, s.Inv → SomeInv (State.reserveAll gk quads ks s) := by
  induction ks with
  | nil => intro s h; exact h
  | cons k r ih =>
    intro s h
    unfold State.reserveAll
    dsimp only
    split
    · trivial
    · exact ih (reserve_inv h)

theorem State.reserveGroups_inv {gk regions f} (hf : ∀ a b t, t.Inv → SomeInv (f a b t)) {l : List (List Nat)} :
    ∀ {s : State}, s.Inv → SomeInv (State.reserveGroups gk regions f l s) := by
  induction l with
  | nil => intro s h; exact h
  | cons ks r ih =>
    intro s h
    unfold State.reserveGroups
    split
    · trivial
    next t e =>
      obtain ⟨q, _, hq⟩ := List.exists_of_findSome?_eq_some e
      exact ih ((hf q ks s h).get hq)

theorem State.reserveUnit_inv {s : State} (h : s.Inv) {gk ks} : SomeInv (s.reserveUnit gk ks) := by
  unfold State.reserveUnit
  extract_lets _ inRegion
  split
  · dsimp only [inRegion]
    split
    · exact reserveAll_inv h
    · exact reserveGroups_inv (fun _ _ _ ht => reserveAll_inv ht) h
  · refine reserveGroups_inv (fun _ _ _ ht => ?_) h
    dsimp only [inRegion]
    split
    · exact reserveAll_inv ht
    · exact reserveGroups_inv (fun _ _ _ ht2 => reserveAll_inv ht2) ht

theorem State.rateAfter_inv {s : State} (h : s.Inv) {gk ks} : (s.rateAfter gk ks).Inv := by
  unfold State.rateAfter
  refine inv_foldl (fun _ _ ht => ?_) _ h
  split
  · exact ht
  · exact setSched_inv ht

theorem State.tryCand_inv {s : State} (h : s.Inv) {c} : SomeInv (s.tryCand c) :=
  of_ite (P := SomeInv) (of_ite (P := SomeInv) h trivial) (reserveUnit_inv h)

theorem State.emptied_inv {s : State} (h : s.Inv) {quads} : (s.emptied quads).Inv := inv_with h

theorem State.chooseHead_inv {s : State} (h : s.Inv) {miss} : (s.chooseHead miss).Inv := by
  unfold State.chooseHead
  extract_lets _ s1
  have h1 : s1.Inv := setSched_inv h
  refine inv_ite h ?_
  split
  · exact h1
  · split
    · exact h1
    · exact setSched_inv h1

/-- The next move of the placers, where it places something, is a state with reservations. -/
theorem State.scan_inv {s : State} (h : s.Inv) (cs : List Cand) : ∀ c t, (s.scan cs).1 = some (c, t) → t.Inv := by
  induction cs with
  | nil => intro c t e; cases e
  | cons x r ih =>
    intro c t e
    unfold State.scan at e
    split at e
    · exact ih c t e
    next t' et =>
      split at e
      · obtain ⟨rfl, rfl⟩ : x = c ∧ t' = t := by simpa using e
        exact (State.tryCand_inv h).get et
      · exact ih c t e

theorem execGangPlacement_inv {s : State} (h : s.Inv) : Keeps (execGangPlacement s) := by
  unfold execGangPlacement
  refine act_inv h fun t ht => ?_
  dsimp only
  refine State.chooseHead_inv ?_
  split
  next c t' e =>
    refine inv_ite ht (State.rateAfter_inv ?_)
    refine inv_foldl (fun _ _ hx => inv_elim hx fun _ => State.showAll_inv hx) _ ?_
    exact inv_foldl (fun _ _ hx => inv_foldl (fun _ _ hy => State.startStrands_inv hy) _ hx) _ (State.scan_inv ht _ c t' e)
  · exact ht

theorem State.preempt_inv {s : State} (h : s.Inv) {gk k} : (s.preempt gk k).Inv := by
  unfold State.preempt
  refine inv_foldl (fun _ _ ht => ?_) _ h
  split
  · exact ht
  · exact inv_ite (updGang_inv ht) ht

theorem execHeadWaitExpiry_inv {a : State} (h : a.Inv) : Keeps (execHeadWaitExpiry a) := by
  unfold execHeadWaitExpiry
  refine act_inv h fun _ ht => ?_
  split
  · exact ht
  · refine inv_ite ht ?_
    split
    · exact ht
    · extract_lets
      split
      · exact ht
      · exact inv_foldl (fun _ _ ht3 => State.preempt_inv ht3) _ ht

theorem State.yieldToPred_inv {s : State} (h : s.Inv) : s.yieldToPred.Inv :=
  inv_foldl (fun _ _ ht => inv_foldl (fun _ _ ht2 => inv_ite (preempt_inv ht2) ht2) _ ht) _ h

theorem execGangHalt_inv {a : State} (h : a.Inv) : Keeps (execGangHalt a) := by
  unfold execGangHalt
  refine act_inv h fun _ ht => ?_
  split
  · exact ht
  · refine inv_ite ht (inv_ite (State.updGang_inv ht) ?_)
    extract_lets _ _ s1 s2
    have h1 : s1.Inv := inv_foldl (fun _ _ ht2 => State.capsMark_inv ht2) _ ht
    have h2 : s2.Inv := inv_foldl (fun _ _ ht2 => State.touchImage_inv ht2) _ h1
    exact State.updGang_inv h2

theorem State.abandon_inv {s : State} (h : s.Inv) {wg} : (s.abandon wg).Inv := by
  unfold State.abandon
  extract_lets _ _ first s1
  have h1 : s1.Inv := by
    dsimp only [s1]
    clear_value first
    split
    · exact h
    · exact logRecord_inv h
  exact endGrid_inv (updWg_inv h1)

theorem State.imageStop_inv {s : State} (h : s.Inv) {wg x} : (s.imageStop wg x).Inv := by
  unfold State.imageStop
  split
  · exact imageAsk_inv h
  · exact h
  · exact abandon_inv h
  · extract_lets _ s1
    have h1 : s1.Inv := noteMiss_inv h
    exact inv_ite (hold_inv h1) (inv_ite (askPage_inv (hold_inv h1))
        (abandon_inv (forgetAsks_inv (forgetHolds_inv h1))))

theorem State.imageStops_inv {s : State} (h : s.Inv) {l} : (s.imageStops l).Inv :=
  inv_foldl (fun _ _ ht => imageStop_inv ht) _ h

theorem State.saveImage_inv {s : State} (h : s.Inv) {wg} : (s.saveImage wg).Inv := by
  unfold State.saveImage
  extract_lets _ _ _ s1
  have h1 : s1.Inv := by
    dsimp only [s1]
    split
    next e => exact imagePoison_inv ((imageStore_inv h).get e)
    · exact h
  exact forgetHolds_inv (forgetAsks_inv (updWg_inv (setHome_inv h1)))

theorem State.scrubWg_inv {s : State} (h : s.Inv) {pads wg} : (s.scrubWg pads wg).Inv :=
  inv_ite h (inv_ite (clearRange_inv (clearRange_inv h)) (clearRange_inv h))

theorem execSaveComplete_inv {a : State} (h : a.Inv) : Keeps (execSaveComplete a) := by
  unfold execSaveComplete
  refine act_inv h fun t ht => ?_
  extract_lets _ _ _ s1
  have h1 : s1.Inv := State.updGang_inv ht
  split
  · exact ht
  · extract_lets _ ended
    have hended : ∀ t, t.Inv → (ended t).Inv := fun _ ht2 => State.settle_inv
        (State.canary_inv (State.updGang_inv (inv_with (inv_foldl (fun _ _ ht3 => State.scrubWg_inv ht3) _ ht2))))
    refine inv_ite ht ?_
    split
    · exact hended _ (inv_foldl (fun _ _ ht2 => State.saveImage_inv ht2) _ h1)
    · exact State.imageStops_inv ht

theorem State.reloadPoison_inv {s : State} (h : s.Inv) {wg} : (s.reloadPoison wg).Inv := by
  unfold State.reloadPoison
  extract_lets
  split
  · exact h
  · refine inv_foldl (fun _ _ ht => ?_) _ h
    split
    · exact inv_ite (poisonAt_inv ht) ht
    · exact ht

theorem State.reload_inv {s : State} (h : s.Inv) {wg} : (s.reload wg).Inv := by
  unfold State.reload
  exact forgetHolds_inv (forgetAsks_inv (updWg_inv (setHome_inv (setSched_inv
    (reloadPoison_inv (inv_withMem (wf_mwrite _ _ _ (wf_mwrite _ _ _ (zeroRange_inv (zeroRange_inv h))))))))))

theorem State.wakeWords_inv {s : State} (h : s.Inv) {wg} : (s.wakeWords wg).Inv :=
  inv_foldl (fun _ _ ht => wakeWord_inv ht) _ h

theorem State.parkShort_inv {s : State} (h : s.Inv) {wg} : (s.parkShort wg).Inv :=
  inv_foldl (fun _ _ ht => inv_ite ht (inv_with ht)) _ h

theorem State.backHeads_inv {s : State} (h : s.Inv) {ms} : (s.backHeads ms).Inv := by
  unfold State.backHeads
  refine inv_foldl (fun _ _ ht => ?_) _ h
  split
  next e => exact (imageStore_inv ht).get e
  · exact ht

theorem execGangRestore_inv {a : State} (h : a.Inv) : Keeps (execGangRestore a) := by
  unfold execGangRestore
  refine act_inv h fun _ ht => ?_
  split
  · exact ht
  · refine inv_ite ht ?_
    extract_lets _ _ s1 _ s2 s3 s4 s5 s6
    have h1 : s1.Inv := State.backHeads_inv ht
    have h2 : s2.Inv := inv_foldl (fun _ _ ht3 => State.reload_inv ht3) _
        (inv_foldl (fun _ _ ht3 => State.imageMisses_inv ht3) _ h1)
    have h3 : s3.Inv := by
      refine inv_foldl (fun _ _ ht3 => ?_) _ h2
      extract_lets s7
      have h7 : s7.Inv := State.updGang_inv ht3
      split
      · exact h7
      · exact State.canary_inv h7
    have h4 : s4.Inv := inv_foldl (fun _ _ ht3 => State.wakeWords_inv ht3) _ h3
    have h5 : s5.Inv := inv_foldl (fun _ _ ht3 => State.parkShort_inv ht3) _ h4
    have h6 : s6.Inv := by
      refine inv_foldl (fun _ _ ht3 => ?_) _ h5
      split
      · exact ht3
      · exact ht3
      · exact ht3
      · exact State.reclaim_inv ht3
    refine inv_ite ht ?_
    split
    · exact State.imageStops_inv h1
    · exact inv_ite h1 (State.chooseHead_inv (State.rateAfter_inv h6))

theorem State.sendOut_inv {s : State} (h : s.Inv) {u} : (s.sendOut u).Inv := updStrand_inv h

theorem execOverflowStrandExchange_inv {a : State} (h : a.Inv) : Keeps (execOverflowStrandExchange a) := by
  unfold execOverflowStrandExchange
  refine act_inv h fun _ ht => ?_
  refine inv_ite ht ?_
  split
  · exact ht
  · extract_lets s1
    have h1 : s1.Inv := by
      dsimp only [s1]
      split
      · exact State.sendOut_inv ht
      · exact ht
    exact State.reclaim_inv (State.updStrand_inv h1)

theorem State.retireGang_inv {s : State} (h : s.Inv) {gk k} : (s.retireGang gk k).Inv := by
  unfold State.retireGang
  split
  · exact h
  · extract_lets s1 s2 _ _ s3 _ s4
    have h1 : s1.Inv := inv_foldl (fun _ _ ht => scrubWg_inv ht) _ h
    have h2 : s2.Inv := updGang_inv h1
    have h3 : s3.Inv := freeAllocs_inv h2
    have h4 : s4.Inv := inv_with h3
    exact inv_ite (finishGrid_inv h4) (settle_inv h4)

theorem execWorkgroupDrainComplete_inv {a : State} (h : a.Inv) : Keeps (execWorkgroupDrainComplete a) := by
  unfold execWorkgroupDrainComplete
  refine act_inv h fun _ ht => ?_
  extract_lets _ s1
  have h1 : s1.Inv := State.updWg_inv ht
  split
  · exact ht
  · refine inv_ite ht ?_
    extract_lets
    split
    · exact h1
    · exact inv_ite (State.retireGang_inv h1) h1

theorem execExpansionCursorAdvance_inv {a : State} (h : a.Inv) : Keeps (execExpansionCursorAdvance a) := by
  unfold execExpansionCursorAdvance
  refine act_inv h fun _ ht => ?_
  split
  · exact inv_ite (State.advanceCursors_inv ht) ht
  · exact ht

theorem execJoinWaitTimeout_inv {a : State} (h : a.Inv) : Keeps (execJoinWaitTimeout a) := by
  unfold execJoinWaitTimeout
  refine act_inv h fun _ ht => ?_
  split
  · split
    · exact inv_ite (State.releaseJoin_inv ht) ht
    · exact ht
  · exact ht

theorem State.acqEnds_inv {s : State} (h : s.Inv) {u sd v} : (s.acqEnds u sd v).Inv := updStrand_inv h

theorem execAcqGrant_inv {a : State} (h : a.Inv) : Keeps (execAcqGrant a) := by
  unfold execAcqGrant
  refine act_inv h fun _ ht => ?_
  split
  · split
    · exact inv_ite ht (inv_ite (State.acqEnds_inv ht) (inv_ite (State.acqEnds_inv (State.takeBlocks_inv ht)) ht))
    · exact ht
  · exact ht

theorem execAcqWaitTimeout_inv {a : State} (h : a.Inv) : Keeps (execAcqWaitTimeout a) := by
  unfold execAcqWaitTimeout
  refine act_inv h fun _ ht => ?_
  split
  · split
    · exact inv_ite (State.acqEnds_inv ht) ht
    · exact ht
  · exact ht

end Sys2Proof.Machine
end

section
/-! SUPPORT. Canonical memory: what resolves a wait (R130, R138, R187, R194 to R199). -/

namespace Sys2Proof.Machine

theorem State.replay_inv {s : State} (h : s.Inv) {u} : (s.replay u).Inv := by
  unfold State.replay
  split
  · exact h
  · exact updStrand_inv (unpark_inv h)

theorem execFaultReplay_inv {a : State} (h : a.Inv) : Keeps (execFaultReplay a) := by
  unfold execFaultReplay
  refine act_inv h fun _ ht => ?_
  split
  · exact inv_ite (State.touchOut_inv (State.replay_inv ht)) ht
  · exact ht

theorem State.unparkAll_inv {s : State} (h : s.Inv) {p} : (s.unparkAll p).Inv :=
  touchOut_inv (inv_foldl (fun _ _ ht => replay_inv ht) _ h)

theorem execPageWalkComplete_inv {a : State} (h : a.Inv) : Keeps (execPageWalkComplete a) := by
  unfold execPageWalkComplete
  refine act_inv h fun _ ht => ?_
  split
  · exact ht
  · exact State.cacheWalk_inv (State.setHome_inv ht)

theorem State.failParked_inv {s : State} (h : s.Inv) {u old cls page} : (s.failParked u old cls page).Inv := by
  unfold State.failParked
  split
  · exact h
  · split
    · exact takeTrap_inv h
    · exact h

theorem State.failHolds_inv {s : State} (h : s.Inv) {cls ctx page} : (s.failHolds cls ctx page).Inv := setHost_inv h

theorem State.freeHolds_inv {s : State} (h : s.Inv) {cls ctx page} : (s.freeHolds cls ctx page).Inv := setHost_inv h

theorem execPageRequestResponse_inv {a : State} (h : a.Inv) : Keeps (execPageRequestResponse a) := by
  unfold execPageRequestResponse
  refine act_inv h fun _ ht => ?_
  extract_lets _ _ s1
  have h1 : s1.Inv := State.setHost_inv ht
  exact inv_ite ht (inv_ite (State.unparkAll_inv (State.freeHolds_inv h1))
      (State.failHolds_inv (inv_foldl (fun _ _ ht2 => State.failParked_inv ht2) _ h1)))

theorem State.fsrAnswer_inv {s : State} (h : s.Inv) {e fail} : (s.fsrAnswer e fail).Inv := by
  unfold State.fsrAnswer
  extract_lets _ s1 _ s2
  have h1 : s1.Inv := setHost_inv h
  have h2 : s2.Inv := setHome_inv h1
  exact inv_ite (failHolds_inv (inv_foldl (fun _ _ ht => failParked_inv ht) _ h1)) (unparkAll_inv (freeHolds_inv h2))

theorem execFsrdoneWrite_inv {a : State} (h : a.Inv) : Keeps (execFsrdoneWrite a) := by
  unfold execFsrdoneWrite
  refine act_inv h fun _ ht => ?_
  split
  · exact ht
  · exact State.fsrAnswer_inv ht

theorem execFaultServiceTimeout_inv {a : State} (h : a.Inv) : Keeps (execFaultServiceTimeout a) := by
  unfold execFaultServiceTimeout
  refine act_inv h fun _ ht => ?_
  split
  · exact ht
  · exact inv_ite ht (State.fsrAnswer_inv ht)

theorem State.emulAgain_inv {s : State} (h : s.Inv) {u st word vd m} : (s.emulAgain u st word vd m).Inv := by
  unfold State.emulAgain
  extract_lets _ _ trap s1
  have htrap : ∀ k, (trap k).Inv := fun _ => takeTrap_inv (forgetHolds_inv h)
  have h1 : s1.Inv := updStrand_inv (forgetHolds_inv h)
  refine inv_ite h1 ?_
  split
  · exact h1
  · exact h
  · exact h
  · exact inv_ite (htrap _) (askPage_inv (hold_inv h))
  · exact htrap _

theorem execEmulationCommit_inv {a : State} (h : a.Inv) : Keeps (execEmulationCommit a) := by
  unfold execEmulationCommit
  refine act_inv h fun _ ht => ?_
  split
  · exact ht
  · split
    · exact inv_ite ht (inv_ite (State.emulAgain_inv ht) (State.reclaim_inv
        (State.updStrand_inv (inv_ite (State.updWg_inv ht) ht))))
    · exact ht

theorem execAwaitDeadline_inv {a : State} (h : a.Inv) : Keeps (execAwaitDeadline a) := by
  unfold execAwaitDeadline
  refine act_inv h fun _ ht => ?_
  split
  · exact ht
  · split
    · exact inv_ite ht (State.countWaiters_inv (State.updStrand_inv ht))
    · exact ht

theorem execWaitTimeout_inv {a : State} (h : a.Inv) : Keeps (execWaitTimeout a) := by
  unfold execWaitTimeout
  refine act_inv h fun _ ht => ?_
  split
  · exact ht
  · refine inv_ite ht ?_
    extract_lets s1
    have h1 : s1.Inv := State.takeTrap_inv ht
    split
    · exact State.countWaiters_inv h1
    · exact h1

theorem execSleepExpiry_inv {a : State} (h : a.Inv) : Keeps (execSleepExpiry a) := by
  unfold execSleepExpiry
  refine act_inv h fun _ ht => ?_
  split
  · exact ht
  · split
    · exact inv_ite ht (State.updStrand_inv ht)
    · exact ht

theorem State.handlerStart_inv {s : State} (h : s.Inv) {wg} : (s.handlerStart wg).Inv := inv_with h

theorem execTimerExpiry_inv {a : State} (h : a.Inv) : Keeps (execTimerExpiry a) := by
  unfold execTimerExpiry
  refine act_inv h fun _ ht => ?_
  extract_lets _ _ s1
  have h1 : s1.Inv := inv_ite ht (State.updCore_inv (State.updWg_inv ht))
  refine inv_ite h1 ?_
  split
  · exact h1
  · exact State.handlerStart_inv (State.updCore_inv h1)

end Sys2Proof.Machine
end

section
/-! SUPPORT. Canonical memory: what completes in the background (R149, R153 to R155, R287, R290). -/

namespace Sys2Proof.Machine

theorem execHomeWriteApply_inv {a : State} (h : a.Inv) : Keeps (execHomeWriteApply a) := by
  unfold execHomeWriteApply
  refine act_inv h fun _ ht => ?_
  split
  · exact ht
  · exact inv_ite (State.applyWrite_inv ht) ht

theorem State.deliverV_inv {s : State} (h : s.Inv) {o r} : (s.deliverV o r).Inv :=
  inv_ite (updWg_inv h) (inv_foldl (fun _ _ ht => updStrand_inv ht) _ h)

theorem State.deliverS_inv {s : State} (h : s.Inv) {o r} : (s.deliverS o r).Inv :=
  inv_foldl (fun _ _ ht => updStrand_inv ht) _ h

theorem execMemoryOperationComplete_inv {a : State} (h : a.Inv) : Keeps (execMemoryOperationComplete a) := by
  unfold execMemoryOperationComplete
  refine act_inv h fun _ ht => ?_
  split
  · exact ht
  · refine inv_ite ht ?_
    extract_lets _ _ _ s1 s2
    have h1 : s1.Inv := State.touchOut_inv (inv_foldl (fun _ _ ht2 => State.deliverV_inv ht2) _ ht)
    have h2 : s2.Inv := inv_foldl (fun _ _ ht2 => State.deliverS_inv ht2) _ h1
    exact inv_ite (inv_with h2) (inv_with h1)

theorem State.copyGone_inv {s : State} (h : s.Inv) {id} : (s.copyGone id).Inv :=
  inv_with (touchOut_inv (inv_with (forgetHolds_inv (clearAnswers_inv h))))

theorem State.copyFails_inv {s : State} (h : s.Inv) {id c t f} : (s.copyFails id c t f).Inv := by
  unfold State.copyFails
  split
  · exact copyGone_inv h
  · exact copyGone_inv (updStrand_inv h)

theorem State.copyFault_inv {s : State} (h : s.Inv) {id cls addr write} : (s.copyFault id cls addr write).Inv :=
  inv_with h

theorem State.copyStep_inv {s : State} (h : s.Inv) {id c} : (s.copyStep id c).Inv := by
  unfold State.copyStep
  extract_lets _ s1 got
  have h1 : s1.Inv := noteMiss_inv (inv_ite h (noteMiss_inv (engSees_inv h)))
  split
  next e2 => exact (engHold_inv h1).get e2
  · clear_value got
    split
    · exact copyFault_inv h1
    · refine inv_ite (copyFault_inv h1) ?_
      extract_lets _ put
      split
      next e3 => exact (engHold_inv h1).get e3
      · clear_value put
        split
        · exact copyFault_inv h1
        · exact copyGone_inv (homeStore_inv h1)
        · exact copyGone_inv (sealedStore_inv h1)
        · exact copyGone_inv h1
    · exact h1

theorem execVcopyCompletion_inv {a : State} (h : a.Inv) : Keeps (execVcopyCompletion a) := by
  unfold execVcopyCompletion
  refine act_inv h fun _ ht => ?_
  split
  · exact ht
  · split
    · exact State.copyFails_inv ht
    · exact inv_ite ht (State.copyGone_inv ht)
    · exact inv_ite ht (State.copyStep_inv ht)

theorem State.aheadCut_inv {s : State} (h : s.Inv) {u st f tag wait k} : (s.aheadCut u st f tag wait k).Inv :=
  inv_with (addStrand_inv (updStrand_inv (updWg_inv h)))

theorem execRunAheadSplit_inv {a : State} (h : a.Inv) : Keeps (execRunAheadSplit a) := by
  unfold execRunAheadSplit
  refine act_inv h fun _ ht => ?_
  extract_lets
  split
  · exact ht
  · split
    · split
      · exact State.askAll_inv ht
      · exact ht
      next e4 =>
        exact State.clearAnswers_inv (State.giveFrames_inv (State.aheadCut_inv ((State.areaFor_inv ht).get e4)))
    · exact ht

end Sys2Proof.Machine
end

section
/-! SUPPORT. Canonical memory: code, record and replay, and the stall account (R57 to R60, R101, R203). -/

namespace Sys2Proof.Machine

theorem State.fetchHits_inv {s : State} (h : s.Inv) : s.fetchHits.Inv :=
  inv_foldl (fun _ _ ht => fetchClause_inv ht) _ h

theorem State.stubTrap_inv {s : State} (h : s.Inv) {ctx stub cls} : (s.stubTrap ctx stub cls).Inv :=
  inv_foldl (fun _ _ ht => takeTrap_inv ht) _ h

theorem State.updStub_inv {s : State} (h : s.Inv) {ctx stub f} : (s.updStub ctx stub f).Inv := updCtx_inv h

theorem execVorxusTranslation_inv {a : State} (h : a.Inv) : Keeps (execVorxusTranslation a) := by
  unfold execVorxusTranslation
  refine act_inv h fun _ ht => ?_
  extract_lets _ _ _ s1
  have h1 : s1.Inv := State.clearAnswers_inv ht
  split
  · exact ht
  · refine inv_ite ht ?_
    split
    · exact State.headAsk_inv ht
    · exact State.stubTrap_inv (State.clearAnswers_inv ht)
    · split
      · exact State.stubTrap_inv h1
      · exact inv_ite (State.stubTrap_inv h1) (State.updCtx_inv (State.updStub_inv (State.heapWrite_inv h1)))

theorem execTranslationCommit_inv {a : State} (h : a.Inv) : Keeps (execTranslationCommit a) := by
  unfold execTranslationCommit
  refine act_inv h fun _ ht => ?_
  extract_lets
  split
  · exact ht
  · split
    · exact ht
    · exact inv_ite ht (inv_foldl (fun _ _ ht2 => State.unpark_inv ht2) _
        (State.setHome_inv (State.updStub_inv (State.heapWrite_inv ht))))

theorem State.updChunk_inv {s : State} (h : s.Inv) {core ctx f} : (s.updChunk core ctx f).Inv := updCore_inv h

theorem State.openChunk_inv {s : State} (h : s.Inv) {core ctx} : (s.openChunk core ctx).Inv :=
  inv_ite h (updCore_inv h)

theorem State.ringWrite_inv {ctx} {ws : List DWord} : ∀ {s : State} {x : Nat}, s.Inv → SomeInv (s.ringWrite ctx x ws) := by
  induction ws with
  | nil => intro s x h; exact h
  | cons w r ih =>
    intro s x h
    unfold State.ringWrite
    split
    · trivial
    next t e => exact ih ((headWrite_inv h).get e)

theorem State.closeChunk_inv {s : State} (h : s.Inv) {core ctx} : (s.closeChunk core ctx).Inv :=
  applyAll_inv (updCore_inv h)

theorem State.chunkFails_inv {s : State} (h : s.Inv) {core ctx} : (s.chunkFails core ctx).Inv := by
  unfold State.chunkFails
  split
  · exact takeTrap_inv h
  · split
    · exact endGrid_inv (logRecord_inv h)
    · exact h

theorem State.commitChunk_inv {s : State} (h : s.Inv) {core ctx} : (s.commitChunk core ctx).Inv := by
  unfold State.commitChunk
  extract_lets
  split
  · exact h
  · refine inv_ite (closeChunk_inv h) (inv_ite ?_ ?_)
    · extract_lets
      refine inv_ite h ?_
      split
      · exact h
      next e2 => exact closeChunk_inv (updCtx_inv ((ringWrite_inv h).get e2))
    · split
      · exact h
      · exact inv_ite h (inv_ite (chunkFails_inv (closeChunk_inv h)) (closeChunk_inv (updCtx_inv h)))

theorem execChunkCommit_inv {a : State} (h : a.Inv) : Keeps (execChunkCommit a) := by
  unfold execChunkCommit
  refine act_inv h fun _ ht => ?_
  extract_lets
  split
  · exact inv_ite (State.commitChunk_inv ht) ht
  · refine inv_ite ht ?_
    split
    · exact ht
    · exact inv_ite (State.chunkFails_inv ht) ht

theorem State.account_inv {s : State} (h : s.Inv) {core} : (s.account core).Inv := updCore_inv h

end Sys2Proof.Machine
end

section
/-! SUPPORT. Canonical memory: the retired opcodes (R8, R196). -/

namespace Sys2Proof.Machine

theorem retiredOp_inv {s : State} (h : s.Inv) {i} : Keeps (retiredOp i s) := by
  unfold retiredOp
  extract_lets
  split
  · trivial
  · split
    · trivial
    · refine of_ite (P := Keeps) (inv_with (State.takeTrap_inv h)) ?_
      extract_lets s1 s2
      have h1 : s1.Inv := State.updStrand_inv h
      have h2 : s2.Inv := inv_ite (State.expandStrand_inv h1)
          (inv_ite (State.takeTrap_inv h1) (State.takeEmulation_inv h1))
      exact inv_with h2

end Sys2Proof.Machine
end

section
/-! SUPPORT. Canonical memory: uniform ALU instructions (R332). -/

namespace Sys2Proof.Machine

theorem uniformOp_inv {a : State} (h : a.Inv) {i uses f} : Keeps (uniformOp i uses f a) := by
  unfold uniformOp
  refine issue_inv h fun _ _ _ ht => ?_
  split
  · exact inv_ite (State.fpTrap_inv ht) (State.retire_inv (State.addEvents_inv (State.updStrand_inv ht)))

theorem uni2_inv {a : State} (h : a.Inv) {i sd sa sb f} : Keeps (uni2 i sd sa sb f a) := uniformOp_inv h

theorem uni1_inv {a : State} (h : a.Inv) {i sd sa f} : Keeps (uni1 i sd sa f a) := uniformOp_inv h

theorem uni64_inv {a : State} (h : a.Inv) {i sd sa sb f} : Keeps (uni64 i sd sa sb f a) := uniformOp_inv h

end Sys2Proof.Machine
end

section
/-! SUPPORT. Canonical memory: the clock and the issue of a picked strand (R10, R81, R203). -/

namespace Sys2Proof.Machine

theorem State.advance_inv {s : State} (h : s.Inv) : s.advance.Inv := setMod_inv h

theorem State.wakeFlags_inv {s : State} (h : s.Inv) : s.wakeFlags.Inv := inv_with h

theorem State.touchGrids_inv {s : State} (h : s.Inv) : s.touchGrids.Inv := inv_with h

theorem State.startAll_inv {s : State} (h : s.Inv) : s.startAll.Inv :=
  inv_foldl (fun _ _ ht => startTargets_inv ht) _ h

theorem State.settleClock_inv {s : State} (h : s.Inv) : s.settleClock.Inv := by
  unfold State.settleClock
  extract_lets s1 s2
  have h1 : s1.Inv := yieldToPred_inv (takeRuns_inv (touchGrids_inv
      (takeReplies_inv (startAll_inv (releaseJoins_inv (sendHeld_inv (wakeRemote_inv (wakeFlags_inv h))))))))
  have h2 : s2.Inv := fetchHits_inv (imageSyncs_inv (headSteps_inv (checkDomain_inv h1)))
  exact inv_with h2

theorem State.clockEdge_inv {s : State} (h : s.Inv) : s.clockEdge.Inv :=
  inv_foldl (fun _ _ ht => account_inv ht) _ (inv_with (settleClock_inv (advance_inv h)))

theorem State.noteChunk_inv {s t : State} (h : s.Inv) (ht : t.Inv) {i} : (s.noteChunk t i).Inv := by
  unfold State.noteChunk
  split
  · exact ht
  · extract_lets _ s1 _ s2 _ _ s3
    have h1 : s1.Inv := updChunk_inv h
    have h2 : s2.Inv := updCore_inv ht
    have h3 : s3.Inv := updChunk_inv h2
    exact inv_ite ht (inv_ite (inv_with h1) (inv_ite h2 (inv_ite (commitChunk_inv h3) h3)))

theorem State.launchIssue_inv {s : State} (h : s.Inv) {u st i pc k} : PickInv (s.launchIssue u st i pc k) :=
  of_ite (P := PickInv) (inv_with h) (of_ite (P := PickInv) (updChunk_inv h) (openChunk_inv (inv_with h)))

theorem State.pick_inv {s : State} (h : s.Inv) {u} : PickInv (s.pick u) := by
  unfold State.pick
  split
  · exact h
  · refine of_ite (P := PickInv) h ?_
    split
    · exact h
    · refine of_ite (P := PickInv) (reportAsync_inv h) ?_
      split
      · exact takeTrap_inv h
      · exact launchIssue_inv h

end Sys2Proof.Machine
end

section
/-! SUPPORT. Canonical memory: every instruction and operation, and every step. -/

namespace Sys2Proof.Machine

/-- EVERY INSTRUCTION AND OPERATION keeps memory canonical: those of a family share the family's lemma. -/
theorem exec_inv {s : State} (h : s.Inv) (i : Instr) : Keeps (exec i s) := by
  unfold exec
  cases i with
  | vadd | vsub | vmul | vmulhI32 | vmulhN32 | vminI32 | vminN32 | vmaxI32 | vmaxN32 | vand | vor | vxor | vandn
  | vshl | vshr | vsar | vrotl | vaddsI32 | vsubsI32 | vabsdN32 | vmov | vaddi | vsubri | vmuli | vandi | vori
  | vxori | vshli | vshri | vsari | vminiI32 | vmaxiI32 | vmovi | vmovl | vdot4I8 | vmad | vdot4aI8 | vbfi
  | vpopc | vclz | vbrev | vbfe | vfaddF32 | vfsubF32 | vfmulF32 | vfminF32 | vfmaxF32 | vfscaleF32 | vfaddBf16x2
  | vfmulBf16x2 | vfaddF16x2 | vfmulF16x2 | vfaddE4m3x4 | vfmulE4m3x4 | vfaddE5m2x4 | vfmulE5m2x4 | vdot2Bf16
  | vfmaF32 | vfmaBf16x2 | vfmaF16x2 | vdot2aBf16 | vfrcpF32 | vfrsqF32 | vfsqrtF32 | vfexp2F32 | vflog2F32
  | vfsinpiF32 | vfcospiF32 | vftanhF32 | vfclass | vunary | vcvt | vcvtb | vpack | vunpack => exact elementwise_inv h
  | vcmp => exact execVcmp_inv h
  | vsel => exact execVsel_inv h
  | vvote => exact crossLane_inv h fun _ _ _ _ ht => State.retire_inv (State.writeMask_inv ht)
  | vscan | vred => exact crossLane_inv h fun _ _ _ _ ht => State.commitLanes_inv ht
  | vmatch => exact execVmatch_inv h
  | vcompact => exact crossLane_inv h fun _ _ _ _ ht => State.retire_inv (State.writeLanes_inv ht)
  | vkmov => exact execVkmov_inv h
  | vindex => exact execVindex_inv h
  | vform => exact execVform_inv h
  | vstride => exact execVstride_inv h
  | vexpand => exact execVexpand_inv h
  | bara | barw | bars => exact barrierOp_inv h
  | fence => exact execFence_inv h
  | vld | vldc | vldg => exact laneLoad_inv h
  | vpref => exact execVpref_inv h
  | vst => exact execVst_inv h
  | vatom => exact execVatom_inv h
  | vcopy => exact execVcopy_inv h
  | bseal => exact issue_inv h fun _ _ _ ht2 => State.retire_inv (inv_with ht2)
  | bwait => exact execBwait_inv h
  | sld | sldc => exact uniformLoad_inv h
  | sst => exact execSst_inv h
  | satom => exact execSatom_inv h
  | awinit => exact execAwinit_inv h
  | await => exact execAwait_inv h
  | capb => exact execCapb_inv h
  | capeStep | capeEnd => exact capeOp_inv h
  | copyRowCompletion => exact execCopyRowCompletion_inv h
  | tcopy | tcopyx | mcopy | bcopy | chain | redw => exact engineOp_inv h
  | obres => exact execObres_inv h
  | obrel => exact execObrel_inv h
  | crew | tmarm =>
    exact issue_inv h fun _ _ _ ht => inv_ite (State.takeTrap_inv ht) (State.retire_inv (State.updWg_inv ht))
  | accrd => exact execAccrd_inv h
  | mxeRequestAccept => exact State.mxeAccept_inv h
  | mma | mmaRs | mmaSs | mmas | mman => exact crewOp_inv h
  | salient | accz => exact issue_inv h fun _ _ _ ht => State.mxeAccept_inv (State.wait_inv ht)
  | mxePassGrant => exact execMxePassGrant_inv h
  | mxePassComplete => exact execMxePassComplete_inv h
  | assayInstall => exact execAssayInstall_inv h
  | poolp => exact execPoolp_inv h
  | poold => exact execPoold_inv h
  | succ => exact execSucc_inv h
  | waitpred => exact execWaitpred_inv h
  | csrr => exact execCsrr_inv h
  | csrw => exact execCsrw_inv h
  | tick | route | part | mode => exact issue_inv h fun _ _ _ ht => State.retire_inv (State.updStrand_inv ht)
  | sleep => exact issue_inv h fun _ _ _ ht => inv_ite (State.retire_inv ht) (State.wait_inv ht)
  | trace => exact execTrace_inv h
  | launch => exact execLaunch_inv h
  | moduleReset => exact act_inv h fun _ ht => State.resetNow_inv ht
  | firmwareBoot => exact act_inv h fun _ ht => State.boot_inv ht
  | throttleEvaluation => exact act_inv h fun _ ht => State.throttle_inv (State.senseNow_inv ht)
  | patrolScrub => exact execPatrolScrub_inv h
  | moduleFatalEvent => exact act_inv h fun _ ht => State.fatalNow_inv ht
  | thermalTrip => exact execThermalTrip_inv h
  | railOutOfRegulation => exact act_inv h fun _ ht => State.setMod_inv ht
  | stoptickWrite => exact execStoptickWrite_inv h
  | stopOnTick => exact execStopOnTick_inv h
  | flitTransmit => exact execFlitTransmit_inv h
  | flitReceive => exact execFlitReceive_inv h
  | ackStallTimeout => exact act_inv h fun _ ht => inv_ite (State.retrain_inv ht) ht
  | linkRetrainComplete | portBringUp => exact act_inv h fun _ ht => inv_ite (State.updPort_inv ht) ht
  | read => exact act_inv h fun _ ht => State.serve_inv ht (fun _ _ ht2 => State.reply_inv ht2)
  | write => exact act_inv h fun _ ht => State.serve_inv ht (fun _ _ ht2 => State.reply_inv (State.homeStore_inv ht2))
  | atomic => exact execAtomic_inv h
  | red => exact act_inv h fun _ ht => State.contribAt_inv (State.msgDone_inv ht)
  | redb => exact act_inv h fun _ ht => inv_foldl (fun _ _ ht2 => State.contribAt_inv ht2) _ (State.msgDone_inv ht)
  | respdata | respack | resperr => exact act_inv h fun _ ht => State.response_inv ht
  | retry => exact act_inv h fun _ ht => State.setFab_inv (State.msgDone_inv ht)
  | retryResend => exact execRetryResend_inv h
  | remoteTimeout => exact execRemoteTimeout_inv h
  | barrier => exact execBarrier_inv h
  | ticksyncPeriod => exact act_inv h fun _ ht => inv_ite (inv_foldl (fun _ _ ht2 => State.sendTick_inv ht2) _ ht) ht
  | tickAlignment => exact act_inv h fun _ ht => inv_ite ht (State.setMod_inv ht)
  | ticksync => exact execTicksync_inv h
  | windowTimeout => exact execWindowTimeout_inv h
  | winbaseWrite => exact act_inv h fun _ ht => inv_ite ht (State.setBase_inv ht)
  | winctlWrite => exact act_inv h fun _ ht => inv_ite ht (State.setCtl_inv ht)
  | dbarWrite => exact act_inv h fun _ ht => inv_ite ht (State.setDbar_inv ht)
  | createContext => exact execCreateContext_inv h
  | destroyContext => exact execDestroyContext_inv h
  | bindQueue => exact execBindQueue_inv h
  | attestationReport => exact execAttestationReport_inv h
  | readDumpDescriptor => exact execReadDumpDescriptor_inv h
  | firmwareUpdate => exact execFirmwareUpdate_inv h
  | reclaimCodeHeap => exact execReclaimCodeHeap_inv h
  | unknownOp => exact act_inv h fun _ ht => inv_ite (State.mbRefused_inv ht) (inv_ite ht (State.setHost_inv ht))
  | mailboxCommandComplete => exact execMailboxCommandComplete_inv h
  | mailboxDataWrite => exact act_inv h fun _ ht => inv_ite (State.mbRefused_inv ht) (State.setHost_inv ht)
  | barwinWrite => exact execBarwinWrite_inv h
  | bar2Access => exact execBar2Access_inv h
  | qctlWrite => exact execQctlWrite_inv h
  | qprodWrite => exact execQprodWrite_inv h
  | bar0RegisterWrite => exact execBar0RegisterWrite_inv h
  | launchRecord => exact execLaunchRecord_inv h
  | rejectedRecord => exact act_inv h fun _ ht => State.takeRecord_inv ht (fun _ _ _ _ ht2 => State.rejectRec_inv ht2)
  | signal | isync => exact act_inv h fun _ ht => State.takeRecord_inv ht (fun _ _ _ _ ht2 => State.queueWait_inv ht2)
  | signalCompletion => exact act_inv h fun _ ht => State.endWait_inv ht (fun _ _ ht2 => State.dropTlb_inv ht2)
  | isyncInvalidate => exact execIsyncInvalidate_inv h
  | replayIndexWrite => exact act_inv h fun _ ht => State.updCtx_inv ht
  | vbr | vbrn | vswitch => exact issue_inv h fun _ _ _ ht => State.branch_inv ht
  | vjoin | vreform => exact issue_inv h fun _ _ _ ht => State.joinStep_inv ht
  | vcall | call | callr => exact issue_inv h fun _ _ _ ht => State.callTo_inv ht
  | vcallr => exact execVcallr_inv h
  | vret | ret => exact issue_inv h fun _ _ _ ht => State.popReturn_inv ht
  | vexit | exit => exact issue_inv h fun _ _ _ ht => State.exitThreads_inv ht
  | acq => exact execAcq_inv h
  | rel => exact execRel_inv h
  | gangPlacement => exact execGangPlacement_inv h
  | headWaitExpiry => exact execHeadWaitExpiry_inv h
  | gangHalt => exact execGangHalt_inv h
  | saveComplete => exact execSaveComplete_inv h
  | gangRestore => exact execGangRestore_inv h
  | overflowStrandExchange => exact execOverflowStrandExchange_inv h
  | workgroupDrainComplete => exact execWorkgroupDrainComplete_inv h
  | expansionCursorAdvance => exact execExpansionCursorAdvance_inv h
  | joinWaitTimeout => exact execJoinWaitTimeout_inv h
  | acqGrant => exact execAcqGrant_inv h
  | acqWaitTimeout => exact execAcqWaitTimeout_inv h
  | faultReplay => exact execFaultReplay_inv h
  | pageWalkComplete => exact execPageWalkComplete_inv h
  | translationOverflowReplay => exact act_inv h fun _ ht => inv_ite ht (State.unparkAll_inv ht)
  | pageRequestResponse => exact execPageRequestResponse_inv h
  | atsTranslationCompletion => exact act_inv h fun _ ht => inv_with (State.setHost_inv ht)
  | fsrdoneWrite => exact execFsrdoneWrite_inv h
  | fsrconsWrite =>
    exact act_inv h fun _ ht => inv_foldl (fun _ _ ht2 => State.fsrPush_inv ht2) _ (State.setHost_inv ht)
  | faultServiceTimeout => exact execFaultServiceTimeout_inv h
  | emulationCommit => exact execEmulationCommit_inv h
  | awaitDeadline => exact execAwaitDeadline_inv h
  | waitTimeout => exact execWaitTimeout_inv h
  | sleepExpiry => exact execSleepExpiry_inv h
  | timerExpiry => exact execTimerExpiry_inv h
  | homeWriteApply => exact execHomeWriteApply_inv h
  | writeVisibility => exact act_inv h fun _ ht => State.showAll_inv ht
  | memoryOperationComplete => exact execMemoryOperationComplete_inv h
  | vcopyCompletion => exact execVcopyCompletion_inv h
  | runAheadSplit => exact execRunAheadSplit_inv h
  | clauseFetch => exact act_inv h fun _ ht => State.fetchClause_inv ht
  | vorxusTranslation => exact execVorxusTranslation_inv h
  | translationCommit => exact execTranslationCommit_inv h
  | chunkCommit => exact execChunkCommit_inv h
  | stallAccountClock => exact act_inv h fun _ ht => inv_foldl (fun _ _ ht2 => State.account_inv ht2) _ ht
  | vshflIdx | vshflUp | vshflDn | vshflXor => exact retiredOp_inv h
  | sadd | ssub | smul | smulhI32 | smulhN32 | sminI32 | sminN32 | smaxI32 | smaxN32 | sand | sor | sxor | sshl
  | sshr | ssar | sdivN32 | sremN32 | sdivI32 | sremI32 | scmp => exact uni2_inv h
  | smov | spopc | sclz | saddi | smuli | sandi | sori | sxori | sshli | sshri | ssari | sltiI32 | sltiN32 | seqi =>
    exact uni1_inv h
  | ssel | sfadd | sfmul | sffma | sfcmp | scvt | smulw | sadd64i | smovi | shii | saddpc => exact uniformOp_inv h
  | sadd64 | ssub64 => exact uni64_inv h
  | jmp | brz | brnz => exact issue_inv h fun _ _ _ ht => State.branchAll_inv ht
  | yield => exact issue_inv h fun _ _ _ ht => State.updStrand_inv (State.retire_inv ht)
  | nop => exact issue_inv h fun _ _ _ ht => State.retire_inv ht
  | trap | brk => exact issue_inv h fun _ _ _ ht => State.takeTrap_inv ht
  | eret => exact issue_inv h fun _ _ _ ht => State.handlerReturn_inv ht

/-- Taking a waiting operation off the list changes no memory. -/
theorem State.takeEvent_inv {s t : State} {i : Instr} (h : s.Inv) (e : s.takeEvent = some (i, t)) : t.Inv := by
  unfold State.takeEvent at e
  split at e
  · cases e
  · cases e
    exact h

theorem State.runInstr_inv {s : State} (h : s.Inv) {i : Instr} : Keeps (s.runInstr i) := by
  unfold State.runInstr
  split
  next v e => exact State.noteChunk_inv h ((exec_inv h i).next e)
  · trivial
  · trivial

/-- EVERY STEP keeps memory canonical. -/
theorem step_inv {s : State} (h : s.Inv) : Keeps (step s) := by
  unfold step
  split
  next i t e => exact of_ite (State.takeEvent_inv h e) (exec_inv (State.takeEvent_inv h e) i)
  · refine of_ite h (of_ite (exec_inv h _) ?_)
    split
    · exact State.clockEdge_inv h
    next u r _ =>
      have hp : PickInv (State.pick { s with issueQ := r } u) := State.pick_inv (inv_with h)
      split
      next t e => exact hp.done e
      next i t e => exact State.runInstr_inv (hp.run e)

/-- Settles O8: the canonical form is an invariant of `step`. -/
theorem everyStepKeepsMemoryCanonical : Obligations.EveryStepKeepsMemoryCanonical :=
  fun _ _ hs e => (step_inv hs).next e

end Sys2Proof.Machine
end

section
/-! SUPPORT. What reset leaves, and a module that has halted (R10, R20 to R24, R202, R208). -/

namespace Sys2Proof.Machine

/-- Settles O6: the values of R22, R24, R31 and R33 after reset; the boot fields are zero before the boot (log entry 3). -/
theorem resetLeavesTheStatedValues : Obligations.ResetLeavesTheStatedValues :=
  ⟨rfl, rfl, rfl, rfl, rfl, rfl, fun _ => rfl, fun _ => rfl, rfl, rfl, rfl⟩

/-! ## A step with and without an operation that waits -/

/-- A halted module without a waiting operation stands still. -/
theorem step_halted_idle {s : State} (hs : s.halted = true) (he : s.events = []) : step s = .next s := by
  simp only [step, State.takeEvent, he, hs, if_true]

/-- The first operation that waits is dropped or acts. -/
theorem step_event {s : State} {e : Event} {r : List Event} (he : s.events = e :: r) :
    step s = if s.drops e.op then .next { s with events := r, arg := e.arg } else exec e.op { s with events := r, arg := e.arg } := by
  simp only [step, State.takeEvent, he]

theorem State.drops_moduleReset (s : State) : s.drops .moduleReset = false := by simp [State.drops]

/-- What a halted module drops besides a reset: everything once it has stopped or failed its boot, and what does not read
the dump after a fatal event. -/
theorem State.drops_halted {s : State} {i : Instr} (hs : s.halted = true) (hi : i ≠ .moduleReset) :
    s.drops i = true ↔ s.mod.stopped = true ∨ s.mod.failedBoot = true ∨ readsDump i = false := by
  simp [State.drops, hs, hi, or_assoc]

/-- The requests with which the host reads a dump. -/
theorem readsDump_iff {i : Instr} : readsDump i = true ↔
    i = .readDumpDescriptor ∨ i = .mailboxCommandComplete ∨ i = .mailboxDataWrite ∨ i = .barwinWrite ∨ i = .bar2Access := by
  unfold readsDump
  split <;> simp_all

/-- Settles O9: a step of a halted module is read off `State.drops`, and a reset is never dropped. -/
theorem stoppedModuleStandsStill : Obligations.StoppedModuleStandsStill := by
  intro s hs
  refine ⟨step_halted_idle hs, fun e r he hi => ⟨fun hd => ?_, fun hst hfb hr => ?_⟩, fun e r he hi => ?_⟩
  · rw [step_event he, if_pos ((State.drops_halted hs hi).mpr hd)]
  · have hd : ¬ s.drops e.op = true := by
      rw [State.drops_halted hs hi, hst, hfb, readsDump_iff.mpr hr]
      decide
    rw [step_event he, if_neg hd]
  · refine ⟨State.resetNow { s with events := r, arg := e.arg }, ?_, rfl, rfl, rfl⟩
    rw [step_event he, hi, State.drops_moduleReset, exec_moduleReset]
    rfl

end Sys2Proof.Machine
end

section
/-! SUPPORT. Fields of registers, reads of tables and memory, what folds over a state leave, and what a reset leaves (R24). -/

namespace Sys2Proof.Machine

/-! ## Registers, tables and memory -/

/-- A field of a register written as a number. -/
theorem toNat_extractLsb'_ofNat (n i k : Nat) :
    ((BitVec.ofNat 64 n).extractLsb' i k).toNat = n % 2 ^ 64 / 2 ^ i % 2 ^ k := by
  simp [Nat.shiftRight_eq_div_pow]

/-- The entry of key `k` of a table with one entry for each number of a list. -/
theorem tfind_map {α : Type} (g : Nat → α) (l : List Nat) (k : Nat) :
    tfind (l.map fun d => (d, g d)) k = if k ∈ l then some (g k) else none := by
  induction l with
  | nil => rfl
  | cons j l ih =>
    by_cases h : j = k
    · simp [tfind, h]
    · simp [tfind, h, ih, Ne.symm h]

theorem tget_map_range {α : Type} (g : Nat → α) {n k : Nat} (d : α) (h : k < n) :
    tget ((List.range n).map fun d => (d, g d)) k d = g k := by
  simp [tget, tfind_map, h]

/-- A byte of a memory of which only the addresses with `p` are kept. -/
theorem mget_filter (p : Nat → Bool) (m : Memory) (a : Nat) :
    mget (m.filter fun c => p c.1) a = if p a then mget m a else Memory.blank := by
  induction m with
  | nil => simp [mget]
  | cons c m ih =>
    obtain ⟨j, v⟩ := c
    by_cases h : j = a
    · subst h
      cases hp : p j <;> simp [mget, hp, ih]
    · cases hp : p j <;> simp [mget, hp, ih, h]

/-- Bytes set one after the other change no address but theirs. -/
theorem mget_foldl_mset_other {α : Type} (f : α → Nat) (g : α → Byte) (a : Nat) (l : List α) :
    ∀ m : Memory, (∀ x ∈ l, f x ≠ a) → mget (l.foldl (fun m x => mset m (f x) (g x)) m) a = mget m a := by
  induction l with
  | nil => intro m _; rfl
  | cons x l ih =>
    intro m h
    obtain ⟨hx, hl⟩ := List.forall_mem_cons.mp h
    rw [List.foldl_cons, ih _ hl, mget_mset, if_neg hx]

/-- What no step of a fold changes of the state, the fold does not change. -/
theorem foldl_unchanged {α β : Type} (π : State → β) {f : State → α → State} (hf : ∀ t x, π (f t x) = π t) (l : List α) (s : State) :
    π (l.foldl f s) = π s :=
  foldl_keeps (P := fun t => π t = π s) (fun t x h => (hf t x).trans h) l rfl

/-! ## Reset (R24) -/

/-- A reset blanks device memory and keeps the host's (log entry 38). -/
theorem State.mget_resetNow (s : State) (a : Nat) :
    mget s.resetNow.mem a = if 2 ^ 64 ≤ a then mget s.mem a else Memory.blank := by
  show mget (s.mem.filter fun c => decide (2 ^ 64 ≤ c.1)) a = _
  rw [mget_filter fun k => decide (2 ^ 64 ≤ k)]
  simp

/-- The firmware that runs after a reset: a staged image, or the one that ran (R48). -/
theorem State.resetNow_firmware (s : State) :
    s.resetNow.mod.firmware = if s.mod.staged.isSome then s.mod.staged else s.mod.firmware := by
  show s.mod.staged.or s.mod.firmware = _
  cases s.mod.staged <;> rfl

end Sys2Proof.Machine
end

section
/-! SUPPORT. The boot: what firmware writes, and MODCAP and TWCFG after it (R20 to R23, R33). -/

namespace Sys2Proof.Machine

/-- No more bits are set than a mask has. -/
theorem popcount_le {n : Nat} (x : BitVec n) : popcount x ≤ n := by
  unfold popcount
  simpa using List.length_filter_le (fun i => x.getLsbD i) (List.range n)

/-- No more units are in service than the masks of the dies have bits. -/
theorem sum_popcount_le {n : Nat} (l : List (BitVec n)) : (l.map popcount).foldl (· + ·) 0 ≤ l.length * n := by
  rw [← List.sum_eq_foldl]
  simpa using List.sum_le_card_nsmul (l.map popcount) n (by simp [popcount_le])

/-- The registers that a boot writes. -/
def State.bootRegs (b : BootImage) (s : State) : State :=
  (s.setMod fun m => { m with
    booted := true
    modcap := bootModcap b
    qmask := (List.range 4).map fun d => (d, b.quads.getD d 0)
    pmask := (List.range 4).map fun d => (d, (b.ports.getD d 0).setWidth 64)
    twcfg := BitVec.ofNat 64 (b.modnum.toNat * 2 ^ 16 + (if b.master then 2 ^ 15 else 0)) }).setHost fun h =>
      { h with bar2Size := barSize b.bar2Size }

/-- A port as a boot leaves it. -/
def bootPort (b : BootImage) (p : Nat) (x : Port) : Port :=
  { x with st := if bootPortUp b p then x.st else 3, size := b.sizes, xoff := b.xoff, xon := b.xon }

/-- A boot sets up the ports of a list. -/
def State.bootPorts (b : BootImage) (l : List Nat) (s : State) : State := l.foldl (fun t p => t.updPort p (bootPort b p)) s

/-- A boot writes windows. -/
def State.bootWindows (l : List (Nat × DWord × DWord)) (s : State) : State :=
  (l.filter fun w => decide (w.1 < 64)).foldl (fun t w => (t.setBase w.1 w.2.1).setCtl w.1 w.2.2) s

/-- A boot writes domain barriers. -/
def State.bootDbars (l : List (Nat × DWord)) (s : State) : State :=
  (l.filter fun d => decide (d.1 < 16)).foldl (fun t d => t.setDbar d.1 d.2) s

/-- A boot that finds enough units in service. -/
theorem State.boot_of_enough {s : State} (hb : s.mod.booted = false) (hf : s.mod.failedBoot = false)
    (he : bootEnough s.mod.image = true) :
    s.boot = (((s.bootRegs s.mod.image).bootPorts s.mod.image (List.range 64)).bootWindows s.mod.image.windows).bootDbars
      s.mod.image.dbars := by
  unfold State.boot
  simp only [hb, hf, he, Bool.or_self, Bool.not_true, Bool.false_eq_true, if_false]
  rfl

/-- A boot that finds less fails (R20). -/
theorem State.boot_of_less {s : State} (hb : s.mod.booted = false) (hf : s.mod.failedBoot = false)
    (he : bootEnough s.mod.image = false) : s.boot = s.setMod fun m => { m with failedBoot := true } := by
  unfold State.boot
  simp only [hb, hf, he, Bool.or_self, Bool.not_false, Bool.false_eq_true, if_false, if_true]

theorem State.port_updPort (s : State) (p q : Nat) (f : Port → Port) :
    (s.updPort p f).port q = if p = q then f (s.port p) else s.port q := tget_tset ..

/-- A port after the ports of a list have been set up. -/
theorem State.port_bootPorts (b : BootImage) (q : Nat) (l : List Nat) : ∀ s : State, l.Nodup →
    (s.bootPorts b l).port q = if q ∈ l then bootPort b q (s.port q) else s.port q := by
  induction l with
  | nil => intro s _; rfl
  | cons p l ih =>
    intro s hl
    obtain ⟨hp, hl⟩ := List.nodup_cons.mp hl
    show (State.bootPorts b l (s.updPort p (bootPort b p))).port q = _
    rw [ih _ hl, State.port_updPort]
    by_cases h : p = q
    · subst h
      simp [hp]
    · simp [h, Ne.symm h]

/-- The state but its windows and its canary. -/
def State.bare (s : State) : State := { s with mod := { s.mod with canary := [] }, fab := { s.fab with windows := [] } }

/-- Writing a window's registers changes nothing but windows and a canary. -/
theorem State.bare_setWindow (s : State) (w : Nat) (x : Window) : (s.setWindow w x).bare = s.bare := by
  unfold State.setWindow
  dsimp only
  split
  · rfl
  · split <;> rfl

/-- What writing one window's registers does not change, a boot's writes of windows do not change. -/
theorem State.bare_bootWindows (l : List (Nat × DWord × DWord)) (s : State) : (s.bootWindows l).bare = s.bare :=
  foldl_unchanged State.bare (fun _ _ => (State.bare_setWindow ..).trans (State.bare_setWindow ..)) _ s

theorem State.bootWindows_mod (l : List (Nat × DWord × DWord)) (s : State) :
    { (s.bootWindows l).mod with canary := [] } = { s.mod with canary := [] } :=
  congrArg State.mod (s.bare_bootWindows l)

@[simp] theorem State.bootWindows_host (l : List (Nat × DWord × DWord)) (s : State) : (s.bootWindows l).host = s.host :=
  (congrArg State.host (s.bare_bootWindows l) :)

@[simp] theorem State.bootWindows_dbar (l : List (Nat × DWord × DWord)) (s : State) :
    (s.bootWindows l).fab.dbar = s.fab.dbar := congrArg (·.fab.dbar) (s.bare_bootWindows l)

@[simp] theorem State.bootWindows_port (l : List (Nat × DWord × DWord)) (s : State) (p : Nat) :
    (s.bootWindows l).port p = s.port p := (congrArg (State.port · p) (s.bare_bootWindows l) :)

@[simp] theorem State.bootPorts_mod (b : BootImage) (l : List Nat) (s : State) : (s.bootPorts b l).mod = s.mod :=
  foldl_unchanged State.mod (f := fun t p => t.updPort p (bootPort b p)) (fun _ _ => rfl) l s

@[simp] theorem State.bootPorts_host (b : BootImage) (l : List Nat) (s : State) : (s.bootPorts b l).host = s.host :=
  foldl_unchanged State.host (f := fun t p => t.updPort p (bootPort b p)) (fun _ _ => rfl) l s

@[simp] theorem State.bootPorts_windows (b : BootImage) (l : List Nat) (s : State) :
    (s.bootPorts b l).fab.windows = s.fab.windows :=
  foldl_unchanged (·.fab.windows) (f := fun t p => t.updPort p (bootPort b p)) (fun _ _ => rfl) l s

@[simp] theorem State.bootPorts_dbar (b : BootImage) (l : List Nat) (s : State) : (s.bootPorts b l).fab.dbar = s.fab.dbar :=
  foldl_unchanged (·.fab.dbar) (f := fun t p => t.updPort p (bootPort b p)) (fun _ _ => rfl) l s

@[simp] theorem State.bootDbars_mod (l : List (Nat × DWord)) (s : State) : (s.bootDbars l).mod = s.mod :=
  foldl_unchanged State.mod (f := fun t (d : Nat × DWord) => t.setDbar d.1 d.2) (fun _ _ => rfl) _ s

@[simp] theorem State.bootDbars_host (l : List (Nat × DWord)) (s : State) : (s.bootDbars l).host = s.host :=
  foldl_unchanged State.host (f := fun t (d : Nat × DWord) => t.setDbar d.1 d.2) (fun _ _ => rfl) _ s

@[simp] theorem State.bootDbars_windows (l : List (Nat × DWord)) (s : State) :
    (s.bootDbars l).fab.windows = s.fab.windows :=
  foldl_unchanged (·.fab.windows) (f := fun t (d : Nat × DWord) => t.setDbar d.1 d.2) (fun _ _ => rfl) _ s

@[simp] theorem State.bootDbars_port (l : List (Nat × DWord)) (s : State) (p : Nat) : (s.bootDbars l).port p = s.port p :=
  foldl_unchanged (·.port p) (f := fun t (d : Nat × DWord) => t.setDbar d.1 d.2) (fun _ _ => rfl) _ s

theorem State.bootDbars_one {d : Nat} (v : DWord) (hd : d < 16) (s : State) :
    (s.bootDbars [(d, v)]).dbar d = v &&& 0x80FFFF0000000000 := by
  simp only [State.bootDbars, hd, decide_true, List.filter_cons_of_pos, List.filter_nil, List.foldl_cons, List.foldl_nil]
  exact tget_tset_same ..

section boot
variable {s : State} (hb : s.mod.booted = false) (hf : s.mod.failedBoot = false) (he : bootEnough s.mod.image = true)
include hb hf he

/-- A boot changes no register of the module but those it writes, and a canary. -/
theorem State.boot_mod : { s.boot.mod with canary := [] } = { (s.bootRegs s.mod.image).mod with canary := [] } := by
  rw [State.boot_of_enough hb hf he, State.bootDbars_mod, State.bootWindows_mod, State.bootPorts_mod]

theorem State.boot_booted : s.boot.mod.booted = true := (congrArg Module.booted (State.boot_mod hb hf he) :)

theorem State.boot_modcap : s.boot.mod.modcap = bootModcap s.mod.image := (congrArg Module.modcap (State.boot_mod hb hf he) :)

theorem State.boot_twcfg : s.boot.mod.twcfg =
    BitVec.ofNat 64 (s.mod.image.modnum.toNat * 2 ^ 16 + if s.mod.image.master then 2 ^ 15 else 0) :=
  (congrArg Module.twcfg (State.boot_mod hb hf he) :)

theorem State.boot_qmask {d : Nat} (hd : d < 4) : tget s.boot.mod.qmask d 0 = s.mod.image.quads.getD d 0 :=
  (congrArg (tget ·.qmask d 0) (State.boot_mod hb hf he) :).trans (tget_map_range _ _ hd)

theorem State.boot_pmask {d : Nat} (hd : d < 4) : tget s.boot.mod.pmask d 0 = (s.mod.image.ports.getD d 0).setWidth 64 :=
  (congrArg (tget ·.pmask d 0) (State.boot_mod hb hf he) :).trans (tget_map_range _ _ hd)

theorem State.boot_host : s.boot.host = (s.bootRegs s.mod.image).host := by simp [State.boot_of_enough hb hf he]

/-- A boot sets up every port. -/
theorem State.boot_port {p : Nat} (hp : p < 64) : s.boot.port p = bootPort s.mod.image p (s.port p) := by
  rw [State.boot_of_enough hb hf he, State.bootDbars_port, State.bootWindows_port,
    State.port_bootPorts _ _ _ _ List.nodup_range, if_pos (List.mem_range.mpr hp)]
  rfl

/-- An image without windows leaves them as they were. -/
theorem State.boot_windows (hw : s.mod.image.windows = []) : s.boot.fab.windows = s.fab.windows := by
  rw [State.boot_of_enough hb hf he, State.bootDbars_windows, hw]
  exact State.bootPorts_windows ..

/-- An image without domain barriers leaves them as they were. -/
theorem State.boot_dbar (hd : s.mod.image.dbars = []) : s.boot.fab.dbar = s.fab.dbar := by
  rw [State.boot_of_enough hb hf he, hd]
  exact (State.bootWindows_dbar ..).trans (State.bootPorts_dbar ..)

theorem State.boot_dbar_one {d : Nat} {v : DWord} (hl : s.mod.image.dbars = [(d, v)]) (hd : d < 16) :
    s.boot.dbar d = v &&& 0x80FFFF0000000000 := by
  rw [State.boot_of_enough hb hf he, hl, State.bootDbars_one v hd]

end boot

/-- MODCAP of a boot with all dies and at most 96 channels: no field reaches into the next (R22). -/
theorem toNat_bootModcap {b : BootImage} (hq : b.quads.length = 4) (hp : b.ports.length = 4) (hc : b.channels ≤ 96) :
    (bootModcap b).toNat = chunksFor b.channels * 2 ^ 45 + (b.ports.map popcount).foldl (· + ·) 0 * 2 ^ 37 +
      b.channels * 2 ^ 30 + 12 * 2 ^ 26 + (b.quads.map popcount).foldl (· + ·) 0 * 2 ^ 17 + 0xF * 2 ^ 13 + b.modrev.toNat := by
  have hq := sum_popcount_le b.quads
  have hp := sum_popcount_le b.ports
  have hr := b.modrev.isLt
  unfold bootModcap chunksFor
  rw [BitVec.toNat_ofNat]
  omega

/-- The fields of a MODCAP whose number is made of fields that fit (R22). -/
theorem modcap_fields {m : DWord} {k p c n q d r : Nat}
    (hm : m.toNat = k * 2 ^ 45 + p * 2 ^ 37 + c * 2 ^ 30 + n * 2 ^ 26 + q * 2 ^ 17 + d * 2 ^ 13 + r)
    (hp : p < 2 ^ 7) (hc : c < 2 ^ 7) (hn : n < 2 ^ 4) (hq : q < 2 ^ 9) (hd : d < 2 ^ 4) (hr : r < 2 ^ 13) :
    (m >>> 45).toNat = k ∧ (m.extractLsb' 37 7).toNat = p ∧ (m.extractLsb' 30 7).toNat = c ∧
      (m.extractLsb' 26 4).toNat = n ∧ (m.extractLsb' 17 9).toNat = q ∧ (m.extractLsb' 13 4).toNat = d := by
  simp only [BitVec.toNat_ushiftRight, BitVec.extractLsb'_toNat, Nat.shiftRight_eq_div_pow, hm]
  omega

/-- MODCAP after a boot states what the image has in service (R22). -/
theorem bootModcap_fields {b : BootImage} (hq : b.quads.length = 4) (hp : b.ports.length = 4) (hc : b.channels ≤ 96) :
    ((bootModcap b) >>> 45).toNat = chunksFor b.channels ∧
      ((bootModcap b).extractLsb' 37 7).toNat = (b.ports.map popcount).foldl (· + ·) 0 ∧
      ((bootModcap b).extractLsb' 30 7).toNat = b.channels ∧ ((bootModcap b).extractLsb' 26 4).toNat = 12 ∧
      ((bootModcap b).extractLsb' 17 9).toNat = (b.quads.map popcount).foldl (· + ·) 0 ∧
      ((bootModcap b).extractLsb' 13 4).toNat = 15 := by
  have hqs := sum_popcount_le b.quads
  have hps := sum_popcount_le b.ports
  have hr := b.modrev.isLt
  rw [hq] at hqs
  rw [hp] at hps
  exact modcap_fields (toNat_bootModcap hq hp hc) (by omega) (by omega) (by omega) (by omega) (by omega) (by omega)

/-- TWCFG after a boot states the image's module number, and whether it is the master (R33). -/
theorem bootTwcfg_modnum (n : BitVec 8) (m : Bool) :
    ((BitVec.ofNat 64 (n.toNat * 2 ^ 16 + if m then 2 ^ 15 else 0)).extractLsb' 16 8).toNat = n.toNat := by
  rw [toNat_extractLsb'_ofNat]
  split <;> omega

theorem bootTwcfg_master (n : BitVec 8) (m : Bool) :
    (BitVec.ofNat 64 (n.toNat * 2 ^ 16 + if m then 2 ^ 15 else 0)).getLsbD 15 = m := by
  have h : (n.toNat * 2 ^ 16 + if m then 2 ^ 15 else 0) / 2 ^ 15 % 2 = if m then 1 else 0 := by split <;> omega
  rw [BitVec.getLsbD_ofNat, Nat.testBit_eq_decide_div_mod_eq, h]
  cases m <;> rfl

end Sys2Proof.Machine
end

section
/-! SUPPORT. The throttle, soft errors, the fatal dump, the thermal trip, and stop on tick (R12 to R19, R202, R208). -/

namespace Sys2Proof.Machine

/-! ## The throttle (R12, R14) -/

/-- A condition of R12 holds of sensor readings. -/
theorem throttleCause_eq_zero {r : List Nat} :
    throttleCause r = 0 ↔ ¬(3200 < r.getD 0 0 ∨ 105 < r.getD 1 0 ∨ 40 < r.getD 2 0 ∨ r.getD 3 48 < 42) := by
  unfold throttleCause
  split_ifs <;> simp_all

theorem throttleCause_junction (r : List Nat) : (throttleCause r / 2 % 2 = 0) ↔ ¬ 105 < r.getD 1 0 := by
  unfold throttleCause
  split_ifs <;> simp_all

theorem throttleCause_lt (r : List Nat) : throttleCause r < 16 := by
  unfold throttleCause
  split_ifs <;> omega

/-- The MXE clock, in steps of 125 MHz, that an evaluation sets from the one before and the conditions that hold. -/
def nextClock (old cause : Nat) : Nat := if cause != 0 then max 8 (old - 1) else min 32 (old + 1)

/-- What an evaluation of the throttle writes: PWRSTAT, THERM_N, and a canary event where the clock changes. -/
theorem State.throttle_eq (s : State) : ∃ c caps, s.throttle = { s with mod := { s.mod with
    pwrstat := BitVec.ofNat 64 (caps * 2 ^ 32 + nextClock s.mxeclk (throttleCause s.mod.readings) * 2 ^ 8 +
      throttleCause s.mod.readings)
    thermN := throttleCause s.mod.readings / 2 % 2 == 0 && !s.mod.fatal
    canary := c } } := by
  unfold State.throttle
  extract_lets
  split
  · exact ⟨_, _, rfl⟩
  · exact ⟨_, _, rfl⟩

theorem State.mxeclk_lt (s : State) : s.mxeclk < 256 := (s.mod.pwrstat.extractLsb' 8 8).isLt

theorem State.throttle_mxeclk (s : State) : s.throttle.mxeclk = nextClock s.mxeclk (throttleCause s.mod.readings) := by
  obtain ⟨c, caps, e⟩ := s.throttle_eq
  have hn : nextClock s.mxeclk (throttleCause s.mod.readings) < 256 := by
    have := s.mxeclk_lt
    unfold nextClock
    split <;> omega
  have hc := throttleCause_lt s.mod.readings
  rw [e]
  show (BitVec.extractLsb' 8 8 _).toNat = _
  rw [toNat_extractLsb'_ofNat]
  omega

/-- THERM_N is low over 105 °C and after a fatal event. -/
theorem State.throttle_thermN (s : State) :
    s.throttle.mod.thermN = (!decide (105 < s.mod.readings.getD 1 0) && !s.mod.fatal) := by
  obtain ⟨c, caps, e⟩ := s.throttle_eq
  rw [e, ← decide_not, ← decide_eq_decide.mpr (throttleCause_junction s.mod.readings), ← beq_eq_decide]

theorem State.throttle_mem (s : State) : s.throttle.mem = s.mem := by
  obtain ⟨c, caps, e⟩ := s.throttle_eq
  rw [e]

theorem State.throttle_strands (s : State) : s.throttle.strands = s.strands := by
  obtain ⟨c, caps, e⟩ := s.throttle_eq
  rw [e]

/-- Readings that come with the operation replace the last ones. -/
theorem State.senseNow_eq (s : State) : s.senseNow = s.setMod fun m => { m with readings := Claims.sensed s } := by
  unfold State.senseNow Claims.sensed
  cases h : s.arg.nats with
  | nil => rfl
  | cons => rfl

@[simp] theorem State.senseNow_readings (s : State) : s.senseNow.mod.readings = Claims.sensed s := by rw [s.senseNow_eq]; rfl
@[simp] theorem State.senseNow_fatal (s : State) : s.senseNow.mod.fatal = s.mod.fatal := by rw [s.senseNow_eq]; rfl
@[simp] theorem State.senseNow_mxeclk (s : State) : s.senseNow.mxeclk = s.mxeclk := by rw [s.senseNow_eq]; rfl
@[simp] theorem State.senseNow_mem (s : State) : s.senseNow.mem = s.mem := by rw [s.senseNow_eq]; rfl
@[simp] theorem State.senseNow_strands (s : State) : s.senseNow.strands = s.strands := by rw [s.senseNow_eq]; rfl

/-! ## Soft errors (R18, R19) -/

/-- The granules that are poisoned once one byte more has been (R19). -/
theorem State.mem_poisonAt_one (s : State) (a g : Nat) :
    g ∈ (s.poisonAt a 1).home.poison ↔ g = a / 64 ∨ g ∈ s.home.poison := by
  have e : (a + 1 + 63) / 64 - a / 64 = 1 := by omega
  show g ∈ (((List.range ((a + 1 + 63) / 64 - a / 64)).map (a / 64 + ·)).foldl _ s.home.poison) ↔ _
  rw [e]
  by_cases h : a / 64 ∈ s.home.poison
  · simpa [h] using fun e : g = a / 64 => e ▸ h
  · simp [h]

/-- An error that cannot be corrected poisons its granule, and changes no memory. -/
theorem execPatrolScrub_poisons {s : State} (ha : s.arg.a < s.memTop) (hok : s.arg.ok = false) :
    ∃ t, execPatrolScrub s = .next t ∧ t.mem = s.mem ∧
      ∀ g, g ∈ t.home.poison ↔ g = s.arg.a / 64 ∨ g ∈ s.home.poison := by
  simp only [execPatrolScrub, act, if_neg (Nat.not_le.mpr ha), hok, Bool.false_eq_true, if_false]
  by_cases h : s.home.poison.contains (s.arg.a / 64) = true
  · rw [if_pos h]
    refine ⟨s, rfl, rfl, fun g => ⟨.inr, ?_⟩⟩
    rintro (rfl | hg)
    · exact List.contains_iff_mem.mp h
    · exact hg
  · rw [if_neg h]
    exact ⟨_, rfl, rfl, fun g => s.mem_poisonAt_one _ g⟩

/-! ## The fatal dump (R208) -/

/-- After a fatal event the module is halted, whether it was the first or not. -/
theorem State.fatalNow_fatal (s : State) (cause : Nat) : (s.fatalNow cause).mod.fatal = true := by
  unfold State.fatalNow
  split
  next h => exact h
  · rfl

/-- A fatal event after the first changes nothing. -/
theorem State.fatalNow_again {s : State} (hs : s.mod.fatal = true) (cause : Nat) : s.fatalNow cause = s := if_pos hs

section fatal
variable {s : State} (hs : s.mod.fatal = false) (cause : Nat)
include hs

/-- The first fatal event: every context ends, and nothing but memory and what the module says of the dump changes beside. -/
theorem State.fatalNow_first : ∃ flags, s.fatalNow cause = { s with
    mem := (s.fatalNow cause).mem
    ctxs := tmap s.ctxs fun _ c => { c with fatal := true }
    mod := { s.mod with
      fatal := true, dtick := s.mod.tick, dbytes := min s.mod.image.dumpSize (dumpAt s.ctxs.length).2.2, dflags := flags } } := by
  unfold State.fatalNow
  rw [hs]
  exact ⟨_, rfl⟩

/-- The dump writes its region alone. -/
theorem State.fatalNow_sameBut :
    s.SameBut (s.fatalNow cause) [(s.mod.image.dumpBase, min s.mod.image.dumpSize (dumpAt s.ctxs.length).2.2)] := by
  intro a h
  have ha := h _ List.mem_cons_self
  dsimp only at ha
  unfold State.fatalNow
  rw [hs]
  show mget (((s.dumpBytes cause).filter _).foldl (fun m b => mset m (s.mod.image.dumpBase + b.1) b.2) (s.mem.filter _)) a = _
  rw [mget_foldl_mset_other (fun b : Nat × Byte => s.mod.image.dumpBase + b.1) (·.2)]
  · rw [mget_filter fun k => !(decide (s.mod.image.dumpBase ≤ k) &&
      decide (k < s.mod.image.dumpBase + min s.mod.image.dumpSize (dumpAt s.ctxs.length).2.2)), if_pos]
    have hk : ¬(s.mod.image.dumpBase ≤ a ∧ a < s.mod.image.dumpBase + min s.mod.image.dumpSize (dumpAt s.ctxs.length).2.2) := by
      omega
    rw [← Bool.decide_and, decide_eq_false hk, Bool.not_false]
  · intro b hb
    have := of_decide_eq_true (List.mem_filter.mp hb).2
    omega

theorem State.fatalNow_ends_ctxs : ∀ c ∈ (s.fatalNow cause).ctxs, c.2.fatal = true := by
  obtain ⟨flags, e⟩ := State.fatalNow_first hs cause
  rw [e]
  intro c hc
  obtain ⟨x, _, rfl⟩ := List.mem_map.mp hc
  rfl

end fatal

/-! ## The thermal trip (R13) -/

/-- At 115 °C with the MXE clock at its floor the module takes a fatal event and pulls THERM_N low. -/
theorem execThermalTrip_trips {s : State} (hj : 115 ≤ (Claims.sensed s).getD 1 0) (hm : s.mxeclk ≤ 8) :
    execThermalTrip s = .next ((s.senseNow.fatalNow 0).setMod fun m => { m with thermN := false }) := by
  have h : ¬(decide ((Claims.sensed s).getD 1 0 < 115) || decide (8 < s.mxeclk)) = true := by
    rw [Bool.or_eq_true, decide_eq_true_iff, decide_eq_true_iff]
    omega
  simp only [execThermalTrip, act, State.senseNow_readings, State.senseNow_mxeclk, if_neg h]

/-- Below that temperature, or above the floor, the operation takes the readings alone. -/
theorem execThermalTrip_passes {s : State} (h : (Claims.sensed s).getD 1 0 < 115 ∨ 8 < s.mxeclk) :
    execThermalTrip s = .next (s.setMod fun m => { m with readings := Claims.sensed s }) := by
  have hb : (decide ((Claims.sensed s).getD 1 0 < 115) || decide (8 < s.mxeclk)) = true :=
    Bool.or_eq_true_iff.mpr (h.imp decide_eq_true decide_eq_true)
  simp only [execThermalTrip, act, State.senseNow_readings, State.senseNow_mxeclk, if_pos hb]
  exact congrArg _ s.senseNow_eq

/-! ## Stop on tick (R202) -/

/-- STOPTICK takes a later tick while no context is confidential. -/
theorem execStoptickWrite_takes {s : State} (hc : ∀ c ∈ s.ctxs, c.2.conf = false) (ht : s.mod.tick.toNat < s.arg.v.toNat) :
    execStoptickWrite s = .next (s.setMod fun m => { m with stopTick := some s.arg.v }) := by
  have h : s.ctxs.any (·.2.conf) = false := by simpa using hc
  simp only [execStoptickWrite, act, h, Bool.false_eq_true, if_false, if_neg (Nat.not_le.mpr ht)]

/-- STOPTICK refuses a value with a canary event while a context is confidential, and a tick that has passed. -/
theorem execStoptickWrite_refuses {s : State} (h : (∃ c ∈ s.ctxs, c.2.conf = true) ∨ s.arg.v.toNat ≤ s.mod.tick.toNat) :
    ∃ n, execStoptickWrite s = .next (s.canary 0 7 0x0D 0 n) := by
  by_cases hc : s.ctxs.any (·.2.conf) = true
  · exact ⟨0, by simp only [execStoptickWrite, act, hc, if_true]⟩
  · have ht := h.resolve_left (by simpa using hc)
    exact ⟨1, by simp only [execStoptickWrite, act, hc, Bool.false_eq_true, if_false, if_pos ht]⟩

end Sys2Proof.Machine
end

section
/-! SUPPORT. One clock of the stall account (R101, R102). -/

namespace Sys2Proof.Machine

/-- One clock of a core's account changes that core's counts, and brings them up to the clock. -/
theorem State.account_eq (s : State) (k : Nat) : ∃ e st, s.account k =
    s.updCore k fun _ => { tget s.cores k coreReset with elig := e, stall := st, upto := s.mod.clock } := by
  unfold State.account State.updCore
  extract_lets l ok idle lanes n
  dsimp only
  by_cases hc : (!((tget s.cores k coreReset).caughtUp (s.mod.clock - 1)).counting) = true
  · rw [if_pos hc]
    exact ⟨_, _, rfl⟩
  · rw [if_neg hc]
    exact ⟨_, _, rfl⟩

/-- The accounts change nothing but the cores' registers. -/
theorem State.accounts_frame (l : List Nat) (s : State) : { l.foldl State.account s with cores := s.cores } = s :=
  foldl_keeps (P := fun t : State => { t with cores := s.cores } = s) (f := State.account) (fun _ _ h => h) l rfl

theorem State.account_core (s : State) (j k : Nat) :
    ∃ e st, tget (s.account j).cores k coreReset =
      if j = k then { tget s.cores k coreReset with elig := e, stall := st, upto := s.mod.clock } else tget s.cores k coreReset := by
  obtain ⟨e, st, h⟩ := s.account_eq j
  refine ⟨e, st, ?_⟩
  rw [h]
  show tget (tset ..) k coreReset = _
  rw [tget_tset]
  split
  next h => subst h; rfl
  · rfl

/-- Whether a core counts is not the account's to change. -/
theorem State.accounts_counting (k : Nat) (l : List Nat) (s : State) :
    (tget (l.foldl State.account s).cores k coreReset).counting = (tget s.cores k coreReset).counting :=
  foldl_unchanged (fun t => (tget t.cores k coreReset).counting) (f := State.account)
    (fun t j => by
      obtain ⟨e, st, h⟩ := t.account_core j k
      rw [h]
      split <;> rfl) l s

/-- A core that is not among those accounted for keeps its registers. -/
theorem State.accounts_other {k : Nat} {l : List Nat} (hk : k ∉ l) (s : State) :
    tget (l.foldl State.account s).cores k coreReset = tget s.cores k coreReset := by
  induction l generalizing s with
  | nil => rfl
  | cons j l ih =>
    obtain ⟨hj, hl⟩ := List.ne_and_not_mem_of_not_mem_cons hk
    obtain ⟨e, st, h⟩ := s.account_core j k
    rw [List.foldl_cons, ih hl, h, if_neg (Ne.symm hj)]

/-- A core among those accounted for is up to date. -/
theorem State.accounts_upto {k : Nat} {l : List Nat} (hk : k ∈ l) (s : State) :
    (tget (l.foldl State.account s).cores k coreReset).upto = s.mod.clock := by
  induction l generalizing s with
  | nil => exact absurd hk List.not_mem_nil
  | cons j l ih =>
    rw [List.foldl_cons]
    by_cases hl : k ∈ l
    · exact ih hl _
    · obtain rfl : k = j := (List.mem_cons.mp hk).resolve_right hl
      obtain ⟨e, st, h⟩ := s.account_core k k
      rw [State.accounts_other hl, h, if_pos rfl]

end Sys2Proof.Machine
end

section
/-! SUPPORT. The operations of the module as a whole (R10 to R24, R202, R208). -/

namespace Sys2Proof.Machine

open Sys2Proof.Claims

/-- Settles O52, operation by operation. -/
theorem moduleEvents : Obligations.ModuleEvents := by
  refine ⟨?reset, ?boot, ?less, ?throttle, ?trip, ?noTrip, ?fatal, ?again, ?corrected, ?poison, ?rail, ?stop, ?noStop,
    ?stopped, ?notYet, ?account⟩
  case reset =>
    intro s _
    refine ⟨s.resetNow, rfl, ?_, rfl, rfl, rfl, rfl, rfl, rfl, rfl, rfl, fun a ha => ?_, fun a ha => ?_⟩
    · rw [← s.resetNow_firmware]
      rfl
    · rw [s.mget_resetNow, if_neg (Nat.not_le.mpr ha)]
    · rw [s.mget_resetNow, if_pos ha]
  case boot =>
    rintro s ⟨hb, hf, hq, hp, hqs, hc, hc', hps⟩
    have he : bootEnough s.mod.image = true := by simp [bootEnough, hqs, hc, hc', hps]
    obtain ⟨hChunks, hPorts, hChannels, hStacks, hQuads, hDies⟩ := bootModcap_fields hq hp hc'
    have modcap := State.boot_modcap hb hf he
    have twcfg := State.boot_twcfg hb hf he
    refine ⟨s.boot, rfl, State.boot_booted hb hf he, ?_, ?_, ?_, ?_, ?_, ?_, ?_, ?_,
      fun d hd => ⟨State.boot_qmask hb hf he hd, State.boot_pmask hb hf he hd⟩, fun p hp => State.boot_port hb hf he hp, ?_,
      State.boot_windows hb hf he, State.boot_dbar hb hf he, fun d v hl hd => State.boot_dbar_one hb hf he hl hd⟩
    · rw [State.channels, modcap, hChannels]
    · rw [State.memChunks, modcap, hChunks, chunksFor]
    · rw [State.modnum, twcfg, bootTwcfg_modnum]
    · rw [State.master, twcfg, bootTwcfg_master]
    · rw [modcap, hStacks]
    · rw [modcap, hDies]
    · rw [modcap, hQuads]
    · rw [modcap, hPorts]
    · rw [State.boot_host hb hf he]
      rfl
  case less =>
    rintro s ⟨hb, hf, hl⟩
    have he : bootEnough s.mod.image = false := by
      simp only [bootEnough, Bool.and_eq_false_iff, decide_eq_false_iff_not]
      omega
    exact congrArg _ (State.boot_of_less hb hf he)
  case throttle =>
    intro s _
    refine ⟨s.senseNow.throttle, rfl, fun hot => ?_, fun cool => ?_, ?_, s.senseNow.throttle_mem.trans s.senseNow_mem,
      s.senseNow.throttle_strands.trans s.senseNow_strands⟩
    · have h : throttleCause (sensed s) ≠ 0 := fun h => throttleCause_eq_zero.mp h hot
      rw [State.throttle_mxeclk, s.senseNow_readings, s.senseNow_mxeclk, nextClock, if_pos (bne_iff_ne.mpr h)]
    · have h : throttleCause (sensed s) = 0 := throttleCause_eq_zero.mpr cool
      rw [State.throttle_mxeclk, s.senseNow_readings, s.senseNow_mxeclk, h]
      rfl
    · rw [State.throttle_thermN, s.senseNow_readings, s.senseNow_fatal]
  case trip =>
    rintro s ⟨hj, hm⟩
    refine ⟨_, execThermalTrip_trips hj hm, s.senseNow.fatalNow_fatal 0, rfl, fun hs => ?_⟩
    exact State.fatalNow_ends_ctxs (s.senseNow_fatal.trans hs) 0
  case noTrip => exact fun s h => execThermalTrip_passes h
  case fatal =>
    intro s hs
    obtain ⟨flags, e⟩ := State.fatalNow_first hs s.arg.a
    refine ⟨s.fatalNow s.arg.a, rfl, s.fatalNow_fatal _, by rw [e], by rw [e], by rw [e], ?_, by rw [e], by rw [e]⟩
    have hd : (s.fatalNow s.arg.a).mod.dbytes = min s.mod.image.dumpSize (dumpAt s.ctxs.length).2.2 := by rw [e]
    rw [hd]
    exact State.fatalNow_sameBut hs _
  case again => exact fun s hs => congrArg _ (State.fatalNow_again hs s.arg.a)
  case corrected =>
    rintro s ⟨ha, hok⟩
    simp only [exec_patrolScrub, execPatrolScrub, act, if_neg (Nat.not_le.mpr ha), hok, if_true]
  case poison =>
    rintro s ⟨ha, hok⟩
    obtain ⟨t, e, hm, hp⟩ := execPatrolScrub_poisons ha hok
    exact ⟨t, e, (hp _).mpr (.inl rfl), fun g hg => (hp g).trans (or_iff_right hg), hm⟩
  case rail => exact fun s _ => rfl
  case stop => exact fun s h => execStoptickWrite_takes h.1 h.2
  case noStop =>
    intro s h
    obtain ⟨n, e⟩ := execStoptickWrite_refuses h
    exact ⟨_, e, rfl⟩
  case stopped =>
    rintro s ⟨v, hv, ht⟩
    simp only [exec_stopOnTick, execStopOnTick, act, hv, if_pos ht]
  case notYet =>
    intro s h
    simp only [exec_stopOnTick, execStopOnTick, act]
    split
    next v hv => rw [if_neg (Nat.not_le.mpr (h v hv))]; rfl
    · rfl
  case account =>
    exact fun s _ => ⟨s.busyCores.foldl State.account s, rfl, State.accounts_frame _ s, fun k => State.accounts_counting k _ s,
      fun k hk => State.accounts_upto hk s, fun k hk => State.accounts_other hk s⟩

end Sys2Proof.Machine
end

section
/-! SUPPORT. Writes at the homes while no arrival word is watched (R147, R154). -/

namespace Sys2Proof.Machine

/-! ## Bytes -/

/-- The bytes of the number that bytes make are those bytes. -/
theorem leBytes_leNat : ∀ l : List Byte, leBytes l.length (leNat l) = l
  | [] => rfl
  | b :: l => by
    have hb : (BitVec.ofNat 8 (b.toNat + 256 * leNat l) : Byte) = b := by
      apply BitVec.eq_of_toNat_eq
      rw [BitVec.toNat_ofNat]
      omega
    have hl : (b.toNat + 256 * leNat l) / 256 = leNat l := by omega
    rw [List.length_cons, leNat, leBytes, hb, hl, leBytes_leNat l]

@[simp] theorem length_mread (m : Memory) (a n : Nat) : (mread m a n).length = n := by simp [mread]

/-! ## One write -/

/-- Without a watched word a home applies every byte it is given. -/
theorem State.homeWrite_mem {s : State} (hw : s.home.words = []) (die k : Nat) (bytes : List Byte) (covers : Bool) :
    (s.homeWrite die k bytes covers).mem = mwrite s.mem k bytes := by
  have hb (i : Nat) (b : Byte) : (if s.waitersByte (k + i) then mget s.mem (k + i) else b) = b := by
    simp [State.waitersByte, hw]
  show mwrite s.mem k (bytes.mapIdx fun i b => if s.waitersByte (k + i) then mget s.mem (k + i) else b) = _
  simp only [hb, List.mapIdx_eq_zipIdx_map, List.zipIdx_map_fst]

/-- Without a watched word a store at a home writes its bytes, and beside memory changes what the homes and the assay
programs keep alone; it watches no word. -/
theorem State.homeStore_quiet {s : State} (hw : s.home.words = []) (die k : Nat) (bytes : List Byte) (covers : Bool) :
    ∃ home sched, home.words = [] ∧
      s.homeStore die k bytes covers = { s with mem := mwrite s.mem k bytes, home := home, sched := sched } := by
  refine ⟨(s.homeWrite die k bytes covers).home, s.sched.forget k bytes.length, hw, ?_⟩
  unfold State.homeStore
  rw [hw]
  show { s.homeWrite die k bytes covers with sched := s.sched.forget k bytes.length } = _
  rw [← State.homeWrite_mem hw die k bytes covers]
  rfl

section quiet
variable {s : State} (hw : s.home.words = []) (die k : Nat) (bytes : List Byte) (covers : Bool)
include hw

theorem State.homeStore_words : (s.homeStore die k bytes covers).home.words = [] := by
  obtain ⟨home, sched, hh, e⟩ := State.homeStore_quiet hw die k bytes covers
  rw [e]
  exact hh

theorem State.homeStore_mem : (s.homeStore die k bytes covers).mem = mwrite s.mem k bytes := by
  obtain ⟨home, sched, hh, e⟩ := State.homeStore_quiet hw die k bytes covers
  rw [e]

/-- What a store at a home does not change. -/
theorem State.homeStore_frame : { s with
    mem := (s.homeStore die k bytes covers).mem
    home := (s.homeStore die k bytes covers).home
    sched := (s.homeStore die k bytes covers).sched } = s.homeStore die k bytes covers := by
  obtain ⟨home, sched, hh, e⟩ := State.homeStore_quiet hw die k bytes covers
  rw [e]

theorem State.homeStore_ctxs : (s.homeStore die k bytes covers).ctxs = s.ctxs :=
  (congrArg State.ctxs (State.homeStore_frame hw die k bytes covers) :).symm

end quiet

/-- A write to memory leaves the bytes outside it. -/
theorem State.sameBut_mwrite {s t : State} {k : Nat} {bytes : List Byte} (ht : t.mem = mwrite s.mem k bytes) :
    s.SameBut t [(k, bytes.length)] := by
  intro a ha
  rw [ht]
  exact mget_mwrite_outside _ _ _ _ (ha _ List.mem_cons_self)

/-! ## Memory that no confidential context holds (R63) -/

/-- Without a confidential context no page is encrypted. -/
theorem State.confOf_none {s : State} (hc : ∀ c ∈ s.ctxs, c.2.conf = false) (pa : Nat) : s.confOf pa = none := by
  have h : s.ctxs.find? (fun c => c.2.conf && (s.pages c.1).any fun p =>
      s.localPage p.2.1 && pteEnc p.2.1 && pteAddr p.2.1 ≤ pa && pa < pteAddr p.2.1 + 2 ^ p.2.2) = none := by
    rw [List.find?_eq_none]
    intro c h
    simp [hc c h]
  exact congrArg (Option.map (·.1)) h

theorem State.stackByte_of_confOf {s : State} {pa : Nat} (h : s.confOf pa = none) : s.stackByte pa = mget s.mem pa := by
  unfold State.stackByte
  rw [h]

end Sys2Proof.Machine
end

section
/-! SUPPORT. The registers of BAR0, and the BAR2 window (R46, R47, R50 to R52, R194, R205). -/

namespace Sys2Proof.Machine

/-! ## BARWIN and BAR2 (R47, R50) -/

/-- The sizes that BAR2 can take. -/
theorem barSize_eq_self {n : Nat} : barSize n = n ↔ ∃ i < 13, n = 2 ^ (28 + i) := by
  unfold barSize
  split
  next h => simpa using h
  next h =>
    have hn : ¬∃ i < 13, n = 2 ^ (28 + i) := by simpa using h
    exact iff_of_false (fun e => hn ⟨0, by decide, e.symm⟩) hn

theorem State.barResized_nil {s : State} (h : s.arg.nats = []) : s.barResized = s := by
  unfold State.barResized
  rw [h]

theorem State.barResized_cons {s : State} {n : Nat} (h : s.arg.nats = [n]) :
    s.barResized = if barSize n = n then s.setHost fun h => { h with bar2Size := n } else s := by
  unfold State.barResized
  rw [h]
  by_cases hn : barSize n = n
  · simp only [if_pos hn]
  · simp only [if_neg hn]
    rfl

theorem State.barResized_arg (s : State) : s.barResized.arg = s.arg := by
  unfold State.barResized
  split <;> rfl

/-- BARWIN refuses a value with bits outside its field, or off the size of BAR2 (R50). -/
theorem execBarwinWrite_eq (s : State) : execBarwinWrite s = .next
    (if s.arg.v.extractLsb' 40 24 ≠ 0 ∨ s.arg.v.extractLsb' 0 28 ≠ 0 ∨ s.arg.v.toNat % s.barResized.host.bar2Size ≠ 0
     then s.barResized.canary 0 8 0x0B 0 0x10 else s.barResized.setHost fun h => { h with barwin := s.arg.v }) := by
  simp only [execBarwinWrite, act, State.barResized_arg, State.mbRefused, Bool.or_eq_true, bne_iff_ne, or_assoc]

/-- A byte of a BAR2 write, at its offset from the access (R50, R64). -/
def State.bar2Put (pa : Nat) (t : State) (x : Byte × Nat) : State :=
  if (t.confOf (pa + x.2)).isSome then t else t.homeStore (homeDie (pa + x.2)) (pa + x.2) [x.1] false

theorem execBar2Access_write {s : State} (hok : s.arg.ok = true)
    (ht : s.host.barwin.toNat + s.arg.a + s.arg.bytes.length ≤ s.memTop) :
    ∃ poison, execBar2Access s = .next (s.arg.bytes.zipIdx.foldl (State.bar2Put (s.host.barwin.toNat + s.arg.a))
      (s.setHome fun h => { h with poison := poison })) := by
  simp only [execBar2Access, act, hok, if_true, if_neg (Nat.not_lt.mpr ht)]
  exact ⟨_, rfl⟩

/-- Without confidential contexts and watched words, BAR2 writes every byte. -/
theorem State.bar2Puts_mem (pa : Nat) (l : List Byte) : ∀ (i : Nat) (t : State), (∀ c ∈ t.ctxs, c.2.conf = false) →
    t.home.words = [] → ((l.zipIdx i).foldl (State.bar2Put pa) t).mem = mwrite t.mem (pa + i) l := by
  induction l with
  | nil => intro i t _ _; rfl
  | cons b l ih =>
    intro i t hc hw
    have e : t.bar2Put pa (b, i) = t.homeStore (homeDie (pa + i)) (pa + i) [b] false := by
      simp [State.bar2Put, State.confOf_none hc]
    rw [List.zipIdx_cons, List.foldl_cons, e, ih (i + 1) _ (by rwa [State.homeStore_ctxs hw]) (State.homeStore_words hw ..),
      State.homeStore_mem hw]
    rfl

theorem execBar2Access_beyond {s : State} (hok : s.arg.ok = false)
    (ht : s.memTop < s.host.barwin.toNat + s.arg.a + s.arg.b) :
    execBar2Access s = .next (s.setHost fun h => { h with bar2Reply := none }) := by
  simp only [execBar2Access, act, hok, Bool.false_eq_true, if_false, if_pos ht]

theorem execBar2Access_read {s : State} (hok : s.arg.ok = false)
    (ht : s.host.barwin.toNat + s.arg.a + s.arg.b ≤ s.memTop) (hc : ∀ c ∈ s.ctxs, c.2.conf = false) :
    execBar2Access s = .next
      (s.setHost fun h => { h with bar2Reply := some (mread s.mem (h.barwin.toNat + s.arg.a) s.arg.b) }) := by
  simp only [execBar2Access, act, hok, Bool.false_eq_true, if_false, if_neg (Nat.not_lt.mpr ht),
    State.stackByte_of_confOf (State.confOf_none hc _)]
  rfl

/-! ## Queues (R51, R52) -/

@[simp] theorem State.queue_updQueue (s : State) (q : Nat) (f : Queue → Queue) : (s.updQueue q f).queue q = f (s.queue q) :=
  tget_tset_same ..

/-- A queue that stops keeps its indices, and the host is told. -/
theorem State.queueStop_spec (s : State) (q : Nat) :
    ((s.queueStop q).queue q).prod = (s.queue q).prod ∧ ((s.queueStop q).queue q).err = true ∧
      ((s.queueStop q).queue q).en = false ∧ (s.queueStop q).host.msix = 1 :: s.host.msix := by
  have e : (s.queueStop q).queue q = { (s.queue q).off with err := true } := tget_tset_same ..
  rw [e]
  exact ⟨rfl, rfl, rfl, rfl⟩

/-- QCTL as R51 and R52 give it: clearing EN drops what has not been read, and setting it moves QCONS past what was dropped. -/
theorem Queue.control_eq (x : Queue) (v : DWord) : x.control v =
    { (if v.getLsbD 63 = true then (if x.en = false ∧ x.waits = [] then { x with cons := x.next } else x)
        else if x.en = true then { x with next := x.prod } else x) with
      en := v.getLsbD 63, host := v.getLsbD 61, logsz := (v.extractLsb' 43 5).toNat
      prioMax := (v.extractLsb' 40 3).toNat } := by
  unfold Queue.control
  cases hv : v.getLsbD 63 with
  | true => cases x.en <;> simp
  | false => cases hen : x.en <;> simp [Queue.off, hen]

/-- A value written to QCTL enables the queue with settings that R51 refuses. -/
def Queue.refused (x : Queue) : Prop :=
  x.en = true ∧ (x.logsz < 4 ∨ 16 < x.logsz ∨ x.base.toNat % 4096 ≠ 0 ∨ x.ctx = 0)

theorem Queue.refused_iff (x : Queue) :
    (x.en && (x.logsz < 4 || 16 < x.logsz || x.base.toNat % 4096 != 0 || x.ctx = 0)) = true ↔ x.refused := by
  simp [Queue.refused, or_assoc]

theorem execQctlWrite_takes {s : State} (ha : s.arg.a < 256) (h : ¬((s.queue s.arg.a).control s.arg.v).refused) :
    execQctlWrite s = .next (s.updQueue s.arg.a fun x => x.control s.arg.v) := by
  simp only [execQctlWrite, act, if_neg (Nat.not_le.mpr ha), State.queue_updQueue, if_neg (mt (Queue.refused_iff _).mp h)]

theorem execQctlWrite_stops {s : State} (ha : s.arg.a < 256) (h : ((s.queue s.arg.a).control s.arg.v).refused) :
    execQctlWrite s = .next ((s.updQueue s.arg.a fun x => x.control s.arg.v).queueStop s.arg.a) := by
  simp only [execQctlWrite, act, if_neg (Nat.not_le.mpr ha), State.queue_updQueue, if_pos ((Queue.refused_iff _).mpr h)]

/-- An index that lies between QPROD and the end of the ring is taken; what the host has written before is visible (R163). -/
theorem execQprodWrite_takes {s : State} (ha : s.arg.a < 256)
    (hp : ((s.queue s.arg.a).prod - (s.queue s.arg.a).cons).toNat ≤
      (s.arg.v.extractLsb' 0 32 - (s.queue s.arg.a).cons).toNat)
    (hn : (s.arg.v.extractLsb' 0 32 - (s.queue s.arg.a).cons).toNat ≤ 2 ^ (s.queue s.arg.a).logsz) :
    execQprodWrite s = .next
      ([0, 1, 2, 3].foldl State.showAll (s.updQueue s.arg.a fun z => { z with prod := s.arg.v.extractLsb' 0 32 })) := by
  simp only [execQprodWrite, act, if_neg (Nat.not_le.mpr ha), decide_eq_false (Nat.not_lt.mpr hp),
    decide_eq_false (Nat.not_lt.mpr hn), Bool.or_self, Bool.false_eq_true, if_false]

theorem execQprodWrite_stops {s : State} (ha : s.arg.a < 256)
    (h : (s.arg.v.extractLsb' 0 32 - (s.queue s.arg.a).cons).toNat <
        ((s.queue s.arg.a).prod - (s.queue s.arg.a).cons).toNat ∨
      2 ^ (s.queue s.arg.a).logsz < (s.arg.v.extractLsb' 0 32 - (s.queue s.arg.a).cons).toNat) :
    execQprodWrite s = .next ((s.queueStop s.arg.a).canary 0 8 0x0E s.arg.a (s.arg.v.extractLsb' 0 32).toNat) := by
  have hb := Bool.or_eq_true_iff.mpr (h.imp decide_eq_true decide_eq_true)
  simp only [execQprodWrite, act, if_neg (Nat.not_le.mpr ha), if_pos hb]

/-! ## The other registers of BAR0 (R46, R194) -/

/-- The rows of the queues in BAR0. -/
theorem bar0_inQueues {a : Nat} : (0x10000 ≤ a && a < 0x12000) = true ↔ 0x10000 ≤ a ∧ a < 0x12000 := by
  rw [Bool.and_eq_true, decide_eq_true_iff, decide_eq_true_iff]

theorem execBar0RegisterWrite_qbase {s : State} {q : Nat} (hq : q < 256) (ha : s.arg.a = 0x10000 + 32 * q) :
    execBar0RegisterWrite s = .next (s.updQueue ((s.arg.a - 0x10000) / 32) fun x => { x with base := s.arg.v }) := by
  have hin : 0x10000 ≤ s.arg.a ∧ s.arg.a < 0x12000 := by omega
  have hrow : (s.arg.a % 32 == 0) = true := beq_iff_eq.mpr (by omega)
  simp only [execBar0RegisterWrite, act, if_pos (bar0_inQueues.mpr hin), if_pos hrow]

/-- The read-only registers stay. -/
theorem execBar0RegisterWrite_readOnly {s : State}
    (h : s.arg.a = 0x20010 ∨ (0x18 ≤ s.arg.a ∧ s.arg.a < 0x100) ∨ ∃ q < 256, s.arg.a = 0x10018 + 32 * q) :
    execBar0RegisterWrite s = .next s := by
  simp only [execBar0RegisterWrite, act]
  rcases h with h | ⟨_, h⟩ | ⟨q, hq, h⟩
  · rw [h]; rfl
  · have hout : ¬(0x10000 ≤ s.arg.a ∧ s.arg.a < 0x12000) := by omega
    have hbase : ¬(s.arg.a == 0x20000) = true := mt beq_iff_eq.mp (by omega)
    have hctl : ¬(s.arg.a == 0x20008) = true := mt beq_iff_eq.mp (by omega)
    have hlow : (decide (s.arg.a < 0x200) || s.arg.a == 0x20010) = true :=
      Bool.or_eq_true_iff.mpr (.inl (decide_eq_true (by omega)))
    simp only [if_neg (mt bar0_inQueues.mp hout), if_neg hbase, if_neg hctl, if_pos hlow]
  · have hin : 0x10000 ≤ s.arg.a ∧ s.arg.a < 0x12000 := by omega
    have hrow : ¬(s.arg.a % 32 == 0) = true := mt beq_iff_eq.mp (by omega)
    simp only [if_pos (bar0_inQueues.mpr hin), if_neg hrow]

end Sys2Proof.Machine
end

section
/-! SUPPORT. The registers of BAR0 and the BAR2 window as a whole. -/

namespace Sys2Proof.Machine

open Sys2Proof.Claims

/-- Settles O56, register by register. -/
theorem hostRegisters : Obligations.HostRegisters := by
  refine ⟨?barwin, ?refused, ?resized, ?beyond, ?read, ?write, ?queues, ?qbase, ?fsrBase, ?fsrCtl, ?readOnly, ?replay⟩
  case barwin =>
    rintro s ⟨hhi, hlo, hsize⟩
    rw [exec_barwinWrite, execBarwinWrite_eq, if_neg (by simp [hhi, hlo, hsize])]
  case refused =>
    intro s h
    rw [exec_barwinWrite, execBarwinWrite_eq, if_pos h]
  case resized =>
    refine fun s n => ⟨State.barResized_nil, fun hs hn => ?_, fun hs hn => ?_⟩
    · rw [State.barResized_cons hs, if_pos (barSize_eq_self.mpr hn)]
    · rw [State.barResized_cons hs, if_neg fun e => let ⟨i, hi, e⟩ := barSize_eq_self.mp e; hn i hi e]
  case beyond => exact fun s h => execBar2Access_beyond h.1 h.2
  case read => exact fun s ⟨hok, ht, hc⟩ => execBar2Access_read hok ht hc
  case write =>
    rintro s ⟨hok, ht, hc, hw⟩
    obtain ⟨poison, e⟩ := execBar2Access_write hok ht
    have hm := State.bar2Puts_mem (s.host.barwin.toNat + s.arg.a) s.arg.bytes 0
      (s.setHome fun h => { h with poison := poison }) hc hw
    refine ⟨_, e, ?_, State.sameBut_mwrite hm⟩
    rw [hm]
    exact mread_mwrite ..
  case queues =>
    intro s ha x v z y bad
    have hy : x.control v = y := x.control_eq v
    refine ⟨fun h => ?_, fun hen hbad => ?_, fun hp hn => execQprodWrite_takes ha hp hn, fun h => ?_⟩
    · rw [exec_qctlWrite, execQctlWrite_takes ha (hy ▸ h)]
      exact congrArg (fun w => Host.Outcome.next (s.updQueue s.arg.a fun _ => w)) hy
    · obtain ⟨-, herr, hoff, hmsix⟩ := (s.updQueue s.arg.a fun x => x.control s.arg.v).queueStop_spec s.arg.a
      exact ⟨_, execQctlWrite_stops ha (hy ▸ ⟨hen, hbad⟩), herr, hoff, hmsix⟩
    · exact ⟨_, execQprodWrite_stops ha h, s.queueStop_spec s.arg.a⟩
  case qbase => exact fun s ⟨q, hq, ha⟩ => execBar0RegisterWrite_qbase hq ha
  case fsrBase =>
    intro s ha
    rw [exec_bar0RegisterWrite]
    simp only [execBar0RegisterWrite, act, ha]
    rfl
  case fsrCtl =>
    intro s ha
    rw [exec_bar0RegisterWrite]
    simp only [execBar0RegisterWrite, act, ha]
    rfl
  case readOnly => exact fun s h => execBar0RegisterWrite_readOnly h
  case replay =>
    intro s _
    rw [exec_replayIndexWrite]
    simp only [execReplayIndexWrite, act, Bool.and_eq_true, beq_iff_eq, Ctx.replays, Ctx.records]

end Sys2Proof.Machine
end

section
/-! SUPPORT. Ports: messages to send, and received messages that have been acted on (R28, R29, R34). -/

namespace Sys2Proof.Machine

/-! ## One port -/

@[simp] theorem State.port_updPort_same (s : State) (p : Nat) (f : Port → Port) : (s.updPort p f).port p = f (s.port p) :=
  tget_tset_same ..

theorem State.port_updPort_other (s : State) {p q : Nat} (f : Port → Port) (h : p ≠ q) : (s.updPort p f).port q = s.port q :=
  tget_tset_other _ _ _ _ _ h

/-- Ports that are up in the same numbers send a message through the same port. -/
theorem State.portFor_congr {s t : State} (h : ∀ p, (t.port p).st = (s.port p).st) : t.portFor = s.portFor := by
  have hu : t.upPorts = s.upPorts := by
    funext die
    simp only [State.upPorts, h]
  funext die dmod addr
  simp only [State.portFor, hu]

/-! ## A message that has been acted on -/

/-- What a message that has been acted on frees is room in the buffer of its port, with the channels that the port pauses. -/
theorem State.msgDone_eq (s : State) (p vc : Nat) : ∃ ports,
    s.msgDone p vc = { s with fab := { s.fab with ports := ports } } ∧
      ∀ q, ∃ buf pause, tget ports q portReset = { s.port q with rxBuf := buf, pause := pause } := by
  by_cases h : (8 ≤ vc || (tfind s.fab.ports p).isNone) = true
  · exact ⟨s.fab.ports, if_pos h, fun q => ⟨(s.port q).rxBuf, (s.port q).pause, rfl⟩⟩
  · refine ⟨_, if_neg h, fun q => ?_⟩
    rw [tget_tset]
    split
    next e => subst e; exact ⟨_, _, rfl⟩
    next => exact ⟨(s.port q).rxBuf, (s.port q).pause, rfl⟩

/-- The port `q` once a message has been acted on. -/
theorem State.msgDone_port (s : State) (p vc q : Nat) : ∃ buf pause,
    (s.msgDone p vc).port q = { s.port q with rxBuf := buf, pause := pause } := by
  obtain ⟨ports, e, h⟩ := s.msgDone_eq p vc
  rw [e]
  exact h q

@[simp] theorem State.msgDone_st (s : State) (p vc q : Nat) : ((s.msgDone p vc).port q).st = (s.port q).st := by
  obtain ⟨buf, pause, e⟩ := s.msgDone_port p vc q
  rw [e]

@[simp] theorem State.msgDone_txq (s : State) (p vc q : Nat) : ((s.msgDone p vc).port q).txq = (s.port q).txq := by
  obtain ⟨buf, pause, e⟩ := s.msgDone_port p vc q
  rw [e]

/-- What does not look at the ports does not change with a message that has been acted on. -/
theorem State.msgDone_unchanged {α : Type} (π : State → α)
    (hπ : ∀ s ports, π { s with fab := { s.fab with ports := ports } } = π s) (s : State) (p vc : Nat) :
    π (s.msgDone p vc) = π s := by
  obtain ⟨ports, e, -⟩ := s.msgDone_eq p vc
  rw [e, hπ]

@[simp] theorem State.msgDone_mod (s : State) (p vc : Nat) : (s.msgDone p vc).mod = s.mod :=
  msgDone_unchanged State.mod (fun _ _ => rfl) ..
@[simp] theorem State.msgDone_mem (s : State) (p vc : Nat) : (s.msgDone p vc).mem = s.mem :=
  msgDone_unchanged State.mem (fun _ _ => rfl) ..
@[simp] theorem State.msgDone_home (s : State) (p vc : Nat) : (s.msgDone p vc).home = s.home :=
  msgDone_unchanged State.home (fun _ _ => rfl) ..
@[simp] theorem State.msgDone_ctxs (s : State) (p vc : Nat) : (s.msgDone p vc).ctxs = s.ctxs :=
  msgDone_unchanged State.ctxs (fun _ _ => rfl) ..
@[simp] theorem State.msgDone_bars (s : State) (p vc : Nat) : (s.msgDone p vc).bars = s.bars :=
  msgDone_unchanged State.bars (fun _ _ => rfl) ..
@[simp] theorem State.msgDone_events (s : State) (p vc : Nat) : (s.msgDone p vc).events = s.events :=
  msgDone_unchanged State.events (fun _ _ => rfl) ..
@[simp] theorem State.msgDone_reqs (s : State) (p vc : Nat) : (s.msgDone p vc).fab.reqs = s.fab.reqs :=
  msgDone_unchanged (·.fab.reqs) (fun _ _ => rfl) ..
@[simp] theorem State.msgDone_answers (s : State) (p vc : Nat) : (s.msgDone p vc).fab.answers = s.fab.answers :=
  msgDone_unchanged (·.fab.answers) (fun _ _ => rfl) ..
@[simp] theorem State.msgDone_arrived (s : State) (p vc : Nat) : (s.msgDone p vc).fab.arrived = s.fab.arrived :=
  msgDone_unchanged (·.fab.arrived) (fun _ _ => rfl) ..
@[simp] theorem State.msgDone_master (s : State) (p vc : Nat) : (s.msgDone p vc).master = s.master :=
  msgDone_unchanged State.master (fun _ _ => rfl) ..
@[simp] theorem State.msgDone_dbar (s : State) (p vc b : Nat) : (s.msgDone p vc).dbar b = s.dbar b :=
  msgDone_unchanged (State.dbar · b) (fun _ _ => rfl) ..
@[simp] theorem State.msgDone_gen (s : State) (p vc : Nat) (k : BarKey) : (s.msgDone p vc).gen k = s.gen k :=
  msgDone_unchanged (State.gen · k) (fun _ _ => rfl) ..

theorem State.msgDone_frame (s : State) (p vc : Nat) : { s.msgDone p vc with fab := s.fab } = s :=
  msgDone_unchanged (fun t : State => { t with fab := s.fab }) (fun _ _ => rfl) ..

/-! ## An answer -/

/-- An answer changes the fabric alone. -/
theorem State.reply_frame (s : State) (m : Msg) (die op status : Nat) (data : List Byte) :
    { s.reply m die op status data with fab := s.fab } = s := by
  unfold State.reply
  split <;> rfl

theorem State.reply_mem (s : State) (m : Msg) (die op status : Nat) (data : List Byte) :
    (s.reply m die op status data).mem = s.mem := (congrArg State.mem (s.reply_frame m die op status data) :)

/-- A state in which `s` has done its part on a message but for the answer: the fabric alone has changed, and no port has
another state or other messages to send. -/
def State.DoneBy (s t : State) : Prop :=
  { t with fab := s.fab } = s ∧ ∀ q, (t.port q).st = (s.port q).st ∧ (t.port q).txq = (s.port q).txq

theorem State.doneBy_msgDone (s : State) (p vc : Nat) : s.DoneBy (s.msgDone p vc) :=
  ⟨s.msgDone_frame p vc, fun q => ⟨s.msgDone_st p vc q, s.msgDone_txq p vc q⟩⟩

/-- The requester is answered once the rest is done. -/
theorem State.DoneBy.replied {s t : State} (h : s.DoneBy t) (die op status : Nat) (data : List Byte) :
    Claims.Replied s (t.reply s.arg.msg die op status data) die op status data := by
  obtain ⟨hframe, hports⟩ := h
  have hfor : t.portFor = s.portFor := State.portFor_congr fun q => (hports q).1
  have hr := congrArg (fun u : State => { u with fab := s.fab }) (t.reply_frame s.arg.msg die op status data)
  refine ⟨hr.trans hframe, fun hnone q => ?_, fun p hp => ⟨fun q hq => ?_, ?_⟩⟩
  · simp only [State.reply, hfor, hnone, (hports q).2]
  · simp only [State.reply, hfor, hp, State.sendOn, State.port_updPort_other t _ (Ne.symm hq), (hports q).2]
  · refine ⟨respond s.arg.msg t.modnum die op status data, ?_, rfl, rfl, rfl, rfl, rfl⟩
    simp only [State.reply, hfor, hp, State.sendOn, State.port_updPort_same, (hports p).2]

end Sys2Proof.Machine
end

section
/-! SUPPORT. Requests at their home: READ, WRITE, ATOMIC, and contributions (R32, R37, R42, R158). -/

/-- Where a request lies within the module (R32). -/
def Sys2Proof.Msg.place (m : Sys2Proof.Msg) : Nat := m.addr.toNat % 2 ^ 48

/-- The type that a contribution's AOP names (R40). -/
def Sys2Proof.Msg.redTy (m : Sys2Proof.Msg) : Nat := m.aop.toNat / 8

/-- The operation that a contribution's AOP names (R40). -/
def Sys2Proof.Msg.redOp (m : Sys2Proof.Msg) : Nat := m.aop.toNat % 8

namespace Sys2Proof.Machine

/-! ## Where a request lies (R32) -/

/-- A request for an address below those of the slices: it is beyond memory, a confidential context holds it, or it is served. -/
theorem State.domainPlace_low {s : State} {m : Msg} {n : Nat} (hd : m.place < 2 ^ 40) : s.domainPlace m.addr.toNat n =
    if s.memTop < m.place + n then some (.error 3)
    else if (s.confOf m.place).isSome then some (.error 2) else some (.ok m.place) := by
  have hb : m.place.testBit 47 = false := Nat.testBit_lt_two_pow (Nat.lt_trans hd (by decide))
  have hq : (m.place / 2 ^ 40 != 0) = false := by rw [Nat.div_eq_of_lt hd]; rfl
  unfold State.domainPlace
  rw [show m.addr.toNat % 2 ^ 48 = m.place from rfl]
  simp only [hb, hq, Bool.false_or, Bool.false_eq_true, if_false, decide_eq_true_iff]

/-- An address of device memory that no confidential context holds. -/
theorem State.domainPlace_memory {s : State} {m : Msg} {n : Nat} (hd : m.place < 2 ^ 40) (ht : m.place + n ≤ s.memTop)
    (hc : s.confOf m.place = none) : s.domainPlace m.addr.toNat n = some (.ok m.place) := by
  rw [State.domainPlace_low hd, if_neg (Nat.not_lt.mpr ht), hc]
  rfl

/-- An address beyond device memory is refused with STATUS 3. -/
theorem State.domainPlace_beyond {s : State} {m : Msg} {n : Nat} (hd : m.place < 2 ^ 40) (ht : s.memTop < m.place + n) :
    s.domainPlace m.addr.toNat n = some (.error 3) := by
  rw [State.domainPlace_low hd, if_pos ht]

@[simp] theorem State.msgDone_domainPlace (s : State) (p vc addr n : Nat) :
    (s.msgDone p vc).domainPlace addr n = s.domainPlace addr n :=
  msgDone_unchanged (State.domainPlace · addr n) (fun _ _ => rfl) ..
@[simp] theorem State.msgDone_windowFailed (s : State) (p vc d : Nat) : (s.msgDone p vc).windowFailed d = s.windowFailed d :=
  msgDone_unchanged (State.windowFailed · d) (fun _ _ => rfl) ..
@[simp] theorem State.msgDone_windowAt (s : State) (p vc m d : Nat) : (s.msgDone p vc).windowAt m d = s.windowAt m d :=
  msgDone_unchanged (State.windowAt · m d) (fun _ _ => rfl) ..
@[simp] theorem State.msgDone_window (s : State) (p vc w : Nat) : (s.msgDone p vc).window w = s.window w :=
  msgDone_unchanged (State.window · w) (fun _ _ => rfl) ..
@[simp] theorem State.msgDone_poisoned (s : State) (p vc k n : Nat) : (s.msgDone p vc).poisoned k n = s.poisoned k n :=
  msgDone_unchanged (State.poisoned · k n) (fun _ _ => rfl) ..
@[simp] theorem State.msgDone_modnum (s : State) (p vc : Nat) : (s.msgDone p vc).modnum = s.modnum :=
  msgDone_unchanged State.modnum (fun _ _ => rfl) ..

section serve
variable {s : State} (i : Instr) {n : Nat} (f : State → Nat → State) (hw : s.windowFailed s.arg.msg.place = false)
include hw

theorem State.serve_of_ok {k : Nat} (h : s.domainPlace s.arg.msg.addr.toNat n = some (.ok k)) :
    s.serve i n f = f (s.msgDone s.arg.a s.arg.c) k := by
  have hw' : s.windowFailed (s.arg.msg.addr.toNat % 2 ^ 48) = false := hw
  simp only [State.serve, State.msgDone_domainPlace, h, State.msgDone_windowFailed, hw', Bool.false_eq_true, if_false]

theorem State.serve_of_error {e : Nat} (h : s.domainPlace s.arg.msg.addr.toNat n = some (.error e)) :
    s.serve i n f = (s.msgDone s.arg.a s.arg.c).reply s.arg.msg (homeDie s.arg.msg.place) 6 e [] := by
  have hw' : s.windowFailed (s.arg.msg.addr.toNat % 2 ^ 48) = false := hw
  simp only [State.serve, State.msgDone_domainPlace, h, State.msgDone_windowFailed, hw', Bool.false_eq_true, if_false]
  rfl

end serve

/-! ## A request that writes -/

/-- A state with the memory of another, and what the homes and the assay programs keep there. -/
def State.withHome (s t : State) : State := { s with mem := t.mem, home := t.home, sched := t.sched }

theorem State.withHome_reply (s t : State) (m : Msg) (die op status : Nat) (data : List Byte) :
    s.withHome (t.reply m die op status data) = s.withHome t := by
  unfold State.reply
  split <;> rfl

/-- A message that has been acted on and a store at a home change nothing but memory and its surroundings. -/
theorem State.doneBy_homeStore {s : State} (hw : s.home.words = []) (p vc die k : Nat) (bytes : List Byte) (covers : Bool) :
    (s.withHome ((s.msgDone p vc).homeStore die k bytes covers)).DoneBy ((s.msgDone p vc).homeStore die k bytes covers) := by
  obtain ⟨hframe, hports⟩ := s.doneBy_msgDone p vc
  have hw' : (s.msgDone p vc).home.words = [] := by simpa using hw
  obtain ⟨home, sched, -, e⟩ := State.homeStore_quiet hw' die k bytes covers
  rw [e]
  exact ⟨congrArg (fun t : State => { t with mem := mwrite (s.msgDone p vc).mem k bytes, home := home, sched := sched }) hframe,
    hports⟩

/-- The state in which a request has written `bytes` at `k` of its home and is answered. -/
def State.stored (s : State) (k : Nat) (bytes : List Byte) (covers : Bool) (die op : Nat) (data : List Byte) : State :=
  ((s.msgDone s.arg.a s.arg.c).homeStore (homeDie k) k bytes covers).reply s.arg.msg die op 0 data

section stored
variable {s : State} (hw : s.home.words = []) (k : Nat) (bytes : List Byte) (covers : Bool) (die op : Nat) (data : List Byte)
include hw

theorem State.stored_mem : (s.stored k bytes covers die op data).mem = mwrite s.mem k bytes := by
  unfold State.stored
  rw [State.reply_mem, State.homeStore_mem (by simpa using hw), State.msgDone_mem]

/-- A request that writes changes memory and its surroundings, and is answered. -/
theorem State.stored_replied : Claims.Replied (s.withHome (s.stored k bytes covers die op data))
    (s.stored k bytes covers die op data) die op 0 data := by
  rw [State.stored, State.withHome_reply]
  exact (State.doneBy_homeStore hw ..).replied die op 0 data

end stored

end Sys2Proof.Machine
end

section
/-! SUPPORT. What each request at its home does (R37, R40, R42, R183). -/

namespace Sys2Proof.Machine

/-- The number that a write of a number leaves. -/
theorem leNat_mread_mwrite (m : Memory) (k n v : Nat) : leNat (mread (mwrite m k (leBytes n v)) k n) = v % 256 ^ n := by
  have h := mread_mwrite m k (leBytes n v)
  rw [length_leBytes] at h
  rw [h, leNat_leBytes]

@[simp] theorem State.msgDone_memTop (s : State) (p vc : Nat) : (s.msgDone p vc).memTop = s.memTop :=
  msgDone_unchanged State.memTop (fun _ _ => rfl) ..
@[simp] theorem State.msgDone_confOf (s : State) (p vc d : Nat) : (s.msgDone p vc).confOf d = s.confOf d :=
  msgDone_unchanged (State.confOf · d) (fun _ _ => rfl) ..

/-! ## READ, WRITE, ATOMIC -/

section served
variable {s : State} (hd : s.arg.msg.place < 2 ^ 40)
  (hw : s.windowFailed s.arg.msg.place = false)
include hd hw

theorem execRead_served (ht : s.arg.msg.place + s.arg.msg.bytes ≤ s.memTop)
    (hc : s.confOf s.arg.msg.place = none) :
    execRead s = .next ((s.msgDone s.arg.a s.arg.c).reply s.arg.msg (homeDie s.arg.msg.place) 4
      (if s.poisoned s.arg.msg.place s.arg.msg.bytes then 1 else 0)
      (mread s.mem s.arg.msg.place s.arg.msg.bytes)) := by
  simp only [execRead, act, State.serve_of_ok _ _ hw (State.domainPlace_memory hd ht hc), State.msgDone_poisoned,
    State.msgDone_mem]

theorem execRead_beyond (ht : s.memTop < s.arg.msg.place + s.arg.msg.bytes) :
    execRead s = .next ((s.msgDone s.arg.a s.arg.c).reply s.arg.msg (homeDie s.arg.msg.place) 6 3 []) := by
  simp only [execRead, act, State.serve_of_error _ _ hw (State.domainPlace_beyond hd ht)]

theorem execWrite_stored (ht : s.arg.msg.place + s.arg.msg.data.length ≤ s.memTop)
    (hc : s.confOf s.arg.msg.place = none) :
    ∃ covers, execWrite s = .next (s.stored s.arg.msg.place s.arg.msg.data covers
      (homeDie s.arg.msg.place) 5 []) := by
  simp only [execWrite, act, State.serve_of_ok _ _ hw (State.domainPlace_memory hd ht hc)]
  exact ⟨_, rfl⟩

/-- An atomic of the module's operations at an aligned address that is not poisoned answers with the old value. -/
theorem execAtomic_stored {n : Nat}
    (hn : n = if s.arg.msg.aop.toNat = 9 then s.arg.msg.data.length / 2 else s.arg.msg.data.length)
    (ht : s.arg.msg.place + n ≤ s.memTop) (hc : s.confOf s.arg.msg.place = none)
    (hp : s.poisoned s.arg.msg.place n = false) (ha : s.arg.msg.place % n = 0)
    (hop : n = 4 ∧ s.arg.msg.aop.toNat ≤ 12 ∨ n = 8 ∧ s.arg.msg.aop.toNat ≤ 9) :
    execAtomic s = .next (s.stored s.arg.msg.place
      (leBytes n (atomNew s.arg.msg.aop.toNat (8 * n) (leNat (mread s.mem s.arg.msg.place n))
        (leNat (s.arg.msg.data.take n)) (leNat (s.arg.msg.data.drop n)))) false
      (homeDie s.arg.msg.place) 4 (mread s.mem s.arg.msg.place n)) := by
  have hbad : (!remoteAop s.arg.msg.aop.toNat n || s.arg.msg.place % n != 0) = false := by
    have h : remoteAop s.arg.msg.aop.toNat n = true := by simpa [remoteAop] using hop
    simp [h, ha]
  have hold : leBytes n (leNat (mread s.mem s.arg.msg.place n)) =
      mread s.mem s.arg.msg.place n := by
    simpa using leBytes_leNat (mread s.mem s.arg.msg.place n)
  simp only [execAtomic, act, ← hn, State.serve_of_ok _ _ hw (State.domainPlace_memory hd ht hc), hbad, State.msgDone_poisoned,
    hp, Bool.false_eq_true, if_false, State.atomAt, State.msgDone_mem, hold, State.stored]

end served

/-! ## Contributions -/

/-- What a contribution to `d` meets: no window, or one in service that is not indexed and has its type and operation. -/
def State.TakesPlain (s : State) (d ty op : Nat) : Prop :=
  s.windowAt s.modnum d = none ∨ ∃ w, s.windowAt s.modnum d = some w ∧ (s.window w).failed = false ∧
    (s.window w).idx = false ∧ (s.window w).ty = ty ∧ (s.window w).op = op

theorem State.contribute_plain {s : State} {w : Nat} (hf : (s.window w).failed = false) (hi : (s.window w).idx = false)
    (port off k i : Nat) (v : List Byte) :
    s.contribute w port off k i v = (s.redApply k (s.window w).ty (s.window w).op v, .ack) := by
  simp only [State.contribute, hf, hi, Bool.false_eq_true, if_false, Bool.not_false, if_true]

/-- A contribution that no window orders is applied as it comes. -/
theorem State.contribAt_plain {s : State} {m : Msg} {v : List Byte} (port i : Nat) (hd : m.place < 2 ^ 40)
    (ht : m.place + v.length ≤ s.memTop) (hc : s.confOf m.place = none)
    (hp : s.poisoned m.place v.length = false) (hb : redBad m.redTy m.redOp = false)
    (hv : v.length = redBytes m.redTy)
    (hw : s.TakesPlain m.place m.redTy m.redOp) :
    s.contribAt m port i v = (s.redApply m.place m.redTy m.redOp v).reply m
      (homeDie m.place) 5 0 [] := by
  unfold State.contribAt
  rw [State.domainPlace_memory hd ht hc]
  rcases hw with hw | ⟨w, hw, hf, hi, hty, hop⟩
  · have hlen : (redBad m.redTy m.redOp || v.length != redBytes m.redTy) = false := by simp [hb, hv]
    have hwf : s.windowFailed m.place = false := by simp [State.windowFailed, hw]
    rw [show m.addr.toNat % 2 ^ 48 = m.place from rfl, show m.aop.toNat / 8 = m.redTy from rfl,
      show m.aop.toNat % 8 = m.redOp from rfl]
    simp only [hwf, hw, hlen, hp, Bool.false_eq_true, if_false]
  · have hwf : s.windowFailed m.place = false := by simp [State.windowFailed, hw, hf]
    rw [show m.addr.toNat % 2 ^ 48 = m.place from rfl]
    simp only [hwf, hw, hp, Bool.false_eq_true, if_false, State.contribute_plain hf hi, hty, hop]

/-- RED, or REDB with one pair, is one contribution of the bytes of its type. -/
theorem exec_contribution {s : State} {i : Instr} (hi : i = .red ∧ s.arg.msg.data.length = redBytes s.arg.msg.redTy ∨
      i = .redb ∧ s.arg.msg.idx.length = 1 ∧ redBytes s.arg.msg.redTy ≤ s.arg.msg.data.length) :
    ∃ (m : Msg) (x : Nat), m.place = s.arg.msg.place ∧ m.redTy = s.arg.msg.redTy ∧ m.redOp = s.arg.msg.redOp ∧
      (∀ (t : State) die op status data, t.reply m die op status data = t.reply s.arg.msg die op status data) ∧
      exec i s = .next ((s.msgDone s.arg.a s.arg.c).contribAt m s.arg.a x
        (s.arg.msg.data.take (redBytes s.arg.msg.redTy))) := by
  rcases hi with ⟨rfl, hl⟩ | ⟨rfl, hl, -⟩
  · refine ⟨s.arg.msg, (s.arg.msg.idx.headD 0).toNat, rfl, rfl, rfl, fun _ _ _ _ _ => rfl, ?_⟩
    rw [List.take_of_length_le (le_of_eq hl)]
    rfl
  · obtain ⟨x, hx⟩ := List.length_eq_one_iff.mp hl
    refine ⟨{ s.arg.msg with op := 7, idx := [x], data := s.arg.msg.data.take (redBytes s.arg.msg.redTy) }, x.toNat, rfl, rfl,
      rfl, fun _ _ _ _ _ => rfl, ?_⟩
    rw [exec_redb]
    simp only [execRedb, act, hx]
    rfl

theorem exec_contribution_stored {s : State} {i : Instr}
    (hi : i = .red ∧ s.arg.msg.data.length = redBytes s.arg.msg.redTy ∨
      i = .redb ∧ s.arg.msg.idx.length = 1 ∧ redBytes s.arg.msg.redTy ≤ s.arg.msg.data.length)
    (hd : s.arg.msg.place < 2 ^ 40)
    (ht : s.arg.msg.place + redBytes s.arg.msg.redTy ≤ s.memTop)
    (hc : s.confOf s.arg.msg.place = none)
    (hp : s.poisoned s.arg.msg.place (redBytes s.arg.msg.redTy) = false)
    (hb : redBad s.arg.msg.redTy s.arg.msg.redOp = false)
    (hw : s.TakesPlain s.arg.msg.place s.arg.msg.redTy s.arg.msg.redOp) :
    exec i s = .next (s.stored s.arg.msg.place
      (leBytes (redBytes s.arg.msg.redTy) (redNew s.arg.msg.redTy s.arg.msg.redOp
        (leNat (mread s.mem s.arg.msg.place (redBytes s.arg.msg.redTy)))
        (leNat (s.arg.msg.data.take (redBytes s.arg.msg.redTy))))) false
      (homeDie s.arg.msg.place) 5 []) := by
  have hv : (s.arg.msg.data.take (redBytes s.arg.msg.redTy)).length = redBytes s.arg.msg.redTy := by
    rw [List.length_take]
    omega
  obtain ⟨m, x, hplace, hty, hop, hreply, e⟩ := exec_contribution hi
  rw [← hplace] at hd ht hc hp hw ⊢
  rw [← hty] at ht hp hb hw hv e ⊢
  rw [← hop] at hb hw ⊢
  rw [e, State.contribAt_plain _ _ hd (by simpa [hv] using ht) (by simpa using hc) (by simpa [hv] using hp) hb hv
    (by simpa [State.TakesPlain] using hw), hreply]
  simp only [State.redApply, State.msgDone_mem, State.stored]

end Sys2Proof.Machine
end

section
/-! SUPPORT. Reduction windows: indexed contributions, and the windows' registers (R40, R42, R43, R46). -/

namespace Sys2Proof.Machine

@[simp] theorem State.window_updWindow (s : State) (w : Nat) (f : Window → Window) :
    (s.updWindow w f).window w = f (s.window w) :=
  tget_tset_same ..

/-! ## Indexed contributions (R42) -/

/-- The element of a window at an offset. -/
def Window.elem (x : Window) (off : Nat) : Elem := tget x.elems off ⟨0, []⟩

/-- A window with the element at an offset replaced. -/
def Window.setElem (x : Window) (off : Nat) (e : Elem) : Window := { x with elems := tset x.elems off e }

@[simp] theorem Window.elem_setElem (x : Window) (off : Nat) (e : Elem) : (x.setElem off e).elem off = e := tget_tset_same ..

theorem State.redApply_mem {s : State} (hw : s.home.words = []) (k ty op : Nat) (v : List Byte) :
    (s.redApply k ty op v).mem =
      mwrite s.mem k (leBytes (redBytes ty) (redNew ty op (leNat (mread s.mem k (redBytes ty))) (leNat v))) :=
  State.homeStore_mem hw ..

/-- An element that holds nothing leaves nothing to apply. -/
theorem redDrain_nothing {s : State} {w off : Nat} (h : ((s.window w).elem off).held = []) (k : Nat) : ∀ f : Nat,
    redDrain f s w off k = s
  | 0 => rfl
  | f + 1 => by
    unfold Window.elem tget at h
    simp only [redDrain]
    cases he : tfind (s.window w).elems off with
    | none => rfl
    | some e =>
      rw [he] at h
      have h' : e.held = [] := h
      simp [h']

section indexed
variable {s : State} {w : Nat} (off : Nat) (hf : (s.window w).failed = false) (hi : (s.window w).idx = true)
include hf hi

/-- A contribution to an indexed window, by its index (R42). -/
theorem State.contribute_indexed (port k i : Nat) (v : List Byte) : s.contribute w port off k i v =
    if i = ((s.window w).elem off).e then
      (redDrain (((s.window w).elem off).held.length + 1)
        ((s.redApply k (s.window w).ty (s.window w).op v).updWindow w fun x => x.setElem off { (s.window w).elem off with
          e := if i = (s.window w).ncontrib then 0 else ((s.window w).elem off).e + 1 }) w off k, .ack)
    else if i < ((s.window w).elem off).e ∨ (s.window w).ncontrib < i ∨
        ((s.window w).elem off).held.any (fun h => h.2.1 == i) = true then (s, .refuse)
    else if ((s.window w).elem off).e + 4096 ≤ i ∨ 4096 ≤ s.heldOf w port then (s, .retry)
    else (s.updWindow w fun x => x.setElem off { (s.window w).elem off with
      held := ((s.window w).elem off).held ++ [(port, i, v, s.mod.tick.toNat)] }, .ack) := by
  unfold State.contribute
  simp only [hf, hi, Bool.not_true, Bool.false_eq_true, if_false, Bool.or_eq_true, decide_eq_true_iff, or_assoc]
  rfl

/-- The contribution that an element without held ones expects is applied, and the next index is expected. -/
theorem State.contribute_expected (hh : ((s.window w).elem off).held = []) (port k : Nat) (v : List Byte) :
    s.contribute w port off k ((s.window w).elem off).e v =
      ((s.redApply k (s.window w).ty (s.window w).op v).updWindow w fun x => x.setElem off { (s.window w).elem off with
        e := if ((s.window w).elem off).e = (s.window w).ncontrib then 0 else ((s.window w).elem off).e + 1 }, .ack) := by
  rw [State.contribute_indexed off hf hi, if_pos rfl]
  refine congrArg (·, RedReply.ack) (redDrain_nothing ?_ k _)
  rw [State.window_updWindow, Window.elem_setElem, hh]

/-- An index that is past, or beyond NCONTRIB, is refused. -/
theorem State.contribute_refused {i : Nat} (h : i < ((s.window w).elem off).e ∨
      (s.window w).ncontrib < i ∧ i ≠ ((s.window w).elem off).e) (port k : Nat) (v : List Byte) :
    s.contribute w port off k i v = (s, .refuse) := by
  rw [State.contribute_indexed off hf hi, if_neg (by omega), if_pos (h.imp_right fun h => .inl h.1)]

section later
variable {i : Nat} (hlt : ((s.window w).elem off).e < i) (hle : i ≤ (s.window w).ncontrib)
  (hnew : ∀ h ∈ ((s.window w).elem off).held, h.2.1 ≠ i) (port k : Nat) (v : List Byte)
include hlt hle hnew

/-- A later index is to be sent again where it lies too far ahead or its port's buffer is full, and is held otherwise. -/
theorem State.contribute_later : s.contribute w port off k i v =
    if ((s.window w).elem off).e + 4096 ≤ i ∨ 4096 ≤ s.heldOf w port then (s, .retry)
    else (s.updWindow w fun x => x.setElem off { (s.window w).elem off with
      held := ((s.window w).elem off).held ++ [(port, i, v, s.mod.tick.toNat)] }, .ack) := by
  have hany : ¬((s.window w).elem off).held.any (fun h => h.2.1 == i) = true := fun h =>
    let ⟨x, hx, he⟩ := List.any_eq_true.mp h
    hnew x hx (beq_iff_eq.mp he)
  rw [State.contribute_indexed off hf hi, if_neg (Nat.ne_of_gt hlt), if_neg]
  rintro (h | h | h)
  · exact Nat.lt_asymm h hlt
  · exact Nat.not_lt.mpr hle h
  · exact hany h

end later

/-- What the contribution that is expected leaves: the next index to expect, and the element with its value applied. -/
theorem State.contribute_expected_spec (hh : ((s.window w).elem off).held = []) (hw : s.home.words = []) (port k : Nat)
    (v : List Byte) {t : State × RedReply} (ht : t = s.contribute w port off k ((s.window w).elem off).e v) :
    t.2 = .ack ∧ ((t.1.window w).elem off).e =
        (if ((s.window w).elem off).e = (s.window w).ncontrib then 0 else ((s.window w).elem off).e + 1) ∧
      leNat (mread t.1.mem k (redBytes (s.window w).ty)) =
        redNew (s.window w).ty (s.window w).op (leNat (mread s.mem k (redBytes (s.window w).ty))) (leNat v) %
          256 ^ redBytes (s.window w).ty := by
  rw [ht, State.contribute_expected off hf hi hh]
  refine ⟨rfl, ?_, ?_⟩
  · rw [State.window_updWindow, Window.elem_setElem]
  · exact (congrArg (fun m => leNat (mread m k (redBytes (s.window w).ty))) (State.redApply_mem hw ..)).trans
      (leNat_mread_mwrite ..)

end indexed

/-! ## The registers (R40, R46) -/

/-- EN is cleared. -/
def Window.disabled (x : Window) : Window := { x with ctl := x.ctl &&& ~~~(0x8000000000000000 : DWord) }

@[simp] theorem Window.disabled_en (x : Window) : x.disabled.en = false := by
  simp [Window.disabled, Window.en]

theorem Window.disabled_ctl (x : Window) : x.disabled.ctl.setWidth 63 = x.ctl.setWidth 63 := by
  rw [Window.disabled, BitVec.setWidth_and, show (~~~(0x8000000000000000 : DWord)).setWidth 63 = BitVec.allOnes 63 by decide,
    BitVec.and_allOnes]

/-- What a window's registers hold of values written: EN stays 0 where the settings break R40. -/
def State.kept (s : State) (w : Nat) (x : Window) : Window := if x.en && s.windowBad w x then x.disabled else x

theorem State.kept_base (s : State) (w : Nat) (x : Window) : (s.kept w x).base = x.base := by
  unfold State.kept
  split <;> rfl

theorem State.kept_ctl (s : State) (w : Nat) (x : Window) : (s.kept w x).ctl.setWidth 63 = x.ctl.setWidth 63 := by
  unfold State.kept
  split
  · exact x.disabled_ctl
  · rfl

theorem State.kept_of_good {s : State} {w : Nat} {x : Window} (h : x.en = false ∨ s.windowBad w x = false) :
    s.kept w x = x := by
  refine if_neg fun hb => ?_
  obtain ⟨he, hb⟩ := Bool.and_eq_true_iff.mp hb
  rcases h with h | h
  · exact absurd he (by simp [h])
  · exact absurd hb (by simp [h])

theorem State.kept_of_bad {s : State} {w : Nat} {x : Window} (he : x.en = true) (hb : s.windowBad w x = true) :
    s.kept w x = x.disabled := by
  simp only [State.kept, he, hb, Bool.and_self, if_true]

/-- A disabled window takes the values. -/
theorem State.setWindow_disabled {s : State} {w : Nat} (h : (s.window w).en = false) (x : Window) :
    s.setWindow w x = s.updWindow w fun _ => s.kept w x := by
  simp only [State.setWindow, h, Bool.not_false, if_true, Bool.false_eq_true, if_false]
  rfl

/-- An enabled window takes the values and starts again. -/
theorem State.setWindow_enabled {s : State} {w : Nat} (h : (s.window w).en = true) (x : Window) :
    (s.setWindow w x).mem = s.mem ∧
      ∃ t : State, (s.setWindow w x).window w = { t.kept w x with failed := false, elems := [] } := by
  unfold State.setWindow
  simp only [h, Bool.not_true, Bool.false_eq_true, if_false, if_true]
  exact ⟨by split <;> rfl, _, State.window_updWindow ..⟩

theorem execWinbaseWrite_eq {s : State} (ha : s.arg.a < 64) : execWinbaseWrite s = .next
    (s.setWindow s.arg.a { s.window s.arg.a with base := s.arg.v &&& 0x00FFFFFFFFFF0000 }) := by
  simp only [execWinbaseWrite, act, if_neg (Nat.not_le.mpr ha), State.setBase]

theorem execWinctlWrite_eq {s : State} (ha : s.arg.a < 64) : execWinctlWrite s = .next
    (s.setWindow s.arg.a { s.window s.arg.a with ctl := s.arg.v }) := by
  simp only [execWinctlWrite, act, if_neg (Nat.not_le.mpr ha), State.setCtl]

/-! ## TIMEOUT (R43) -/

/-- A window in service waits too long at an element. -/
def Window.late (x : Window) (tick : Nat) (e : Nat × Elem) : Prop :=
  e.2.held ≠ [] ∧ e.2.since + x.timeout * 1024 ≤ tick

theorem Window.late_iff (x : Window) (tick : Nat) (e : Nat × Elem) :
    (!e.2.held.isEmpty && decide (e.2.since + x.timeout * 1024 ≤ tick)) = true ↔ x.late tick e := by
  simp [Window.late]

/-- A window that fails holds nothing. -/
def Window.fail (x : Window) : Window := { x with failed := true, elems := tmap x.elems fun _ y => { y with held := [] } }

theorem Window.fail_held (x : Window) : ∀ e ∈ x.fail.elems, e.2.held = [] := by
  intro e he
  obtain ⟨y, -, rfl⟩ := List.mem_map.mp he
  rfl

/-- A window that waits too long at an element fails. -/
theorem execWindowTimeout_fails {s : State} (hf : (s.window s.arg.a).failed = false) {e : Nat × Elem}
    (he : e ∈ (s.window s.arg.a).elems) (hl : (s.window s.arg.a).late s.mod.tick.toNat e) :
    ∃ t, execWindowTimeout s = .next t ∧ t.window s.arg.a = (s.window s.arg.a).fail ∧ t.mem = s.mem := by
  simp only [execWindowTimeout, act, hf, Bool.false_eq_true, if_false]
  split
  next h =>
    rw [List.find?_eq_none] at h
    exact absurd ((Window.late_iff ..).mpr hl) (h e he)
  next => exact ⟨_, rfl, s.window_updWindow s.arg.a Window.fail, rfl⟩

theorem execWindowTimeout_none {s : State}
    (h : (s.window s.arg.a).failed = true ∨ ∀ e ∈ (s.window s.arg.a).elems, ¬(s.window s.arg.a).late s.mod.tick.toNat e) :
    execWindowTimeout s = .next s := by
  simp only [execWindowTimeout, act]
  by_cases hf : (s.window s.arg.a).failed = true
  · simp only [hf, if_true]
  · have hn : (s.window s.arg.a).elems.find? (fun e => !e.2.held.isEmpty &&
        decide (e.2.since + (s.window s.arg.a).timeout * 1024 ≤ s.mod.tick.toNat)) = none := by
      rw [List.find?_eq_none]
      intro e he hl
      exact h.resolve_left hf e he ((Window.late_iff ..).mp hl)
    simp only [if_neg hf, hn]

end Sys2Proof.Machine
end

section
/-! SUPPORT. Answers to this module's requests, requests that go out again, and domain barriers (R34, R37, R38, R42, R305). -/

namespace Sys2Proof.Machine

/-! ## Answers (R37, R38) -/

theorem State.answered_some {s : State} {tag : Nat} {r : Req} (h : tfind s.fab.reqs tag = some r) (data : List Byte)
    (fault : Option (BitVec 8)) : s.answered tag data fault =
      (s.setFab fun b => { b with reqs := tdel b.reqs tag }).putAnswer ⟨r.asker, r.idx, data, fault⟩ := by
  simp only [State.answered, h]

theorem State.answered_none {s : State} {tag : Nat} (h : tfind s.fab.reqs tag = none) (data : List Byte)
    (fault : Option (BitVec 8)) : s.answered tag data fault = s := by
  simp only [State.answered, h]

/-- A change of the fabric is a change of the fabric alone. -/
theorem State.setFab_frame (s : State) (f : Fabric → Fabric) (b : Fabric) :
    { s.setFab f with fab := b } = { s with fab := b } := rfl

/-- A response to an outstanding request reaches its asker, and the request is outstanding no longer. -/
theorem State.response_some {s : State} {r : Req} (h : tfind s.fab.reqs s.arg.msg.tag.toNat = some r) (data : List Byte)
    (fault : Option (BitVec 8)) :
    { s.response data fault with fab := s.fab } = s ∧
      (s.response data fault).fab.reqs = tdel s.fab.reqs s.arg.msg.tag.toNat ∧
      (s.response data fault).fab.answers = s.fab.answers ++ [⟨r.asker, r.idx, data, fault⟩] := by
  have h' : tfind (s.msgDone s.arg.a s.arg.c).fab.reqs s.arg.msg.tag.toNat = some r := by rwa [State.msgDone_reqs]
  unfold State.response
  rw [State.answered_some h']
  refine ⟨?_, ?_, ?_⟩
  · rw [State.putAnswer, State.setFab_frame, State.setFab_frame, State.msgDone_frame]
  · simp only [State.putAnswer, State.setFab_fab, State.msgDone_reqs]
  · simp only [State.putAnswer, State.setFab_fab, State.msgDone_answers]

theorem State.response_none {s : State} (h : tfind s.fab.reqs s.arg.msg.tag.toNat = none) (data : List Byte)
    (fault : Option (BitVec 8)) : s.response data fault = s.msgDone s.arg.a s.arg.c :=
  State.answered_none (by rwa [State.msgDone_reqs]) ..

/-- The fault that the STATUS of a RESPERR stands for (R37; log entry 30). -/
theorem statusClass_getD (st : BitVec 4) :
    (statusClass st.toNat).getD 0x17 = if st = 1 then 0x1A else if st = 3 then 0x10 else 0x17 := by
  revert st
  decide

/-! ## Requests that go out again (R34, R42) -/

section sendReq
variable {s : State} {r : Req} {p : Nat} (tag : Nat)
  (hp : s.portFor (dieOf r.core) r.msg.dmod.toNat r.msg.addr.toNat = some p)
include hp

theorem State.sendReq_held (h : s.heldByPath (dieOf r.core) p (some tag) r.msg.dmod.toNat r.msg.addr.toNat = true) :
    s.sendReq tag r = s := by
  simp only [State.sendReq, hp, h, if_true]

theorem State.sendReq_goes (h : s.heldByPath (dieOf r.core) p (some tag) r.msg.dmod.toNat r.msg.addr.toNat = false) :
    s.sendReq tag r = (s.setFab fun b => { b with reqs := tmod b.reqs tag fun x =>
      { x with retryAt := none, tick := s.mod.tick.toNat, port := some p } }).sendOn p r.vc r.msg := by
  simp only [State.sendReq, hp, h, Bool.false_eq_true, if_false]

end sendReq

/-- A request whose time to be sent again has come. -/
theorem execRetryResend_due {s : State} {r : Req} {t : Nat} (hr : tfind s.fab.reqs s.arg.a = some r) (ht : r.retryAt = some t)
    (hd : t ≤ s.mod.tick.toNat) : execRetryResend s = .next (s.sendReq s.arg.a r) := by
  simp only [execRetryResend, act, hr, ht, if_neg (Nat.not_lt.mpr hd)]

theorem execRetryResend_idle {s : State}
    (h : ∀ r, tfind s.fab.reqs s.arg.a = some r → ∀ t, r.retryAt = some t → s.mod.tick.toNat < t) :
    execRetryResend s = .next s := by
  simp only [execRetryResend, act]
  split
  next => rfl
  next r hr =>
    split
    next => rfl
    next t ht => rw [if_pos (h r hr t ht)]

theorem execRemoteTimeout_expired {s : State} {r : Req} (hr : tfind s.fab.reqs s.arg.a = some r) (hre : r.retryAt = none)
    (hp : r.port ≠ none) (ht : r.tick + 2 ^ 20 ≤ s.mod.tick.toNat) :
    execRemoteTimeout s = .next (s.answered s.arg.a [] (some 0x1B)) := by
  have hb : ¬(r.retryAt.isSome || r.port.isNone || decide (s.mod.tick.toNat < r.tick + 2 ^ 20)) = true := by
    simp only [hre, Option.isSome_none, Option.isNone_eq_false_iff.mpr (Option.isSome_iff_ne_none.mpr hp),
      decide_eq_false (Nat.not_lt.mpr ht)]
    decide
  simp only [execRemoteTimeout, act, hr, if_neg hb]

theorem execRemoteTimeout_early {s : State} {r : Req} (hr : tfind s.fab.reqs s.arg.a = some r)
    (ht : s.mod.tick.toNat < r.tick + 2 ^ 20) : execRemoteTimeout s = .next s := by
  simp only [execRemoteTimeout, act, hr, decide_eq_true ht, Bool.or_true, if_true]

/-! ## Domain barriers (R305) -/

/-- An arrival that is not the last is counted. -/
theorem State.rootArrival_counts {s : State} {b g m : Nat} (hnew : (b, g, m) ∉ s.fab.arrived)
    (hmore : (s.fab.arrived.filter fun x => x.1 == b && x.2.1 == g).length < dbarNmod (s.dbar b)) :
    s.rootArrival b g m = s.setFab fun f => { f with arrived := (b, g, m) :: f.arrived } := by
  have hc : s.fab.arrived.contains (b, g, m) = false := by simpa using hnew
  have hl : (((b, g, m) :: s.fab.arrived).filter fun x => x.1 == b && x.2.1 == g).length ≤ dbarNmod (s.dbar b) := by
    simpa using hmore
  simp only [State.rootArrival, hc, Bool.false_eq_true, if_false]
  exact if_pos hl

/-- The generation that a barrier has once it has advanced. -/
theorem State.gen_advanceGen (s : State) (k : BarKey) : (s.advanceGen k).gen k = s.gen k + 1 := by
  have hb : (s.advanceGen k).bars = ((s.setGen k (s.gen k + 1)).touchOut).bars :=
    foldl_unchanged State.bars (f := State.showAll) (fun _ _ => rfl) ..
  rw [State.gen, hb]
  simp [State.touchOut, State.setGen]

/-- An arrival at ROOT of an enabled barrier. -/
theorem execBarrier_arrival {s : State} (hw : leNat s.arg.msg.data / 32 % 2 = 0)
    (hen : dbarEn (s.dbar (leNat s.arg.msg.data % 16)) = true)
    (hroot : dbarRoot (s.dbar (leNat s.arg.msg.data % 16)) = s.modnum) :
    execBarrier s = .next ((s.msgDone s.arg.a s.arg.c).rootArrival (leNat s.arg.msg.data % 16)
      (leNat s.arg.msg.data / 16 % 2) s.arg.msg.smod.toNat) := by
  simp only [execBarrier, act, if_pos hw, State.msgDone_dbar, State.msgDone_modnum, hen, hroot, beq_self_eq_true,
    Bool.and_self, if_true]

/-- A release at a participant completes its generation, if that is the present one. -/
theorem execBarrier_release {s : State} (hw : leNat s.arg.msg.data / 32 % 2 = 1) : execBarrier s = .next
    (if s.gen ⟨5, 0, 0, leNat s.arg.msg.data % 16⟩ % 2 = leNat s.arg.msg.data / 16 % 2
     then (s.msgDone s.arg.a s.arg.c).advanceGen ⟨5, 0, 0, leNat s.arg.msg.data % 16⟩
     else s.msgDone s.arg.a s.arg.c) := by
  have hw' : ¬leNat s.arg.msg.data / 32 % 2 = 0 := by omega
  simp only [execBarrier, act, if_neg hw', State.msgDone_gen, beq_iff_eq]

end Sys2Proof.Machine
end

section
/-! SUPPORT. Messages at this module as a whole. -/

namespace Sys2Proof.Machine

open Sys2Proof.Claims

/-- A request that has stored `n` bytes of a number at its place. -/
theorem State.stored_spec {s : State} (hw : s.home.words = []) (k n v die op : Nat) (data : List Byte) :
    Replied (s.withHome (s.stored k (leBytes n v) false die op data)) (s.stored k (leBytes n v) false die op data) die op 0 data ∧
      leNat (mread (s.stored k (leBytes n v) false die op data).mem k n) = v % 256 ^ n ∧
      s.SameBut (s.stored k (leBytes n v) false die op data) [(k, n)] := by
  have hm := State.stored_mem hw k (leBytes n v) false die op data
  refine ⟨State.stored_replied hw .., ?_, ?_⟩
  · rw [hm, leNat_mread_mwrite]
  · simpa only [length_leBytes] using State.sameBut_mwrite hm

/-- Settles O54, message by message. -/
theorem messagesAreServed : Obligations.MessagesAreServed := by
  refine ⟨⟨?read, ?beyond, ?write, ?atomic, ?plain, ?noPair, ?indexed, ?answers, ?retry, ?resend, ?early, ?timeout, ?arrival,
    ?release⟩, ?disabled, ?enabled, ?late, ?inTime, ?dbar, ?dbarStays⟩
  case read =>
    intro s m d hd ht hc hw
    exact ⟨_, execRead_served hd hw ht hc, (s.doneBy_msgDone ..).replied ..⟩
  case beyond =>
    intro s m d hd ht hw
    exact ⟨_, execRead_beyond hd hw ht, (s.doneBy_msgDone ..).replied ..⟩
  case write =>
    intro s m d hd ht hc hw hwords
    obtain ⟨covers, e⟩ := execWrite_stored hd hw ht hc
    have hm := State.stored_mem hwords d m.data covers (homeDie d) 5 []
    refine ⟨_, e, State.stored_replied hwords .., ?_, State.sameBut_mwrite hm⟩
    exact (congrArg (mread · d m.data.length) hm).trans (mread_mwrite ..)
  case atomic =>
    intro s m d aop n hd ht hc hw hwords hp ha hop
    exact ⟨_, execAtomic_stored hd hw rfl ht hc hp ha hop, State.stored_spec hwords ..⟩
  case plain =>
    intro i s m d ty op n v hi hd ht hc hwords hp hb hw
    exact ⟨_, exec_contribution_stored hi hd ht hc hp hb hw, State.stored_spec hwords ..⟩
  case noPair =>
    intro s h
    rw [exec_redb]
    simp only [execRedb, act, h]
    rfl
  case indexed =>
    intro s w port off k i v win e hf hidx hwords
    refine ⟨fun hi hh => ?_, fun h => State.contribute_refused off hf hidx h port k v, fun hlt hle hnew => ?_⟩
    · subst hi
      exact State.contribute_expected_spec off hf hidx hh hwords port k v rfl
    · have h := State.contribute_later off hf hidx hlt hle hnew port k v
      refine ⟨fun hr => h.trans (if_pos hr), fun hi hn => ?_⟩
      rw [h.trans (if_neg (not_or.mpr ⟨Nat.not_le.mpr hi, Nat.not_le.mpr hn⟩))]
      refine ⟨rfl, rfl, ?_⟩
      rw [State.window_updWindow]
      exact congrArg Elem.held (Window.elem_setElem ..)
  case answers =>
    intro s i data fault m hi
    have e : exec i s = .next (s.response data fault) := by
      rcases hi with ⟨rfl, rfl, rfl⟩ | ⟨rfl, rfl, rfl⟩ | ⟨rfl, rfl, rfl⟩
      · rfl
      · rfl
      · rw [← statusClass_getD]
        rfl
    exact ⟨fun r hr => ⟨_, e, State.response_some hr data fault⟩,
      fun hr => e.trans (congrArg _ (State.response_none hr ..))⟩
  case retry =>
    intro s h
    obtain ⟨r, hr⟩ := Option.isSome_iff_exists.mp h
    refine ⟨_, rfl, ?_, s.msgDone_answers ..⟩
    simp only [State.setFab_fab, tfind_tmod_same, State.msgDone_reqs, hr]
    rfl
  case resend =>
    intro s r due p hr hre hdue hp waits
    refine ⟨fun hw => ?_, fun hw => ?_⟩
    · rw [exec_retryResend, execRetryResend_due hr hre hdue, State.sendReq_held _ hp hw]
    · refine ⟨_, (execRetryResend_due hr hre hdue).trans (congrArg _ (State.sendReq_goes _ hp hw)), ?_, ?_⟩
      · exact congrArg Port.txq (State.port_updPort_same ..)
      · simp only [State.sendOn, State.updPort, State.setFab_fab, tfind_tmod_same, hr]
        rfl
  case early => exact fun s h => execRetryResend_idle h
  case timeout =>
    intro s r hr
    refine ⟨fun hre hp ht => ?_, fun ht => execRemoteTimeout_early hr ht⟩
    exact ⟨_, (execRemoteTimeout_expired hr hre hp ht).trans (congrArg _ (State.answered_some hr ..)), rfl, rfl⟩
  case arrival =>
    intro s w b g hw hen hroot hnew hmore
    have hnew' : (b, g, s.arg.msg.smod.toNat) ∉ (s.msgDone s.arg.a s.arg.c).fab.arrived := by rwa [State.msgDone_arrived]
    have hmore' : ((s.msgDone s.arg.a s.arg.c).fab.arrived.filter fun x => x.1 == b && x.2.1 == g).length <
        dbarNmod ((s.msgDone s.arg.a s.arg.c).dbar b) := by rwa [State.msgDone_arrived, State.msgDone_dbar]
    refine ⟨_, (execBarrier_arrival hw hen hroot).trans (congrArg _ (State.rootArrival_counts hnew' hmore')), ?_,
      s.msgDone_bars ..⟩
    exact congrArg (_ :: ·) (s.msgDone_arrived ..)
  case release =>
    intro s w hw
    refine ⟨fun hg => ?_, fun hg => ?_⟩
    · refine ⟨_, (execBarrier_release hw).trans (congrArg _ (if_pos hg)), ?_⟩
      rw [State.gen_advanceGen, State.msgDone_gen]
    · exact (execBarrier_release hw).trans (congrArg _ (if_neg hg))
  case disabled =>
    intro s ha hen x
    refine ⟨?_, ?_⟩
    · rw [exec_winbaseWrite, execWinbaseWrite_eq ha, State.setWindow_disabled hen]
      exact congrArg (fun y => Host.Outcome.next (s.updWindow s.arg.a fun _ => y)) (State.kept_of_good (.inl hen))
    intro y
    have e : exec .winctlWrite s = .next (s.updWindow s.arg.a fun _ => s.kept s.arg.a y) :=
      (execWinctlWrite_eq ha).trans (congrArg _ (State.setWindow_disabled hen y))
    refine ⟨fun hb => by rw [e, State.kept_of_good (.inr hb)], fun hy hb => ⟨_, e, ?_, ?_⟩⟩
    · rw [State.window_updWindow, State.kept_of_bad hy hb, Window.disabled_en]
    · rw [State.window_updWindow, State.kept_ctl]
  case enabled =>
    intro s i hi ha hen
    rcases hi with rfl | rfl
    · obtain ⟨hm, t, hw⟩ := State.setWindow_enabled hen { s.window s.arg.a with base := s.arg.v &&& 0x00FFFFFFFFFF0000 }
      refine ⟨_, execWinbaseWrite_eq ha, ?_⟩
      rw [hw]
      exact ⟨rfl, rfl, hm, fun _ => t.kept_base .., fun h => absurd h (by simp)⟩
    · obtain ⟨hm, t, hw⟩ := State.setWindow_enabled hen { s.window s.arg.a with ctl := s.arg.v }
      refine ⟨_, execWinctlWrite_eq ha, ?_⟩
      rw [hw]
      exact ⟨rfl, rfl, hm, fun h => absurd h (by simp), fun _ => ⟨t.kept_base .., t.kept_ctl ..⟩⟩
  case late =>
    intro s o e w hf he hh hl
    obtain ⟨t, h, ht, hm⟩ := execWindowTimeout_fails hf he ⟨hh, hl⟩
    refine ⟨t, h, ?_⟩
    rw [ht]
    exact ⟨rfl, w.fail_held, hm⟩
  case inTime =>
    refine fun s h => execWindowTimeout_none (h.imp_right fun h e he hl => ?_)
    exact (h e he).elim hl.1 fun ht => absurd hl.2 (Nat.not_le.mpr ht)
  case dbar =>
    rintro s ⟨ha, hu⟩
    rw [exec_dbarWrite]
    simp only [execDbarWrite, act, decide_eq_false (Nat.not_le.mpr ha), hu, Bool.or_self, Bool.false_eq_true, if_false]
    rfl
  case dbarStays =>
    intro s h
    have hb := Bool.or_eq_true_iff.mpr (h.imp_left decide_eq_true)
    rw [exec_dbarWrite]
    simp only [execDbarWrite, act, if_pos hb]
    rfl

end Sys2Proof.Machine
end

section
/-! SUPPORT. What the flits of a port carry: messages as beats, and beats on lanes (R25, R27, R36). -/

namespace Sys2Proof.Machine

/-! ## What a flit takes of the messages of its channel -/

/-- The beats of a flit are the next ones of its channel's messages, as many as it has room for. -/
theorem packMsgs_beats (ms : List Msg) : ∀ sent room : Nat, (∀ m ∈ ms.head?, sent ≤ (msgBeats m).length) →
    (packMsgs ms sent room).1 = ((ms.flatMap msgBeats).drop sent).take room := by
  induction ms with
  | nil => intro sent room _; simp [packMsgs]
  | cons m ms ih =>
    intro sent room h
    have hs : sent ≤ (msgBeats m).length := h m rfl
    have hd : ((m :: ms).flatMap msgBeats).drop sent = (msgBeats m).drop sent ++ ms.flatMap msgBeats := by
      rw [List.flatMap_cons, List.drop_append_of_le_length hs]
    rw [hd]
    simp only [packMsgs]
    split_ifs with h0 hl
    · simp [h0]
    · rw [ih 0 _ (fun _ _ => Nat.zero_le _), List.take_append, List.take_of_length_le hl]
      rfl
    · rw [List.take_append_of_le_length (by omega)]

/-- A flit takes no more beats than it has room for. -/
theorem packMsgs_length (ms : List Msg) : ∀ sent room : Nat, (packMsgs ms sent room).1.length ≤ room := by
  induction ms with
  | nil => intro sent room; exact Nat.zero_le _
  | cons m ms ih =>
    intro sent room
    simp only [packMsgs]
    split_ifs with h0 hl
    · exact Nat.zero_le _
    · have := ih 0 (room - ((msgBeats m).drop sent).length)
      rw [List.length_append]
      omega
    · exact List.length_take_le ..

/-! ## Lanes (R25) -/

/-- Piece `i` of pieces of one length, laid one after the other. -/
theorem take_drop_flatMap {α β : Type} (f : α → List β) {c : Nat} : ∀ (l : List α) (i : Nat) (hi : i < l.length),
    (∀ a ∈ l, (f a).length = c) → ((l.flatMap f).drop (c * i)).take c = f l[i]
  | a :: l, 0, _, h => by
    rw [List.flatMap_cons, Nat.mul_zero, List.drop_zero, List.take_left' (h a List.mem_cons_self)]
    rfl
  | a :: l, i + 1, hi, h => by
    obtain ⟨ha, hl⟩ := List.forall_mem_cons.mp h
    rw [List.flatMap_cons, Nat.mul_succ, Nat.add_comm, ← List.drop_drop, List.drop_left' ha]
    exact take_drop_flatMap f l i (by simpa using hi) hl

/-- Pieces of one length of a list, laid one after the other, are its front. -/
theorem flatMap_pieces {α : Type} (b : List α) (c n : Nat) :
    ((List.range n).flatMap fun i => (b.drop (c * i)).take c) = b.take (c * n) := by
  induction n with
  | zero => simp
  | succ n ih => rw [List.range_succ, List.flatMap_append, ih, Nat.mul_succ, List.take_add]; simp

/-- Beat `n` travels on lane `n` mod 4. -/
theorem toLanes_beat {b : List Byte} (hb : b.length = 256) {n : Nat} (hn : n < 32) :
    (((toLanes b).getD (n % 4) []).drop (8 * (n / 4))).take 8 = (b.drop (8 * n)).take 8 := by
  have hlane : (toLanes b).getD (n % 4) [] = (List.range 8).flatMap fun i => (b.drop (8 * (4 * i + n % 4))).take 8 := by
    have h : n % 4 < 4 := Nat.mod_lt _ (by decide)
    simp [toLanes, List.getD_eq_getElem?_getD, h]
  have hlen : ∀ i ∈ List.range 8, ((b.drop (8 * (4 * i + n % 4))).take 8).length = 8 := by
    intro i hi
    have := List.mem_range.mp hi
    rw [List.length_take, List.length_drop]
    omega
  rw [hlane, take_drop_flatMap _ _ (n / 4) (by rw [List.length_range]; omega) hlen, List.getElem_range,
    show 4 * (n / 4) + n % 4 = n by omega]

/-- A receiver puts the lanes together again. -/
theorem ofLanes_toLanes {b : List Byte} (hb : b.length = 256) : ofLanes (toLanes b) = b := by
  have h : ofLanes (toLanes b) = (List.range 32).flatMap fun n => (b.drop (8 * n)).take 8 :=
    List.flatMap_congr fun n hn => toLanes_beat hb (List.mem_range.mp hn)
  rw [h, flatMap_pieces, List.take_of_length_le (le_of_eq hb)]

end Sys2Proof.Machine
end

section
/-! SUPPORT. Sending flits (R26, R27). -/

namespace Sys2Proof.Machine

/-- A flit on the lanes: the port keeps its header's PAUSE bits, and a NAK that was due has been sent. -/
theorem Port.emit_eq (x : Port) (kind : Nat) (seq : BitVec 12) (vc : BitVec 3) (beats : List DWord) :
    x.emit kind seq vc beats = { x with
      pause := x.pauses
      sent := toLanes (flitBytes
        { seq := seq, ack := x.rxSeq - 1, nak := x.nakDue, vc := vc, kind := kind, pause := x.pauses } beats)
      nakDue := false } := rfl

/-- A port that is not up sends nothing. -/
theorem execFlitTransmit_down {s : State} (h : (s.port s.arg.a).st ≠ 2) : execFlitTransmit s = .next s := by
  simp only [execFlitTransmit, act, bne_iff_ne.mpr h, if_true]

/-- The beats that channel `v` of a port sends next, with what they are of and what they leave. -/
def Port.packed (x : Port) (v : BitVec 3) : List DWord × List Msg × Nat × Nat :=
  packMsgs ((x.txq.filter fun m => m.1 == v).map (·.2)) (tget x.txRest v.toNat 0) 29

/-- The flit that port `x` sends next of channel `v`. -/
def State.nextFlit (s : State) (x : Port) (v : BitVec 3) : Flit :=
  { seq := x.txSeq, vc := v, beats := (x.packed v).1, owners := ((x.packed v).2.1.flatMap s.ownersOf).eraseDups }

section up
variable {s : State} (hs : (s.port s.arg.a).st = 2)
include hs

/-- What is to be replayed leaves first. -/
theorem execFlitTransmit_resend {f : Flit} {r : List Flit} (hr : (s.port s.arg.a).resend = f :: r) :
    execFlitTransmit s =
      .next (s.updPort s.arg.a fun y => { (y.emit 1 f.seq f.vc f.beats) with resend := r }) := by
  simp only [execFlitTransmit, act, hs, bne_self_eq_false, Bool.false_eq_true, if_false, hr]

/-- With nothing that may leave, an idle flit does. -/
theorem execFlitTransmit_idle (hr : (s.port s.arg.a).resend = [])
    (hn : 512 ≤ (s.port s.arg.a).unacked.length ∨ (s.port s.arg.a).nextVc = none) :
    execFlitTransmit s = .next (s.updPort s.arg.a fun y => y.emit 0 y.txSeq 0 []) := by
  have h : (if (s.port s.arg.a).unacked.length < 512 then (s.port s.arg.a).nextVc else none) = none := by
    split
    next hl => exact hn.resolve_left (Nat.not_le.mpr hl)
    next => rfl
  simp only [execFlitTransmit, act, hs, bne_self_eq_false, Bool.false_eq_true, if_false, hr, h]

/-- A payload flit is kept until it is acknowledged. -/
theorem execFlitTransmit_payload {v : BitVec 3} (hr : (s.port s.arg.a).resend = [])
    (hl : (s.port s.arg.a).unacked.length < 512) (hv : (s.port s.arg.a).nextVc = some v) :
    ∃ t, execFlitTransmit s = .next t ∧ (t.port s.arg.a).txSeq = (s.port s.arg.a).txSeq + 1 ∧
      (t.port s.arg.a).unacked = (s.port s.arg.a).unacked ++ [s.nextFlit (s.port s.arg.a) v] ∧
      tget (t.port s.arg.a).txRest v.toNat 0 = ((s.port s.arg.a).packed v).2.2.2 ∧
      (t.port s.arg.a).sent = ((s.port s.arg.a).emit 1 (s.port s.arg.a).txSeq v ((s.port s.arg.a).packed v).1).sent := by
  simp only [execFlitTransmit, act, hs, bne_self_eq_false, Bool.false_eq_true, if_false, hr, if_pos hl, hv]
  refine ⟨_, rfl, ?_⟩
  rw [State.port_updPort_same]
  exact ⟨rfl, rfl, tget_tset_same .., rfl⟩

end up

/-- A port with nothing to send has no channel to send of. -/
theorem Port.nextVc_none {x : Port} (hq : x.txq = []) (hr : ∀ e ∈ x.txRest, e.2 = 0) : x.nextVc = none := by
  have h : x.txRest.find? (fun e => e.2 != 0 && !x.peerPause.getLsbD e.1) = none := by
    rw [List.find?_eq_none]
    intro e he
    simp [hr e he]
  simp only [Port.nextVc, h, hq]
  rfl

/-- A port with messages and a peer that pauses no channel has a channel to send of. -/
theorem Port.nextVc_some {x : Port} (hp : x.peerPause = 0) (hq : x.txq ≠ []) : ∃ v, x.nextVc = some v := by
  obtain ⟨m, r, hm⟩ := List.exists_cons_of_ne_nil hq
  simp only [Port.nextVc, hp, hm]
  split
  · exact ⟨_, rfl⟩
  · exact ⟨m.1, by simp⟩

end Sys2Proof.Machine
end

section
/-! SUPPORT. Receiving flits (R26, R27, R28, R30). -/

namespace Sys2Proof.Machine

/-! ## What the link header of a good flit does to its port -/

/-- An acknowledgement frees the flits up to the one that it names. -/
theorem Port.freed_at {x : Port} {pre post : List Flit} {f : Flit} (hx : x.unacked = pre ++ f :: post)
    (hpre : ∀ g ∈ pre, g.seq ≠ f.seq) (tick : Nat) : (x.freed f.seq tick).unacked = post := by
  have hany : x.unacked.any (fun g => g.seq == f.seq) = true := by simp [hx]
  have hdrop : (pre ++ f :: post).dropWhile (fun g => g.seq != f.seq) = f :: post := by
    rw [List.dropWhile_append_of_pos (by simpa using hpre), List.dropWhile_cons_of_neg (by simp)]
  rw [Port.freed, if_pos hany]
  show (x.unacked.dropWhile _).drop 1 = post
  rw [hx, hdrop]
  rfl

/-- What an acknowledgement leaves of the rest of the port. -/
theorem Port.freed_eq (x : Port) (ack : BitVec 12) (tick : Nat) : ∃ unacked lastAck same resend, same ≤ x.sameReplay ∧
    x.freed ack tick = { x with unacked := unacked, lastAck := lastAck, sameReplay := same, resend := resend } := by
  unfold Port.freed
  split
  · exact ⟨_, _, _, _, Nat.zero_le _, rfl⟩
  · exact ⟨x.unacked, x.lastAck, x.sameReplay, x.resend, Nat.le_refl _, rfl⟩

/-- A NAK has every flit that is not acknowledged sent again. -/
def Port.replay (x : Port) : Port := { x with
  replays := min (x.replays + 1) 0xFFFFFF, resend := x.unacked
  sameReplay := if x.unacked.isEmpty then 0 else x.sameReplay + 1 }

/-- A port that has counted `n` bytes that the FEC corrected (R26). -/
def Port.counted (x : Port) (n : Nat) : Port := { x with feccor := min (x.feccor + n) 0xFFFFFF }

/-- A port that has read the header of a good flit, of which the FEC corrected `n` bytes. -/
def Port.heard (x : Port) (n : Nat) (h : LinkHead) (tick : Nat) : Port :=
  let y := { (x.counted n).freed h.ack tick with peerPause := h.pause }
  if !h.nak then y else y.replay

/-- What a header leaves of its port: the replays of a flit in a row rise by one at most. -/
theorem Port.heard_eq (x : Port) (n : Nat) (h : LinkHead) (tick : Nat) : ∃ unacked lastAck same resend replays,
    same ≤ x.sameReplay + 1 ∧ x.heard n h tick = { x with
      feccor := min (x.feccor + n) 0xFFFFFF, peerPause := h.pause, unacked := unacked, lastAck := lastAck
      sameReplay := same, resend := resend, replays := replays } := by
  obtain ⟨unacked, lastAck, same, resend, hsame, e⟩ :=
    (x.counted n).freed_eq h.ack tick
  unfold Port.heard
  rw [e]
  split
  · exact ⟨_, _, _, _, _, Nat.le_succ_of_le hsame, rfl⟩
  · refine ⟨_, _, _, _, _, ?_, rfl⟩
    have hsame : same ≤ x.sameReplay := hsame
    dsimp only
    split <;> omega

theorem Port.heard_acked {x : Port} {h : LinkHead} {pre post : List Flit} {f : Flit} (hx : x.unacked = pre ++ f :: post)
    (hpre : ∀ g ∈ pre, g.seq ≠ f.seq) (hf : f.seq = h.ack) (n tick : Nat) :
    (x.heard n h tick).unacked = post ∧
      (h.nak = true → (x.heard n h tick).resend = post ∧ (x.heard n h tick).replays = min (x.replays + 1) 0xFFFFFF) := by
  have hpost : ((x.counted n).freed h.ack tick).unacked = post :=
    hf ▸ Port.freed_at (x := x.counted n) hx hpre tick
  obtain ⟨_, _, _, _, -, e⟩ := (x.counted n).freed_eq h.ack tick
  have hrep : ((x.counted n).freed h.ack tick).replays = x.replays := by rw [e]; rfl
  unfold Port.heard
  cases h.nak with
  | false => exact ⟨hpost, fun h => absurd h (by simp)⟩
  | true => exact ⟨hpost, fun _ => ⟨hpost, congrArg (fun r => min (r + 1) 0xFFFFFF) hrep⟩⟩

/-! ## What a flit that is not accepted, and one that is, do to their port -/

/-- A flit that is not accepted: the first since an accepted one asks for a replay. -/
def Port.discards (x : Port) : Port := if x.nakSent then x else { x with nakSent := true, nakDue := true }

theorem Port.discards_eq (x : Port) : x.discards = { x with nakSent := true, nakDue := x.nakDue || !x.nakSent } := by
  unfold Port.discards
  cases h : x.nakSent with
  | false => simp
  | true =>
    rw [if_pos rfl]
    obtain ⟨⟩ := x
    simpa using h

/-- What of a port a message that has been acted on does not change. -/
def Port.core (x : Port) : Port := { x with rxBuf := [], pause := 0 }

/-- The state but for what a delivered message changes: events to come, buffers, and the canary. -/
def State.linkView (p : Nat) (s : State) : Memory × Tab Strand × Port := (s.mem, s.strands, (s.port p).core)

theorem State.linkView_updPort (s : State) (p : Nat) (f : Port → Port) :
    (s.updPort p f).linkView p = (s.mem, s.strands, (f (s.port p)).core) := by
  rw [State.linkView, State.port_updPort_same]
  rfl

theorem State.linkView_msgDone (s : State) (p q vc : Nat) : (s.msgDone q vc).linkView p = s.linkView p := by
  obtain ⟨buf, pause, e⟩ := s.msgDone_port q vc p
  have hs : (s.msgDone q vc).strands = s.strands := msgDone_unchanged State.strands (fun _ _ => rfl) ..
  simp only [State.linkView, e, hs, State.msgDone_mem]
  rfl

theorem State.linkView_deliver (s : State) (p q vc : Nat) (m : Msg) : (s.deliver q vc m).linkView p = s.linkView p := by
  unfold State.deliver
  split
  · exact s.linkView_msgDone p q vc
  · rfl

/-- A port that has accepted a flit, with the whole messages and the beats left over of its channel. -/
def Port.accepts (x : Port) (h : LinkHead) (q : List Msg × List DWord) : Port := { x with
  rxSeq := x.rxSeq + 1, nakSent := false, partials := tset x.partials h.vc.toNat q.2
  rxBuf := if q.1.isEmpty && q.2.isEmpty then x.rxBuf
    else tset x.rxBuf h.vc.toNat (tget x.rxBuf h.vc.toNat [] ++ [(q.1.length, !q.2.isEmpty)]) }

/-- A port accepts a flit, whose whole messages act next. -/
def State.accepts (s : State) (p : Nat) (h : LinkHead) (q : List Msg × List DWord) : State :=
  (q.1.foldl (fun t m => t.deliver p h.vc.toNat m) (s.updPort p fun y => y.accepts h q)).updPort p Port.repause

theorem State.linkView_accepts (s : State) (p : Nat) (h : LinkHead) (q : List Msg × List DWord) :
    (s.accepts p h q).linkView p = (s.mem, s.strands, ((s.port p).accepts h q).core) := by
  have hfold := foldl_unchanged (State.linkView p) (f := fun t m => t.deliver p h.vc.toNat m)
    (fun t m => t.linkView_deliver p p h.vc.toNat m) q.1 (s.updPort p fun y => y.accepts h q)
  rw [State.accepts, State.linkView_updPort]
  exact hfold.trans (s.linkView_updPort ..)

/-- The port that has accepted a flit. -/
theorem State.core_accepts (s : State) (p : Nat) (h : LinkHead) (q : List Msg × List DWord) :
    ((s.accepts p h q).port p).core = ((s.port p).accepts h q).core := congrArg (fun v => v.2.2) (s.linkView_accepts p h q)

/-- Ports that agree but for buffers and PAUSE expect the same flit, and have asked for a replay or not alike. -/
theorem Port.eq_of_core {x y : Port} (h : x.core = y.core) : x.rxSeq = y.rxSeq ∧ x.nakSent = y.nakSent :=
  ⟨(congrArg Port.rxSeq h :), (congrArg Port.nakSent h :)⟩

/-! ## FLIT_RECEIVE -/

theorem execFlitReceive_down {s : State} (h : (s.port s.arg.a).st ≠ 2) : execFlitReceive s = .next s := by
  simp only [execFlitReceive, act, bne_iff_ne.mpr h, if_true]

/-- A bad flit is counted and discarded. -/
theorem execFlitReceive_bad {s : State} (hs : (s.port s.arg.a).st = 2)
    (hb : flitRead (ofLanes (laneCut s.arg.bytes)) = none) :
    execFlitReceive s = .next
      ((s.updPort s.arg.a fun y => y.counted (fecCount (ofLanes (laneCut s.arg.bytes)))).discard s.arg.a) := by
  simp only [execFlitReceive, act, hs, bne_self_eq_false, Bool.false_eq_true, if_false, hb]
  rfl

/-- The state once port `p` has read the header of a good flit. -/
def State.hears (s : State) (p n : Nat) (h : LinkHead) : State :=
  let s := s.updPort p fun y => y.counted n
  let s := s.updPort p fun y => { (y.freed h.ack s.mod.tick.toNat) with peerPause := h.pause }
  if !h.nak then s else s.updPort p Port.replay

/-- The header changes its port alone. -/
theorem State.hears_eq (s : State) (p n : Nat) (h : LinkHead) :
    (s.hears p n h).port p = (s.port p).heard n h s.mod.tick.toNat ∧ { s.hears p n h with fab := s.fab } = s := by
  unfold State.hears Port.heard
  cases h.nak with
  | false => exact ⟨by simp only [Bool.not_false, if_true, State.port_updPort_same]; rfl, rfl⟩
  | true => exact ⟨by simp only [Bool.not_true, Bool.false_eq_true, if_false, State.port_updPort_same]; rfl, rfl⟩

/-- What the payload of a good flit does: nothing of another kind; out of order or without room it is discarded. -/
def State.payload (s : State) (p : Nat) (x : Port) (h : LinkHead) (beats : List DWord) : State :=
  if h.kind != 1 then s
  else if h.seq != x.rxSeq || x.noRoom h.vc.toNat then s.discard p
  else s.accepts p h (takeMsgs 64 (tget x.partials h.vc.toNat [] ++ beats))

/-- A good flit: its header, then its payload, and a retrain where one flit has been replayed 8 times (R30). -/
theorem execFlitReceive_good {s : State} (hs : (s.port s.arg.a).st = 2) {h : LinkHead} {beats : List DWord}
    (hb : flitRead (ofLanes (laneCut s.arg.bytes)) = some (h, beats)) : execFlitReceive s = .next
      (let t := (s.hears s.arg.a (fecCount (ofLanes (laneCut s.arg.bytes))) h).payload s.arg.a (s.port s.arg.a) h beats
       if 8 ≤ (t.port s.arg.a).sameReplay then t.retrain s.arg.a 0 else t) := by
  simp only [execFlitReceive, act, hs, bne_self_eq_false, Bool.false_eq_true, if_false, hb]
  rfl

/-! ## What a good flit leaves -/

/-- What of a port a payload does not change: what the link header, and the sending of flits, have made of it. -/
def Port.retry (x : Port) : Port := { x.core with rxSeq := 0, nakSent := false, nakDue := false, partials := [] }

theorem Port.eq_of_retry {x y : Port} (h : x.retry = y.retry) : x.feccor = y.feccor ∧ x.peerPause = y.peerPause ∧
    x.sameReplay = y.sameReplay ∧ x.unacked = y.unacked ∧ x.resend = y.resend ∧ x.replays = y.replays :=
  ⟨(congrArg Port.feccor h :), (congrArg Port.peerPause h :), (congrArg Port.sameReplay h :), (congrArg Port.unacked h :),
    (congrArg Port.resend h :), (congrArg Port.replays h :)⟩

@[simp] theorem Port.discards_retry (x : Port) : x.discards.retry = x.retry := by
  rw [x.discards_eq]
  rfl

theorem State.port_discard (s : State) (p : Nat) : (s.discard p).port p = (s.port p).discards := s.port_updPort_same ..

section payload
variable (s : State) (p : Nat) {x : Port} {h : LinkHead} (beats : List DWord)

theorem State.payload_other (hk : h.kind ≠ 1) : s.payload p x h beats = s := if_pos (bne_iff_ne.mpr hk)

theorem State.payload_refused (hk : h.kind = 1) (hr : h.seq ≠ x.rxSeq ∨ x.noRoom h.vc.toNat = true) :
    s.payload p x h beats = s.discard p := by
  have hb : (h.seq != x.rxSeq || x.noRoom h.vc.toNat) = true := by simpa using hr
  simp only [State.payload, hk, bne_self_eq_false, Bool.false_eq_true, if_false, if_pos hb]

theorem State.payload_accepted (hk : h.kind = 1) (hs : h.seq = x.rxSeq) (hr : x.noRoom h.vc.toNat = false) :
    s.payload p x h beats = s.accepts p h (takeMsgs 64 (tget x.partials h.vc.toNat [] ++ beats)) := by
  simp only [State.payload, hk, hs, hr, bne_self_eq_false, Bool.or_self, Bool.false_eq_true, if_false]

/-- A payload changes neither memory nor strands, nor what its port has made of the header. -/
theorem State.payload_keeps : (s.payload p x h beats).mem = s.mem ∧ (s.payload p x h beats).strands = s.strands ∧
    ((s.payload p x h beats).port p).retry = (s.port p).retry := by
  by_cases hk : h.kind = 1
  · by_cases hr : h.seq ≠ x.rxSeq ∨ x.noRoom h.vc.toNat = true
    · rw [State.payload_refused s p beats hk hr, State.port_discard, Port.discards_retry]
      exact ⟨rfl, rfl, rfl⟩
    · obtain ⟨hs, hn⟩ := not_or.mp hr
      rw [State.payload_accepted s p beats hk (not_not.mp hs) (Bool.eq_false_iff.mpr hn)]
      have hv := s.linkView_accepts p h (takeMsgs 64 (tget x.partials h.vc.toNat [] ++ beats))
      exact ⟨congrArg (·.1) hv, congrArg (·.2.1) hv, congrArg (fun v : Memory × Tab Strand × Port =>
        ({ v.2.2 with rxSeq := 0, nakSent := false, nakDue := false, partials := [] } : Port)) hv⟩
  · rw [State.payload_other s p beats hk]
    exact ⟨rfl, rfl, rfl⟩

end payload

/-- The channel's buffer has room for one more flit, or the channel is sunk without condition (R28). -/
theorem Port.noRoom_iff (x : Port) (v : BitVec 3) :
    x.noRoom v.toNat = false ↔ v = 2 ∨ v = 7 ∨ x.occ v.toNat < tget x.size v.toNat 256 := by
  have h2 : v.toNat = 2 ↔ v = 2 := ⟨fun h => BitVec.eq_of_toNat_eq h, fun h => congrArg BitVec.toNat h⟩
  have h7 : v.toNat = 7 ↔ v = 7 := ⟨fun h => BitVec.eq_of_toNat_eq h, fun h => congrArg BitVec.toNat h⟩
  rw [← h2, ← h7]
  simp [Port.noRoom, imp_iff_not_or, not_le, or_assoc]

/-- A good flit while fewer than 7 replays of one flit are behind: the port reads its header, then takes its payload. -/
theorem execFlitReceive_good_eq {s : State} (hs : (s.port s.arg.a).st = 2) (hr : (s.port s.arg.a).sameReplay < 7)
    {h : LinkHead} {beats : List DWord} (hb : flitRead (ofLanes (laneCut s.arg.bytes)) = some (h, beats)) :
    execFlitReceive s = .next ((s.hears s.arg.a (fecCount (ofLanes (laneCut s.arg.bytes))) h).payload s.arg.a (s.port s.arg.a)
      h beats) := by
  obtain ⟨-, -, hretry⟩ := State.payload_keeps (s.hears s.arg.a (fecCount (ofLanes (laneCut s.arg.bytes))) h) s.arg.a
    (x := s.port s.arg.a) (h := h) beats
  obtain ⟨-, -, hlt, -⟩ := Port.eq_of_retry hretry
  obtain ⟨_, _, same, _, _, hsame, e⟩ :=
    (s.port s.arg.a).heard_eq (fecCount (ofLanes (laneCut s.arg.bytes))) h s.mod.tick.toNat
  rw [(s.hears_eq ..).1, e] at hlt
  dsimp only at hlt
  rw [execFlitReceive_good hs hb]
  exact congrArg _ (if_neg (by omega))

section good
variable (s : State) (p n : Nat) {h : LinkHead} (beats : List DWord)

/-- What a good flit leaves beside its payload. -/
theorem State.received_keeps :
    ((s.hears p n h).payload p (s.port p) h beats).mem = s.mem ∧
      ((s.hears p n h).payload p (s.port p) h beats).strands = s.strands ∧
      (((s.hears p n h).payload p (s.port p) h beats).port p).retry = ((s.port p).heard n h s.mod.tick.toNat).retry := by
  obtain ⟨hport, hframe⟩ := s.hears_eq p n h
  obtain ⟨hmem, hstrands, hretry⟩ := State.payload_keeps (s.hears p n h) p (x := s.port p) (h := h) beats
  exact ⟨hmem.trans (congrArg State.mem hframe :), hstrands.trans (congrArg State.strands hframe :),
    hretry.trans (congrArg Port.retry hport)⟩

theorem Port.heard_spec (x : Port) (tick : Nat) : (x.heard n h tick).rxSeq = x.rxSeq ∧
    (x.heard n h tick).feccor = min (x.feccor + n) 0xFFFFFF ∧ (x.heard n h tick).peerPause = h.pause := by
  obtain ⟨_, _, _, _, _, -, e⟩ := x.heard_eq n h tick
  rw [e]
  exact ⟨rfl, rfl, rfl⟩

/-- A flit in order for which there is room advances the sequence number that is expected. -/
theorem State.received_accepted (hk : h.kind = 1) (hs : h.seq = (s.port p).rxSeq)
    (hr : (s.port p).noRoom h.vc.toNat = false) :
    (((s.hears p n h).payload p (s.port p) h beats).port p).rxSeq = (s.port p).rxSeq + 1 ∧
      (((s.hears p n h).payload p (s.port p) h beats).port p).nakSent = false := by
  rw [State.payload_accepted _ p beats hk hs hr]
  obtain ⟨hseq, hnak⟩ := Port.eq_of_core (State.core_accepts (s.hears p n h) p h
    (takeMsgs 64 (tget (s.port p).partials h.vc.toNat [] ++ beats)))
  refine ⟨hseq.trans ?_, hnak⟩
  rw [(s.hears_eq p n h).1, Port.accepts, (Port.heard_spec ..).1]

/-- One out of order or without room asks for a replay, and nothing acts on it. -/
theorem State.received_refused (hk : h.kind = 1) (hr : h.seq ≠ (s.port p).rxSeq ∨ (s.port p).noRoom h.vc.toNat = true) :
    (((s.hears p n h).payload p (s.port p) h beats).port p).rxSeq = (s.port p).rxSeq ∧
      (((s.hears p n h).payload p (s.port p) h beats).port p).nakSent = true ∧
      ((s.hears p n h).payload p (s.port p) h beats).events = s.events := by
  rw [State.payload_refused _ p beats hk hr, State.port_discard, Port.discards_eq]
  refine ⟨?_, rfl, (congrArg State.events (s.hears_eq p n h).2 :)⟩
  show ((s.hears p n h).port p).rxSeq = _
  rw [(s.hears_eq p n h).1, (Port.heard_spec ..).1]

theorem State.received_other (hk : h.kind ≠ 1) :
    (((s.hears p n h).payload p (s.port p) h beats).port p).rxSeq = (s.port p).rxSeq ∧
      ((s.hears p n h).payload p (s.port p) h beats).events = s.events := by
  rw [State.payload_other _ p beats hk, (s.hears_eq p n h).1, (Port.heard_spec ..).1]
  exact ⟨rfl, (congrArg State.events (s.hears_eq p n h).2 :)⟩

end good

end Sys2Proof.Machine
end

section
/-! SUPPORT. Retrains, the loss of a link, and the alignment of ticks (R10, R30, R31, R39). -/

namespace Sys2Proof.Machine

/-! ## Retrains, and a port that goes down (R30) -/

/-- The retrains of a port that are less than 2^30 ticks old. -/
def Port.recent (x : Port) (tick : Nat) : List Nat := x.retrainTicks.filter fun r => decide (tick < r + 2 ^ 30)

theorem State.retrain_again {s : State} {p : Nat} (h : ((s.port p).recent s.mod.tick.toNat).length < 3) (cause : Nat) :
    ∃ data ticks, s.retrain p cause = (s.canary (p / 16) 5 5 p data).updPort p fun y => { y with
      st := 1, retrains := min (y.retrains + 1) 255, retrainTicks := ticks, sameReplay := 0, lastAck := s.mod.tick.toNat } :=
  ⟨_, _, if_neg (Nat.not_le.mpr h)⟩

theorem State.retrain_down {s : State} {p : Nat} (h : 3 ≤ ((s.port p).recent s.mod.tick.toNat).length) (cause : Nat) :
    s.retrain p cause = s.portDown p := if_pos h

/-- What the messages that leave by another port do not change: the contexts, and of port `p` its state and what it keeps for
a replay. -/
def State.downView (p : Nat) (s : State) : Tab Ctx × BitVec 4 × List Flit := (s.ctxs, (s.port p).st, (s.port p).unacked)

theorem State.downView_sendOn (s : State) (p q : Nat) (vc : BitVec 3) (m : Msg) :
    (s.sendOn q vc m).downView p = s.downView p := by
  have h : ((s.sendOn q vc m).port p).st = (s.port p).st ∧ ((s.sendOn q vc m).port p).unacked = (s.port p).unacked := by
    rw [State.sendOn, State.port_updPort]
    split
    next e => subst e; exact ⟨rfl, rfl⟩
    next => exact ⟨rfl, rfl⟩
  simp only [State.downView, h]
  rfl

/-- A port that goes down keeps nothing for a replay; where no context owns a message that is lost, every context stays. -/
theorem State.portDown_view {s : State} {p : Nat} (ho : ∀ f ∈ (s.port p).unacked, f.owners = []) :
    (s.portDown p).downView p = (s.ctxs, 0, []) := by
  have hlost : (s.port p).unacked.flatMap (·.owners) = [] := List.flatMap_eq_nil_iff.mpr ho
  simp only [State.portDown, hlost, List.eraseDups_nil, List.foldl_nil]
  refine (foldl_unchanged (State.downView p) (fun t m => ?_) _ _).trans ?_
  · split
    · rfl
    · split
      · exact t.downView_sendOn ..
      · rfl
  · simp only [State.downView, State.port_updPort_same]
    rfl

/-- A port whose oldest flit has waited 65,536 ticks for its acknowledgement. -/
def State.stalls (s : State) (x : Port) : Prop := x.st = 2 ∧ x.unacked ≠ [] ∧ x.lastAck + 65536 ≤ s.mod.tick.toNat

theorem State.stalls_iff (s : State) (x : Port) :
    (x.st == 2 && !x.unacked.isEmpty && decide (x.lastAck + 65536 ≤ s.mod.tick.toNat)) = true ↔ s.stalls x := by
  simp [State.stalls, and_assoc]

theorem execAckStallTimeout_stalls {s : State} (h : s.stalls (s.port s.arg.a)) :
    execAckStallTimeout s = .next (s.retrain s.arg.a 1) := by
  simp only [execAckStallTimeout, act, if_pos ((State.stalls_iff ..).mpr h)]

theorem execAckStallTimeout_none {s : State} (h : ¬s.stalls (s.port s.arg.a)) : execAckStallTimeout s = .next s := by
  simp only [execAckStallTimeout, act, if_neg (mt (State.stalls_iff ..).mp h)]

/-! ## TICKSYNC (R39) -/

@[simp] theorem State.msgDone_roundTrip (s : State) (p vc q : Nat) :
    ((s.msgDone p vc).port q).roundTrip = (s.port q).roundTrip := by
  obtain ⟨buf, pause, e⟩ := s.msgDone_port p vc q
  rw [e]

@[simp] theorem State.msgDone_syncSent (s : State) (p vc q : Nat) : ((s.msgDone p vc).port q).syncSent = (s.port q).syncSent := by
  obtain ⟨buf, pause, e⟩ := s.msgDone_port p vc q
  rw [e]

theorem State.sendTick_eq (s : State) (p : Nat) : s.sendTick p = s.sendOn p 7 (Claims.tickMsg s p) := rfl

theorem State.txq_sendTick (s : State) (p q : Nat) : ((s.sendTick p).port q).txq =
    (s.port q).txq ++ if p = q then [(7, Claims.tickMsg s q)] else [] := by
  rw [State.sendTick_eq, State.sendOn, State.port_updPort]
  split
  next e => subst e; rfl
  next => rw [List.append_nil]

/-- The ports of a list each get one message with this module's tick. -/
theorem State.txq_sendTicks (q : Nat) (l : List Nat) : ∀ s : State, l.Nodup → ((l.foldl State.sendTick s).port q).txq =
    (s.port q).txq ++ if q ∈ l then [(7, Claims.tickMsg s q)] else [] := by
  induction l with
  | nil => intro s _; simp
  | cons p l ih =>
    intro s hl
    obtain ⟨hp, hl⟩ := List.nodup_cons.mp hl
    rw [List.foldl_cons, ih _ hl, State.txq_sendTick, show Claims.tickMsg (s.sendTick p) q = Claims.tickMsg s q from rfl]
    by_cases h : p = q
    · subst h
      simp [hp]
    · simp [h, Ne.symm h]

theorem State.sendTicks_frame (l : List Nat) (s : State) : { l.foldl State.sendTick s with fab := s.fab } = s :=
  foldl_keeps (P := fun t : State => { t with fab := s.fab } = s) (f := State.sendTick) (fun _ _ h => h) l rfl

theorem execTicksyncPeriod_eq (s : State) : execTicksyncPeriod s = .next
    ((if s.master then (List.range 64).filter fun p => (s.port p).st == 2 else []).foldl State.sendTick s) := by
  simp only [execTicksyncPeriod, act]
  split <;> rfl

/-- How far this module's tick is from the master's `now` on a link with round trip `r` (R39). -/
def State.tickOff (s : State) (now : DWord) (r : Nat) : Nat :=
  ((s.mod.tick.toNat : Int) - ((now.toNat + r / 2 : Nat) : Int)).natAbs

section tickCheck
variable {s : State} {p r : Nat} {now : DWord} (hr : (s.port p).roundTrip = some r)
include hr

theorem State.tickCheck_near (h : s.tickOff now r ≤ 2) : s.tickCheck p now = s := by
  have hd : (s.port p).delay = r / 2 := by rw [Port.delay, hr]; rfl
  unfold State.tickCheck
  rw [hd]
  exact if_pos h

theorem State.tickCheck_far (h : 2 < s.tickOff now r) : ∃ data,
    s.tickCheck p now = (s.setMod fun m => { m with twcfg := m.twcfg ||| 0x4000 }).canary (p / 16) 5 0x0C p data := by
  have hd : (s.port p).delay = r / 2 := by rw [Port.delay, hr]; rfl
  unfold State.tickCheck
  rw [hd]
  exact ⟨_, if_neg (Nat.not_le.mpr h)⟩

/-- A difference above 2 ticks sets TICKERR, and the tick stays. -/
theorem State.tickCheck_spec : (s.tickCheck p now).mod.tick = s.mod.tick ∧
    (s.tickCheck p now).mod.twcfg = (if 2 < s.tickOff now r then s.mod.twcfg ||| 0x4000 else s.mod.twcfg) ∧
    (s.tickCheck p now).events = s.events ∧ (s.tickCheck p now).ctxs = s.ctxs := by
  by_cases h : 2 < s.tickOff now r
  · obtain ⟨data, e⟩ := State.tickCheck_far hr h
    rw [e, if_pos h]
    exact ⟨rfl, rfl, rfl, rfl⟩
  · rw [State.tickCheck_near hr (Nat.not_lt.mp h), if_neg h]
    exact ⟨rfl, rfl, rfl, rfl⟩

end tickCheck

/-- The tick of the master that a TICKSYNC carries. -/
def State.tickHeard (s : State) : DWord := BitVec.ofNat 64 (leNat s.arg.msg.data)

theorem execTicksync_master {s : State} (hm : s.master = true) :
    execTicksync s = .next ((s.msgDone s.arg.a s.arg.c).sendTick s.arg.a) := by
  simp only [execTicksync, act, State.msgDone_master, hm, if_true]

section slave
variable {s : State} (hm : s.master = false)
include hm

/-- A module that has not measured the link begins to. -/
theorem execTicksync_begins (hr : (s.port s.arg.a).roundTrip = none) (hs : (s.port s.arg.a).syncSent = none) :
    execTicksync s = .next (((s.msgDone s.arg.a s.arg.c).updPort s.arg.a fun y =>
      { y with syncSent := some s.mod.tick.toNat }).sendTick s.arg.a) := by
  simp only [execTicksync, act, State.msgDone_master, hm, State.msgDone_roundTrip, hr, State.msgDone_syncSent, hs,
    State.msgDone_mod, Bool.false_eq_true, if_false]

/-- One that has begun ends the exchange. -/
theorem execTicksync_ends {t0 : Nat} (hr : (s.port s.arg.a).roundTrip = none) (hs : (s.port s.arg.a).syncSent = some t0) :
    ∃ events, execTicksync s = .next { ((s.msgDone s.arg.a s.arg.c).updPort s.arg.a fun y =>
      { y with roundTrip := some (s.mod.tick.toNat - t0), syncSent := none }) with events := events } := by
  simp only [execTicksync, act, State.msgDone_master, hm, State.msgDone_roundTrip, hr, State.msgDone_syncSent, hs,
    State.msgDone_mod, Bool.false_eq_true, if_false]
  exact ⟨_, rfl⟩

/-- One that has measured checks its tick, and is to align it where it has no context. -/
theorem execTicksync_checks {r : Nat} (hr : (s.port s.arg.a).roundTrip = some r) : execTicksync s = .next
    (if s.ctxs = [] then { (s.msgDone s.arg.a s.arg.c).tickCheck s.arg.a s.tickHeard with
        events := s.events ++ [⟨.tickAlignment, { a := s.arg.a, v := s.tickHeard }⟩] }
      else (s.msgDone s.arg.a s.arg.c).tickCheck s.arg.a s.tickHeard) := by
  have hr' : ((s.msgDone s.arg.a s.arg.c).port s.arg.a).roundTrip = some r := by rwa [State.msgDone_roundTrip]
  obtain ⟨-, -, hevents, hctxs⟩ := State.tickCheck_spec (now := s.tickHeard) hr'
  rw [State.msgDone_events] at hevents
  rw [State.msgDone_ctxs] at hctxs
  simp only [← hevents, ← hctxs, ← List.isEmpty_iff]
  simp only [execTicksync, act, State.msgDone_master, hm, State.msgDone_roundTrip, hr, Bool.false_eq_true, if_false]
  rfl

end slave

end Sys2Proof.Machine
end

section
/-! SUPPORT. Twiette links as a whole. -/

namespace Sys2Proof.Machine

open Sys2Proof.Claims

/-- Settles O53, operation by operation. -/
theorem linkEvents : Obligations.LinkEvents := by
  refine ⟨?txDown, ?rxDown, ?resend, ?idle, ?payload, ?packs, ?lanes, ?receive, ?stall, ?noStall, ?retrained, ?bringUp, ?period,
    ?align, ?noAlign, ?master, ?measured, ?measuring⟩
  case txDown => exact fun s h => execFlitTransmit_down h
  case rxDown => exact fun s h => execFlitReceive_down h
  case resend =>
    intro s f r hs hr
    refine ⟨_, execFlitTransmit_resend hs hr, rfl, ?_⟩
    rw [State.port_updPort_same, Port.emit_eq]
    exact ⟨rfl, rfl, rfl, rfl⟩
  case idle =>
    rintro s ⟨hs, hr, hn⟩
    refine ⟨_, execFlitTransmit_idle hs hr (hn.imp_right fun ⟨hq, hrest⟩ => Port.nextVc_none hq hrest), ?_⟩
    dsimp only
    rw [State.port_updPort_same, Port.emit_eq]
    exact ⟨rfl, rfl, rfl⟩
  case payload =>
    rintro s ⟨hs, hr, hl, hp, hq⟩
    obtain ⟨v, hv⟩ := Port.nextVc_some hp hq
    obtain ⟨t, e, hseq, hun, hrest, hsent⟩ := execFlitTransmit_payload hs hr hl hv
    exact ⟨t, e, hseq, s.nextFlit (s.port s.arg.a) v, rfl, packMsgs_length .., hun, ⟨rfl, rfl, hrest⟩, hsent⟩
  case packs => exact fun ms sent room h => packMsgs_beats ms sent room h
  case lanes => exact fun b hb => ⟨ofLanes_toLanes hb, fun n hn => toLanes_beat hb hn⟩
  case receive =>
    intro s x b hs hsame
    rcases hf : flitRead b with _ | ⟨h, beats⟩
    · refine ⟨_, execFlitReceive_bad hs hf, ?_⟩
      rw [State.port_discard, State.port_updPort_same, Port.discards_eq]
      exact ⟨rfl, rfl, rfl, rfl, rfl, rfl, rfl, rfl, rfl⟩
    · obtain ⟨hmem, hstrands, hretry⟩ := s.received_keeps s.arg.a (fecCount b) (h := h) beats
      obtain ⟨hfec, hpause, -, hunacked, hresend, hreplays⟩ := Port.eq_of_retry hretry
      obtain ⟨-, hfec', hpause'⟩ := (s.port s.arg.a).heard_spec (fecCount b) (h := h) s.mod.tick.toNat
      have hroom := (s.port s.arg.a).noRoom_iff h.vc
      refine ⟨_, execFlitReceive_good_eq hs hsame hf, ?_⟩
      refine ⟨hfec.trans hfec', hmem, hstrands, hpause.trans hpause',
        fun hk hq hr => s.received_accepted s.arg.a _ beats hk hq (hroom.mpr hr),
        fun hk hr => s.received_refused s.arg.a _ beats hk (hr.imp_right fun hr => ?_),
        fun hk => s.received_other s.arg.a _ beats hk, fun pre f post hun hpre hack => ?_⟩
      · exact Bool.eq_true_of_not_eq_false (mt hroom.mp hr)
      · obtain ⟨hpost, hnak⟩ := Port.heard_acked hun hpre hack (fecCount b) s.mod.tick.toNat
        exact ⟨hunacked.trans hpost, fun hn => ⟨hresend.trans (hnak hn).1, hreplays.trans (hnak hn).2⟩⟩
  case stall =>
    intro s x hs hun hl
    refine ⟨fun h => ?_, fun h ho => ?_⟩
    · obtain ⟨data, ticks, e⟩ := State.retrain_again h 1
      refine ⟨_, (execAckStallTimeout_stalls ⟨hs, hun, hl⟩).trans (congrArg _ e), ?_⟩
      rw [State.port_updPort_same]
      exact ⟨rfl, rfl, rfl⟩
    · have hv := State.portDown_view ho
      refine ⟨_, (execAckStallTimeout_stalls ⟨hs, hun, hl⟩).trans (congrArg _ (State.retrain_down h 1)), ?_⟩
      exact ⟨congrArg (·.2.1) hv, congrArg (·.2.2) hv, congrArg (·.1) hv⟩
  case noStall =>
    refine fun s h => execAckStallTimeout_none fun ⟨hs, hun, hl⟩ => ?_
    rcases h with h | h | h
    · exact h hs
    · exact hun h
    · exact absurd hl (Nat.not_le.mpr h)
  case retrained =>
    intro s h
    rw [exec_linkRetrainComplete]
    simp only [execLinkRetrainComplete, act, h, beq_self_eq_true, if_true]
  case bringUp =>
    intro s h
    rw [exec_portBringUp]
    simp only [execPortBringUp, act, h, beq_self_eq_true, if_true]
    refine ⟨_, rfl, ?_⟩
    rw [State.port_updPort_same]
    exact ⟨rfl, rfl, rfl, rfl, rfl, rfl⟩
  case period =>
    intro s _
    refine ⟨_, execTicksyncPeriod_eq s, State.sendTicks_frame .., fun p hp => ?_⟩
    by_cases hm : s.master = true
    · rw [if_pos hm, State.txq_sendTicks _ _ _ (List.nodup_range.filter _)]
      simp [hm, hp]
    · simp [hm]
  case align =>
    rintro s ⟨hm, hc, hr⟩
    have h : ¬(s.master || !s.ctxs.isEmpty || (s.port s.arg.a).roundTrip.isNone) = true := by
      obtain ⟨r, hr⟩ := Option.isSome_iff_exists.mp hr
      simp [hm, hc, hr]
    rw [exec_tickAlignment]
    simp only [execTickAlignment, act, if_neg h]
    rfl
  case noAlign =>
    intro s hc
    have h : (s.master || !s.ctxs.isEmpty || (s.port s.arg.a).roundTrip.isNone) = true := by simp [hc]
    rw [exec_tickAlignment]
    simp only [execTickAlignment, act, if_pos h]
    rfl
  case master =>
    intro s hm
    refine ⟨_, execTicksync_master hm, ?_⟩
    have ht : leNat (leBytes 8 s.mod.tick.toNat) = s.mod.tick.toNat := by
      rw [leNat_leBytes]
      exact Nat.mod_eq_of_lt s.mod.tick.isLt
    rw [State.txq_sendTick, if_pos rfl, List.getLast?_concat]
    simp only [tickMsg, State.msgDone_mod, Option.map_some, ht]
  case measured =>
    intro s r hm hr now far
    have hr' : ((s.msgDone s.arg.a s.arg.c).port s.arg.a).roundTrip = some r := by rwa [State.msgDone_roundTrip]
    have hoff : (s.msgDone s.arg.a s.arg.c).tickOff s.tickHeard r = s.tickOff now r := by
      rw [State.tickOff, State.msgDone_mod]
      rfl
    refine ⟨fun hn hc => ?_, _, execTicksync_checks hm hr, ?_⟩
    · have hnear := State.tickCheck_near hr' (hoff.trans_le (Nat.not_lt.mp hn))
      rw [exec_ticksync, execTicksync_checks hm hr, hnear]
      exact congrArg _ (if_neg hc)
    · obtain ⟨htick, htwcfg, hevents, -⟩ := State.tickCheck_spec (now := s.tickHeard) hr'
      rw [hoff] at htwcfg
      simp only [State.msgDone_mod, State.msgDone_events] at htick htwcfg hevents
      by_cases hc : s.ctxs = []
      · rw [if_pos hc, if_pos hc]
        exact ⟨htick, htwcfg, rfl⟩
      · rw [if_neg hc, if_neg hc, List.append_nil]
        exact ⟨htick, htwcfg, hevents⟩
  case measuring =>
    refine fun s hm hr => ⟨fun hs => ⟨_, execTicksync_begins hm hr hs, ?_, ?_⟩, fun t0 hs => ?_⟩
    · rw [State.sendTick_eq, State.sendOn, State.port_updPort_same, State.port_updPort_same]
    · rw [State.txq_sendTick, if_pos rfl, State.port_updPort_same, List.length_append]
      exact congrArg (·.length + 1) (s.msgDone_txq ..)
    · obtain ⟨events, e⟩ := execTicksync_ends hm hr hs
      refine ⟨_, e, ?_⟩
      have hp := State.port_updPort_same (s.msgDone s.arg.a s.arg.c) s.arg.a fun y =>
        { y with roundTrip := some (s.mod.tick.toNat - t0), syncSent := none }
      exact ⟨congrArg Port.roundTrip hp, congrArg Port.syncSent hp⟩

end Sys2Proof.Machine
end

section
/-! SUPPORT. Fetching a clause: the first fetch of a timer handler at an address that is no multiple of 4 (R219, R353). -/

namespace Sys2Proof.Machine

/-- A handler strand that has issued nothing yet, at a target that is no multiple of 4. -/
def unalignedHandler : Strand := { fetchStrand [] with kind := .handler, clause := none, pc := 0x20002 }

/-- It, with a clause of one word at its target in the instruction cache: a header, and EXIT. -/
def unalignedFetch : State :=
  { State.reset with
    strands := [(0, unalignedHandler)]
    home := { State.reset.home with icache := [(0, 0x20002, 0xF0000000), (0, 0x20006, 0xC6000000)] } }

/-- Its fetch traps with class 0x03, whatever the cache holds, and takes no clause (R353). -/
theorem unalignedFetch_takes_no_clause : ∃ t, exec .clauseFetch unalignedFetch = .next t ∧
    (tfind t.strands 0).map Strand.clause = some none :=
  ⟨unalignedFetch.takeTrap 0 { cls := 0x03 }, rfl, by decide⟩

/-- Refutes O5: its first part asks nothing of a handler's alignment, and a handler whose first fetch is at an address that
is no multiple of 4 traps instead of taking the words that the fetch would read. -/
theorem not_clauseFetchReadsMemory : ¬ Obligations.ClauseFetchReadsMemory := by
  unfold Obligations.ClauseFetchReadsMemory
  rintro ⟨fills, -⟩
  obtain ⟨t, st', ht, -, hst, -, hclause, -⟩ := fills unalignedFetch unalignedHandler 0xF0000000 [0xC6000000]
    rfl rfl rfl (by decide) (by decide) (by decide) (by decide) (by decide)
  obtain ⟨t', ht', hnone⟩ := unalignedFetch_takes_no_clause
  obtain rfl : t' = t := Host.Outcome.next.inj (ht'.symm.trans ht)
  rw [show tfind t'.strands 0 = _ from hst, Option.map_some, hclause] at hnone
  exact absurd hnone (by simp)

end Sys2Proof.Machine
end

section
/-! SUPPORT. The records of a queue: which are read, what each does, and the waits at SIGNAL and ISYNC (R51 to R54). -/

namespace Sys2Proof.Machine

/-! ## Queues -/

@[simp] theorem State.queue_forgetAsks (s : State) (a : Asker) (q : Nat) : (s.forgetAsks a).queue q = s.queue q := rfl
@[simp] theorem State.queue_headFailed (s : State) (o : Option Nat) (k n q : Nat) : (s.headFailed o k n).queue q = s.queue q := rfl

theorem State.updQueue_eq (s : State) (q : Nat) (f : Queue → Queue) :
    s.updQueue q f = s.setHost fun h => { h with queues := tset h.queues q (f (s.queue q)) } := rfl

theorem State.updQueue_congr {s : State} {q : Nat} {f g : Queue → Queue} (h : f (s.queue q) = g (s.queue q)) :
    s.updQueue q f = s.updQueue q g := by
  rw [State.updQueue_eq, State.updQueue_eq, h]

theorem State.updQueue_updQueue (s : State) (q : Nat) (f g : Queue → Queue) :
    ((s.updQueue q f).updQueue q g).queue q = g (f (s.queue q)) := by
  rw [State.queue_updQueue, State.queue_updQueue]

/-- Passing a record of a queue that has no write-back address (R51). -/
theorem State.consume_silent {s : State} {q : Nat} (h : (s.queue q).wb = 0) (v : BitVec 32) :
    s.consume q v = s.updQueue q fun x => { x with cons := v } := by
  simp only [State.consume, State.queue_updQueue, if_pos h]

/-- What passing a record leaves of a queue without write-back. -/
theorem State.passed_spec {t : State} {q : Nat} (v : BitVec 32) (hw : (t.queue q).wb = 0) (a : Asker) :
    (((t.updQueue q fun x => { x with next := v }).consume q v).forgetAsks a).queue q = { t.queue q with next := v, cons := v } ∧
    (((t.updQueue q fun x => { x with next := v }).consume q v).forgetAsks a).grids = t.grids ∧
    (((t.updQueue q fun x => { x with next := v }).consume q v).forgetAsks a).mem = t.mem := by
  rw [State.consume_silent (by rw [State.queue_updQueue]; exact hw), State.queue_forgetAsks, State.updQueue_updQueue]
  exact ⟨rfl, rfl, rfl⟩

/-- There is nothing to read: the queue is off, holds no work, or waits at a SIGNAL or ISYNC (R53). -/
theorem State.nextRecord_none {s : State} {q : Nat}
    (h : (s.queue q).en = false ∨ (s.queue q).next = (s.queue q).prod ∨ (s.queue q).waits ≠ []) : s.nextRecord q = none := by
  refine if_pos ?_
  rcases h with h | h | h <;> simp [h]

/-- A queue whose next record is read waits at no SIGNAL or ISYNC. -/
theorem State.waits_of_nextRecord {s : State} {q : Nat} {g : HeadGot} (h : s.nextRecord q = some g) : (s.queue q).waits = [] := by
  by_contra hw
  rw [State.nextRecord_none (.inr (.inr hw))] at h
  cases h

/-! ## Completion records (R54) -/

theorem State.applyAll_of_no_writes {s : State} (h : s.home.writes = []) (p : PWrite → Bool) : s.applyAll p = s := by
  simp [State.applyAll, h]

theorem State.publish_of_no_writes {s : State} (h : s.home.writes = []) : s.publish = [0, 1, 2, 3].foldl State.showAll s := by
  rw [State.publish, State.applyAll_of_no_writes h]

section completion
variable (s : State) (ctx : Nat) (q : Option Nat) (value : DWord) (seq : BitVec 32) (status : Nat) (irq : Option Nat)

/-- Without an address only the vector is raised. -/
theorem State.completion_nowhere : s.completion ctx q 0 value seq status irq = irq.elim s.publish s.publish.raise := by
  cases irq <;> rfl

variable {addr : DWord} (ha : addr ≠ 0) (hm : addr.toNat % 16 = 0)

/-- The bytes of a completion record: COMPVAL, SEQ, STATUS. -/
def completionBytes (value : DWord) (seq : BitVec 32) (status : Nat) : List Byte :=
  leBytes 8 value.toNat ++ leBytes 4 seq.toNat ++ leBytes 4 status

theorem length_completionBytes : (completionBytes value seq status).length = 16 := by
  simp [completionBytes, length_leBytes]

include ha hm

theorem State.completion_put : s.completion ctx q addr value seq status irq = s.publish.fresh.headPut
    { id := s.publish.next, ctx := ctx, queue := q, addr := addr.toNat, bytes := completionBytes value seq status, kind := 0
      seq := seq.toNat, irq := irq } := by
  simp only [State.completion, if_neg ha, hm, bne_self_eq_false, Bool.false_eq_true, if_false, completionBytes]

end completion

/-- A write of the headframe is done at once where its place is in this module and writable. -/
theorem State.headPut_now {s u : State} {o : HeadOut} (hl : s.headLater o.ctx o.addr o.bytes.length = false)
    (hw : s.headWrite o.ctx o.addr o.bytes = some u) : s.headPut o = o.irq.elim u u.raise := by
  simp only [State.headPut, hl, hw, Bool.false_eq_true, if_false]
  cases o.irq <;> rfl

theorem State.headPut_later {s : State} {o : HeadOut} (hl : s.headLater o.ctx o.addr o.bytes.length = true) :
    s.headPut o = s.setHost fun h => { h with headOut := h.headOut ++ [o] } := if_pos hl

/-! ## Taking a record -/

section take
variable {s : State} {kinds : Nat → Bool} {f : State → Nat → Queue → Rec → Except State State}

theorem State.takeRecord_idle (h : s.nextRecord s.arg.a = none) : s.takeRecord kinds f = s := by
  simp only [State.takeRecord, h, ite_self]

variable (hb : s.mod.failedBoot = false)
include hb

theorem State.takeRecord_fails (h : s.nextRecord s.arg.a = some .fails) : s.takeRecord kinds f = s.recordFails s.arg.a := by
  simp only [State.takeRecord, h, hb, Bool.false_eq_true, if_false]

theorem State.takeRecord_waits {ks : List (Nat × Nat × Nat × Nat)} (h : s.nextRecord s.arg.a = some (.waits ks)) :
    s.takeRecord kinds f = s.headAsk (.head s.arg.a) 0 ks := by
  simp only [State.takeRecord, h, hb, Bool.false_eq_true, if_false]

variable {b : List Byte} (h : s.nextRecord s.arg.a = some (.data b)) (hk : kinds (Rec.ofBytes b).kind = true)
include h hk

/-- QCONS does not pass the record yet. -/
theorem State.takeRecord_stays {t : State} (hf : f s s.arg.a (s.queue s.arg.a) (Rec.ofBytes b) = .error t) :
    s.takeRecord kinds f = t := by
  simp only [State.takeRecord, h, hb, hk, hf, Bool.false_eq_true, if_false, Bool.not_true]

theorem State.takeRecord_passes {t : State} (hf : f s s.arg.a (s.queue s.arg.a) (Rec.ofBytes b) = .ok t) :
    s.takeRecord kinds f = ((t.updQueue s.arg.a fun x => { x with next := (s.queue s.arg.a).next + 1 }).consume s.arg.a
      ((s.queue s.arg.a).next + 1)).forgetAsks (.head s.arg.a) := by
  simp only [State.takeRecord, h, hb, hk, hf, Bool.false_eq_true, if_false, Bool.not_true]

end take

/-- The operations that read records each take those of their own KINDs. -/
theorem exec_takesRecord {i : Instr} (hi : i ∈ ([.launchRecord, .rejectedRecord, .signal, .isync] : List Instr)) :
    ∃ kinds f, ∀ s, exec i s = .next (s.takeRecord kinds f) := by
  simp only [List.mem_cons, List.not_mem_nil, or_false] at hi
  rcases hi with rfl | rfl | rfl | rfl <;> exact ⟨_, _, fun _ => rfl⟩

/-- A record that cannot be read stops its queue (R51). -/
theorem State.recordFails_spec (s : State) (q : Nat) :
    ((s.recordFails q).queue q).err = true ∧ ((s.recordFails q).queue q).en = false ∧
      ((s.recordFails q).queue q).cons = (s.queue q).cons ∧ (s.recordFails q).host.msix = 1 :: s.host.msix ∧
      (s.recordFails q).grids = s.grids := by
  obtain ⟨-, herr, hen, hmsix⟩ := s.queueStop_spec q
  have hcons : ((s.queueStop q).queue q).cons = (s.queue q).cons :=
    (congrArg Queue.cons (s.queue_updQueue q fun x => { x.off with err := true }) :)
  exact ⟨herr, hen, hcons, hmsix, rfl⟩

/-! ## LAUNCH -/

/-- A record that is rejected without a completion record leaves the queues and the grids. -/
theorem State.rejectRec_silent {s : State} (hs : s.home.writes = []) {r : Rec} (hc : r.compaddr = 0) (hv : r.vector = none)
    (q : Nat) (x : Queue) : (s.rejectRec q x r).queue q = s.queue q ∧ (s.rejectRec q x r).grids = s.grids := by
  rw [State.rejectRec, hc, hv, State.completion_nowhere, Option.elim_none, State.publish_of_no_writes hs]
  exact ⟨rfl, rfl⟩

section launch
variable {s : State} {b : List Byte} (hb : s.mod.failedBoot = false) (h : s.nextRecord s.arg.a = some (.data b))
  (hk : (Rec.ofBytes b).kind = 1) (hd : (Rec.ofBytes b).dep = false)

/-- What becomes of a LAUNCH without DEP in the queue of the operation. -/
def State.acceptNext (s : State) (r : Rec) : State × Taken :=
  s.accept (.head s.arg.a) (s.queue s.arg.a).ctx (some s.arg.a) none (s.queue s.arg.a).next.toNat (s.queue s.arg.a).prioMax none r

include hb h hk hd

theorem execLaunchRecord_grid {s' : State} {g : Nat} (hw : (s.queue s.arg.a).wb = 0)
    (hy : s.acceptNext (Rec.ofBytes b) = (s', .grid g)) (hs : s'.host = s.host) :
    ∃ t, exec .launchRecord s = .next t ∧ t.grids = s'.grids ∧ t.mem = s'.mem ∧
      t.queue s.arg.a = { s.queue s.arg.a with
        next := (s.queue s.arg.a).next + 1, cons := (s.queue s.arg.a).next + 1, prev := .grid g } := by
  unfold State.acceptNext at hy
  have hq : (s'.updQueue s.arg.a fun z => { z with prev := .grid g }).queue s.arg.a =
      { s.queue s.arg.a with prev := .grid g } := by
    rw [State.queue_updQueue, State.queue, hs, State.queue]
  obtain ⟨hqueue, hgrids, hmem⟩ := State.passed_spec ((s.queue s.arg.a).next + 1) (by rw [hq]; exact hw) (.head s.arg.a)
  refine ⟨_, ?_, hgrids, hmem, hqueue.trans (by rw [hq])⟩
  rw [exec_launchRecord, execLaunchRecord, act, State.takeRecord_passes hb h (by simp [hk])]
  simp [hd, hy]

theorem execLaunchRecord_waits {s' : State} {ks : List (Nat × Nat × Nat × Nat)}
    (hy : s.acceptNext (Rec.ofBytes b) = (s', .waits ks)) :
    exec .launchRecord s = .next (s'.headAsk (.head s.arg.a) 0 ks) := by
  unfold State.acceptNext at hy
  rw [exec_launchRecord, execLaunchRecord, act, State.takeRecord_stays hb h (by simp [hk])]
  simp [hd, hy]

theorem execLaunchRecord_rejected (hw : (s.queue s.arg.a).wb = 0)
    (ho : (Rec.ofBytes b).ok (s.queue s.arg.a).prioMax = false) (hv : (Rec.ofBytes b).vector = none)
    (hc : (Rec.ofBytes b).compaddr = 0) (hs : s.home.writes = []) :
    ∃ t, exec .launchRecord s = .next t ∧ t.grids = s.grids ∧
      t.queue s.arg.a = { s.queue s.arg.a with
        next := (s.queue s.arg.a).next + 1, cons := (s.queue s.arg.a).next + 1, prev := .rejected } := by
  have hr : s.acceptNext (Rec.ofBytes b) = (s, .rejected) := if_pos (by rw [ho]; rfl)
  unfold State.acceptNext at hr
  let u := s.updQueue s.arg.a fun z => { z with prev := .rejected }
  obtain ⟨hu, hg⟩ := u.rejectRec_silent (hs : u.home.writes = []) hc hv s.arg.a (s.queue s.arg.a)
  replace hu := hu.trans (s.queue_updQueue s.arg.a fun z => { z with prev := .rejected })
  obtain ⟨hqueue, hgrids, -⟩ := State.passed_spec ((s.queue s.arg.a).next + 1) (by rw [hu]; exact hw) (.head s.arg.a)
  refine ⟨_, ?_, hgrids.trans hg, hqueue.trans (by rw [hu])⟩
  rw [exec_launchRecord, execLaunchRecord, act, State.takeRecord_passes hb h (by simp [hk])]
  simp [hd, hr, u]

end launch

/-! ## SIGNAL and ISYNC -/

/-- What a SIGNAL or ISYNC leaves at the end of its queue's waits (R53). -/
def State.queuedWait (s : State) (isync : Bool) (r : Rec) : QWait :=
  { isync := isync, ctx := (s.queue s.arg.a).ctx, grids := s.queueGrids s.arg.a, seq := r.seq, compaddr := r.compaddr
    compval := r.compval, irq := r.vector }

theorem State.queueWait_waits {s : State} {r : Rec} (ho : r.shortOk = true) (hw : (s.queue s.arg.a).waits = []) (isync : Bool) :
    ∃ t, s.queueWait isync s.arg.a (s.queue s.arg.a) r = .error t ∧ t.queue s.arg.a =
      { s.queue s.arg.a with next := (s.queue s.arg.a).next + 1, waits := [s.queuedWait isync r] } := by
  refine ⟨_, if_neg (by simp [ho]), ?_⟩
  rw [State.queue_updQueue, hw]
  rfl

section waits
variable {s : State} {b : List Byte} (hb : s.mod.failedBoot = false) (h : s.nextRecord s.arg.a = some (.data b))
  (ho : (Rec.ofBytes b).shortOk = true)
include hb h ho

theorem exec_queuedWait {i : Instr} (hi : i = .signal ∧ (Rec.ofBytes b).kind = 2 ∨ i = .isync ∧ (Rec.ofBytes b).kind = 3) :
    ∃ t, exec i s = .next t ∧ t.queue s.arg.a = { s.queue s.arg.a with
      next := (s.queue s.arg.a).next + 1, waits := [s.queuedWait (decide ((Rec.ofBytes b).kind = 3)) (Rec.ofBytes b)] } := by
  obtain ⟨t, ht, hq⟩ := State.queueWait_waits ho (State.waits_of_nextRecord h) (decide ((Rec.ofBytes b).kind = 3))
  refine ⟨t, ?_, hq⟩
  rcases hi with ⟨rfl, hk⟩ | ⟨rfl, hk⟩
  · rw [exec_signal, execSignal, act, State.takeRecord_stays hb h (by simp [hk]) (by simpa [hk] using ht)]
  · rw [exec_isync, execIsync, act, State.takeRecord_stays hb h (by simp [hk]) (by simpa [hk] using ht)]

end waits

section endWait
variable {s : State} {isync : Bool} {f : State → QWait → State}

theorem State.endWait_idle (h : ∀ w ∈ (s.queue s.arg.a).waits, s.waitOver w = false) : s.endWait isync f = s := by
  have hnone : ((s.queue s.arg.a).waits.find? fun w => w.isync == isync && s.waitOver w) = none :=
    List.find?_eq_none.mpr fun w hw => by simp [h w hw]
  simp only [State.endWait, hnone]

/-- The first wait, once it is over, leaves its queue and takes effect; then QCONS moves (R53). -/
theorem State.endWait_first {w : QWait} {rest : List QWait} (hw : (s.queue s.arg.a).waits = w :: rest)
    (ho : s.waitOver w = true) (hi : w.isync = isync) : s.endWait isync f =
      (((f (s.updQueue s.arg.a fun x => { x with waits := rest }) w).completion w.ctx (some s.arg.a) w.compaddr w.compval w.seq 0
        w.irq).consume s.arg.a (if (s.queue s.arg.a).en then (s.queue s.arg.a).next else (s.queue s.arg.a).cons + 1)).forgetAsks
          (.head s.arg.a) := by
  have hfind : ((s.queue s.arg.a).waits.find? fun w => w.isync == isync && s.waitOver w) = some w := by
    rw [hw, List.find?_cons_of_pos (by simp [hi, ho])]
  have hrest : (s.updQueue s.arg.a fun x => { x with waits := x.waits.erase w }) =
      s.updQueue s.arg.a fun x => { x with waits := rest } := by
    refine State.updQueue_congr ?_
    rw [hw, List.erase_cons_head]
  simp only [State.endWait, hfind, hrest, State.queue_updQueue]

end endWait

/-- What an ISYNC does before its completion record (R53, R57, R136, R327). -/
def State.isyncEffect (s : State) (w : QWait) : State :=
  let s := (s.dropTlb w.ctx).setHome fun h => { h with icache := h.icache.filter fun e => e.1 != w.ctx }
  let s := s.setSched fun d => d.forgetCtx w.ctx
  if (s.ctxOf w.ctx).conf then s.updCtx w.ctx fun c => { c with digest := Config.sm3 (s.codeBytes w.ctx) } else s

theorem execIsyncInvalidate_eq (s : State) : execIsyncInvalidate s = .next (s.endWait true State.isyncEffect) := rfl

/-- Only a confidential context changes by an ISYNC, beside the caches. -/
theorem State.isyncEffect_eq (s : State) (w : QWait) : ∃ ctxs, s.isyncEffect w = { s with
    ctxs := ctxs
    home := { s.home with
      tlb := s.home.tlb.filter fun e => e.1 != w.ctx, icache := s.home.icache.filter fun e => e.1 != w.ctx }
    sched := s.sched.forgetCtx w.ctx } := by
  simp only [State.isyncEffect]
  split
  · exact ⟨_, rfl⟩
  · exact ⟨s.ctxs, rfl⟩

theorem Sched.forgetCtx_assay (d : Sched) (ctx : Nat) : ∀ l ∈ (d.forgetCtx ctx).assay, ∀ a ∈ l.2, a.ctx ≠ ctx := by
  intro l hl a ha
  obtain ⟨e, -, rfl⟩ := List.mem_map.mp hl
  simpa using (List.mem_filter.mp ha).2

/-- Settles O57: every kind of record goes through the one reading of a queue's next record. -/
theorem queueRecords : Obligations.QueueRecords := by
  unfold Obligations.QueueRecords
  refine ⟨fun i hi => ?_, fun s s' b hb h hk hd => ⟨fun g hw hy hs => ?_, fun ks hy => ?_⟩, fun s b hb h hk hw ho hd hv hc hs => ?_,
    fun s b hb h hk => ?_, fun s q v hw => ?_, fun s u ctx q addr value seq status irq => ?_, fun i s b hb h hi ho => ?_,
    fun s w rest hw ho => ⟨fun hi => ?_, fun hi => ?_⟩, fun s h => ⟨?_, ?_⟩⟩
  · obtain ⟨kinds, f, e⟩ := exec_takesRecord hi
    refine ⟨fun s h => ?_, fun s h => ?_, fun s ks hb h => ?_⟩
    · rw [e, State.takeRecord_idle (State.nextRecord_none h)]
      rfl
    · rw [e, State.takeRecord_fails h.1 h.2]
      exact ⟨_, rfl, State.recordFails_spec ..⟩
    · rw [e, State.takeRecord_waits hb h]
  · exact execLaunchRecord_grid hb h hk hd hw hy hs
  · exact execLaunchRecord_waits hb h hk hd hy
  · exact execLaunchRecord_rejected hb h hk hd hw ho hv hc hs.1
  · rw [exec_rejectedRecord, execRejectedRecord, act, State.takeRecord_passes hb h (by simpa using hk) rfl]
    rfl
  · exact State.consume_silent hw v
  · refine ⟨?_, fun ha hm => ⟨fun hl hu => ?_, fun hl => ?_⟩⟩
    · rintro rfl
      exact s.completion_nowhere ..
    · rw [State.completion_put _ _ _ _ _ _ _ ha hm]
      exact State.headPut_now (by rwa [length_completionBytes]) hu
    · rw [State.completion_put _ _ _ _ _ _ _ ha hm]
      exact State.headPut_later (by rwa [length_completionBytes])
  · obtain ⟨t, ht, hq⟩ := exec_queuedWait hb h ho hi
    exact ⟨t, _, ht, hq, rfl, rfl, rfl, rfl, rfl, rfl, rfl⟩
  · rw [exec_signalCompletion, execSignalCompletion, act, State.endWait_first hw ho hi]
  · obtain ⟨ctxs, e⟩ := (s.updQueue s.arg.a fun x => { x with waits := rest }).isyncEffect_eq w
    refine ⟨(s.updQueue s.arg.a fun x => { x with waits := rest }).isyncEffect w, ?_, ?_⟩
    · rw [exec_isyncInvalidate, execIsyncInvalidate_eq, State.endWait_first hw ho hi]
    · rw [e]
      refine ⟨rfl, rfl, rfl, fun x hx => ?_, fun x hx => ?_, s.sched.forgetCtx_assay w.ctx⟩
      · simpa using (List.mem_filter.mp hx).2
      · simpa using (List.mem_filter.mp hx).2
  · rw [exec_signalCompletion, execSignalCompletion, act, State.endWait_idle h]
  · rw [exec_isyncInvalidate, execIsyncInvalidate_eq, State.endWait_idle h]
end Sys2Proof.Machine
end

section
/-! SUPPORT. Writes of the headframe and of the foreman while no arrival word is watched: they change memory and what the
homes keep (R54, R60, R147). -/

namespace Sys2Proof.Machine

/-- `t` differs from `s` at most in memory, at the homes and in the assay programs, and watches no arrival word; the writes
that wait are the same. -/
def State.OnlyHomes (s t : State) : Prop :=
  t.home.words = [] ∧ t.home.writes = s.home.writes ∧ ∃ mem home sched, t = { s with mem := mem, home := home, sched := sched }

theorem State.OnlyHomes.refl {s : State} (h : s.home.words = []) : s.OnlyHomes s := ⟨h, rfl, _, _, _, rfl⟩

theorem State.OnlyHomes.trans {s t u : State} (h : s.OnlyHomes t) (k : t.OnlyHomes u) : s.OnlyHomes u := by
  obtain ⟨-, ht, _, _, _, rfl⟩ := h
  obtain ⟨hw, hu, _, _, _, rfl⟩ := k
  exact ⟨hw, hu.trans ht, _, _, _, rfl⟩

/-- Such a state agrees with the old one in whatever does not look at memory or at the homes. -/
theorem State.OnlyHomes.keeps {α : Type} {s t : State} (h : s.OnlyHomes t) (π : State → α)
    (hπ : ∀ mem home sched, π { s with mem := mem, home := home, sched := sched } = π s) : π t = π s := by
  obtain ⟨-, -, mem, home, sched, rfl⟩ := h
  exact hπ mem home sched

theorem State.onlyHomes_foldl {α : Type} {f : State → α → State} (hf : ∀ (t : State) x, t.home.words = [] → t.OnlyHomes (f t x))
    (l : List α) {s : State} (h : s.home.words = []) : s.OnlyHomes (l.foldl f s) :=
  foldl_keeps (P := s.OnlyHomes) (fun t x ht => ht.trans (hf t x ht.1)) l (.refl h)

theorem State.onlyHomes_homeStore {s : State} (h : s.home.words = []) (die k : Nat) (bytes : List Byte) (covers : Bool) :
    s.OnlyHomes (s.homeStore die k bytes covers) := by
  refine ⟨State.homeStore_words h .., ?_, _, _, _, (State.homeStore_frame h die k bytes covers).symm⟩
  unfold State.homeStore
  rw [h]
  rfl

theorem State.onlyHomes_sealedStore {s : State} (h : s.home.words = []) (die ctx owner k : Nat) (bytes : List Byte) (covers : Bool) :
    s.OnlyHomes (s.sealedStore die ctx owner k bytes covers) :=
  State.onlyHomes_foldl (fun _ _ ht => State.onlyHomes_homeStore ht ..) _ h

/-- A write into the code heap (R60). -/
theorem State.onlyHomes_heapWrite {s : State} (h : s.home.words = []) (ctx a : Nat) (b : List Byte) :
    s.OnlyHomes (s.heapWrite ctx a b) := by
  unfold State.heapWrite
  split
  · exact .refl h
  · refine foldl_keeps (P := fun r : State × Nat => s.OnlyHomes r.1) (fun r p hr => ?_) _ (.refl h)
    dsimp only
    split
    · exact hr.trans (State.onlyHomes_homeStore hr.1 ..)
    · exact hr.trans (State.onlyHomes_sealedStore hr.1 ..)
    · exact hr

/-- A write of the headframe into a context's memory (R54). -/
theorem State.onlyHomes_headWrite {s t : State} (h : s.home.words = []) {ctx a : Nat} {b : List Byte}
    (ht : s.headWrite ctx a b = some t) : s.OnlyHomes t := by
  unfold State.headWrite at ht
  split at ht
  · cases ht
  · obtain ⟨r, hr, rfl⟩ := Option.map_eq_some_iff.mp ht
    refine foldl_keeps (P := fun o : Option (State × Nat) => ∀ r, o = some r → s.OnlyHomes r.1) (fun o p ho => ?_) _ ?_ r hr
    · intro r hr
      split at hr
      · cases hr
        exact (ho _ rfl).trans (State.onlyHomes_homeStore (ho _ rfl).1 ..)
      · cases hr
        exact (ho _ rfl).trans (State.onlyHomes_sealedStore (ho _ rfl).1 ..)
      · cases hr
    · rintro _ ⟨⟩
      exact .refl h

end Sys2Proof.Machine
end

section
/-! SUPPORT. The mailbox: a write of MBCMD, and how a command ends (R48). -/

namespace Sys2Proof.Machine

open Sys2Proof.Claims

/-! ## A write of MBCMD -/

/-- A command that has acted in `t` waits for its completion. -/
def State.mbPends (t : State) (v : DWord) (e : MbEnd) : State :=
  t.setHost fun h => { h with mbcmd := v &&& mbcmdBits, mbPending := some ⟨v.extractLsb' 48 16, e.err, e.reply, e.destroy⟩ }

theorem pends_mbPends (s t : State) (e : MbEnd) : Pends s (t.mbPends s.arg.v e) e.err e.reply e.destroy := ⟨rfl, rfl⟩

/-- Where every state with `P` only comes to wait for the completion with an ERR, the command has no other effect. -/
theorem errs_of_mbPends {i : Instr} {P : State → Prop} {k : Nat} (h : ∀ s, P s → exec i s = .next (s.mbPends s.arg.v { err := k })) :
    Errs i P k := fun s hp => ⟨_, h s hp, pends_mbPends s s { err := k }, rfl⟩

section command
variable {s : State} {op least : Nat} {named : List (Nat × Nat)} {f : State → List Byte → State × MbEnd}

theorem State.mbCommand_busy (ho : (s.arg.v.extractLsb' 0 16).toNat = op) (hp : s.host.mbPending.isSome = true) :
    s.mbCommand op least named f = s.canary 0 8 0x0B 0 0 := by
  simp [State.mbCommand, State.mbBusy, State.mbRefused, ho, hp]

/-- The bytes of the request. -/
def State.mbRequest (s : State) : List Byte := s.mbBytes.take (s.arg.v.extractLsb' 32 9).toNat

/-- A command whose LEN is out of range ends with ERR 2. -/
theorem State.mbCommand_length (ho : (s.arg.v.extractLsb' 0 16).toNat = op) (hp : s.host.mbPending = none)
    (hl : (s.arg.v.extractLsb' 32 9).toNat < least ∨ 256 < (s.arg.v.extractLsb' 32 9).toNat) :
    s.mbCommand op least named f = s.mbPends s.arg.v { err := 2 } := by
  have hb : (decide (256 < (s.arg.v.extractLsb' 32 9).toNat) || decide ((s.arg.v.extractLsb' 32 9).toNat < least)) = true := by
    simp only [Bool.or_eq_true, decide_eq_true_iff]
    exact hl.symm
  simp only [State.mbCommand, State.mbBusy, ho, hp, hb, Bool.true_or, bne_self_eq_false, Option.isSome_none,
    Bool.false_eq_true, if_false, if_true]
  rfl

/-- A command that is asked as R48 wants it runs on the bytes of its request. -/
theorem State.mbCommand_runs (h : Asked s op least named) : s.mbCommand op least named f =
    (if (f s s.mbRequest).2.err = 0 then (f s s.mbRequest).1 else s).mbPends s.arg.v
      { (f s s.mbRequest).2 with reply := if (f s s.mbRequest).2.err = 0 then (f s s.mbRequest).2.reply else [] } := by
  obtain ⟨ho, hp, hl, hm, hn⟩ := h
  have hb : (decide (256 < (s.arg.v.extractLsb' 32 9).toNat) || decide ((s.arg.v.extractLsb' 32 9).toNat < least) ||
      !onlyNamed (s.mbBytes.take (s.arg.v.extractLsb' 32 9).toNat) named) = false := by
    rw [decide_eq_false (Nat.not_lt.mpr hl), decide_eq_false (Nat.not_lt.mpr hm), hn]
    rfl
  simp only [State.mbCommand, State.mbBusy, ho, hp, hb, bne_self_eq_false, Option.isSome_none, Bool.false_eq_true, if_false]
  rfl

theorem State.mbCommand_acts (h : Asked s op least named) {u : State} {e : MbEnd} (hf : f s s.mbRequest = (u, e))
    (he : e.err = 0) : s.mbCommand op least named f = u.mbPends s.arg.v e := by
  rw [State.mbCommand_runs h, hf]
  dsimp only
  rw [if_pos he, if_pos he]

theorem State.mbCommand_errs (h : Asked s op least named) {k : Nat} (hf : f s s.mbRequest = mbErr k s) (hk : k ≠ 0) :
    s.mbCommand op least named f = s.mbPends s.arg.v { err := k } := by
  rw [State.mbCommand_runs h, hf]
  exact congrArg₂ (State.mbPends · s.arg.v ·) (if_neg hk) (congrArg (MbEnd.mk k · none) (if_neg hk))

end command

/-- The commands of R49 with their OP and least LEN. -/
theorem exec_mailbox {x : Instr × Nat × Nat}
    (hx : x ∈ ([(.createContext, 1, 72), (.destroyContext, 2, 2), (.bindQueue, 3, 16), (.attestationReport, 4, 34),
      (.readDumpDescriptor, 5, 8), (.firmwareUpdate, 6, 16), (.reclaimCodeHeap, 7, 2)] : List (Instr × Nat × Nat))) :
    ∃ named f, ∀ s, exec x.1 s = .next (s.mbCommand x.2.1 x.2.2 named f) := by
  simp only [List.mem_cons, List.not_mem_nil, or_false] at hx
  rcases hx with rfl | rfl | rfl | rfl | rfl | rfl | rfl <;> exact ⟨_, _, fun _ => rfl⟩

/-! ## Fields of a request, and of a reply -/

theorem leNat_lt : ∀ b : List Byte, leNat b < 256 ^ b.length
  | [] => by simp [leNat]
  | x :: b => by
    have := leNat_lt b
    have hx : x.toNat < 256 := x.isLt
    simp only [leNat, List.length_cons, Nat.pow_succ]
    omega

theorem fieldAt_lt (b : List Byte) (o n : Nat) : fieldAt b o n < 256 ^ n :=
  (leNat_lt _).trans_le (Nat.pow_le_pow_right (by omega) (List.length_take_le ..))

theorem field_lt (s : State) (o n : Nat) : field s o n < 256 ^ n := fieldAt_lt ..

theorem toNat_ofNat_field (s : State) (o : Nat) : (BitVec.ofNat 64 (field s o 8)).toNat = field s o 8 :=
  (BitVec.toNat_ofNat ..).trans (Nat.mod_eq_of_lt (field_lt s o 8))

theorem field_eq (s : State) (o n : Nat) : field s o n = fieldAt s.mbRequest o n := rfl

/-! ## CREATE_CONTEXT -/

/-- The values of a request with which CREATE_CONTEXT ends with ERR 2 (R49). -/
def State.createBad (s : State) : Bool :=
  let f := field s
  let flags := f 48 2
  f 0 8 % 4096 != 0 || s.memTop < f 0 8 + 4096 || f 8 8 % 0x10000 != 0 || f 16 8 % 0x10000 != 0 || f 16 8 = 0 ||
    f 32 8 % 64 != 0 || 8 ≤ flags || flags / 2 % 4 == 3 ||
    (if flags / 2 % 4 != 0 then f 56 8 % 0x10000 != 0 || !rpSizeOk (f 64 8) else f 56 8 != 0 || f 64 8 != 0) ||
    !s.heapMapped (f 0 8) (flags % 2 == 1) (f 8 8) (f 16 8)

/-- The context that CREATE_CONTEXT makes of a request (R49). -/
def State.newCtx (s : State) : Ctx :=
  let f := field s
  { ctxNone with
    ptroot := f 0 8, heapBase := BitVec.ofNat 64 (f 8 8), heapSize := f 16 8
    waitLim := if f 24 8 = 0 then 2 ^ 32 else f 24 8
    waPool := BitVec.ofNat 64 (f 32 8), waSize := f 40 8, cflags := BitVec.ofNat 16 (f 48 2)
    rpBase := BitVec.ofNat 64 (f 56 8), rpSize := f 64 8, heapNext := f 8 8 }

theorem rpSizeOk_iff {n : Nat} : rpSizeOk n = true ↔ ∃ k, 16 ≤ k ∧ k ≤ 30 ∧ n = 2 ^ k := by
  simp only [rpSizeOk, List.any_eq_true, List.mem_range, beq_iff_eq]
  constructor
  · rintro ⟨i, hi, rfl⟩
    exact ⟨16 + i, by omega, by omega, rfl⟩
  · rintro ⟨k, h1, h2, rfl⟩
    exact ⟨k - 16, by omega, by rw [show 16 + (k - 16) = k by omega]⟩

section create
variable {s : State} (ha : Asked s 1 72 [(0, 50), (56, 16)])
include ha

theorem execCreateContext_bad (hb : s.createBad = true) : exec .createContext s = .next (s.mbPends s.arg.v { err := 2 }) := by
  rw [exec_createContext, execCreateContext, act, State.mbCommand_errs ha (if_pos hb) (by decide)]

theorem execCreateContext_full (hb : s.createBad = false) (hf : s.freeCtx = none) :
    exec .createContext s = .next (s.mbPends s.arg.v { err := 3 }) := by
  rw [exec_createContext, execCreateContext, act, State.mbCommand_errs ha (k := 3) ?_ (by decide)]
  exact (if_neg (ne_true_of_eq_false hb)).trans (by rw [hf])

theorem execCreateContext_creates (hb : s.createBad = false) {c : Nat} (hf : s.freeCtx = some c) :
    exec .createContext s = .next
      (State.mbPends { s with ctxs := tset s.ctxs c s.newCtx } s.arg.v { err := 0, reply := leBytes 8 c }) := by
  rw [exec_createContext, execCreateContext, act, State.mbCommand_acts ha
    (u := { s with ctxs := tset s.ctxs c s.newCtx }) (e := { err := 0, reply := leBytes 8 c }) ?_ rfl]
  exact (if_neg (ne_true_of_eq_false hb)).trans (by rw [hf]; rfl)

end create

theorem State.createBad_flags {s : State} (h : 6 ≤ field s 48 2) : s.createBad = true := by
  have : 8 ≤ field s 48 2 ∨ field s 48 2 / 2 % 4 = 3 := by omega
  rcases this with h | h <;> simp [State.createBad, h]

/-- A request that R49 accepts. -/
theorem State.createBad_good {s : State} (hroot : field s 0 8 % 4096 = 0) (htop : field s 0 8 + 4096 ≤ s.memTop)
    (hbase : field s 8 8 % 0x10000 = 0) (hsize : field s 16 8 % 0x10000 = 0) (hsize0 : field s 16 8 ≠ 0)
    (hpool : field s 32 8 % 64 = 0) (hfl : field s 48 2 < 6) (hplain : field s 48 2 < 2 → field s 56 8 = 0 ∧ field s 64 8 = 0)
    (hlogs : 2 ≤ field s 48 2 → field s 56 8 % 0x10000 = 0 ∧ ∃ k, 16 ≤ k ∧ k ≤ 30 ∧ field s 64 8 = 2 ^ k)
    (hmap : s.heapMapped (field s 0 8) (field s 48 2 % 2 == 1) (field s 8 8) (field s 16 8) = true) : s.createBad = false := by
  have h3 : (field s 48 2 / 2 % 4 == 3) = false := beq_eq_false_iff_ne.mpr (by omega)
  have hlog : (if field s 48 2 / 2 % 4 != 0 then field s 56 8 % 0x10000 != 0 || !rpSizeOk (field s 64 8)
      else field s 56 8 != 0 || field s 64 8 != 0) = false := by
    by_cases hl : 2 ≤ field s 48 2
    · obtain ⟨hb, hk⟩ := hlogs hl
      rw [if_pos (bne_iff_ne.mpr (by omega)), hb, rpSizeOk_iff.mpr hk]
      rfl
    · obtain ⟨hb, hk⟩ := hplain (by omega)
      rw [if_neg (by simp only [bne_iff_ne]; omega), hb, hk]
      rfl
  simp only [State.createBad, hroot, hbase, hsize, hpool, h3, hlog, hmap, decide_eq_false (Nat.not_lt.mpr htop),
    decide_eq_false hsize0, decide_eq_false (show ¬8 ≤ field s 48 2 by omega)]
  rfl

theorem State.newCtx_spec (s : State) : s.newCtx.heapBase.toNat = field s 8 8 ∧ s.newCtx.waPool.toNat = field s 32 8 ∧
    s.newCtx.cflags.toNat = field s 48 2 ∧ s.newCtx.rpBase.toNat = field s 56 8 := by
  have h2 : (BitVec.ofNat 16 (field s 48 2)).toNat = field s 48 2 :=
    (BitVec.toNat_ofNat ..).trans (Nat.mod_eq_of_lt (field_lt s 48 2))
  exact ⟨toNat_ofNat_field s 8, toNat_ofNat_field s 32, h2, toNat_ofNat_field s 56⟩

/-! ## DESTROY_CONTEXT and BIND_QUEUE -/

/-- Every queue of a context is unbound (R48). -/
def Queue.unbind (c : Nat) (x : Queue) : Queue :=
  if x.ctx = c then { x with en := false, next := x.prod, ctx := 0, prev := .none, waits := [] } else x

theorem execDestroyContext_idle {s : State} (ha : Asked s 2 2 [(0, 2)]) (hc : (tfind s.ctxs (field s 0 2)).isSome = true)
    (hg : ∀ g ∈ s.grids, g.2.ctx ≠ field s 0 2) : exec .destroyContext s = .next
      ((s.setHost fun h => { h with queues := tmap h.queues fun _ => Queue.unbind (field s 0 2) }).mbPends s.arg.v
        { err := 0, destroy := some (field s 0 2) }) := by
  have hnone : s.grids.filter (fun g => g.2.ctx == field s 0 2) = [] :=
    List.filter_eq_nil_iff.mpr fun g hm => by simp [hg g hm]
  rw [exec_destroyContext, execDestroyContext, act, State.mbCommand_acts ha
    (u := s.setHost fun h => { h with queues := tmap h.queues fun _ => Queue.unbind (field s 0 2) })
    (e := { err := 0, destroy := some (field s 0 2) }) ?_ rfl]
  simp only [← field_eq, Option.isNone_eq_false_iff.mpr hc, Bool.false_eq_true, if_false, State.setHost_grids, hnone,
    List.foldl_nil, beq_iff_eq]
  rfl

section bind
variable {s : State} (hq : field s 0 2 < 256)
  (hc : field s 2 2 = 0 ∨ (tfind s.ctxs (field s 2 2)).isSome = true) (hw : field s 8 8 % 8 = 0)
  (hr : field s 8 8 / 2 ^ 56 = 0 ∨ field s 8 8 / 2 ^ 56 = 255)
include hq hc hw hr

/-- What BIND_QUEUE asks of its request. -/
theorem bindQueue_valid : (decide (256 ≤ field s 0 2) || field s 2 2 != 0 && (tfind s.ctxs (field s 2 2)).isNone ||
    field s 8 8 % 8 != 0 || field s 8 8 / 2 ^ 56 != 0 && field s 8 8 / 2 ^ 56 != 255) = false := by
  have h1 : (field s 2 2 != 0 && (tfind s.ctxs (field s 2 2)).isNone) = false := by
    rcases hc with h | h
    · rw [h]; rfl
    · rw [Option.isNone_eq_false_iff.mpr h, Bool.and_false]
  have h2 : (field s 8 8 / 2 ^ 56 != 0 && field s 8 8 / 2 ^ 56 != 255) = false := by
    rcases hr with h | h <;> rw [h] <;> rfl
  rw [decide_eq_false (Nat.not_le.mpr hq), h1, hw, h2]
  rfl

variable (ha : Asked s 3 16 [(0, 4), (8, 8)])
include ha

theorem execBindQueue_enabled (he : (s.queue (field s 0 2)).en = true) :
    exec .bindQueue s = .next (s.mbPends s.arg.v { err := 4 }) := by
  rw [exec_bindQueue, execBindQueue, act, State.mbCommand_errs ha (k := 4) ?_ (by decide)]
  exact (if_neg (ne_true_of_eq_false (bindQueue_valid hq hc hw hr))).trans (if_pos he)

theorem execBindQueue_binds (he : (s.queue (field s 0 2)).en = false) : exec .bindQueue s = .next
    ((s.updQueue (field s 0 2) fun x => { x with ctx := field s 2 2, wb := BitVec.ofNat 64 (field s 8 8), prev := .none }).mbPends
      s.arg.v { err := 0 }) := by
  rw [exec_bindQueue, execBindQueue, act, State.mbCommand_acts ha
    (u := s.updQueue (field s 0 2) fun x => { x with ctx := field s 2 2, wb := BitVec.ofNat 64 (field s 8 8), prev := .none })
    (e := { err := 0 }) ?_ rfl]
  exact (if_neg (ne_true_of_eq_false (bindQueue_valid hq hc hw hr))).trans (if_neg (ne_true_of_eq_false he))

end bind

end Sys2Proof.Machine
end

section
/-! SUPPORT. The commands of the mailbox that report, stage firmware or reset the code heap, and the end of a command (R48,
R49, R60, R66, R190). -/

namespace Sys2Proof.Machine

open Sys2Proof.Claims

/-! ## ATTESTATION_REPORT -/

/-- What the report signs (R66). -/
def State.reportBody (s : State) (x : Ctx) : List Byte :=
  leBytes 32 s.firmwareDigest.toNat ++ leBytes 8 s.mod.modcap.toNat ++ leBytes 8 s.mod.twcfg.toNat ++
    leBytes 32 (if x.conf then x.digest.toNat else 0) ++ s.mbBytes.take 32

theorem execAttestationReport_reports {s : State} (ha : Asked s 4 34 [(0, 34)]) {x : Ctx}
    (hx : tfind s.ctxs (field s 32 2) = some x) : exec .attestationReport s = .next (s.mbPends s.arg.v
      { err := 0, reply := s.reportBody x ++ leBytes 64 (Config.sm2Sign (s.reportBody x)).toNat }) := by
  have hb : s.mbRequest.take 32 = s.mbBytes.take 32 := by
    obtain ⟨-, -, hl, -⟩ := ha
    rw [State.mbRequest, List.take_take, Nat.min_eq_left (by omega)]
  rw [exec_attestationReport, execAttestationReport, act, State.mbCommand_acts ha (u := s)
    (e := { err := 0, reply := s.reportBody x ++ leBytes 64 (Config.sm2Sign (s.reportBody x)).toNat }) ?_ rfl]
  simp only [← field_eq, hx, hb]
  rfl

/-! ## READ_DUMP_DESCRIPTOR -/

/-- The dump's descriptor (R190, R208). -/
def State.dumpHead (s : State) (x : Ctx) : List Byte :=
  leBytes 8 s.mod.dtick.toNat ++ leBytes 8 s.mod.image.dumpBase ++ leBytes 8 s.mod.dbytes ++
    leBytes 4 x.logged ++ leBytes 4 (x.logged - x.log.length) ++ leBytes 4 s.mod.dflags.toNat ++ leBytes 28 0

/-- Up to three records from number `first` on (R190). -/
def Ctx.recordsFrom (x : Ctx) (first : Nat) : List Byte :=
  (if x.logged ≤ first then [] else (x.log.drop (first - (x.logged - x.log.length))).take 3).flatMap FaultRec.bytes

theorem execReadDumpDescriptor_reads {s : State} (ha : Asked s 5 8 [(0, 2), (4, 4)]) {x : Ctx}
    (hx : tfind s.ctxs (field s 0 2) = some x) : exec .readDumpDescriptor s = .next (s.mbPends s.arg.v
      { err := 0, reply := s.dumpHead x ++ x.recordsFrom (field s 4 4) }) := by
  rw [exec_readDumpDescriptor, execReadDumpDescriptor, act, State.mbCommand_acts ha (u := s)
    (e := { err := 0, reply := s.dumpHead x ++ x.recordsFrom (field s 4 4) }) ?_ rfl]
  simp only [← field_eq, hx]
  rfl

theorem State.length_dumpHead (s : State) (x : Ctx) : (s.dumpHead x).length = 64 := by
  simp [State.dumpHead, length_leBytes]

/-- The field at the beginning of a reply. -/
theorem fieldAt_leBytes (n v : Nat) (r : List Byte) : fieldAt (leBytes n v ++ r) 0 n = v % 256 ^ n := by
  rw [fieldAt, List.drop_zero, List.take_left' (length_leBytes n v), leNat_leBytes]

/-- A field behind another one. -/
theorem fieldAt_leBytes_skip {m o : Nat} (h : m ≤ o) (v : Nat) (r : List Byte) (n : Nat) :
    fieldAt (leBytes m v ++ r) o n = fieldAt r (o - m) n := by
  rw [fieldAt, List.drop_append, List.drop_of_length_le (by rwa [length_leBytes]), length_leBytes, List.nil_append, fieldAt]

theorem State.dumpHead_fields (s : State) (x : Ctx) (r : List Byte) :
    fieldAt (s.dumpHead x ++ r) 0 8 = s.mod.dtick.toNat ∧ fieldAt (s.dumpHead x ++ r) 24 4 = x.logged % 2 ^ 32 ∧
      fieldAt (s.dumpHead x ++ r) 28 4 = (x.logged - x.log.length) % 2 ^ 32 ∧
      fieldAt (s.dumpHead x ++ r) 32 4 = s.mod.dflags.toNat ∧ fieldAt (s.dumpHead x ++ r) 36 28 = 0 := by
  have hd : s.mod.dtick.toNat % 256 ^ 8 = s.mod.dtick.toNat := Nat.mod_eq_of_lt s.mod.dtick.isLt
  have hf : s.mod.dflags.toNat % 256 ^ 4 = s.mod.dflags.toNat := Nat.mod_eq_of_lt s.mod.dflags.isLt
  simp only [State.dumpHead]
  refine ⟨Eq.trans ?_ hd, ?_, ?_, Eq.trans ?_ hf, Eq.trans ?_ (Nat.zero_mod (256 ^ 28))⟩ <;>
    simp (disch := omega) only [List.append_assoc, fieldAt_leBytes_skip, Nat.reduceSub, Nat.sub_self, fieldAt_leBytes,
      Nat.reducePow]

/-! ## FIRMWARE_UPDATE -/

section firmware
variable {s : State} (hp : field s 0 8 % 0x10000 = 0) (ht : field s 0 8 + field s 8 8 ≤ s.memTop)
include hp ht

theorem firmwareUpdate_valid : (field s 0 8 % 0x10000 != 0 || decide (s.memTop < field s 0 8 + field s 8 8)) = false := by
  rw [hp, decide_eq_false (Nat.not_lt.mpr ht)]
  rfl

variable (ha : Asked s 6 16 [(0, 16)])
include ha

theorem execFirmwareUpdate_stages {v : BitVec 32} (hv : Config.sm2Verify (mread s.mem (field s 0 8) (field s 8 8)) = some v) :
    exec .firmwareUpdate s = .next ((s.setMod fun m => { m with staged := some (mread s.mem (field s 0 8) (field s 8 8)) }).mbPends
      s.arg.v { err := 0, reply := leBytes 4 v.toNat }) := by
  rw [exec_firmwareUpdate, execFirmwareUpdate, act, State.mbCommand_acts ha
    (u := s.setMod fun m => { m with staged := some (mread s.mem (field s 0 8) (field s 8 8)) })
    (e := { err := 0, reply := leBytes 4 v.toNat }) ?_ rfl]
  exact (if_neg (ne_true_of_eq_false (firmwareUpdate_valid hp ht))).trans (by simp only [← field_eq, hv])

theorem execFirmwareUpdate_refuses (hv : Config.sm2Verify (mread s.mem (field s 0 8) (field s 8 8)) = none) :
    exec .firmwareUpdate s = .next (s.mbPends s.arg.v { err := 4 }) := by
  rw [exec_firmwareUpdate, execFirmwareUpdate, act, State.mbCommand_errs ha (k := 4) ?_ (by decide)]
  exact (if_neg (ne_true_of_eq_false (firmwareUpdate_valid hp ht))).trans (by simp only [← field_eq, hv])

end firmware

/-! ## RECLAIM_CODE_HEAP -/

section reclaim
variable {s : State} (ha : Asked s 7 2 [(0, 2)]) {x : Ctx} (hx : tfind s.ctxs (field s 0 2) = some x)
include ha hx

theorem execReclaimCodeHeap_refuses (hg : s.gangsLeft (field s 0 2) = true) :
    exec .reclaimCodeHeap s = .next (s.mbPends s.arg.v { err := 4 }) := by
  rw [exec_reclaimCodeHeap, execReclaimCodeHeap, act, State.mbCommand_errs ha (k := 4) ?_ (by decide)]
  simp only [← field_eq, hx, hg, if_true]

/-- Every stub is a trampoline again (R60). -/
def Ctx.reclaimed (x : Ctx) : Ctx := { x with
  stubs := tmap x.stubs fun _ e => { e with staged := none, committed := false }
  heapNext := x.stubs.foldl (fun n e => max n (e.1 + 32)) x.heapBase.toNat }

theorem execReclaimCodeHeap_reclaims (hw : s.home.words = []) (hg : s.gangsLeft (field s 0 2) = false) :
    ∃ u : State, exec .reclaimCodeHeap s = .next (u.mbPends s.arg.v { err := 0 }) ∧ tfind u.ctxs (field s 0 2) = some x.reclaimed := by
  let t := x.stubs.foldl (fun t e =>
    t.heapWrite (field s 0 2) e.1 (clauseBytes (Config.vorxusTrampoline (BitVec.ofNat 64 e.1)))) s
  have ht : s.OnlyHomes t := State.onlyHomes_foldl (fun _ _ h => State.onlyHomes_heapWrite h ..) _ hw
  refine ⟨(t.setHome fun h => { h with icache := h.icache.filter fun e => !(e.1 == field s 0 2 && x.inHeap e.2.1 4) }).updCtx
    (field s 0 2) Ctx.reclaimed, ?_, ?_⟩
  · rw [exec_reclaimCodeHeap, execReclaimCodeHeap, act, State.mbCommand_acts ha (e := { err := 0 }) ?_ rfl]
    simp only [← field_eq, hx, hg, Bool.false_eq_true, if_false]
    rfl
  · rw [State.updCtx_ctxs, tfind_tmod_same, State.setHome_ctxs, ht.keeps State.ctxs fun _ _ _ => rfl, hx]
    rfl

end reclaim

theorem Ctx.reclaimed_stubs (x : Ctx) : x.reclaimed.stubs.length = x.stubs.length ∧
    ∀ e ∈ x.reclaimed.stubs, e.2.committed = false ∧ e.2.staged = none := by
  refine ⟨List.length_map .., fun e he => ?_⟩
  obtain ⟨y, -, rfl⟩ := List.mem_map.mp he
  exact ⟨rfl, rfl⟩

/-! ## An OP that is no command -/

theorem execUnknownOp_errs {s : State} (hp : s.host.mbPending = none) (hl : (s.arg.v.extractLsb' 32 9).toNat ≤ 256)
    (ho : (s.arg.v.extractLsb' 0 16).toNat = 0 ∨ 7 < (s.arg.v.extractLsb' 0 16).toNat) :
    exec .unknownOp s = .next (s.mbPends s.arg.v { err := 1 }) := by
  have hop : (decide (1 ≤ (s.arg.v.extractLsb' 0 16).toNat) && decide ((s.arg.v.extractLsb' 0 16).toNat ≤ 7)) = false := by
    rw [Bool.and_eq_false_iff, decide_eq_false_iff_not, decide_eq_false_iff_not]
    omega
  simp only [exec_unknownOp, execUnknownOp, act, State.mbBusy, hp, hop, if_neg (Nat.not_lt.mpr hl), Option.isSome_none,
    Bool.false_eq_true, if_false]
  rfl

/-! ## The end of a command -/

/-- Bytes set one after the other in a table, from index `a` on, where `p` lets them. -/
theorem tget_foldl_zipIdx (p : Nat → Bool) (a : Nat) (l : List Byte) : ∀ (n : Nat) (t : Tab Byte) (i : Nat), p i = true →
    tget ((l.zipIdx n).foldl (fun t x => if p (a + x.2) then tset t (a + x.2) x.1 else t) t) i 0 =
      if a + n ≤ i ∧ i < a + n + l.length then l.getD (i - (a + n)) 0 else tget t i 0 := by
  induction l with
  | nil =>
    intro n t i _
    rw [if_neg (by simp only [List.length_nil]; omega)]
    rfl
  | cons b l ih =>
    intro n t i hi
    rw [List.zipIdx_cons, List.foldl_cons, ih (n + 1) _ i hi, List.length_cons]
    by_cases h : i = a + n
    · subst h
      rw [if_neg (by omega), if_pos hi, tget_tset_same, if_pos (by omega), Nat.sub_self]
      rfl
    · have hset : tget (if p (a + n) then tset t (a + n) b else t) i 0 = tget t i 0 := by
        split
        · exact tget_tset_other _ _ _ _ _ (Ne.symm h)
        · rfl
      rw [hset]
      by_cases hr : a + (n + 1) ≤ i ∧ i < a + (n + 1) + l.length
      · rw [if_pos hr, if_pos (by omega), show i - (a + n) = i - (a + (n + 1)) + 1 by omega]
        rfl
      · rw [if_neg hr, if_neg (by omega)]

/-- MBSTAT as a command leaves it: SEQ, the reply's length, ERR (R48). -/
def MbPending.stat (m : MbPending) : DWord :=
  BitVec.ofNat 64 (m.seq.toNat * 2 ^ 48 + m.reply.length * 2 ^ 32 + m.err * 2 ^ 16)

/-- MBSTAT and MBDATA tell how a command ended, and its vector is raised (R48). -/
def State.mbDone (s : State) (stat : DWord) (reply : List Byte) : State :=
  (s.setHost fun h => { h with
    mbstat := stat, mbdata := (reply.zipIdx).foldl (fun t x => tset t x.2 x.1) h.mbdata, mbPending := none }).raise 0

section done
variable (s : State) (stat : DWord) (reply : List Byte)

@[simp] theorem State.mbDone_ctxs : (s.mbDone stat reply).ctxs = s.ctxs := rfl
@[simp] theorem State.mbDone_mbPending : (s.mbDone stat reply).host.mbPending = none := rfl
@[simp] theorem State.mbDone_mbstat : (s.mbDone stat reply).host.mbstat = stat := rfl
@[simp] theorem State.mbDone_msix : (s.mbDone stat reply).host.msix = 0 :: s.host.msix := rfl

theorem State.mbDone_mbdata {i : Nat} (hi : i < reply.length) :
    tget (s.mbDone stat reply).host.mbdata i 0 = reply.getD i 0 := by
  have h := tget_foldl_zipIdx (fun _ => true) 0 reply 0 s.host.mbdata i rfl
  simp only [Nat.zero_add, if_true, Nat.zero_le, true_and, if_pos hi, Nat.sub_zero] at h
  exact h

end done

/-- MBDATA with bytes written from offset `a` on. -/
def mbdataPut (a : Nat) (bytes : List Byte) (t : Tab Byte) : Tab Byte :=
  (bytes.zipIdx).foldl (fun t x => if a + x.2 < 256 then tset t (a + x.2) x.1 else t) t

theorem execMailboxDataWrite_puts {s : State} (h : s.host.mbPending = none) : exec .mailboxDataWrite s = .next
    (s.setHost fun h => { h with mbdata := mbdataPut s.arg.a s.arg.bytes h.mbdata }) := by
  simp only [exec_mailboxDataWrite, execMailboxDataWrite, act, State.mbBusy, h, Option.isSome_none, Bool.false_eq_true, if_false]
  rfl

theorem mbdataPut_get (a : Nat) (bytes : List Byte) (t : Tab Byte) {i : Nat} (hi : i < 256) :
    tget (mbdataPut a bytes t) i 0 = if a ≤ i ∧ i < a + bytes.length then bytes.getD (i - a) 0 else tget t i 0 := by
  have h := tget_foldl_zipIdx (fun j => decide (j < 256)) a bytes 0 t i (decide_eq_true hi)
  simp only [decide_eq_true_eq, Nat.add_zero] at h
  exact h

section complete
variable {s : State} {m : MbPending} (hm : s.host.mbPending = some m)
include hm

/-- The command can finish (R48). -/
theorem State.mbReady_iff : s.mbReady = true ↔
    ∀ c, m.destroy = some c → s.gangsLeft c = false ∧ ∀ o ∈ s.host.headOut, o.ctx ≠ c := by
  cases hd : m.destroy <;> simp [State.mbReady, hm, hd]

theorem execMailboxCommandComplete_waits (h : s.mbReady = false) : exec .mailboxCommandComplete s = .next s := by
  simp only [exec_mailboxCommandComplete, execMailboxCommandComplete, act, hm, h]
  rfl

theorem execMailboxCommandComplete_ends (h : s.mbReady = true) :
    exec .mailboxCommandComplete s = .next ((m.destroy.elim s s.removeCtx).mbDone m.stat m.reply) := by
  simp only [exec_mailboxCommandComplete, execMailboxCommandComplete, act, hm, h]
  cases m.destroy <;> rfl

end complete

theorem State.removeCtx_spec (s : State) (c : Nat) : tfind (s.removeCtx c).ctxs c = none ∧
    (s.removeCtx c).host.msix = s.host.msix :=
  ⟨(tfind_tdel s.ctxs c c).trans (if_pos rfl), rfl⟩

/-- Settles O55: each command acts on its request as the mailbox lets it, and the completion tells how it ended. -/
theorem mailboxCommands : Obligations.MailboxCommands := by
  unfold Obligations.MailboxCommands
  refine ⟨fun x hx => ?lengths, ⟨?creates, ?full, ?flags⟩, ?destroy, ?binds, ?enabled, ?report, ?dump, ?firmware, ?reclaim, ?unknown,
    ?ends, ?dataBusy, ?dataWrite⟩
  case lengths =>
    obtain ⟨named, f, e⟩ := exec_mailbox hx
    refine ⟨fun s h => ?_, errs_of_mbPends fun s h => ?_⟩
    · rw [e, State.mbCommand_busy h.1 h.2]
    · rw [e, State.mbCommand_length h.1 h.2.1 h.2.2]
  case creates =>
    rintro s c ⟨ha, hroot, htop, hbase, hsize, hsize0, hpool, hfl, hplain, hlogs, hmap⟩ hf
    have hb := State.createBad_good hroot htop hbase hsize hsize0 hpool hfl hplain hlogs hmap
    obtain ⟨hheap, hwa, hflags, hrp⟩ := s.newCtx_spec
    exact ⟨_, s.newCtx, execCreateContext_creates ha hb hf, pends_mbPends s _ _, rfl, rfl, hheap, rfl, rfl, hwa, rfl, hflags, hrp,
      rfl, rfl, rfl, rfl, rfl⟩
  case full =>
    refine errs_of_mbPends ?_
    rintro s ⟨⟨ha, hroot, htop, hbase, hsize, hsize0, hpool, hfl, hplain, hlogs, hmap⟩, hf⟩
    exact execCreateContext_full ha (State.createBad_good hroot htop hbase hsize hsize0 hpool hfl hplain hlogs hmap) hf
  case flags => exact errs_of_mbPends fun s h => execCreateContext_bad h.1 (State.createBad_flags h.2)
  case destroy =>
    rintro s ⟨ha, hc, hg⟩
    refine ⟨_, execDestroyContext_idle ha hc hg, pends_mbPends s _ _, rfl, fun q x hx => ?_⟩
    exact (tfind_tmap s.host.queues (fun _ => Queue.unbind (field s 0 2)) q).trans (congrArg (Option.map _) hx)
  case binds =>
    rintro s ⟨ha, hq, hc, hw, hr, he⟩
    refine ⟨_, execBindQueue_binds hq hc hw hr ha he, pends_mbPends s _ _, ?_⟩
    have h := s.queue_updQueue (field s 0 2) fun x =>
      { x with ctx := field s 2 2, wb := BitVec.ofNat 64 (field s 8 8), prev := .none }
    exact ⟨(congrArg Queue.ctx h :), (congrArg (·.wb.toNat) h :).trans (toNat_ofNat_field s 8), (congrArg Queue.cons h :)⟩
  case enabled =>
    refine errs_of_mbPends ?_
    rintro s ⟨ha, hq, hc, hw, he⟩
    exact execBindQueue_enabled hq (.inl hc) (by rw [hw]) (.inl (by rw [hw, Nat.zero_div])) ha he
  case report => exact fun s x ha hx => ⟨_, execAttestationReport_reports ha hx, pends_mbPends s s _, rfl, rfl⟩
  case dump =>
    intro s x ha hx
    obtain ⟨htick, hlogged, hlost, hflags, hzero⟩ := s.dumpHead_fields x (x.recordsFrom (field s 4 4))
    refine ⟨_, _, execReadDumpDescriptor_reads ha hx, pends_mbPends s s _, htick, hlogged, hlost, hflags, hzero, ?_⟩
    rw [List.drop_left' (s.length_dumpHead x), Ctx.recordsFrom]
    split <;> rfl
  case firmware =>
    intro s ha hp ht
    cases hv : Config.sm2Verify (mread s.mem (field s 0 8) (field s 8 8)) with
    | some v => exact ⟨_, execFirmwareUpdate_stages hp ht ha hv, rfl, pends_mbPends s _ _, rfl⟩
    | none => exact ⟨_, execFirmwareUpdate_refuses hp ht ha hv, rfl, pends_mbPends s _ _, rfl⟩
  case reclaim =>
    refine fun s x ha hx hw => ⟨fun hg => ?_, fun hg => ⟨_, execReclaimCodeHeap_refuses ha hx hg, pends_mbPends s s _⟩⟩
    obtain ⟨u, e, hu⟩ := execReclaimCodeHeap_reclaims ha hx hw hg
    exact ⟨_, x.reclaimed, e, pends_mbPends s u _, hu, x.reclaimed_stubs⟩
  case unknown => exact errs_of_mbPends fun s h => execUnknownOp_errs h.1 h.2.1 h.2.2
  case ends =>
    refine fun s m hm => ⟨fun h => ?_, fun c hc h => execMailboxCommandComplete_waits hm ?_⟩
    · have hr : s.mbReady = true := (State.mbReady_iff hm).mpr fun c hc => by
        obtain h | ⟨d, hd, h⟩ := h
        · rw [h] at hc; cases hc
        · rw [hd] at hc; cases hc; exact h
      refine ⟨_, execMailboxCommandComplete_ends hm hr, State.mbDone_mbPending .., ?_, State.mbDone_mbstat ..,
        fun i hi => State.mbDone_mbdata _ _ _ hi, fun c hc => ?_⟩
      · rw [State.mbDone_msix]
        cases m.destroy <;> rfl
      · rw [State.mbDone_ctxs, hc]
        exact (s.removeCtx_spec c).1
    · refine Bool.eq_false_iff.mpr fun hr => ?_
      obtain ⟨hg, ho⟩ := (State.mbReady_iff hm).mp hr c hc
      obtain h | ⟨o, hm, hx⟩ := h
      · rw [hg] at h; cases h
      · exact ho o hm hx
  case dataBusy =>
    intro s h
    simp only [exec_mailboxDataWrite, execMailboxDataWrite, act, State.mbBusy, h, if_true]
    rfl
  case dataWrite =>
    exact fun s h => ⟨_, execMailboxDataWrite_puts h, rfl, fun i hi => mbdataPut_get s.arg.a s.arg.bytes s.host.mbdata hi⟩

end Sys2Proof.Machine
end

section
/-! SUPPORT. A translation commits while the strand that waits at its stub is inside a capsule (R60, R344). -/

namespace Sys2Proof.Machine

/-- A holder of the capsule record at 0x1000, TOKEN 5. -/
def stubCaps : Caps :=
  { record := 0x1000, loc := 0x1000, reply := 0x2000, exit := 0x20000, adopter := false, token := 5, steps := 0, icount := 0
    wcount := 0, held := [], htoken := 5, replying := false, savedC := [], savedPc := 0, savedClause := none }

/-- The record as the holder's trap at the stub leaves it: STATE 2 with its token, the step's begin as NEXTPC. -/
def stubRecord : CapsRec :=
  { state := 2, token := 5, icount := 0, wcount := 0, step := 0, nextpc := 0x10008, reply := 0x2000, htoken := 5
    ck := List.replicate 8 0 }

/-- The holder has called the stub, and waits there for the translation of its function. -/
def stubHolder : Strand := { fetchStrand [] with
  pc := 0x40, clause := none, block := .translate 0x40, caps := some stubCaps }

/-- A stub whose code is staged. -/
def stagedStub : Stub := { body := 0, len := 0, regions := 0, name := 0, staged := some 0x80, committed := false }

/-- The holder waits at the stub, whose code is about to be committed. -/
def stubCommit : State :=
  { State.reset.withFetchWord 32 0 with
    mem := mwrite [] 0x1000 stubRecord.bytes
    ctxs := [(1, { ctxNone with stubs := [(0x40, stagedStub)] })]
    strands := [(0, stubHolder)]
    arg := { State.reset.arg with a := 1, b := 0x40 } }

/-- After the commit the holder has reclaimed its record, and goes on where its step begins (R344). -/
theorem stubCommit_restarts_step : ∃ t, exec .translationCommit stubCommit = .next t ∧
    (tfind t.strands 0).map Strand.pc = some 0x10008 := ⟨_, rfl, by decide⟩

/-- Refutes O59: a translation that commits lets the strand at its stub go on where it stands only outside a capsule; one
that holds an open capsule restarts its step at NEXTPC (R344). -/
theorem not_faultsAreResolved : ¬ Obligations.FaultsAreResolved := by
  unfold Obligations.FaultsAreResolved
  rintro ⟨-, -, -, -, -, -, -, -, -, -, -, -, -, -, -, -, vorxus, -⟩
  obtain ⟨-, -, -, commits, -⟩ := vorxus stubCommit stagedStub [] (by decide)
  obtain ⟨t, ht, -, goOn⟩ := commits 0x80 rfl rfl rfl
  obtain ⟨t', ht', hpc⟩ := stubCommit_restarts_step
  obtain rfl : t' = t := Host.Outcome.next.inj (ht'.symm.trans ht)
  rw [(goOn 0 stubHolder rfl).1 ⟨rfl, by decide⟩, Option.map_some] at hpc
  exact absurd hpc (by decide)

end Sys2Proof.Machine
end

section
/-! SUPPORT. A branch that diverges where the strand table lists the key of the strand twice (R70, R115). -/

namespace Sys2Proof.Machine

/-- A strand of 32 lanes whose VBR on k1 stands at 0x10004; its first four lanes take the branch. -/
def branching : Strand := { fetchStrand (encode (.vbr 1 1 4)) with masks := [(1, 0xF)] }

/-- A split strand of another workgroup. -/
def splitElsewhere : Strand := { branching with wg := 1, split := true }

/-- The VBR of the strand of key 0 is in progress, and 32 more entries of the table have that key. -/
def sharedKey : State :=
  let s := State.reset.withFetchWord 32 0
  { s with
    cur := some ⟨0, 0x10004, 0⟩
    strands := (0, branching) :: List.replicate 32 (0, splitElsewhere)
    home := { s.home with icache := [(1, 0x10014, 0xF0000000)] } }

/-- The split writes every entry of key 0, so the 32 become split strands of the branch's workgroup and leave it no slot: the
lanes that do not branch wait in a DEFER entry, and no strand is new. -/
theorem sharedKey_places_no_child : ∃ t, exec (.vbr 1 1 4) sharedKey = .next t ∧ tfind t.strands sharedKey.next = none :=
  ⟨_, rfl, by decide⟩

/-- Its lanes have two outcomes, the branch that lane 0 takes first. -/
theorem sharedKey_outcomes :
    ((lanesOf 0xFFFFFFFF).map fun j => if (branching.kmask (1 : BitVec 3).toNat).getLsbD j then 1 else 0).eraseDups = [1, 0] := by
  decide

/-- The branch may split in two: its workgroup has no split strand yet. -/
theorem sharedKey_maySplit : Claims.MaySplit sharedKey ⟨0, 0x10004, 0⟩ branching 2 :=
  ⟨by decide, by decide, rfl, rfl, by decide, by decide⟩

/-- Refutes O39: it asks no unique keys of the strand table. Where 32 more entries have the strand's key, the workgroup has no
split strand before the split, and no slot once the split has written them. -/
theorem not_branchDivergence : ¬ Obligations.BranchDivergence := by
  unfold Obligations.BranchDivergence
  rintro ⟨branches, -⟩
  have splits := ((branches 1 1 4).1 sharedKey ⟨0, 0x10004, 0⟩ branching (by decide)).1 0 0xFFFFFFFF rfl
  rw [sharedKey_outcomes] at splits
  have target_good : (sharedKey.begun ⟨0, 0x10004, 0⟩).awaitTargets ⟨0, 0x10004, 0⟩ (sharedKey.at_ branching) [0x10014] = none ∧
      (sharedKey.begun ⟨0, 0x10004, 0⟩).badTarget 0 (sharedKey.at_ branching) 0x10014 = false := by decide
  obtain ⟨t, ht, p, -, -, all, -, parts⟩ := (splits (by decide) ⟨target_good.1, by simpa using target_good.2⟩).2 sharedKey_maySplit
  obtain ⟨t', ht', hnone⟩ := sharedKey_places_no_child
  obtain rfl : t' = t := Host.Outcome.next.inj (ht'.symm.trans ht)
  have hp : p + 1 = 2 := all (by decide)
  obtain ⟨_, _, _, a, -, ha, -⟩ := parts 1 (by omega)
  exact absurd (hnone.symm.trans ha) (by simp)

end Sys2Proof.Machine
end

section
/-! SUPPORT. A step issues what the fetched words at the program counter decode to (R80, R81, R203, R219, R220). -/

namespace Sys2Proof.Machine

/-- Where no word ahead names a mask, the words at the PC are the instruction (R216). -/
theorem Clause.find_plain {k : Clause} {pc : DWord} {i : Instr} (hp : prefixOf ((k.wordsFrom pc).headD 0) = none)
    (hd : decodeWords (k.wordsFrom pc) = some i) : k.find pc = .instr i pc 0 := by
  simp only [Clause.find, hp, hd]

/-- The word ahead of an instruction names its mask (R220). -/
theorem Clause.find_prefixed {k : Clause} {pc : DWord} {i : Instr} {p : BitVec 3}
    (hp : prefixOf ((k.wordsFrom pc).headD 0) = some p) (ht : takesPrefix (((k.wordsFrom pc).drop 1).headD 0) = true)
    (hd : decodeWords ((k.wordsFrom pc).drop 1) = some i) : k.find pc = .instr i (pc + 4) p := by
  have hne : (k.wordsFrom pc).drop 1 ≠ [] := fun h => by rw [h] at hd; cases hd
  simp only [Clause.find, hp, hd, ht, List.isEmpty_eq_false_iff.mpr hne, Bool.not_true, Bool.or_false, Bool.false_eq_true, if_false]

/-- Outside record and replay mode nothing is noted of an instruction that has issued (R203). -/
theorem State.runInstr_unchunked {s : State} {c : Issue} {st : Strand} {i : Instr} (hc : s.cur = some c)
    (hs : tfind s.strands c.uid = some st) (hk : (s.ctxOf (s.ctxNo st)).chunked = false) : s.runInstr i = exec i s := by
  have noted : ∀ t, s.noteChunk t i = t := fun t => by simp [State.noteChunk, hc, hs, hk]
  cases h : exec i s <;> simp [State.runInstr, h, noted]

section picked

variable {s : State} {u : Nat} {r : List Nat} {st : Strand} {k : Clause} {i : Instr}

/-- With no operation of another agent waiting, a module in service runs what the pipe finds for the first picked strand
(R81). -/
theorem step_picked {t : State} (he : s.events = []) (hh : s.halted = false) (hb : s.mod.booted = true) (hq : s.issueQ = u :: r)
    (hp : State.pick { s with issueQ := r } u = .run i t) : step s = t.runInstr i := by
  rw [he] at hp
  simp only [step, State.takeEvent, he, hh, hb, hq, hp, Bool.false_eq_true, Bool.not_true, if_false]

/-- A picked strand that is eligible, and has no fault to report at a wait, launches the instruction at its PC (R190). -/
theorem State.pick_launches {pc : DWord} {m : BitVec 3} (hs : tfind s.strands u = some st) (hel : s.eligible u st = true)
    (hcl : st.clause = some k) (ha : k.started = true ∨ st.async.any k.covers = false) (hf : k.find st.pc = .instr i pc m) :
    s.pick u = s.launchIssue u st i pc m := by
  have quiet : (!k.started && st.async.any k.covers) = false := by
    obtain h | h := ha <;> simp [h]
  simp only [State.pick, hs, hel, hcl, quiet, hf, Bool.not_true, Bool.false_eq_true, if_false]

/-- The step of a picked strand whose PC holds `i` under mask `m`: outside record and replay mode the instruction acts; in
them it acts in its core's chunk, unless it closes a chunk that counts instructions already (R203). -/
theorem step_runs {pc : DWord} {m : BitVec 3} (he : s.events = []) (hh : s.halted = false) (hb : s.mod.booted = true)
    (hq : s.issueQ = u :: r) (hs : tfind s.strands u = some st) (hel : s.eligible u st = true) (hcl : st.clause = some k)
    (ha : k.started = true ∨ st.async.any k.covers = false) (hf : k.find st.pc = .instr i pc m) :
    ((s.ctxOf (s.ctxNo st)).chunked = false → step s = exec i { s with issueQ := r, cur := some ⟨u, pc, m⟩ }) ∧
    ((s.ctxOf (s.ctxNo st)).chunked = true →
      (i.closesChunk = false ∨ (s.chunkOf st.core (s.ctxNo st)).all (fun k => k.count == 0) = true) →
      step s = State.runInstr i (State.openChunk { s with issueQ := r, cur := some ⟨u, pc, m⟩ } st.core (s.ctxNo st))) := by
  have launch : State.pick { s with issueQ := r } u = State.launchIssue { s with issueQ := r } u st i pc m :=
    State.pick_launches hs hel hcl ha hf
  refine ⟨fun hk => ?_, fun hk hclose => ?_⟩
  · have hl : State.launchIssue { s with issueQ := r } u st i pc m = .run i { s with issueQ := r, cur := some ⟨u, pc, m⟩ } :=
      if_pos (show (!(s.ctxOf (s.ctxNo st)).chunked) = true by simp [hk])
    rw [step_picked he hh hb hq (launch.trans hl)]
    exact State.runInstr_unchunked rfl hs hk
  · have shares : (i.closesChunk && (s.chunkOf st.core (s.ctxNo st)).any fun c => c.count != 0) = false := by
      obtain h | h := hclose
      · simp [h]
      · cases hc : s.chunkOf st.core (s.ctxNo st) <;> simp_all
    have hl : State.launchIssue { s with issueQ := r } u st i pc m =
        .run i (State.openChunk { s with issueQ := r, cur := some ⟨u, pc, m⟩ } st.core (s.ctxNo st)) :=
      (if_neg (show ¬(!(s.ctxOf (s.ctxNo st)).chunked) = true by simp [hk])).trans
        (if_neg (show ¬(i.closesChunk && (s.chunkOf st.core (s.ctxNo st)).any fun c => c.count != 0) = true by simp [shares]))
    exact step_picked he hh hb hq (launch.trans hl)

end picked

/-- Settles O4: the words at the PC are found in the fetched clause, and the picked strand launches them. -/
theorem stepRunsTheDecodedInstruction : Obligations.StepRunsTheDecodedInstruction := by
  unfold Obligations.StepRunsTheDecodedInstruction
  intro s u r st k i he hh hb hq hs hel hcl ha
  exact ⟨fun hp hd => step_runs he hh hb hq hs hel hcl ha (Clause.find_plain hp hd),
    fun p hp ht hd => step_runs he hh hb hq hs hel hcl ha (Clause.find_prefixed hp ht hd)⟩

end Sys2Proof.Machine
end

section
/-! SUPPORT. NOP, YIELD, ROUTE and PART, routed sources, and register blocks (R80, R185, R253 to R256, R278, R279). -/

namespace Sys2Proof.Machine

/-! ## Instructions that change their workgroup too -/

/-- An update of the workgroup and of the strand, followed by the strand's retirement. -/
theorem State.retire_updWg (s : State) (c : Issue) (i : Instr) (k : Nat) (g : Wg → Wg) (f : Strand → Strand) :
    ((((s.begun c).updWg k g).updStrand c.uid f).retire c i).ended = { s.stepped c i f with wgs := tmod s.wgs k g } :=
  congrArg (fun t : State => { t with wgs := tmod s.wgs k g }) (s.retire_begun c i f)

/-- The same where the strand does nothing but retire. -/
theorem State.retire_updWg_only (s : State) (c : Issue) (i : Instr) (k : Nat) (g : Wg → Wg) :
    (((s.begun c).updWg k g).retire c i).ended = { s.stepped c i id with wgs := tmod s.wgs k g } :=
  congrArg (fun t : State => { t with wgs := tmod s.wgs k g }) (s.retire_only c i)

/-! ## NOP, YIELD, ROUTE, PART -/

theorem exec_nop_pass {s : State} {c : Issue} {st : Strand} {code : BitVec 16} (h : s.Issues c st (.nop code) []) :
    exec (.nop code) s = .next (s.stepped c (.nop code) id) := by
  obtain ⟨hc, hs, hg⟩ := h
  rw [exec_nop, execNop, issue_pass hc hs hg, State.retire_only]

/-- YIELD goes on, and its strand is not eligible for the next 16 clocks (R80). -/
theorem exec_yield_pass {s : State} {c : Issue} {st : Strand} (h : s.Issues c st .yield []) :
    exec .yield s = .next
      { s with
        cur := none
        strands := tmod s.strands c.uid fun x =>
          { ((s.at_ x).goTo (c.pc + 4) s.mod.clock) with yieldUntil := s.mod.clock + 17 } } := by
  obtain ⟨hc, hs, hg⟩ := h
  rw [exec_yield, execYield, issue_pass hc hs hg]
  simp only [State.retire, State.updStrand, State.begun, State.ended, tmod_tmod]
  rfl

/-- The value of RSLOT: its kind, its fill and its parameter (R254). -/
theorem rslot_fields (kind : BitVec 2) (fill : BitVec 1) (p : BitVec 6) :
    (kind ++ fill ++ (0 : BitVec 7) ++ p).extractLsb' 14 2 = kind ∧
    (kind ++ fill ++ (0 : BitVec 7) ++ p).getLsbD 13 = fill.getLsbD 0 ∧
    (kind ++ fill ++ (0 : BitVec 7) ++ p).extractLsb' 6 7 = 0 ∧
    (kind ++ fill ++ (0 : BitVec 7) ++ p).extractLsb' 0 6 = p := by
  refine ⟨?_, ?_, ?_, ?_⟩
  · ext i hi
    simp only [BitVec.getElem_extractLsb', BitVec.getLsbD_append, show ¬14 + i < 6 by omega, show ¬14 + i - 6 < 7 by omega,
      show ¬14 + i - 6 - 7 < 1 by omega, if_false, show 14 + i - 6 - 7 - 1 = i by omega, BitVec.getLsbD_eq_getElem hi]
  · simp only [BitVec.getLsbD_append]
    rfl
  · ext i hi
    simp only [BitVec.getElem_extractLsb', BitVec.getLsbD_append, show ¬6 + i < 6 by omega, show 6 + i - 6 < 7 by omega]
    simp
  · ext i hi
    simp only [BitVec.getElem_extractLsb', BitVec.getLsbD_append, show 0 + i < 6 by omega]
    simp [hi]

/-- ROUTE sets the slot's kind, fill and parameter, of its register where it is dynamic (R254). -/
theorem exec_route_pass {s : State} {c : Issue} {st : Strand} {sd : BitVec 6} {slot kind : BitVec 2} {fill dyn : BitVec 1}
    {param : BitVec 6} (h : s.Issues c st (.route sd slot kind fill dyn param) (if dyn = 1 then useS sd else [])) :
    ∃ v : BitVec 16, v.extractLsb' 14 2 = kind ∧ v.getLsbD 13 = fill.getLsbD 0 ∧ v.extractLsb' 6 7 = 0 ∧
      v.extractLsb' 0 6 = (if dyn = 1 then ((st.sreg sd.toNat).extractLsb' 0 5).setWidth 6 else param) ∧
      exec (.route sd slot kind fill dyn param) s = .next (s.stepped c (.route sd slot kind fill dyn param) fun x =>
        { x with route := tset x.route slot.toNat v }) := by
  obtain ⟨hc, hs, hg⟩ := h
  obtain ⟨h1, h2, h3, h4⟩ := rslot_fields kind fill
    (if dyn = 1 then ((st.sreg sd.toNat).extractLsb' 0 5).setWidth 6 else param)
  refine ⟨_, h1, h2, h3, h4, ?_⟩
  rw [exec_route, execRoute, issue_pass hc hs (by simpa [noExcess] using hg), State.retire_begun]
  simp only [beq_iff_eq, State.at_sreg]

theorem exec_part_pass {s : State} {c : Issue} {st : Strand} {tile : BitVec 3} (h : s.Issues c st (.part tile) []) :
    exec (.part tile) s = .next (s.stepped c (.part tile) fun x => { x with tile := tile }) := by
  obtain ⟨hc, hs, hg⟩ := h
  rw [exec_part, execPart, issue_pass hc hs hg, State.retire_begun]

/-! ## Routed sources (R253, R255) -/

section routes

variable {s : State} {st : Strand} {n j : Nat}

/-- Through a slot a lane reads a lane of its own tile, at the place that the slot's kind gives (R255). -/
theorem State.routeLane_eq (s : State) (st : Strand) (n j : Nat) :
    ∃ q < 2 ^ st.tile.toNat, s.routeLane st n j = j - j % 2 ^ st.tile.toNat + q ∧
      ((st.slotReg n).extractLsb' 14 2 = 0 →
        q = (j % 2 ^ st.tile.toNat + ((st.slotReg n).extractLsb' 0 6).toNat) % 2 ^ st.tile.toNat) ∧
      ((st.slotReg n).extractLsb' 14 2 = 1 → q = ((st.slotReg n).extractLsb' 0 6).toNat % 2 ^ st.tile.toNat) ∧
      ((st.slotReg n).extractLsb' 14 2 = 2 →
        q = j % 2 ^ st.tile.toNat ^^^ ((st.slotReg n).extractLsb' 0 6).toNat % 2 ^ st.tile.toNat) ∧
      ((st.slotReg n).extractLsb' 14 2 = 3 →
        q = (s.vreg st ((st.slotReg n).extractLsb' 0 6).toNat j).toNat % 2 ^ st.tile.toNat) := by
  have ht : 0 < 2 ^ st.tile.toNat := Nat.two_pow_pos _
  simp only [State.routeLane, Strand.tileSize]
  generalize (st.slotReg n).extractLsb' 14 2 = kind
  generalize ((st.slotReg n).extractLsb' 0 6).toNat = p
  obtain rfl | rfl | rfl | rfl : kind = 0 ∨ kind = 1 ∨ kind = 2 ∨ kind = 3 := by revert kind; decide
  · exact ⟨_, Nat.mod_lt _ ht, rfl, fun _ => rfl, by simp, by simp, by simp⟩
  · exact ⟨_, Nat.mod_lt _ ht, rfl, by simp, fun _ => rfl, by simp, by simp⟩
  · exact ⟨_, Nat.xor_lt_two_pow (Nat.mod_lt _ ht) (Nat.mod_lt _ ht), rfl, by simp, by simp, fun _ => rfl, by simp⟩
  · exact ⟨_, Nat.mod_lt _ ht, rfl, by simp, by simp, by simp, fun _ => rfl⟩

/-- A slot that no ROUTE has set is the direct route (R253). -/
theorem State.routeLane_unset (h : tfind st.route n = none) : s.routeLane st n j = j := by
  obtain ⟨q, -, hl, h0, -⟩ := s.routeLane_eq st n j
  have hr : st.slotReg n = 0x2000 := by simp [Strand.slotReg, tget, h]
  have hp : ((st.slotReg n).extractLsb' 0 6).toNat = 0 := by rw [hr]; rfl
  rw [hl, h0 (by rw [hr]; rfl), hp, Nat.add_zero, Nat.mod_mod]
  have := Nat.mod_le j (2 ^ st.tile.toNat)
  omega

theorem State.routeLane_tile : s.routeLane st n j / 2 ^ st.tile.toNat = j / 2 ^ st.tile.toNat := by
  obtain ⟨q, hq, hl, -⟩ := s.routeLane_eq st n j
  have hj : j - j % 2 ^ st.tile.toNat = 2 ^ st.tile.toNat * (j / 2 ^ st.tile.toNat) := by
    have := Nat.div_add_mod j (2 ^ st.tile.toNat)
    omega
  rw [hl, hj, Nat.mul_add_div (Nat.two_pow_pos _), Nat.div_eq_of_lt hq, Nat.add_zero]

/-- An indexed slot's index register is one of the registers that the source names (R255). -/
theorem Strand.useSrc_indexed {v : BitVec 6} (hn : n ≠ 0) (hk : (st.slotReg n).extractLsb' 14 2 = 3) :
    st.useSrc v n = [(1, v.toNat), (1, ((st.slotReg n).extractLsb' 0 6).toNat)] := by
  simp [Strand.useSrc, useV, hn, hk]

theorem Strand.useSrc_plain {v : BitVec 6} (h : n = 0 ∨ (st.slotReg n).extractLsb' 14 2 ≠ 3) :
    st.useSrc v n = [(1, v.toNat)] := by
  have direct : (n != 0 && (st.slotReg n).extractLsb' 14 2 == 3) = false := by
    obtain h | h := h
    · simp [h]
    · rw [beq_eq_false_iff_ne.mpr h, Bool.and_false]
  rw [Strand.useSrc, direct]
  rfl

end routes

/-! ## Register blocks (R185, R278, R279) -/

section blocks

variable {s : State} {c : Issue} {st : Strand}

/-- What holds of some strand of a workgroup is not touched by the issue of a strand that keeps it. -/
theorem State.begun_strandsOf_any (s : State) (c : Issue) (wg : Nat) {p : Strand → Bool} (hp : ∀ x, p (s.at_ x) = p x) :
    ((s.begun c).strandsOf wg).any (fun y => p y.2) = (s.strandsOf wg).any fun y => p y.2 := by
  simp only [State.strandsOf, State.begun, State.updStrand_strands, tmod, List.any_filter, List.any_map]
  congr 1
  funext y
  by_cases hy : y.1 = c.uid
  · simp only [Function.comp_apply, hy, if_true]
    exact congrArg (y.2.wg == wg && ·) (hp y.2)
  · simp [hy]

theorem State.begun_freeBlocks (s : State) (c : Issue) (core : Nat) : (s.begun c).freeBlocks core = s.freeBlocks core := by
  have h := fun wg k => s.begun_strandsOf_any c wg (p := fun y => y.isLane && y.warp == k && !y.parkedOut) fun _ => rfl
  simp only [State.freeBlocks, State.usedBlocks, h]
  rfl

/-- ACQ beyond ACQMAX is class 0x04, AUX code 3 (R185). -/
theorem exec_acq_excess {sd : BitVec 6} {wait : BitVec 1} {m : BitVec 4} (h : s.Issues c st (.acq sd wait m) (useS sd))
    (hm : (s.gridAt st).hdr.acqmax < m.toNat) :
    exec (.acq sd wait m) s =
      .next (s.takeTrap c.uid { cls := 0x04, addr := BitVec.ofNat 64 (0x300 + m.toNat), pc := some c.pc }).ended := by
  obtain ⟨hc, hs, hg⟩ := h
  have hg' : s.gate c st (.acq sd wait m) (useS sd) (acqExcess m.toNat s st) = some (0x04, 0x300 + m.toNat) := by
    have names := (gate_none hg).2.2.1
    unfold State.gate at hg ⊢
    split at hg
    · cases hg
    · rename_i legal
      rw [if_neg legal, names, acqExcess, if_pos hm]
      rfl
  rw [exec_acq, execAcq, issue_trap hc hs hg']
  rfl

/-- ACQ within ACQMAX passes the gate. -/
theorem exec_acq_within {sd : BitVec 6} {wait : BitVec 1} {m : BitVec 4} (h : s.Issues c st (.acq sd wait m) (useS sd))
    (hm : m.toNat ≤ (s.gridAt st).hdr.acqmax) :
    s.gate c st (.acq sd wait m) (useS sd) (acqExcess m.toNat s st) = none := by
  rw [acqExcess, if_neg (by omega)]
  exact h.2.2

/-- On a range strand ACQ expands (R278). -/
theorem exec_acq_range {sd : BitVec 6} {wait : BitVec 1} {m : BitVec 4} {lo n : Nat} (h : s.Issues c st (.acq sd wait m) (useS sd))
    (hm : m.toNat ≤ (s.gridAt st).hdr.acqmax) (hk : st.kind = .range lo n) :
    exec (.acq sd wait m) s = .next ((s.begun c).expandStrand c.uid).ended := by
  rw [exec_acq, execAcq, issue_pass h.1 h.2.1 (exec_acq_within h hm)]
  simp only [State.at_kind, hk]

/-- On a lane strand ACQ answers by the blocks held and the blocks free (R278). -/
theorem exec_acq_lane {sd : BitVec 6} {wait : BitVec 1} {m : BitVec 4} {w : Nat} {mask : BitVec 32}
    (h : s.Issues c st (.acq sd wait m) (useS sd)) (hm : m.toNat ≤ (s.gridAt st).hdr.acqmax) (hk : st.kind = .lane w mask) :
    let answers := fun v : Word => s.stepped c (.acq sd wait m) fun x => x.setS sd.toNat v
    exec (.acq sd wait m) s = .next
      (if m.toNat ≤ s.blocks st then answers 0
      else if m.toNat - s.blocks st ≤ s.freeBlocks st.core then
        { answers 0 with
          wgs := tmod s.wgs st.wg fun g => { g with warps := tmod g.warps w fun x =>
            { blocks := m.toNat, regs := x.regs.filter fun r => r.1 / 256 < x.blocks } } }
      else if wait == 0 then answers 1
      else ((s.begun c).wait c (.acq m.toNat sd s.mod.tick.toNat)).ended) := by
  have blocks : (s.begun c).blocks (s.at_ st) = s.blocks st := rfl
  have free : (s.begun c).freeBlocks (s.at_ st).core = s.freeBlocks st.core := s.begun_freeBlocks c st.core
  have warp : (s.at_ st).warp = w := by
    show st.warp = w
    simp [Strand.warp, hk]
  rw [exec_acq, execAcq, issue_pass h.1 h.2.1 (exec_acq_within h hm)]
  simp only [State.at_kind, hk, blocks, free, warp]
  congr 1
  split
  · exact State.retire_begun ..
  split
  · exact State.retire_updWg ..
  split
  · exact State.retire_begun ..
  · rfl

/-- REL has no effect on a strand that holds no warp (R279). -/
theorem exec_rel_range {m : BitVec 4} (h : s.Issues c st (.rel m) []) (hr : st.isRange = true) :
    exec (.rel m) s = .next (s.stepped c (.rel m) id) := by
  rw [exec_rel, execRel, issue_pass h.1 h.2.1 h.2.2]
  cases hk : st.kind with
  | range lo n =>
    simp only [State.at_kind, hk]
    rw [State.retire_only]
  | lane w mask => simp [Strand.isRange, hk] at hr
  | handler => simp [Strand.isRange, hk] at hr

/-- REL keeps the greater of m and VBLK (R279). -/
theorem exec_rel_lane {m : BitVec 4} {w : Nat} {mask : BitVec 32} (h : s.Issues c st (.rel m) []) (hk : st.kind = .lane w mask) :
    let keep := max m.toNat (s.gridAt st).hdr.vblk
    exec (.rel m) s = .next { s.stepped c (.rel m) id with
      wgs := if keep < s.blocks st then
          tmod s.wgs st.wg fun g => { g with warps := tmod g.warps w fun x =>
            { blocks := keep, regs := x.regs.filter fun r => r.1 / 256 < keep } }
        else s.wgs } := by
  have blocks : (s.begun c).blocks (s.at_ st) = s.blocks st := rfl
  have grid : (s.begun c).gridAt (s.at_ st) = s.gridAt st := rfl
  rw [exec_rel, execRel, issue_pass h.1 h.2.1 h.2.2]
  simp only [State.at_kind, hk, blocks, grid]
  congr 1
  split
  · exact State.retire_updWg_only ..
  · exact State.retire_only ..

end blocks

/-- Settles O42: each instruction past the gate, the four kinds of route, and ACQ by the blocks held and free. -/
theorem routesAndSmallState : Obligations.RoutesAndSmallState := by
  unfold Obligations.RoutesAndSmallState
  refine ⟨fun s c st => ⟨fun _ h => exec_nop_pass h, exec_yield_pass, fun _ _ _ _ _ _ h => exec_route_pass h,
    fun _ h => exec_part_pass h⟩, fun s st act r n j _ _ _ => ?_, fun s c st => ⟨fun sd wait m h => ?_, fun m h => ?_⟩⟩
  case _ =>
    obtain ⟨q, -, hl, h0, h1, h2, h3⟩ := s.routeLane_eq st n j
    refine ⟨rfl, State.routeLane_tile, State.routeLane_unset, fun h => h0 h ▸ hl, fun h => h1 h ▸ hl, fun h => h2 h ▸ hl,
      fun h => h3 h ▸ hl, fun hn ha => ?_, fun hn ha => ?_, fun v => ⟨Strand.useSrc_indexed, Strand.useSrc_plain⟩⟩
    · simp [State.src, hn, ha]
    · simp [State.src, hn, ha]
  case _ =>
    refine ⟨exec_acq_excess h, fun lo n hk hm => exec_acq_range h hm hk, fun w mask hk hm => ?_⟩
    have lane := exec_acq_lane h hm hk
    refine ⟨fun held => ?_, fun short free => ?_, fun short none => ⟨fun hw => ?_, fun hw => ?_⟩⟩ <;> rw [lane]
    · rw [if_pos held]
    · rw [if_neg (by omega), if_pos free]
    · rw [if_neg (by omega), if_neg (by omega), if_pos (by simp [hw])]
    · rw [if_neg (by omega), if_neg (by omega), if_neg (by simp [hw])]
  case _ => exact ⟨exec_rel_range h, fun w mask hk => exec_rel_lane h hk⟩

end Sys2Proof.Machine
end

section
/-! SUPPORT. The ends of strands (R93, R103, R118, R199, R277). -/

namespace Sys2Proof.Machine

/-! ## Tables -/

theorem tdel_tmod {α : Type} (t : Tab α) (k : Nat) (f : α → α) : tdel (tmod t k f) k = tdel t k := by
  induction t with
  | nil => rfl
  | cons e r ih =>
    simp only [tdel, tmod, List.map_cons, List.filter_cons] at ih ⊢
    by_cases h : e.1 = k
    · simpa [h] using ih
    · simpa [h] using ih

theorem mem_of_tfind {α : Type} {t : Tab α} {k : Nat} {v : α} (h : tfind t k = some v) : (k, v) ∈ t := by
  induction t with
  | nil => cases h
  | cons e r ih =>
    obtain ⟨j, w⟩ := e
    simp only [tfind] at h
    split at h
    case isTrue hj =>
      obtain rfl := Option.some.inj h
      exact hj ▸ List.mem_cons_self
    case isFalse => exact List.mem_cons_of_mem _ (ih h)

/-- A workgroup that the table lists, after an update of the table. -/
theorem State.wgOf_of_tmod {s t : State} {k : Nat} {f : Wg → Wg} (ht : t.wgs = tmod s.wgs k f)
    (hk : (tfind s.wgs k).isSome = true) : t.wgOf k = f (s.wgOf k) := by
  obtain ⟨g, hg⟩ := Option.isSome_iff_exists.mp hk
  simp [State.wgOf, tget, ht, tfind_tmod_same, hg]

theorem State.begun_find_other (s : State) (c : Issue) {u : Nat} (h : u ≠ c.uid) :
    tfind (s.begun c).strands u = tfind s.strands u :=
  tfind_tmod_other s.strands c.uid u (fun x => x.issued s.mod.clock s.mod.tick.toNat) h

/-! ## What an exit may set going -/

/-- A strand that has arrived at no barrier and is no target that waits at a VCALLR. -/
abbrev Strand.apart (x : Strand) : Prop := x.arrivals = [] ∧ x.block ≠ .target

/-- No exit of a strand completes a barrier or starts a target: every strand stands apart, and no domain barrier is enabled. -/
def State.Apart (s : State) : Prop := (∀ x ∈ s.strands, x.2.apart) ∧ ∀ d ∈ s.fab.dbar, dbarEn d.2 = false

/-- Where every strand stands apart, no target starts and no barrier completes. -/
theorem State.Apart.settled {s : State} (h : s.Apart) (wg : Nat) : (s.startTargets wg).checkBarriers = s := by
  obtain ⟨strands, domains⟩ := h
  have targets : (s.strandsOf wg).filter (fun x => x.2.block == .target) = [] := by
    rw [List.filter_eq_nil_iff]
    intro x hx
    simpa using (strands x (List.mem_filter.mp hx).1).2
  have arrived : (s.strands.flatMap fun x =>
      x.2.arrivals.filterMap fun a => if a.gen == s.gen a.key then some a.key else none) = [] := by
    rw [List.flatMap_eq_nil_iff]
    intro x hx
    rw [(strands x hx).1]
    rfl
  have enabled : (s.fab.dbar.filter fun d =>
      dbarEn d.2 && s.grids.any fun g => g.2.st == .live && decide (d.1 < g.2.hdr.bargrid)) = [] := by
    rw [List.filter_eq_nil_iff]
    intro d hd
    simp [domains d hd]
  simp only [State.startTargets, targets, List.foldl_nil, State.checkBarriers, arrived, List.eraseDups_nil, State.checkDomain,
    enabled]

theorem State.Apart.begun {s : State} (h : s.Apart) (c : Issue) : (s.begun c).Apart := by
  refine ⟨fun x hx => ?_, h.2⟩
  obtain ⟨y, hy, rfl⟩ := List.mem_map.mp hx
  obtain ⟨ha, hb⟩ := h.1 y hy
  split
  · exact ⟨ha, hb⟩
  · exact ⟨ha, hb⟩

/-! ## Lanes that go on (R118) -/

/-- Entries none of which holds deferred or waiting lanes. -/
abbrev bareStack (l : List DivEntry) : Prop := ∀ d ∈ l, d.kind = 1 → d.maskA = 0 ∧ d.maskB = 0

/-- An exit passes entries without lanes. -/
theorem Strand.afterExit_bare (st : Strand) {p : List DivEntry} (hp : bareStack p) (r : List DivEntry) :
    st.afterExit (p ++ r) = st.afterExit r := by
  induction p with
  | nil => rfl
  | cons e p ih =>
    have rest := ih fun d hd => hp d (List.mem_cons_of_mem _ hd)
    by_cases hk : e.kind = 1
    · obtain ⟨ha, hb⟩ := hp e List.mem_cons_self hk
      simpa only [List.cons_append, Strand.afterExit, hk, ha, hb, bne_self_eq_false, Bool.false_eq_true, if_false] using rest
    · simpa only [List.cons_append, Strand.afterExit, bne_iff_ne.mpr hk, if_true] using rest

/-- Deferred lanes of the topmost entry go on, while those that wait there stay (R118). -/
theorem Strand.afterExit_deferred (st : Strand) {e : DivEntry} {r : List DivEntry} (hk : e.kind = 1) (ha : e.maskA ≠ 0) :
    st.afterExit (e :: r) = some (st.swapIn e r 0 0 none false) := by
  simp only [Strand.afterExit, hk, bne_self_eq_false, Bool.false_eq_true, if_false, bne_iff_ne.mpr ha, if_true]

/-- Without deferred lanes those that wait go on (R118). -/
theorem Strand.afterExit_waiting (st : Strand) {e : DivEntry} {r : List DivEntry} (hk : e.kind = 1) (ha : e.maskA = 0)
    (hb : e.maskB ≠ 0) : st.afterExit (e :: r) = some { st with
      kind := .lane st.warp e.maskB, div := { e with maskB := 0 } :: r, pc := pc48 e.pc, clause := e.clause
      asBarw := e.barw, block := .none, doneLanes := 0, doneCount := 0, ret := e.ret, frames := e.frames } := by
  simp only [Strand.afterExit, hk, ha, bne_self_eq_false, Bool.false_eq_true, if_false, bne_iff_ne.mpr hb, if_true]

/-! ## The exit of a strand's threads (R103, R277) -/

/-- The exited threads of a workgroup after a strand's own (R103). -/
def Strand.exitsInto (st : Strand) (t : Tab (BitVec 32)) : Tab (BitVec 32) :=
  st.lanesByWarp.foldl (fun t x => tset t x.1 (tget t x.1 0 ||| x.2)) t

theorem tget_foldl_or (l : List (Nat × BitVec 32)) (t : Tab (BitVec 32)) (w j : Nat) :
    (tget (l.foldl (fun t x => tset t x.1 (tget t x.1 0 ||| x.2)) t) w 0).getLsbD j =
      ((tget t w 0).getLsbD j || l.any fun x => x.1 == w && x.2.getLsbD j) := by
  induction l generalizing t with
  | nil => simp
  | cons x l ih =>
    rw [List.foldl_cons, ih, tget_tset]
    by_cases h : x.1 = w
    · simp [h, Bool.or_assoc]
    · simp [h, beq_eq_false_iff_ne.mpr h]

theorem Strand.exitsInto_lane {st : Strand} {w : Nat} {m : BitVec 32} (hk : st.kind = .lane w m) (t : Tab (BitVec 32)) :
    tget (st.exitsInto t) w 0 = tget t w 0 ||| m := by
  simp [Strand.exitsInto, Strand.lanesByWarp, hk, tget_tset_same]

/-- The sum of the powers of two that `p` picks among the first `n` has no more than `n` bits. -/
theorem foldl_pow_lt (p : Nat → Bool) (n : Nat) :
    (List.range n).foldl (fun v i => if p i then v + 2 ^ i else v) 0 < 2 ^ n := by
  induction n with
  | zero => simp
  | succ n ih =>
    rw [List.range_succ, List.foldl_concat, Nat.pow_succ]
    split <;> omega

/-- Its bit j is set where `p` picks j. -/
theorem testBit_foldl_pow (p : Nat → Bool) (n j : Nat) :
    ((List.range n).foldl (fun v i => if p i then v + 2 ^ i else v) 0).testBit j = (decide (j < n) && p j) := by
  induction n with
  | zero => simp
  | succ n ih =>
    have small := foldl_pow_lt p n
    rw [List.range_succ, List.foldl_concat]
    generalize (List.range n).foldl (fun v i => if p i then v + 2 ^ i else v) 0 = v at ih small ⊢
    rcases Nat.lt_trichotomy j n with hj | rfl | hj
    · have : (if p n then v + 2 ^ n else v).testBit j = v.testBit j := by
        split
        · rw [Nat.add_comm, Nat.testBit_two_pow_add_gt hj]
        · rfl
      rw [this, ih]
      simp [hj, Nat.lt_succ_of_lt hj]
    · cases hp : p j
      · simp [Nat.testBit_lt_two_pow small]
      · simp [Nat.add_comm v, Nat.testBit_two_pow_add_eq, Nat.testBit_lt_two_pow small]
    · have wide : (if p n then v + 2 ^ n else v) < 2 ^ j := by
        have := Nat.pow_le_pow_right (n := 2) (by omega) (show n + 1 ≤ j from hj)
        rw [Nat.pow_succ] at this
        split <;> omega
      rw [Nat.testBit_lt_two_pow wide]
      simp [show ¬j < n + 1 by omega]

/-- The threads of a range strand, each at its warp and lane (R103). -/
theorem Strand.exitsInto_range {st : Strand} {lo n : Nat} (hk : st.kind = .range lo n) (t : Tab (BitVec 32)) {w j : Nat}
    (hj : j < 32) : (tget (st.exitsInto t) w 0).getLsbD j =
      ((tget t w 0).getLsbD j || decide (lo ≤ 32 * w + j ∧ 32 * w + j < lo + n)) := by
  rw [Strand.exitsInto, tget_foldl_or, Strand.lanesByWarp, hk]
  congr 1
  have bits := fun w => testBit_foldl_pow (fun j => decide (lo ≤ 32 * w + j ∧ 32 * w + j < lo + n)) 32 j
  simp only [decide_eq_true_eq] at bits
  rw [Bool.eq_iff_iff]
  simp only [List.any_map, List.any_eq_true, List.mem_range, Function.comp_apply, Bool.and_eq_true, beq_iff_eq,
    decide_eq_true_eq, BitVec.getLsbD_ofNat, bits, hj, decide_true, true_and]
  constructor
  · rintro ⟨i, -, rfl, h⟩
    exact h
  · intro h
    exact ⟨w - lo / 32, by omega, by omega, by rwa [show lo / 32 + (w - lo / 32) = w by omega]⟩

section exits

variable {s : State} {u : Nat} {st : Strand}

/-- The exit of a strand whose stack holds lanes that go on: they take its place (R118). -/
theorem State.exitThreads_goesOn (h : s.Apart) (hs : tfind s.strands u = some st) (hc : st.caps = none) {x : Strand}
    (hl : st.isLane = true) (hx : st.afterExit st.div = some x) (ha : x.apart) :
    (s.exitThreads u).strands = tmod s.strands u (fun _ => { x with caps := none }) ∧
      (s.exitThreads u).wgs = tmod s.wgs st.wg fun g => { g with exited := st.exitsInto g.exited } := by
  unfold State.exitThreads
  simp only [hs, State.capsMark, hc, hl, if_true, hx]
  rw [State.Apart.settled]
  · exact ⟨rfl, rfl⟩
  · refine ⟨fun y hy => ?_, h.2⟩
    obtain ⟨z, hz, rfl⟩ := List.mem_map.mp hy
    split
    · exact ha
    · exact h.1 z hz

/-- A warp that a workgroup frees changes nothing else of a workgroup (R124). -/
theorem State.dropWarp_eq (s : State) (wg warp : Nat) :
    ∃ f : Wg → Wg, s.dropWarp wg warp = s.updWg wg f ∧ ∀ g, (f g).exited = g.exited := by
  unfold State.dropWarp
  split
  · exact ⟨id, by simp [State.updWg, tmod], fun _ => rfl⟩
  · exact ⟨_, rfl, fun _ => rfl⟩

/-- The exit of a strand without such lanes: it ends (R93). -/
theorem State.exitThreads_ends (h : s.Apart) (hs : tfind s.strands u = some st) (hc : st.caps = none)
    (hn : (if st.isLane then st.afterExit st.div else none) = none) :
    (s.exitThreads u).strands = tdel s.strands u ∧ (s.exitThreads u).mem = s.mem ∧
      ∃ f : Wg → Wg, (s.exitThreads u).wgs = tmod s.wgs st.wg f ∧ ∀ g, (f g).exited = st.exitsInto g.exited := by
  unfold State.exitThreads
  simp only [hs, State.capsMark, hc, hn]
  obtain ⟨f, hf, keeps⟩ := State.dropWarp_eq _ st.wg st.warp
  rw [hf, State.Apart.settled]
  · simp only [State.updWg, State.dropStrand, tmod_tmod]
    exact ⟨trivial, trivial, _, rfl, fun g => keeps _⟩
  · refine ⟨fun y hy => h.1 y (List.mem_filter.mp hy).1, h.2⟩

end exits

section instructions

variable {s : State} {c : Issue} {st : Strand} {i : Instr}

/-- VEXIT and EXIT past the gate are one operation (R277). -/
theorem exec_exit_pass (hi : i = .vexit ∨ i = .exit) (h : s.Issues c st i []) :
    exec i s = .next ((s.begun c).exitThreads c.uid).ended := by
  obtain ⟨hc, hs, hg⟩ := h
  rcases hi with rfl | rfl
  · rw [exec_vexit, execVexit, issue_pass hc hs hg]
  · rw [exec_exit, execExit, issue_pass hc hs hg]

variable (hi : i = .vexit ∨ i = .exit) (h : s.Issues c st i []) (hc : st.caps = none) (ha : s.Apart)
  (hw : (tfind s.wgs st.wg).isSome = true)
include hi h hc ha hw

/-- An exit of a strand without lanes that go on removes it, and its threads have exited (R93, R103). -/
theorem exec_exit_ends (hn : (if (s.at_ st).isLane then (s.at_ st).afterExit (s.at_ st).div else none) = none) :
    ∃ t, exec i s = .next t ∧ tfind t.strands c.uid = none ∧ (∀ u, u ≠ c.uid → tfind t.strands u = tfind s.strands u) ∧
      t.mem = s.mem ∧ (t.wgOf st.wg).exited = st.exitsInto (s.wgOf st.wg).exited := by
  have found : tfind (s.begun c).strands c.uid = some (s.at_ st) := by simp [h.2.1]
  obtain ⟨strands, mem, f, wgs, hf⟩ := State.exitThreads_ends (ha.begun c) found (by simp [State.at_, hc]) hn
  refine ⟨_, exec_exit_pass hi h, ?_, fun u hu => ?_, mem, ?_⟩
  · show tfind (State.exitThreads _ _).strands _ = none
    rw [strands, tfind_tdel, if_pos rfl]
  · show tfind (State.exitThreads _ _).strands _ = _
    rw [strands, tfind_tdel, if_neg hu, State.begun_find_other s c hu]
  · exact (congrArg Wg.exited (State.wgOf_of_tmod wgs hw)).trans (hf _)

/-- An exit of a strand whose stack holds lanes that go on, as `x`: they take its place, and its own have exited (R103, R118). -/
theorem exec_exit_goesOn {x : Strand} (hl : st.isLane = true) (hx : (s.at_ st).afterExit st.div = some x) (hx' : x.apart) :
    ∃ t, exec i s = .next t ∧ tfind t.strands c.uid = some { x with caps := none } ∧
      (t.wgOf st.wg).exited = st.exitsInto (s.wgOf st.wg).exited := by
  have found : tfind (s.begun c).strands c.uid = some (s.at_ st) := by simp [h.2.1]
  obtain ⟨strands, wgs⟩ := State.exitThreads_goesOn (ha.begun c) found (by simp [State.at_, hc]) hl hx hx'
  refine ⟨_, exec_exit_pass hi h, ?_, congrArg Wg.exited (State.wgOf_of_tmod wgs hw)⟩
  show tfind (State.exitThreads _ _).strands _ = _
  rw [strands, tfind_tmod_same, found]
  rfl

end instructions

/-- ERET removes the handler strand (R199). -/
theorem exec_eret_pass {s : State} {c : Issue} {st : Strand} (h : s.Issues c st .eret []) :
    exec .eret s = .next { s with strands := tdel s.strands c.uid, cur := none } := by
  obtain ⟨hc, hs, hg⟩ := h
  rw [exec_eret, execEret, issue_pass hc hs hg]
  simp only [State.handlerReturn, State.begun, State.updStrand, State.ended, tdel_tmod]

/-- Settles O41: an exit marks the strand's threads; the topmost entry with lanes gives the strand to them, and without one the
strand is gone. -/
theorem exitsEndThreads : Obligations.ExitsEndThreads := by
  unfold Obligations.ExitsEndThreads
  refine ⟨fun s c st i w m hi h hk hc hq hd hw => ?_, fun s c st i lo n hi h hk hc hq hd hw => ?_, fun s c st => exec_eret_pass⟩
  case _ =>
    have ha : s.Apart := ⟨hq, hd⟩
    have hl : st.isLane = true := by simp [Strand.isLane, hk]
    have exited := Strand.exitsInto_lane hk (s.wgOf st.wg).exited
    have warp : (s.at_ st).warp = w := show st.warp = w by simp [Strand.warp, hk]
    refine ⟨fun hb => ?_, fun p e r hdiv hp he hlanes => ?_⟩
    · have none_left : (s.at_ st).afterExit st.div = none := by
        rw [← List.append_nil st.div, Strand.afterExit_bare _ hb]
        rfl
      obtain ⟨t, ht, gone, others, mem, wgs⟩ := exec_exit_ends hi h hc ha hw ((if_pos hl).trans none_left)
      exact ⟨t, ht, gone, others, wgs ▸ exited, mem⟩
    · have arrivals : st.arrivals = [] := (hq _ (mem_of_tfind h.2.1)).1
      have stack : (s.at_ st).afterExit st.div = (s.at_ st).afterExit (e :: r) := by rw [hdiv, Strand.afterExit_bare _ hp]
      by_cases hA : e.maskA = 0
      · have hB : e.maskB ≠ 0 := hlanes.resolve_left (absurd hA)
        have next := stack.trans (Strand.afterExit_waiting _ he hA hB)
        obtain ⟨t, ht, found, wgs⟩ := exec_exit_goesOn hi h hc ha hw hl next ⟨arrivals, by simp⟩
        exact ⟨t, _, ht, found, by simp [hA, warp], rfl, rfl, rfl, rfl, fun _ => rfl, fun hA' => absurd hA hA', wgs ▸ exited⟩
      · have next := stack.trans (Strand.afterExit_deferred _ he hA)
        obtain ⟨t, ht, found, wgs⟩ := exec_exit_goesOn hi h hc ha hw hl next ⟨arrivals, by simp [Strand.swapIn]⟩
        refine ⟨t, _, ht, found, ?_, rfl, rfl, rfl, rfl, fun hA' => absurd hA' hA, fun _ => ⟨_, rfl, he, rfl, rfl, ?_⟩, wgs ▸ exited⟩
        · rw [if_pos hA]
          exact congrArg (SKind.lane · e.maskA) warp
        · exact BitVec.or_zero
  case _ =>
    have not_lane : (s.at_ st).isLane = false := show st.isLane = false by simp [Strand.isLane, hk]
    obtain ⟨t, ht, gone, others, mem, wgs⟩ := exec_exit_ends hi h hc ⟨hq, hd⟩ hw (if_neg (by simp [not_lane]))
    exact ⟨t, ht, gone, others, mem, fun w j hj => wgs ▸ Strand.exitsInto_range hk _ hj⟩

end Sys2Proof.Machine
end

section
/-! SUPPORT. Control registers (R200, R349, R350). -/

namespace Sys2Proof.Machine

/-! ## Values (R350) -/

/-- The registers of the fabric: domain barriers, ports and reduction windows (R31, R40, R305). -/
theorem State.csr_fabric (s : State) (st : Strand) {n : Nat} (hn : 0x0C0 ≤ n)
    (h : n ≤ 0x0CF ∨ 0x100 ≤ n ∧ n ≤ 0x13F ∨ 0x200 ≤ n ∧ n ≤ 0x23F ∨ 0x240 ≤ n ∧ n ≤ 0x27F) : s.csr st n =
      if n ≤ 0x0CF then s.dbar (n - 0x0C0) else if n ≤ 0x13F then (s.port (n - 0x100)).stat
      else if n ≤ 0x23F then (s.window (n - 0x200)).base else (s.window (n - 0x240)).ctl := by
  have differs : ∀ k < 0x0C0, (n == k) = false := fun k hk => beq_eq_false_iff_ne.mpr (by omega)
  have beyond : ∀ k < 0x0C0, decide (n ≤ k) = false := fun k hk => decide_eq_false (by omega)
  unfold State.csr
  simp (disch := omega) only [differs, beyond, Bool.and_false, Bool.or_false, Bool.false_eq_true, if_false, Bool.and_eq_true,
    decide_eq_true_eq]
  obtain h | h | h | h := h
  · rw [if_pos ⟨hn, h⟩, if_pos h]
    rfl
  · rw [if_neg (by omega), if_pos h, if_neg (by omega), if_pos h.2]
  · rw [if_neg (by omega), if_neg (by omega), if_pos h, if_neg (by omega), if_neg (by omega), if_pos h.2]
    rfl
  · rw [if_neg (by omega), if_neg (by omega), if_neg (by omega), if_pos h, if_neg (by omega), if_neg (by omega), if_neg (by omega)]
    rfl

theorem State.csr_port (s : State) (st : Strand) {p : Nat} (hp : p < 64) : s.csr st (0x100 + p) = (s.port p).stat := by
  rw [s.csr_fabric st (by omega) (by omega), if_neg (by omega), if_pos (by omega), Nat.add_sub_cancel_left]

theorem State.csr_windowBase (s : State) (st : Strand) {q : Nat} (hq : q < 64) : s.csr st (0x200 + q) = (s.window q).base := by
  rw [s.csr_fabric st (by omega) (by omega), if_neg (by omega), if_neg (by omega), if_pos (by omega), Nat.add_sub_cancel_left]

theorem State.csr_windowCtl (s : State) (st : Strand) {q : Nat} (hq : q < 64) : s.csr st (0x240 + q) = (s.window q).ctl := by
  rw [s.csr_fabric st (by omega) (by omega), if_neg (by omega), if_neg (by omega), if_neg (by omega), Nat.add_sub_cancel_left]

theorem State.csr_dbar (s : State) (st : Strand) {b : Nat} (hb : b < 16) : s.csr st (0x0C0 + b) = s.dbar b := by
  rw [s.csr_fabric st (by omega) (by omega), if_pos (by omega), Nat.add_sub_cancel_left]

/-! ## CSRR (R349) -/

section reads

variable {sd : BitVec 6} {num : BitVec 12} {s : State} {c : Issue} {st : Strand}

/-- A register of the handler traps elsewhere (R350). -/
theorem exec_csrr_refused (h : s.Issues c st (.csrr sd num) (useS sd 2)) (hn : csrHandler num.toNat = true)
    (hh : st.isHandler = false) : exec (.csrr sd num) s = .next (s.trapped c { cls := 0x17, pc := some c.pc }) := by
  obtain ⟨hc, hs, hg⟩ := h
  rw [exec_csrr, execCsrr, issue_pass hc hs hg, if_pos (by
    show (csrHandler num.toNat && !st.isHandler) = true
    simp [hn, hh])]
  rfl

/-- A register of every strand gives its value. -/
theorem exec_csrr_plain (h : s.Issues c st (.csrr sd num) (useS sd 2)) (hn : csrHandler num.toNat = false) :
    exec (.csrr sd num) s =
      .next (s.stepped c (.csrr sd num) fun x => x.setD sd.toNat ((s.begun c).csr (s.at_ st) num.toNat)) := by
  have not_slot : (decide (0x400 ≤ num.toNat) && decide (num.toNat ≤ 0x5FF)) = false := by
    simp only [csrHandler, Bool.or_eq_false_iff, Bool.and_eq_false_iff, decide_eq_false_iff_not] at hn ⊢
    omega
  obtain ⟨hc, hs, hg⟩ := h
  rw [exec_csrr, execCsrr, issue_pass hc hs hg]
  simp only [hn, not_slot, Bool.false_and, Bool.false_eq_true, if_false, State.retire_begun]

/-- A handler's read of SLOTINFO.n gives its value and samples SLOTPC.n (R200). -/
theorem exec_csrr_slot (h : s.Issues c st (.csrr sd num) (useS sd 2)) (hh : st.isHandler = true) (h1 : 0x400 ≤ num.toNat)
    (h2 : num.toNat ≤ 0x5FF) : ∃ t, exec (.csrr sd num) s = .next t ∧
      t.strands = (s.stepped c (.csrr sd num) fun x => x.setD sd.toNat ((s.begun c).csr (s.at_ st) num.toNat)).strands ∧
      tfind (tget t.cores st.core coreReset).slotPc (num.toNat - 0x400) =
        some (st.wg, (s.begun c).slotPcNow (s.at_ st) (num.toNat - 0x400)) := by
  have handler : (s.at_ st).isHandler = true := hh
  obtain ⟨hc, hs, hg⟩ := h
  rw [exec_csrr, execCsrr, issue_pass hc hs hg]
  simp only [handler, h1, h2, Bool.not_true, Bool.and_false, Bool.false_eq_true, if_false, decide_true, Bool.and_true, if_true]
  refine ⟨_, rfl, (congrArg State.strands (s.retire_begun c (.csrr sd num) fun x =>
    x.setD sd.toNat ((s.begun c).csr (s.at_ st) num.toNat)) :), ?_⟩
  show tfind (tget (tset s.cores st.core _) st.core coreReset).slotPc _ = _
  rw [tget_tset_same, tfind_tset, if_pos rfl]
  rfl

end reads

/-! ## CSRW (R349) -/

/-- A strand after a write of a workgroup's flags (R173). -/
def Strand.flagsIn (x : Strand) (wg : Nat) (f : Ev) : Strand := if x.wg == wg then { x with sticky := f } else x

theorem Strand.flagsIn_sticky (x : Strand) (wg : Nat) (f : Ev) : (x.flagsIn wg f).sticky = if x.wg = wg then f else x.sticky := by
  unfold Strand.flagsIn
  by_cases h : x.wg = wg <;> simp [h]

section values

variable (s : State) (c : Issue) (st : Strand) (v : DWord)

theorem State.csrWrite_tile : s.csrWrite c st 0x008 v =
    if v.toNat < 1 || 5 < v.toNat then none else some (s.updStrand c.uid fun x => { x with tile := v.extractLsb' 0 3 }) := rfl

theorem State.csrWrite_mode : s.csrWrite c st 0x009 v =
    if 256 ≤ v.toNat || v.getLsbD 3 then none else some (s.updStrand c.uid fun x => { x with mode := v.extractLsb' 0 8 }) := rfl

theorem State.csrWrite_flags : s.csrWrite c st 0x00A v =
    if 128 ≤ v.toNat then none
    else some ({ s with strands := tmap s.strands fun _ x => x.flagsIn st.wg (v.extractLsb' 0 7) }.updWg st.wg fun g => { g with sticky := 0 }) := rfl

theorem State.csrWrite_satctl : s.csrWrite c st 0x00B v =
    if 8 ≤ v.toNat then none else some (s.updWg st.wg fun g => { g with satctl := v.extractLsb' 0 3 }) := rfl

theorem State.csrWrite_crew : s.csrWrite c st 0x00C v =
    if s.crewBad st v then none else some (s.updWg st.wg fun g => { g with crew := v }) := rfl

theorem State.csrWrite_share : s.csrWrite c st 0x00E v =
    if 4 < v.toNat || (v.toNat == 4 && (s.ctxOf (s.ctxNo st)).conf) then none
    else some (s.setHome fun h => { h with allocs := h.allocs.map fun a =>
      if a.wg == st.wg && a.level.toNat < v.toNat then { a with level := v.extractLsb' 0 3 } else a }) := rfl

theorem State.csrWrite_tmvec : s.csrWrite c st 0x040 v =
    if v.toNat % 4 != 0 then none else some (s.updWg st.wg fun g => { g with tmvec := v }) := rfl

theorem State.csrWrite_trbase : s.csrWrite c st 0x041 v =
    if v.toNat % 4096 != 0 then none else some (s.updWg st.wg fun g => { g with trbase := v }) := rfl

theorem State.csrWrite_trctl : s.csrWrite c st 0x042 v =
    if v.extractLsb' 52 11 != 0 || v.extractLsb' 32 16 != 0 then none
    else some (s.updWg st.wg fun g => { g with trctl := v &&& 0xFFFFFFFF00000000 }) := rfl

theorem State.csrWrite_account : s.csrWrite c st 0x090 v =
    if !st.isHandler || 4 ≤ v.toNat then none
    else some (s.updCore st.core fun x => { x.caughtUp s.mod.clock with
      counting := v.getLsbD 0
      elig := if v.getLsbD 1 then [] else x.elig
      stall := if v.getLsbD 1 then [] else x.stall }) := rfl

/-- A register that no program writes. -/
theorem State.csrWrite_none {n : Nat} (hn : n ∉ [0x008, 0x009, 0x00A, 0x00B, 0x00C, 0x00E, 0x040, 0x041, 0x042, 0x090]) :
    s.csrWrite c st n v = none := by
  simp only [List.mem_cons, not_or, ← beq_eq_false_iff_ne (a := n)] at hn
  simp only [State.csrWrite, hn, Bool.false_eq_true, if_false]

end values

section writes

variable {sa : BitVec 6} {num : BitVec 12} {s : State} {c : Issue} {st : Strand}

/-- A write that the register takes. -/
theorem exec_csrw_takes (h : s.Issues c st (.csrw sa num) (useS sa 2)) {t : State}
    (ht : (s.begun c).csrWrite c (s.at_ st) num.toNat (st.dreg sa.toNat) = some t) :
    exec (.csrw sa num) s = .next (t.retire c (.csrw sa num)).ended := by
  obtain ⟨hc, hs, hg⟩ := h
  rw [exec_csrw, execCsrw, issue_pass hc hs hg, State.at_dreg]
  simp only [ht]

/-- A write that it refuses. -/
theorem exec_csrw_refuses (h : s.Issues c st (.csrw sa num) (useS sa 2))
    (ht : (s.begun c).csrWrite c (s.at_ st) num.toNat (st.dreg sa.toNat) = none) :
    exec (.csrw sa num) s = .next (s.trapped c { cls := 0x17, pc := some c.pc }) := by
  obtain ⟨hc, hs, hg⟩ := h
  rw [exec_csrw, execCsrw, issue_pass hc hs hg, State.at_dreg]
  simp only [ht]
  rfl

/-- A write that changes the strand alone. -/
theorem exec_csrw_strand (h : s.Issues c st (.csrw sa num) (useS sa 2)) {f : Strand → Strand}
    (ht : (s.begun c).csrWrite c (s.at_ st) num.toNat (st.dreg sa.toNat) = some ((s.begun c).updStrand c.uid f)) :
    exec (.csrw sa num) s = .next (s.stepped c (.csrw sa num) f) := by
  rw [exec_csrw_takes h ht, State.retire_begun]

/-- A write that changes the workgroup alone. -/
theorem exec_csrw_wg (h : s.Issues c st (.csrw sa num) (useS sa 2)) {f : Wg → Wg}
    (ht : (s.begun c).csrWrite c (s.at_ st) num.toNat (st.dreg sa.toNat) = some ((s.begun c).updWg st.wg f)) :
    exec (.csrw sa num) s = .next { s.stepped c (.csrw sa num) id with wgs := tmod s.wgs st.wg f } := by
  rw [exec_csrw_takes h ht, State.retire_updWg_only]

/-- TILE takes 1 to 5 (R350). -/
theorem exec_csrw_tile (h : s.Issues c st (.csrw sa 0x008) (useS sa 2)) : let v := st.dreg sa.toNat
    (1 ≤ v.toNat → v.toNat ≤ 5 →
      exec (.csrw sa 0x008) s = .next (s.stepped c (.csrw sa 0x008) fun x => { x with tile := v.extractLsb' 0 3 })) ∧
    (v.toNat = 0 ∨ 5 < v.toNat → exec (.csrw sa 0x008) s = .next (s.trapped c { cls := 0x17, pc := some c.pc })) :=
  ⟨fun h1 h2 => exec_csrw_strand h ((State.csrWrite_tile ..).trans (if_neg (by simp only [Bool.or_eq_true, decide_eq_true_eq]; omega))),
    fun hv => exec_csrw_refuses h ((State.csrWrite_tile ..).trans (if_pos (by simp only [Bool.or_eq_true, decide_eq_true_eq]; omega)))⟩

/-- MODE takes eight bits of which bit 3 is 0 (R168, R350). -/
theorem exec_csrw_mode (h : s.Issues c st (.csrw sa 0x009) (useS sa 2)) : let v := st.dreg sa.toNat
    (v.toNat < 256 → v.getLsbD 3 = false →
      exec (.csrw sa 0x009) s = .next (s.stepped c (.csrw sa 0x009) fun x => { x with mode := v.extractLsb' 0 8 })) ∧
    (256 ≤ v.toNat ∨ v.getLsbD 3 = true → exec (.csrw sa 0x009) s = .next (s.trapped c { cls := 0x17, pc := some c.pc })) :=
  ⟨fun h1 h2 => exec_csrw_strand h ((State.csrWrite_mode ..).trans (if_neg (by simp only [h2, Bool.or_false, decide_eq_true_eq]; omega))),
    fun hv => exec_csrw_refuses h ((State.csrWrite_mode ..).trans (if_pos (by simpa using hv)))⟩

/-- The retirement of a strand keeps the flags of every strand. -/
theorem State.retire_keeps_sticky {t : State} {c : Issue} {i : Instr} {u : Nat} {y : Strand} {f : Ev}
    (h : tfind t.strands u = some y) (hf : y.sticky = f) :
    ∃ z, tfind (t.retire c i).ended.strands u = some z ∧ z.sticky = f := by
  have retired : tfind (t.retire c i).ended.strands u = if u = c.uid then (tfind t.strands u).map _ else tfind t.strands u :=
    tfind_tmod t.strands c.uid u fun x => x.goTo (c.pc + 4 * BitVec.ofNat 64 (1 + i.inlineCount)) t.mod.clock
  rw [retired, h]
  split
  · exact ⟨_, rfl, (Strand.goTo_sticky ..).trans hf⟩
  · exact ⟨_, rfl, hf⟩

/-- FLAGS sets the flags of every strand of the workgroup (R173; log entry 106). -/
theorem exec_csrw_flags (h : s.Issues c st (.csrw sa 0x00A) (useS sa 2)) : let v := st.dreg sa.toNat
    (v.toNat < 128 → ∃ t, exec (.csrw sa 0x00A) s = .next t ∧ t.mem = s.mem ∧
      t.wgs = tmod s.wgs st.wg (fun g => { g with sticky := 0 }) ∧
      ∀ u x, tfind s.strands u = some x → ∃ y, tfind t.strands u = some y ∧
        y.sticky = if x.wg = st.wg then v.extractLsb' 0 7 else x.sticky) ∧
    (128 ≤ v.toNat → exec (.csrw sa 0x00A) s = .next (s.trapped c { cls := 0x17, pc := some c.pc })) := by
  refine ⟨fun hv => ⟨_, exec_csrw_takes h ((State.csrWrite_flags ..).trans (if_neg (by omega))), rfl, rfl, fun u x hx => ?_⟩,
    fun hv => exec_csrw_refuses h ((State.csrWrite_flags ..).trans (if_pos hv))⟩
  have begun_find : ∃ y, tfind (s.begun c).strands u = some y ∧ y.wg = x.wg ∧ y.sticky = x.sticky := by
    by_cases hu : u = c.uid
    · subst hu
      exact ⟨s.at_ x, by rw [State.begun_find, hx]; rfl, rfl, rfl⟩
    · exact ⟨x, (s.begun_find_other c hu).trans hx, rfl, rfl⟩
  obtain ⟨y, hy, hwg, hsticky⟩ := begun_find
  have written : tfind (tmap (s.begun c).strands fun _ z => z.flagsIn st.wg ((st.dreg sa.toNat).extractLsb' 0 7)) u =
      some (y.flagsIn st.wg ((st.dreg sa.toNat).extractLsb' 0 7)) := by
    rw [tfind_tmap, hy]
    rfl
  exact State.retire_keeps_sticky written (by rw [Strand.flagsIn_sticky, hwg, hsticky])

/-- SATCTL takes three bits (R350; log entry 105). -/
theorem exec_csrw_satctl (h : s.Issues c st (.csrw sa 0x00B) (useS sa 2)) : let v := st.dreg sa.toNat
    (v.toNat < 8 → exec (.csrw sa 0x00B) s = .next { s.stepped c (.csrw sa 0x00B) id with
      wgs := tmod s.wgs st.wg fun g => { g with satctl := v.extractLsb' 0 3 } }) ∧
    (8 ≤ v.toNat → exec (.csrw sa 0x00B) s = .next (s.trapped c { cls := 0x17, pc := some c.pc })) :=
  ⟨fun hv => exec_csrw_wg h ((State.csrWrite_satctl ..).trans (if_neg (by omega))),
    fun hv => exec_csrw_refuses h ((State.csrWrite_satctl ..).trans (if_pos hv))⟩

/-- CREW takes the names that CREW itself takes (R316; log entry 105). -/
theorem exec_csrw_crew (h : s.Issues c st (.csrw sa 0x00C) (useS sa 2)) : let v := st.dreg sa.toNat
    (s.crewBad st v = false → exec (.csrw sa 0x00C) s = .next { s.stepped c (.csrw sa 0x00C) id with
      wgs := tmod s.wgs st.wg fun g => { g with crew := v } }) ∧
    (s.crewBad st v = true → exec (.csrw sa 0x00C) s = .next (s.trapped c { cls := 0x17, pc := some c.pc })) :=
  ⟨fun hv => exec_csrw_wg h ((State.csrWrite_crew ..).trans (if_neg (by rw [Bool.not_eq_true]; exact hv))),
    fun hv => exec_csrw_refuses h ((State.csrWrite_crew ..).trans (if_pos hv))⟩

/-- SHARE raises the level of the workgroup's allocations (R144). -/
theorem exec_csrw_share (h : s.Issues c st (.csrw sa 0x00E) (useS sa 2)) : let v := st.dreg sa.toNat
    v.toNat ≤ 3 → ∃ t, exec (.csrw sa 0x00E) s = .next t ∧ t.strands = (s.stepped c (.csrw sa 0x00E) id).strands ∧
      (∀ a ∈ t.home.allocs, a.wg = st.wg → v.toNat ≤ a.level.toNat) ∧ t.home.allocs.map (·.wg) = s.home.allocs.map (·.wg) := by
  intro _ (hv : (st.dreg sa.toNat).toNat ≤ 3)
  refine ⟨_, exec_csrw_takes h ((State.csrWrite_share ..).trans (if_neg ?_)), ?_, ?_, ?_⟩
  · simp only [Bool.or_eq_true, Bool.and_eq_true, decide_eq_true_eq, beq_iff_eq]
    omega
  · exact (congrArg State.strands (s.retire_only c (.csrw sa 0x00E)) :)
  · intro a ha hwg
    obtain ⟨b, -, rfl⟩ := List.mem_map.mp ha
    split
    case isTrue =>
      show (st.dreg sa.toNat).toNat ≤ ((st.dreg sa.toNat).extractLsb' 0 3).toNat
      rw [BitVec.extractLsb'_toNat]
      omega
    case isFalse h' =>
      rw [if_neg h'] at hwg
      have same : b.wg = (s.at_ st).wg := hwg
      simpa [same] using h'
  · show (s.home.allocs.map _).map _ = _
    rw [List.map_map]
    refine List.map_congr_left fun a _ => ?_
    show (if _ then _ else _ : Alloc).wg = _
    split <;> rfl

/-- TMVEC takes a multiple of 4 (R353). -/
theorem exec_csrw_tmvec (h : s.Issues c st (.csrw sa 0x040) (useS sa 2)) : let v := st.dreg sa.toNat
    (v.toNat % 4 = 0 → exec (.csrw sa 0x040) s = .next { s.stepped c (.csrw sa 0x040) id with
      wgs := tmod s.wgs st.wg fun g => { g with tmvec := v } }) ∧
    (v.toNat % 4 ≠ 0 → exec (.csrw sa 0x040) s = .next (s.trapped c { cls := 0x17, pc := some c.pc })) :=
  ⟨fun hv => exec_csrw_wg h ((State.csrWrite_tmvec ..).trans (if_neg (by simpa using hv))),
    fun hv => exec_csrw_refuses h ((State.csrWrite_tmvec ..).trans (if_pos (by simpa using hv)))⟩

/-- TRBASE takes a multiple of 4096 (R201). -/
theorem exec_csrw_trbase (h : s.Issues c st (.csrw sa 0x041) (useS sa 2)) : let v := st.dreg sa.toNat
    (v.toNat % 4096 = 0 → exec (.csrw sa 0x041) s = .next { s.stepped c (.csrw sa 0x041) id with
      wgs := tmod s.wgs st.wg fun g => { g with trbase := v } }) ∧
    (v.toNat % 4096 ≠ 0 → exec (.csrw sa 0x041) s = .next (s.trapped c { cls := 0x17, pc := some c.pc })) :=
  ⟨fun hv => exec_csrw_wg h ((State.csrWrite_trbase ..).trans (if_neg (by simpa using hv))),
    fun hv => exec_csrw_refuses h ((State.csrWrite_trbase ..).trans (if_pos (by simpa using hv)))⟩

/-- TRCTL takes LOGSZ and WRAP, and HEAD reads 0 after it (R201). -/
theorem exec_csrw_trctl (h : s.Issues c st (.csrw sa 0x042) (useS sa 2)) : let v := st.dreg sa.toNat
    (v.extractLsb' 52 11 = 0 → v.extractLsb' 32 16 = 0 → exec (.csrw sa 0x042) s = .next { s.stepped c (.csrw sa 0x042) id with
      wgs := tmod s.wgs st.wg fun g => { g with trctl := v &&& 0xFFFFFFFF00000000 } }) ∧
    (v.extractLsb' 52 11 ≠ 0 ∨ v.extractLsb' 32 16 ≠ 0 →
      exec (.csrw sa 0x042) s = .next (s.trapped c { cls := 0x17, pc := some c.pc })) :=
  ⟨fun h1 h2 => exec_csrw_wg h ((State.csrWrite_trctl ..).trans (if_neg (by simp only [Bool.or_eq_true, bne_iff_ne, h1, h2]; simp))),
    fun hv => exec_csrw_refuses h ((State.csrWrite_trctl ..).trans (if_pos (by simpa only [Bool.or_eq_true, bne_iff_ne] using hv)))⟩

/-- The stall account's control belongs to the handler: bit 0 lets it count, bit 1 clears it (R102). -/
theorem exec_csrw_account (h : s.Issues c st (.csrw sa 0x090) (useS sa 2)) : let v := st.dreg sa.toNat
    (st.isHandler = false ∨ 4 ≤ v.toNat → exec (.csrw sa 0x090) s = .next (s.trapped c { cls := 0x17, pc := some c.pc })) ∧
    (st.isHandler = true → v.toNat < 4 → ∃ t, exec (.csrw sa 0x090) s = .next t ∧
      t.strands = (s.stepped c (.csrw sa 0x090) id).strands ∧ (tget t.cores st.core coreReset).counting = v.getLsbD 0 ∧
      (v.getLsbD 1 = true → (tget t.cores st.core coreReset).elig = [] ∧ (tget t.cores st.core coreReset).stall = [])) := by
  refine ⟨fun hv => exec_csrw_refuses h ((State.csrWrite_account ..).trans (if_pos ?_)),
    fun hh hv => ⟨_, exec_csrw_takes h ((State.csrWrite_account ..).trans (if_neg ?_)), ?_, ?_, ?_⟩⟩
  · simp only [Bool.or_eq_true, Bool.not_eq_true', decide_eq_true_eq]
    exact hv
  · have handler : (s.at_ st).isHandler = true := hh
    simp only [handler, Bool.not_true, Bool.false_or, decide_eq_true_eq]
    omega
  · exact (congrArg State.strands (s.retire_only c (.csrw sa 0x090)) :)
  · show (tget (tset s.cores st.core _) st.core coreReset).counting = _
    rw [tget_tset_same]
  · intro clears
    show (tget (tset s.cores st.core _) st.core coreReset).elig = [] ∧ (tget (tset s.cores st.core _) st.core coreReset).stall = []
    rw [tget_tset_same]
    exact ⟨if_pos clears, if_pos clears⟩

end writes

end Sys2Proof.Machine
end

section
/-! SUPPORT. Writes that wait, and the bytes that a view reads of them (R154, R156); releases and acquires while no write
waits (R152). -/

namespace Sys2Proof.Machine

/-- A miss of a walk that is noted changes nothing else (R137). -/
theorem State.noteMiss_eq (s : State) (die : Nat) (who : Who) (addr : DWord) :
    ∃ m, s.noteMiss die who addr = { s with home := { s.home with misses := m } } := by
  unfold State.noteMiss
  split
  · exact ⟨_, rfl⟩
  · dsimp only
    split
    · exact ⟨_, rfl⟩
    · exact ⟨_, rfl⟩

/-! ## Releases and acquires -/

/-- While no write waits, a release at a barrier or a pool has nothing to wait for (R152). -/
theorem State.releaseSync_of_no_writes {s : State} (h : s.home.writes = []) (st : Strand) (scope : Nat) :
    ∃ e, s.releaseSync st scope = { s with home := { s.home with epoch := e } } := by
  unfold State.releaseSync
  split
  · exact ⟨_, State.applyAll_of_no_writes h _⟩
  · exact ⟨_, rfl⟩

/-- While no write waits, an acquire beyond the die shows the die every applied write (R152, R156). -/
theorem State.acquireAt_of_no_writes {s : State} (h : s.home.writes = []) (st : Strand) {scope : Nat} (hs : 4 ≤ scope) :
    s.acquireAt st scope = s.showAll (dieOf st.core) := by
  simp only [State.acquireAt, h, List.any_nil, Bool.false_eq_true, if_false, hs, if_true]

/-! ## The byte that a read returns -/

/-- A workgroup's grid is the same after an update that keeps it. -/
theorem State.updWg_grid (s : State) (k : Nat) {f : Wg → Wg} (hf : ∀ g, (f g).grid = g.grid) (w : Nat) :
    ((s.updWg k f).wgOf w).grid = (s.wgOf w).grid := by
  simp only [State.wgOf, tget, State.updWg_wgs, tfind_tmod]
  split
  · cases tfind s.wgs w with
    | none => rfl
    | some g => exact hf g
  · rfl

/-- Reads look at a workgroup's grid alone (R203). -/
theorem State.viewByte_updWg (s : State) (k : Nat) {f : Wg → Wg} (hf : ∀ g, (f g).grid = g.grid) (v : View) (a : Nat) :
    (s.updWg k f).viewByte v a = s.viewByte v a := by
  have grid : (s.updWg k f).gridOf ((s.updWg k f).wgOf v.wg).grid = s.gridOf (s.wgOf v.wg).grid :=
    congrArg s.gridOf (s.updWg_grid k hf v.wg)
  unfold State.viewByte
  rw [grid]
  rfl

section writes

variable (s : State) (v : View) {k a : Nat} {bytes : List Byte} (covers : Bool) (grp : Nat)

theorem PWrite.covering_iff {w : PWrite} {k : Nat} : w.covering k = true ↔ w.loc ≤ k ∧ k < w.loc + w.bytes.length := by
  simp [PWrite.covering]

/-- The write that `addWrite` adds. -/
def State.waiting (s : State) (v : View) (k : Nat) (bytes : List Byte) (covers : Bool) (grp : Nat) : PWrite :=
  { die := v.die, core := v.core, wg := v.wg, kind := v.kind, loc := k, bytes := bytes
    epoch := tget s.home.epoch v.die 0, covers := covers, grp := grp }

theorem State.addWrite_writes : (s.addWrite v k bytes covers grp).home.writes =
    s.home.writes ++ [(s.home.nextWrite, s.waiting v k bytes covers grp)] := rfl

/-- A write that waits does not show at other bytes. -/
theorem State.viewByte_addWrite_outside (u : View) (h : a < k ∨ k + bytes.length ≤ a) :
    (s.addWrite v k bytes covers grp).viewByte u a = s.viewByte u a := by
  have away : (s.waiting v k bytes covers grp).covering a = false := by
    rw [Bool.eq_false_iff, ne_eq, PWrite.covering_iff]
    rintro ⟨h1, h2⟩
    change k ≤ a at h1
    change a < k + bytes.length at h2
    omega
  unfold State.viewByte
  simp only [State.addWrite_writes, List.filter_append, List.filter_singleton, away, Bool.false_and, cond_false,
    List.append_nil]
  rfl

/-- The threads that issued a write read it before its home has applied it (R156), but no byte of WAITERS (R147). -/
theorem State.viewByte_addWrite_own (hv : v.kind.shares v.kind = true) (h : k ≤ a) (h' : a < k + bytes.length)
    (hw : s.waitersByte a = false) : (s.addWrite v k bytes covers grp).viewByte v a = bytes.getD (a - k) 0 := by
  have covered : (s.waiting v k bytes covers grp).covering a = true :=
    PWrite.covering_iff.mpr ⟨h, h'⟩
  have words : (s.addWrite v k bytes covers grp).waitersByte a = false := hw
  have mine : (s.waiting v k bytes covers grp).die = v.die ∧ (s.waiting v k bytes covers grp).core = v.core ∧
      (s.waiting v k bytes covers grp).wg = v.wg ∧ (s.waiting v k bytes covers grp).kind = v.kind := ⟨rfl, rfl, rfl, rfl⟩
  unfold State.viewByte
  simp only [State.addWrite_writes, List.filter_append, List.filter_singleton, covered, words, mine, hv, beq_self_eq_true,
    Bool.not_false, Bool.and_true, Bool.or_true, cond_true, List.filter_singleton, List.getLast?_append, List.getLast?_singleton]
  rfl

end writes

end Sys2Proof.Machine
end

section
/-! SUPPORT. Time, the timer, traces, and dependent grids (R98, R99, R201, R348, R352 to R354). -/

namespace Sys2Proof.Machine

section time

variable {s : State} {c : Issue} {st : Strand}

theorem exec_tick_pass {sd : BitVec 6} (h : s.Issues c st (.tick sd) (useS sd 2)) :
    exec (.tick sd) s = .next (s.stepped c (.tick sd) fun x => x.setD sd.toNat s.mod.tick) := by
  obtain ⟨hc, hs, hg⟩ := h
  rw [exec_tick, execTick, issue_pass hc hs hg, State.retire_begun]
  rfl

/-- SLEEP of 0 goes on; of n it waits until the tick has advanced by n (R352). -/
theorem exec_sleep_pass {sa : BitVec 6} (h : s.Issues c st (.sleep sa) (useS sa)) :
    exec (.sleep sa) s = .next (if st.sreg sa.toNat = 0 then s.stepped c (.sleep sa) id
      else ((s.begun c).wait c (.sleep (s.mod.tick.toNat + (st.sreg sa.toNat).toNat))).ended) := by
  obtain ⟨hc, hs, hg⟩ := h
  have zero : (st.sreg sa.toNat).toNat = 0 ↔ st.sreg sa.toNat = 0 :=
    (BitVec.toNat_eq (y := 0)).symm
  rw [exec_sleep, execSleep, issue_pass hc hs hg]
  simp only [State.at_sreg, zero, ← State.retire_only]
  split <;> rfl

/-- TMARM arms or disarms the workgroup's timer; without TMVEC it traps (R353). -/
theorem exec_tmarm_pass {sa : BitVec 6} (h : s.Issues c st (.tmarm sa) (useS sa)) :
    exec (.tmarm sa) s = .next (if (s.wgOf st.wg).tmvec = 0 then s.trapped c { cls := 0x17, pc := some c.pc }
      else { s.stepped c (.tmarm sa) id with
        wgs := tmod s.wgs st.wg fun g => { g with
          tmexp := if st.sreg sa.toNat = 0 then 0 else s.mod.tick.toNat + (st.sreg sa.toNat).toNat
          tmArgs := (st.dreg 48, st.dreg 50) } }) := by
  obtain ⟨hc, hs, hg⟩ := h
  have zero : (st.sreg sa.toNat).toNat = 0 ↔ st.sreg sa.toNat = 0 :=
    (BitVec.toNat_eq (y := 0)).symm
  rw [exec_tmarm, execTmarm, issue_pass hc hs hg]
  simp only [State.at_sreg, State.at_dreg, zero]
  rw [← State.retire_updWg_only]
  congr 1
  by_cases hv : (s.wgOf st.wg).tmvec = 0
  · rw [if_pos hv]
    exact congrArg State.ended (if_pos hv)
  · rw [if_neg hv]
    exact congrArg State.ended (if_neg hv)

/-- SUCC signals the workgroup once (R98). -/
theorem exec_succ_pass (h : s.Issues c st .succ []) (hq : s.Settled) : ∃ t, exec .succ s = .next t ∧ t.mem = s.mem ∧ t.wgs = s.wgs ∧
    t.strands = (s.stepped c .succ id).strands ∧
    t.grids = tmod s.grids (s.wgOf st.wg).grid (fun g =>
      { g with signalled := if g.signalled.contains (s.wgOf st.wg).w then g.signalled else g.signalled ++ [(s.wgOf st.wg).w] }) := by
  obtain ⟨hc, hs, hg⟩ := h
  obtain ⟨x, hx, e, rfl⟩ : ∃ x, exec .succ s = .next ((x.updGrid (s.wgOf st.wg).grid fun g =>
      { g with signalled := if g.signalled.contains (s.wgOf st.wg).w then g.signalled else g.signalled ++ [(s.wgOf st.wg).w] }
      ).retire c .succ).ended ∧ ∃ e, x = { s.begun c with home := { s.home with epoch := e } } := by
    rw [exec_succ, execSucc, issue_pass hc hs hg]
    refine ⟨_, rfl, ?_⟩
    split
    · exact State.releaseSync_of_no_writes (s := s.begun c) hq.1 ..
    · exact ⟨_, rfl⟩
  exact ⟨_, hx, rfl, rfl, (congrArg State.strands (s.retire_only c .succ) :), rfl⟩

/-! ## WAITPRED (R99) -/

section waitpred

variable (h : s.Issues c st .waitpred [])
include h

/-- Without a predecessor it goes on. -/
theorem exec_waitpred_alone (hp : (s.gridAt st).pred = none) : exec .waitpred s = .next (s.stepped c .waitpred id) := by
  obtain ⟨hc, hs, hg⟩ := h
  have alone : ((s.begun c).gridAt (s.at_ st)).pred = none := hp
  rw [exec_waitpred, execWaitpred, issue_pass hc hs hg]
  simp only [alone, State.retire_only]

variable {p : Nat} (hp : (s.gridAt st).pred = some p)
include hp

/-- Once the predecessor is done with STATUS 0 it is an acquire, and goes on. -/
theorem exec_waitpred_done (hd : (s.gridOf p).st = .done 0) (hq : s.Settled) : ∃ t, exec .waitpred s = .next t ∧ t.mem = s.mem ∧
    t.strands = (s.stepped c .waitpred id).strands ∧ tget t.home.unseen (dieOf st.core) [] = [] := by
  obtain ⟨hc, hs, hg⟩ := h
  have pred : ((s.begun c).gridAt (s.at_ st)).pred = some p := hp
  have done : ((s.begun c).gridOf p).st = .done 0 := hd
  rw [exec_waitpred, execWaitpred, issue_pass hc hs hg]
  simp only [pred, done]
  rw [State.acquireAt_of_no_writes (s := s.begun c) hq.1 _ (Nat.le_max_right ..)]
  exact ⟨_, rfl, rfl, (congrArg State.strands (s.retire_only c .waitpred) :), tget_tset_same ..⟩

/-- Where it ended otherwise it traps. -/
theorem exec_waitpred_failed {k : Nat} (hk : k ≠ 0) (hd : (s.gridOf p).st = .done k) :
    exec .waitpred s = .next (s.trapped c { cls := 0x0A, pc := some c.pc }) := by
  obtain ⟨hc, hs, hg⟩ := h
  obtain ⟨k, rfl⟩ := Nat.exists_eq_succ_of_ne_zero hk
  have pred : ((s.begun c).gridAt (s.at_ st)).pred = some p := hp
  have done : ((s.begun c).gridOf p).st = .done (k + 1) := hd
  rw [exec_waitpred, execWaitpred, issue_pass hc hs hg]
  simp only [pred, done]
  rfl

/-- Before its end it waits. -/
theorem exec_waitpred_waits (hd : ∀ k, (s.gridOf p).st ≠ .done k) :
    exec .waitpred s = .next ((s.begun c).wait c .waitpred).ended := by
  obtain ⟨hc, hs, hg⟩ := h
  have pred : ((s.begun c).gridAt (s.at_ st)).pred = some p := hp
  have grid : (s.begun c).gridOf p = s.gridOf p := rfl
  rw [exec_waitpred, execWaitpred, issue_pass hc hs hg]
  simp only [pred, grid]
  split
  case h_1 h0 => exact absurd h0 (hd 0)
  case h_2 k _ hk => exact absurd hk (hd k)
  case h_3 => rfl

end waitpred

/-! ## TRACE (R201, R354) -/

/-- A view shares its own threads where it has some. -/
theorem Strand.view_shares_self {st : Strand} (h : 0 < st.count ∨ st.isHandler = true) :
    st.view.kind.shares st.view.kind = true := by
  show st.kind.shares st.kind = true
  cases hk : st.kind with
  | range lo n =>
    have hn : 0 < n := by simpa [Strand.count, Strand.isHandler, hk] using h
    simpa [SKind.shares] using hn
  | lane w m =>
    have hm : m ≠ 0 := by
      rintro rfl
      simp [Strand.count, Strand.isHandler, lanesOf, hk] at h
    simpa [SKind.shares] using hm
  | handler => rfl

/-- The 32 bytes of a trace record (R354). -/
def State.traceRecord (s : State) (st : Strand) (sa sb : BitVec 6) (code : BitVec 10) : List Byte :=
  leBytes 8 s.mod.tick.toNat ++ leBytes 2 st.core ++ leBytes 2 code.toNat ++ leBytes 4 (s.wgOf st.wg).w ++
    leBytes 8 (st.dreg sa.toNat).toNat ++ leBytes 8 (st.dreg sb.toNat).toNat

theorem State.length_traceRecord (s : State) (st : Strand) (sa sb : BitVec 6) (code : BitVec 10) :
    (s.traceRecord st sa sb code).length = 32 := by
  simp [State.traceRecord, length_leBytes]

/-- The trace control register with HEAD `h`. -/
def trctlAt (v : DWord) (h : Nat) : DWord := (v &&& ~~~(0xFFFFFFFF : DWord)) ||| BitVec.ofNat 64 (h % 2 ^ 32)

theorem trHead_trctlAt (v : DWord) (h : Nat) : ((trctlAt v h).extractLsb' 0 32).toNat = h % 2 ^ 32 := by
  have mask : ∀ i : Fin 32, (~~~(0xFFFFFFFF : DWord)).getLsbD i = false := by decide
  rw [← BitVec.toNat_ofNat]
  congr 1
  apply BitVec.eq_of_getLsbD_eq
  intro i hi
  have hm := mask ⟨i, hi⟩
  have h64 : i < 64 := by omega
  simp only [trctlAt, BitVec.getLsbD_extractLsb', Nat.zero_add, BitVec.getLsbD_or, BitVec.getLsbD_and, hm, Bool.and_false,
    Bool.false_or, BitVec.getLsbD_ofNat, Nat.testBit_mod_two_pow, hi, h64, decide_true, Bool.true_and]

theorem trctlAt_upper (v : DWord) (h : Nat) : (trctlAt v h).extractLsb' 32 32 = v.extractLsb' 32 32 := by
  have mask : ∀ i : Fin 32, (~~~(0xFFFFFFFF : DWord)).getLsbD (32 + i) = true := by decide
  ext i hi
  have hm := mask ⟨i, hi⟩
  have high : ¬32 + i < 32 := by omega
  simp only [trctlAt, BitVec.getElem_extractLsb', BitVec.getLsbD_or, BitVec.getLsbD_and, hm, Bool.and_true,
    BitVec.getLsbD_ofNat, Nat.testBit_mod_two_pow, high, decide_false, Bool.false_and, Bool.and_false, Bool.or_false]

/-- A trace buffer takes no record: none is set, or it is full without wrap (R201), with the size as a bit field. -/
theorem trace_off_iff {v base : DWord} : trLog v = 0 ∧ base = 0 ∨ trWrap v = false ∧ 2 ^ (trLog v + 6) ≤ trHead v ↔
    v.extractLsb' 48 4 = 0 ∧ base = 0 ∨ v.getLsbD 63 = false ∧ 2 ^ ((v.extractLsb' 48 4).toNat + 6) ≤ (v.extractLsb' 0 32).toNat := by
  have zero : trLog v = 0 ↔ v.extractLsb' 48 4 = 0 := (BitVec.toNat_eq (y := 0)).symm
  rw [zero]
  rfl

/-- A uniform access whose bytes lie in this module's memory completes. -/
theorem State.uniformAccess_loc {i : Instr} {acc : Acc} {addr : DWord} {n key : Nat} {ask : Nat → Nat → Ask}
    {act : State → Place → State} (hr : s.resolve (dieOf st.core) (s.who st) acc addr n = .ok (.loc key)) :
    s.uniformAccess c st i acc addr n ask act = (act (s.noteMiss (dieOf st.core) (s.who st) addr) (.loc key)).retire c i := by
  simp only [State.uniformAccess, hr, State.faultOf]

/-- TRACE done: the record waits at `key`, HEAD is advanced, and the misses of the module are `m`. -/
def State.traced (s : State) (c : Issue) (st : Strand) (sa sb : BitVec 6) (code : BitVec 10) (key : Nat)
    (m : Tab (List (Nat × Nat))) (covers : Bool) : State :=
  (((State.addWrite { s.begun c with home := { s.home with misses := m } }
      st.view key (s.traceRecord st sa sb code) covers s.home.nextWrite).updWg st.wg fun g =>
        { g with trctl := trctlAt g.trctl (trHead (s.wgOf st.wg).trctl + 1) }).retire c (.trace sa sb code)).ended

/-- After TRACE a view reads what it read, and the record that waits. -/
theorem State.traced_viewByte {sa sb : BitVec 6} {code : BitVec 10} {key : Nat} {m : Tab (List (Nat × Nat))} {covers : Bool}
    (v : View) (a : Nat) : (s.traced c st sa sb code key m covers).viewByte v a =
      (s.addWrite st.view key (s.traceRecord st sa sb code) covers s.home.nextWrite).viewByte v a := by
  have retired : ∀ (x : State) (i : Instr), (x.retire c i).ended.viewByte v a = x.viewByte v a := fun _ _ => rfl
  rw [State.traced, retired]
  exact State.viewByte_updWg _ _ (f := fun g => { g with trctl := trctlAt g.trctl (trHead (s.wgOf st.wg).trctl + 1) })
    (fun _ => rfl) v a

section trace

variable {sa sb : BitVec 6} {code : BitVec 10} (h : s.Issues c st (.trace sa sb code) (useS sa 2 ++ useS sb 2))
include h

/-- TRACE without a buffer, or with a full one, does nothing. -/
theorem exec_trace_off (hn : trLog (s.wgOf st.wg).trctl = 0 ∧ (s.wgOf st.wg).trbase = 0 ∨ trWrap (s.wgOf st.wg).trctl = false ∧
      2 ^ (trLog (s.wgOf st.wg).trctl + 6) ≤ trHead (s.wgOf st.wg).trctl) :
    exec (.trace sa sb code) s = .next (s.stepped c (.trace sa sb code) id) := by
  obtain ⟨hc, hs, hg⟩ := h
  rw [exec_trace, execTrace, issue_pass hc hs hg]
  refine congrArg Host.Outcome.next ((congrArg State.ended (if_pos ?_)).trans (s.retire_only c _))
  simp only [Bool.or_eq_true, Bool.and_eq_true, Bool.not_eq_true', decide_eq_true_eq]
  exact hn

/-- TRACE writes its record at HEAD, and HEAD advances. -/
theorem exec_trace_on (hn : ¬(trLog (s.wgOf st.wg).trctl = 0 ∧ (s.wgOf st.wg).trbase = 0 ∨ trWrap (s.wgOf st.wg).trctl = false ∧
      2 ^ (trLog (s.wgOf st.wg).trctl + 6) ≤ trHead (s.wgOf st.wg).trctl)) {key : Nat}
    (hr : s.resolve (dieOf st.core) (s.who st) .write ((s.wgOf st.wg).trbase +
      BitVec.ofNat 64 (32 * (trHead (s.wgOf st.wg).trctl % 2 ^ (trLog (s.wgOf st.wg).trctl + 6)))) 32 = .ok (.loc key)) :
    ∃ m covers, exec (.trace sa sb code) s = .next (s.traced c st sa sb code key m covers) := by
  obtain ⟨hc, hs, hg⟩ := h
  obtain ⟨m, hm⟩ := (s.begun c).noteMiss_eq (dieOf st.core) (s.who st) ((s.wgOf st.wg).trbase +
      BitVec.ofNat 64 (32 * (trHead (s.wgOf st.wg).trctl % 2 ^ (trLog (s.wgOf st.wg).trctl + 6))))
  refine ⟨m, coversGranule [(key, s.traceRecord st sa sb code)] key, ?_⟩
  rw [exec_trace, execTrace, issue_pass hc hs hg]
  refine congrArg (fun x : State => Host.Outcome.next x.ended) ((if_neg ?_).trans
    ((State.uniformAccess_loc (s := s.begun c) (st := s.at_ st) hr).trans ?_))
  · simp only [Bool.or_eq_true, Bool.and_eq_true, Bool.not_eq_true', decide_eq_true_eq]
    exact hn
  · exact congrArg (fun x : State => ((x.addWrite st.view key (s.traceRecord st sa sb code)
      (coversGranule [(key, s.traceRecord st sa sb code)] key) x.home.nextWrite).updWg st.wg fun g =>
        { g with trctl := trctlAt g.trctl (trHead (s.wgOf st.wg).trctl + 1) }).retire c (.trace sa sb code)) hm

/-- What TRACE changes (R201): the 32 bytes of its record, seen through the strand's view, and HEAD. -/
theorem exec_trace_record (hn : ¬(trLog (s.wgOf st.wg).trctl = 0 ∧ (s.wgOf st.wg).trbase = 0 ∨ trWrap (s.wgOf st.wg).trctl = false ∧
      2 ^ (trLog (s.wgOf st.wg).trctl + 6) ≤ trHead (s.wgOf st.wg).trctl)) {key : Nat} (hw : (tfind s.wgs st.wg).isSome = true)
    (hv : 0 < st.count ∨ st.isHandler = true)
    (hr : s.resolve (dieOf st.core) (s.who st) .write ((s.wgOf st.wg).trbase +
      BitVec.ofNat 64 (32 * (trHead (s.wgOf st.wg).trctl % 2 ^ (trLog (s.wgOf st.wg).trctl + 6)))) 32 = .ok (.loc key)) :
    ∃ t, exec (.trace sa sb code) s = .next t ∧ (∀ b < 32, s.waitersByte (key + b) = false →
        t.viewByte st.view (key + b) = (s.traceRecord st sa sb code).getD b 0) ∧
      (∀ (v : View) (a : Nat), (a < key ∨ key + 32 ≤ a) → t.viewByte v a = s.viewByte v a) ∧ t.mem = s.mem ∧
      ((t.wgOf st.wg).trctl.extractLsb' 0 32).toNat = (trHead (s.wgOf st.wg).trctl + 1) % 2 ^ 32 ∧
      (t.wgOf st.wg).trctl.extractLsb' 32 32 = (s.wgOf st.wg).trctl.extractLsb' 32 32 ∧
      t.strands = (s.stepped c (.trace sa sb code) id).strands := by
  obtain ⟨m, covers, ht⟩ := exec_trace_on h hn hr
  have length := s.length_traceRecord st sa sb code
  have wg : ((s.traced c st sa sb code key m covers).wgOf st.wg).trctl =
      trctlAt (s.wgOf st.wg).trctl (trHead (s.wgOf st.wg).trctl + 1) :=
    congrArg Wg.trctl (State.wgOf_of_tmod (s := s) (t := s.traced c st sa sb code key m covers)
      (f := fun g => { g with trctl := trctlAt g.trctl (trHead (s.wgOf st.wg).trctl + 1) }) rfl hw)
  refine ⟨_, ht, fun b hb hf => ?_, fun v a ha => ?_, rfl, ?_, ?_, (congrArg State.strands (s.retire_only c _) :)⟩
  · rw [State.traced_viewByte, State.viewByte_addWrite_own _ _ _ _ (Strand.view_shares_self hv) (by omega) (by omega) hf,
      Nat.add_sub_cancel_left]
  · rw [State.traced_viewByte, State.viewByte_addWrite_outside _ _ _ _ _ (by omega)]
  · rw [wg, trHead_trctlAt]
  · rw [wg, trctlAt_upper]

end trace

end time

/-- Settles O51: what CSRR reads and CSRW takes, then the tick, the timer, traces, SUCC and WAITPRED, each by the
equation of its instruction. -/
theorem controlRegisters : Obligations.ControlRegisters := by
  unfold Obligations.ControlRegisters
  refine ⟨⟨fun sd num s c st h => ⟨exec_csrr_refused h, exec_csrr_plain h, exec_csrr_slot h⟩, fun s st => ?_,
    fun sa num s c st h => ?_⟩, fun s c st => ?_⟩
  · exact ⟨rfl, rfl, rfl, rfl, rfl, rfl, rfl, rfl, rfl, rfl, rfl, rfl, rfl, rfl, rfl, rfl, rfl, rfl, rfl,
      fun _ => s.csr_port st, fun _ => s.csr_windowBase st, fun _ => s.csr_windowCtl st, fun _ => s.csr_dbar st⟩
  · refine ⟨?_, ?_, ?_, ?_, ?_, ?_, ?_, ?_, ?_, ?_, fun hn => exec_csrw_refuses h (State.csrWrite_none _ c _ _ hn)⟩
    case refine_1 => rintro rfl; exact exec_csrw_tile h
    case refine_2 => rintro rfl; exact exec_csrw_mode h
    case refine_3 => rintro rfl; exact exec_csrw_flags h
    case refine_4 => rintro rfl; exact exec_csrw_satctl h
    case refine_5 => rintro rfl; exact exec_csrw_crew h
    case refine_6 => rintro rfl; exact exec_csrw_share h
    case refine_7 => rintro rfl; exact exec_csrw_tmvec h
    case refine_8 => rintro rfl; exact exec_csrw_trbase h
    case refine_9 => rintro rfl; exact exec_csrw_trctl h
    case refine_10 => rintro rfl; exact exec_csrw_account h
  · refine ⟨fun sd => exec_tick_pass, fun sa h => ⟨fun hz => ?_, fun hz => ?_⟩, fun sa h => ⟨fun hv => ?_, fun hv => ?_⟩,
      fun sa sb code h => ⟨fun hn => exec_trace_off h (trace_off_iff.mpr hn), fun hn key hw hv hr =>
        exec_trace_record h (fun off => hn (trace_off_iff.mp off)) hw hv hr⟩, exec_succ_pass,
      fun h => ⟨exec_waitpred_alone h, fun p hp => ⟨exec_waitpred_done h hp, fun k => exec_waitpred_failed h hp, exec_waitpred_waits h hp⟩⟩⟩
    · rw [exec_sleep_pass h, if_pos hz]
    · rw [exec_sleep_pass h, if_neg hz]
    · rw [exec_tmarm_pass h]
      exact congrArg Host.Outcome.next (if_pos hv)
    · rw [exec_tmarm_pass h]
      exact congrArg Host.Outcome.next (if_neg hv)

end Sys2Proof.Machine
end

section
/-! SUPPORT. Translations and the queue of misses (R137), and a pool operation that finds one free place in that queue. -/

namespace Sys2Proof.Machine

/-! ## Translations -/

section translation

variable {s : State} {die ctx va : Nat} {who : Who} {acc : Acc} {addr : DWord} {n : Nat}

/-- A page that is queued already, or finds room in the queue, is walked (R137). -/
theorem State.translate_walks (hc : s.cached ctx va = none)
    (hq : (tget s.home.misses die []).length < 4096 ∨ (tget s.home.misses die []).contains (ctx, va / 0x10000) = true) :
    s.translate die ctx va = s.walk ctx va := by
  have go : ¬(4096 ≤ (tget s.home.misses die []).length ∧ (tget s.home.misses die []).contains (ctx, va / 0x10000) = false) := by
    rintro ⟨hl, hn⟩
    rcases hq with h | h
    · omega
    · exact absurd (h.symm.trans hn) (by decide)
  simp only [State.translate, hc, Bool.and_eq_true, Bool.not_eq_true', decide_eq_true_eq, if_neg go]

/-- A page that is not cached and finds the queue full is refused (R137). -/
theorem State.translate_full (hc : s.cached ctx va = none) (hl : 4096 ≤ (tget s.home.misses die []).length)
    (hq : (tget s.home.misses die []).contains (ctx, va / 0x10000) = false) : s.translate die ctx va = .error 0x12 := by
  simp only [State.translate, hc, Bool.and_eq_true, Bool.not_eq_true', decide_eq_true_eq, if_pos (And.intro hl hq)]

section element

variable {a : Nat} (ha : addr.toNat = a) (hlt : a < 2 ^ 56) (hn : 16 < n)
include ha hlt hn

/-- The checks of a large element in the lower half of the address space, once its page is known, are its leaf's (R133, R140). -/
theorem State.resolve_of_leaf {x : DWord × Nat} (ht : s.translate die who.ctx a = .ok x) :
    s.resolve die who acc addr n = s.leafCheck who acc a n x.1 x.2 := by
  have region : a / 2 ^ 56 = 0 := by omega
  have half : a / 2 ^ 57 = 0 := by omega
  have positive : a.testBit 56 = false := Nat.testBit_lt_two_pow hlt
  have wide : (n == 2 || n == 4 || n == 8 || n == 16) = false := by
    simp only [Bool.or_eq_false_iff, beq_eq_false_iff_ne]
    omega
  simp only [State.resolve, ha, region, half, positive, wide, ht]
  rfl

/-- The fault of its translation is the element's. -/
theorem State.resolve_of_fault {k : Nat} (ht : s.translate die who.ctx a = .error k) :
    s.resolve die who acc addr n = .error (.cls k) := by
  have region : a / 2 ^ 56 = 0 := by omega
  have half : a / 2 ^ 57 = 0 := by omega
  have positive : a.testBit 56 = false := Nat.testBit_lt_two_pow hlt
  have wide : (n == 2 || n == 4 || n == 8 || n == 16) = false := by
    simp only [Bool.or_eq_false_iff, beq_eq_false_iff_ne]
    omega
  simp only [State.resolve, ha, region, half, positive, wide, ht]
  rfl

end element

/-- The state with `q` as the queue of misses of die 0. -/
def State.withMisses (s : State) (q : List (Nat × Nat)) : State := { s with home := { s.home with misses := [(0, q)] } }

/-- The queue is no part of a leaf's checks. -/
theorem State.leafCheck_withMisses (q : List (Nat × Nat)) : (s.withMisses q).leafCheck who acc va n = s.leafCheck who acc va n := rfl

variable {q : List (Nat × Nat)} (ha : addr.toNat < 2 ^ 56) (hc : s.cached who.ctx addr.toNat = none)
  (hq : q.contains (who.ctx, addr.toNat / 0x10000) = false)
include ha hc hq

theorem State.noteMiss_withMisses (hl : q.length < 4096) :
    (s.withMisses q).noteMiss 0 who addr = s.withMisses (q ++ [(who.ctx, addr.toNat / 0x10000)]) := by
  have region : addr.toNat / 2 ^ 56 = 0 := by omega
  have cached : (s.withMisses q).cached who.ctx addr.toNat = none := hc
  have queue : tget (s.withMisses q).home.misses 0 [] = q := rfl
  have room : ¬4096 ≤ q.length := by omega
  simp only [State.noteMiss, State.pagedVa, region, beq_self_eq_true, Bool.true_or, if_true, cached, queue, hq, room,
    decide_false]
  rfl

theorem State.noteMiss_withMisses_full (hl : 4096 ≤ q.length) : (s.withMisses q).noteMiss 0 who addr = s.withMisses q := by
  have region : addr.toNat / 2 ^ 56 = 0 := by omega
  have cached : (s.withMisses q).cached who.ctx addr.toNat = none := hc
  have queue : tget (s.withMisses q).home.misses 0 [] = q := rfl
  simp only [State.noteMiss, State.pagedVa, region, beq_self_eq_true, Bool.true_or, if_true, cached, queue, hq, hl,
    decide_true, Bool.or_true]

end translation

section begun

variable (s : State) (c : Issue) (st : Strand) (die : Nat) (who : Who) (addr : DWord)

/-- The issue of an instruction changes no place, and misses are noted all the same. -/
theorem State.resolve_begun (acc : Acc) (n : Nat) : (s.begun c).resolve die who acc addr n = s.resolve die who acc addr n := rfl

theorem State.poolPlace_begun : (s.begun c).poolPlace st addr = s.poolPlace st addr := by
  have who : (s.begun c).who st = s.who st := rfl
  have mem : (s.begun c).mem = s.mem := rfl
  simp only [State.poolPlace, State.resolve_begun, who, mem]

theorem State.noteMiss_begun : (s.begun c).noteMiss die who addr = (s.noteMiss die who addr).begun c := by
  have va : (s.begun c).pagedVa who addr = s.pagedVa who addr := rfl
  have cached : ∀ a, (s.begun c).cached who.ctx a = s.cached who.ctx a := fun _ => rfl
  have home : (s.begun c).home = s.home := rfl
  unfold State.noteMiss
  rw [va]
  cases s.pagedVa who addr with
  | none => rfl
  | some a =>
    simp only [cached, home]
    split
    · rfl
    · rfl

end begun

/-- A pool operation whose entry's page finds the queue of misses full takes that trap (R137, log entry 118). -/
theorem poolOp_refused {s x y : State} {c : Issue} {st : Strand} {i : Instr} {uses : List Use} {sa sb sc : BitVec 6} {acc : Acc}
    {idx : Pool → Nat} {used : Pool → Bool} {act : State → Strand → Nat → Pool → Place → List Byte → State × Nat × List Word}
    {k : Nat} {p : Pool} (h : s.Issues c st i uses) (hw : s.home.writes = [])
    (hx : s.noteMiss (dieOf st.core) (s.who st) (st.dreg sa.toNat) = x)
    (hp : x.poolPlace st (st.dreg sa.toNat) = .ok (k, p))
    (hy : x.noteMiss (dieOf st.core) (x.who st) (p.entry (idx p)) = y)
    (he : y.resolve (dieOf st.core) (y.who st) acc (p.entry (idx p)) 32 = .error (.cls 0x12)) :
    poolOp i uses sa sb sc acc idx used act s =
      .next (y.trapped c { cls := 0x12, addr := p.entry (idx p), flags := acc.flag, pc := some c.pc }) := by
  obtain ⟨hc, hs, hg⟩ := h
  have sync : (s.begun c).releaseSync (s.at_ st) 4 = s.begun c :=
    (if_pos (by decide)).trans (State.applyAll_of_no_writes (s := s.begun c) hw _)
  have noted : (s.begun c).noteMiss (dieOf (s.at_ st).core) ((s.begun c).who (s.at_ st)) ((s.at_ st).dreg sa.toNat) = x.begun c :=
    (s.noteMiss_begun ..).trans (congrArg (State.begun · c) hx)
  have place : (x.begun c).poolPlace (s.at_ st) ((s.at_ st).dreg sa.toNat) = .ok (k, p) := (x.poolPlace_begun ..).trans hp
  have full : (x.begun c).noteMiss (dieOf (s.at_ st).core) ((x.begun c).who (s.at_ st)) (p.entry (idx p)) = y.begun c :=
    (x.noteMiss_begun ..).trans (congrArg (State.begun · c) hy)
  have refused : (y.begun c).resolve (dieOf (s.at_ st).core) ((y.begun c).who (s.at_ st)) acc (p.entry (idx p)) 32 =
      .error (.cls 0x12) := he
  have entry : (y.begun c).poolEntry c (s.at_ st) acc k (p.entry (idx p)) (used p) ((s.at_ st).sbytes sb.toNat 32) =
      .error ((y.begun c).takeTrap c.uid { cls := 0x12, addr := p.entry (idx p), flags := acc.flag, pc := some c.pc }) := by
    simp only [State.poolEntry, refused]
  rw [poolOp, issue_pass hc hs hg]
  simp only [sync, noted, place, full, entry]
  rfl

/-! ## The state -/

/-- The strand at a POOLP of s16 to s23 to the pool at s4. -/
def pooling : Strand := { fetchStrand (encode (.poolp 4 16 9)) with s := [(4, 0x10000)] }

/-- A pool with room, its descriptor in page 1 and its ring in page 2 of context 1, and the page tables of that context. -/
def poolMemory : Memory :=
  let descriptor := leBytes 8 0x20000 ++ leBytes 4 4 ++ leBytes 4 1 ++ leBytes 8 2 ++ leBytes 8 3
  mwrite (mwrite (mwrite (mwrite [] 0x10000 descriptor) 0x40000 (leBytes 8 0x8000000000041000)) 0x41000
    (leBytes 8 0x8000000000042000)) 0x42000 (leBytes 8 0x8018000000000000)

/-- The POOLP is in progress, with 2 MiB of device memory in service and no cached translation. -/
def poolState : State :=
  let s := State.reset.withFetchWord 32 0
  { s with
    cur := some ⟨0, 0x10004, 0⟩
    strands := [(0, pooling)]
    ctxs := [(1, { ctxNone with ptroot := 0x40000 })]
    mod := { s.mod with modcap := 0x200000000000 }
    mem := poolMemory }

/-- The pages of another context that wait in the queue of die 0: one fewer than it holds. -/
def manyMisses : List (Nat × Nat) := (List.range 4095).map (2, ·)

theorem length_manyMisses : manyMisses.length = 4095 := by
  rw [manyMisses, List.length_map, List.length_range]

theorem manyMisses_contains (p : Nat) : manyMisses.contains (1, p) = false := by
  simp [manyMisses]

/-- The pool. -/
def poolHere : Pool := { ring := 0x20000, caps := 4, open_ := 1, head := 2, tail := 3, fulls := 0 }

/-- A page of context 1 that is queued or finds room has the one leaf of its tables: all of memory, with W. -/
theorem poolState_translate {q : List (Nat × Nat)} {va : Nat}
    (hq : q.length < 4096 ∨ q.contains (1, va / 0x10000) = true)
    (hw : poolState.walk 1 va = .ok (0x8018000000000000, 30)) :
    (poolState.withMisses q).translate 0 1 va = .ok (0x8018000000000000, 30) :=
  (State.translate_walks (s := poolState.withMisses q) (die := 0) (ctx := 1) (va := va) rfl hq).trans hw

theorem poolState_place {q : List (Nat × Nat)} (hq : q.length < 4096 ∨ q.contains (1, 1) = true) :
    (poolState.withMisses q).poolPlace pooling 0x10000 = .ok (0x10000, poolHere) := by
  have leaf : poolState.leafCheck ⟨1, some 0⟩ (.atomic true) 0x10000 64 0x8018000000000000 30 =
      .ok (.loc 0x10000) := by decide
  have place : (poolState.withMisses q).resolve 0 ⟨1, some 0⟩ (.atomic true) 0x10000 64 = .ok (.loc 0x10000) := by
    rw [State.resolve_of_leaf (a := 0x10000) rfl (by decide) (by decide) (poolState_translate hq (by decide)),
      State.leafCheck_withMisses, leaf]
  have who : (poolState.withMisses q).who pooling = ⟨1, some 0⟩ := rfl
  have die : dieOf pooling.core = 0 := rfl
  have read : poolRead (poolState.withMisses q).mem 0x10000 = some poolHere := by
    show poolRead poolMemory 0x10000 = some poolHere
    decide
  rw [State.poolPlace, who, die, place]
  simp only [read]
  rfl

theorem poolState_entry {q : List (Nat × Nat)} (hq : q.length < 4096) :
    (poolState.withMisses q).resolve 0 ⟨1, some 0⟩ .write 0x20060 32 = .ok (.loc 0x20060) := by
  have leaf : poolState.leafCheck ⟨1, some 0⟩ .write 0x20060 32 0x8018000000000000 30 = .ok (.loc 0x20060) := by decide
  rw [State.resolve_of_leaf (a := 0x20060) rfl (by decide) (by decide) (poolState_translate (.inl hq) (by decide)),
    State.leafCheck_withMisses, leaf]

/-- With the queue full the ring's page finds no place. -/
theorem poolState_entry_full {q : List (Nat × Nat)} (hq : 4096 ≤ q.length) (hn : q.contains (1, 2) = false) :
    (poolState.withMisses q).resolve 0 ⟨1, some 0⟩ .write 0x20060 32 = .error (.cls 0x12) :=
  State.resolve_of_fault (a := 0x20060) rfl (by decide) (by decide) (State.translate_full rfl hq hn)

/-- The descriptor's page takes the last place of the queue, so the ring's page is refused: the POOLP starts no operation. -/
theorem poolState_starts_none : ∃ t, exec (.poolp 4 16 9) (poolState.withMisses manyMisses) = .next t ∧ t.ops = [] := by
  have length : (manyMisses ++ [(1, 1)]).length = 4096 := by
    rw [List.length_append, length_manyMisses, List.length_singleton]
  have other : (manyMisses ++ [(1, 1)]).contains (1, 2) = false := by
    simp [manyMisses]
  have noted : (poolState.withMisses manyMisses).noteMiss 0 ⟨1, some 0⟩ 0x10000 = poolState.withMisses (manyMisses ++ [(1, 1)]) :=
    State.noteMiss_withMisses (by decide) rfl (manyMisses_contains 1) (by rw [length_manyMisses]; decide)
  have full :
      (poolState.withMisses (manyMisses ++ [(1, 1)])).noteMiss 0 ⟨1, some 0⟩ 0x20060 = poolState.withMisses (manyMisses ++ [(1, 1)]) :=
    State.noteMiss_withMisses_full (by decide) rfl other (le_of_eq length.symm)
  have addr : pooling.dreg (4 : BitVec 6).toNat = 0x10000 := by decide
  have die : dieOf pooling.core = 0 := rfl
  have who : ∀ q, (poolState.withMisses q).who pooling = ⟨1, some 0⟩ := fun _ => rfl
  have ring : poolHere.entry poolHere.tail = 0x20060 := by decide
  rw [exec_poolp, execPoolp]
  refine ⟨_, poolOp_refused (x := poolState.withMisses (manyMisses ++ [(1, 1)])) (y := poolState.withMisses (manyMisses ++ [(1, 1)]))
    (c := ⟨0, 0x10004, 0⟩) (st := pooling) ⟨rfl, rfl, by decide⟩ rfl ?_ (k := 0x10000) (p := poolHere) ?_ ?_ ?_, rfl⟩
  · rw [addr, die, who, noted]
  · rw [addr, poolState_place (.inr (by simp))]
  · rw [die, who, ring, full]
  · rw [die, who, ring, poolState_entry_full (le_of_eq length.symm) other]

/-- Refutes O49: a pool operation queues the misses of two pages, its descriptor's and its entry's. Where the queue has one
free place each page alone resolves, but POOLP takes the trap of a full queue (R137) in place of its entry. -/
theorem not_poolsAndLaunch : ¬ Obligations.PoolsAndLaunch := by
  unfold Obligations.PoolsAndLaunch
  rintro ⟨pools, -⟩
  have room : manyMisses.length < 4096 := by
    rw [length_manyMisses]
    decide
  obtain ⟨poolp, -⟩ := pools 4 16 9 (poolState.withMisses manyMisses) ⟨0, 0x10004, 0⟩ pooling 0x10000 0x20060 poolHere ⟨rfl, rfl⟩
    (poolState_place (.inl room)) (.inr (by decide))
  obtain ⟨t, ht, ⟨o, hops, -⟩, -⟩ := poolp ⟨rfl, rfl, by decide⟩ (poolState_entry room)
  obtain ⟨t', ht', hnone⟩ := poolState_starts_none
  obtain rfl : t' = t := Host.Outcome.next.inj (ht'.symm.trans ht)
  exact absurd (hnone.symm.trans hops) (List.cons_ne_nil (1, o) []).symm

end Sys2Proof.Machine
end

section
/-! SUPPORT. An access to an area that fails at once, and a save that an image stops (R56, R86, R89). -/

namespace Sys2Proof.Machine

/-! ## Several accesses to areas -/

/-- The access awaits no other module. -/
def Firm {α : Type} (x : Except AreaStop α) : Prop := ∀ ks, x ≠ .error (.remote ks)

section accesses

variable {α : Type} {l : List (Except AreaStop α)}

/-- A failure is the answer where the accesses after it await no other module. -/
theorem areaAll_cons_error {e : AreaStop} (he : Firm (α := α) (.error e)) (hl : Firm (areaAll l)) :
    areaAll (.error e :: l) = .error e := by
  cases e with
  | remote ks => exact absurd rfl (he ks)
  | full c =>
    unfold areaAll
    split
    · next ks h => exact absurd h (hl ks)
    · rfl
  | fault c a w =>
    unfold areaAll
    split
    · next ks h => exact absurd h (hl ks)
    · rfl
  | ats p =>
    unfold areaAll
    split
    · next ks h => exact absurd h (hl ks)
    · rfl

theorem areaAll_firm (hl : ∀ x ∈ l, Firm x) : Firm (areaAll l) := by
  induction l with
  | nil => exact fun ks h => nomatch h
  | cons x l ih =>
    have rest := ih fun y hy => hl y (List.mem_cons_of_mem _ hy)
    have first := hl x (List.mem_cons_self ..)
    cases x with
    | error e =>
      rw [areaAll_cons_error (fun ks h => first ks (by cases h; rfl)) rest]
      exact fun ks h => first ks (by cases h; rfl)
    | ok a =>
      intro ks h
      cases hr : areaAll l with
      | ok b => simp [areaAll, hr, Except.map] at h
      | error e =>
        obtain rfl : e = .remote ks := by simpa [areaAll, hr, Except.map] using h
        exact rest ks hr

end accesses

section plans

variable {s : State} {ask : Asker} {die a c : Nat} {who : Who} {b : List Byte}

/-- A run whose first piece faults fails there. -/
theorem State.areaPlan_fault (hb : b.length ≠ 0)
    (hr : s.resolve die who .write (BitVec.ofNat 64 a) (min b.length (64 - a % 64)) = .error (.cls c)) :
    s.areaPlan ask die who (a, b) = .error (.fault c a true) := by
  have places : s.places die who .write a b.length = .error (.cls c, a) := by
    simp only [State.places, piecesOf, pieces, hb, if_false, List.foldr_cons, hr]
  simp only [State.areaPlan, State.areaPlaces, places]
  rfl

/-- A run of no bytes has nothing to do. -/
theorem State.areaPlan_nil : s.areaPlan ask die who (a, []) = .ok [] := by
  simp only [State.areaPlan, State.areaPlaces, State.places, piecesOf, pieces, List.length_nil, if_true, List.foldr_nil,
    List.map_nil, areaAll]

/-- Where no page translates, every access in the lower half of the address space fails (R134). -/
theorem State.resolve_untranslated {acc : Acc} {n k : Nat} (ha : a < 2 ^ 56) (ht : ∀ va, s.translate die who.ctx va = .error k) :
    ∃ c, s.resolve die who acc (BitVec.ofNat 64 a) n = .error (.cls c) := by
  have address : (BitVec.ofNat 64 a).toNat = a := by
    rw [BitVec.toNat_ofNat]
    omega
  have region : a / 2 ^ 56 = 0 := by omega
  have half : a / 2 ^ 57 = 0 := by omega
  have positive : a.testBit 56 = false := Nat.testBit_lt_two_pow ha
  simp only [State.resolve, address, region, half, positive, ht]
  by_cases hu : ((n == 2 || n == 4 || n == 8 || n == 16) && a % n != 0) = true
  · exact ⟨0x11, by simp only [hu]; rfl⟩
  · exact ⟨k, by simp only [hu]; rfl⟩

theorem State.areaPlan_firm {k : Nat} (ha : a < 2 ^ 56) (ht : ∀ va, s.translate die who.ctx va = .error k) :
    Firm (s.areaPlan ask die who (a, b)) := by
  by_cases hb : b = []
  · rw [hb, State.areaPlan_nil]
    exact fun ks h => nomatch h
  · obtain ⟨c, hc⟩ := State.resolve_untranslated (s := s) (die := die) (who := who) (acc := .write)
      (n := min b.length (64 - a % 64)) ha ht
    rw [State.areaPlan_fault (fun h => hb (List.length_eq_zero_iff.mp h)) hc]
    exact fun ks h => nomatch h

end plans

/-! ## SAVE_COMPLETE -/

/-- What stops an image stops the save, of a gang that is as it was (R56, R195). -/
theorem exec_saveComplete_stops {s : State} {x : Gang} (h : s.gang s.arg.a s.arg.b = some x) (hx : x.st = .saving)
    (hw : ∀ m ∈ x.members, s.written m = false) (hh : s.imageHeld (x.members.filter fun m => !(s.wgOf m).lost) = false)
    (hr : s.sched.running = []) {y : Nat × AreaStop} {l : List (Nat × AreaStop)}
    (hs : (s.updGang s.arg.a s.arg.b fun y => { y with since := s.mod.tick.toNat }).saveStops
      (x.members.filter fun m => !(s.wgOf m).lost) = y :: l) :
    exec .saveComplete s = .next (s.imageStops (y :: l)) := by
  have still : x.members.any s.written = false := List.any_eq_false.mpr fun m hm => by simp [hw m hm]
  have goes : ¬(x.st != .saving || x.members.any s.written ||
      s.imageHeld (x.members.filter fun m => !(s.wgOf m).lost) ||
      (s.sched.running.any fun r => (tfind s.sched.mxe r.2.1).any fun q => x.members.contains q.wg)) = true := by
    simp [hx, still, hh, hr]
  refine congrArg Host.Outcome.next ?_
  simp only [h, if_neg goes, hs]

/-! ## A gang whose image has no page -/

/-- A gang that has halted and awaits its save. -/
def savingGang : Gang := { st := .saving, quad := 0, placed := 0, since := 0, reqTick := 0, members := [0] }

/-- At tick 5 gang 0 of grid 0 is to be saved, and its context has no page for the image at 0x100000. -/
def savingState : State :=
  let s := State.reset.withFetchWord 32 0
  { s with
    mod := { s.mod with tick := 5 }
    grids := [(0, { fetchGrid with hdr := { fetchHeader with scratch := 0, obuf := 0 }, gangs := [(0, savingGang)] })]
    wgs := [(0, wgStart 0 0 0 0 0)]
    strands := [] }

/-- The same with the gang's moment of change at the present tick. -/
def savingSince : State := savingState.updGang savingState.arg.a savingState.arg.b fun y => { y with since := savingState.mod.tick.toNat }

/-- An entry of a table in blank memory is zero. -/
theorem pteRead_blank (table idx : Nat) : pteRead [] table idx = 0 := by
  have blank : mread [] (table + 8 * idx) 8 = List.replicate 8 Memory.blank := rfl
  rw [pteRead, blank]
  decide

/-- The context has no page at all. -/
theorem savingSince_translate (va : Nat) : savingSince.translate 0 1 va = .error 0x13 := by
  have root : savingSince.walk 1 va = .error 0x13 := by
    show walkFrom [] false va walkLevels 0 false = _
    rw [walkLevels, walkFrom, pteRead_blank]
    exact if_pos (by decide)
  rw [State.translate_walks (s := savingSince) rfl (.inl (by decide)), root]

/-- The page of the image's first byte is not present (R184 class 0x13), and that stops the save. -/
theorem savingSince_stops :
    savingSince.saveStops (savingGang.members.filter fun m => !(savingState.wgOf m).lost) = [(0, .fault 0x13 0x100000 true)] := by
  have offsets : ∀ p ∈ savingSince.wholeImage 0, 0x100000 + p.1 < 2 ^ 56 := by decide
  have length : (savingSince.imageHead 0 2).length = 128 := by
    simp [State.imageHead, length_leBytes]
  have first : savingSince.areaPlan (.image 0) 0 ⟨1, some 0⟩ (0x100000, savingSince.imageHead 0 2) = .error (.fault 0x13 0x100000 true) := by
    refine State.areaPlan_fault (by rw [length]; decide) ?_
    rw [length]
    exact State.resolve_of_fault (a := 0x100000) rfl (by decide) (by decide) (savingSince_translate _)
  have rest : ∀ p ∈ savingSince.imageParts 0 ++ [((savingSince.gridOf 0).padsAt, savingSince.padBytes 0)],
      Firm (savingSince.areaPlan (.image 0) 0 ⟨1, some 0⟩ (0x100000 + p.1, p.2)) := fun p hp =>
    State.areaPlan_firm (offsets p (List.mem_cons_of_mem _ hp)) savingSince_translate
  have stored : savingSince.imageStore 0 (savingSince.wholeImage 0) = .error (.fault 0x13 0x100000 true) := by
    have area : (savingSince.gridOf (savingSince.wgOf 0).grid).ctxAreaOf (savingSince.wgOf 0).w = some 0x100000 := rfl
    have plans : areaAll ((savingSince.wholeImage 0).map fun p =>
        savingSince.areaPlan (.image 0) 0 ⟨1, some 0⟩ (0x100000 + p.1, p.2)) = .error (.fault 0x13 0x100000 true) := by
      rw [State.wholeImage, List.cons_append, List.map_cons, Nat.add_zero, first]
      refine areaAll_cons_error (fun ks h => nomatch h) (areaAll_firm fun x hx => ?_)
      obtain ⟨p, hp, rfl⟩ := List.mem_map.mp hx
      exact rest p hp
    simp only [State.imageStore, area]
    exact congrArg (Except.map _) plans
  have live : (savingGang.members.filter fun m => !(savingState.wgOf m).lost) = [0] := rfl
  rw [live, State.saveStops, List.filterMap_cons, stored]
  rfl

/-- The stop leaves the gang's moment of change. -/
theorem savingState_since :
    ((savingState.imageStops [(0, .fault 0x13 0x100000 true)]).gang 0 0).map (·.since) = some 0 := by
  decide

theorem savingSince_since :
    ((savingSince.imageStops [(0, .fault 0x13 0x100000 true)]).gang 0 0).map (·.since) = some 5 := by
  decide

/-- Refutes O58: where an image's access stops a save, SAVE_COMPLETE acts on the state as it was, and the gang's moment of change
stays; the statement has that moment set to the present tick first. -/
theorem not_gangEvents : ¬ Obligations.GangEvents := by
  unfold Obligations.GangEvents
  rintro ⟨-, -, -, -, -, -, -, -, saves, -⟩
  obtain ⟨-, -, stops⟩ := saves savingState savingGang rfl
  have claimed : exec .saveComplete savingState = .next (savingSince.imageStops [(0, .fault 0x13 0x100000 true)]) :=
    (stops rfl (by decide) (by decide) rfl).1 _ _ savingSince_stops
  have stopped : exec .saveComplete savingState = .next (savingState.imageStops [(0, .fault 0x13 0x100000 true)]) :=
    exec_saveComplete_stops rfl rfl (by decide) (by decide) rfl savingSince_stops
  have same := congrArg (fun t : State => (t.gang 0 0).map (·.since)) (Host.Outcome.next.inj (stopped.symm.trans claimed))
  exact absurd (savingState_since.symm.trans (same.trans savingSince_since)) (by decide)

end Sys2Proof.Machine
end

section
/-! SUPPORT. The checks of one element, region by region (R133, R134, R140). -/

namespace Sys2Proof.Machine

/-! ## Alignment -/

/-- An element of 2, 4, 8 or 16 bytes at an address that its size does not divide (R140 order 2). -/
def misaligned (a n : Nat) : Bool := (n == 2 || n == 4 || n == 8 || n == 16) && a % n != 0

theorem misaligned_of {a n : Nat} (hn : n ∈ [2, 4, 8, 16]) (ha : a % n ≠ 0) : misaligned a n = true := by
  have size : n = 2 ∨ n = 4 ∨ n = 8 ∨ n = 16 := by simpa using hn
  simp only [misaligned, Bool.and_eq_true, bne_iff_ne]
  exact ⟨by rcases size with rfl | rfl | rfl | rfl <;> rfl, ha⟩

theorem not_misaligned_of {a n : Nat} (h : ∀ k ∈ [2, 4, 8, 16], n = k → a % n = 0) : misaligned a n = false := by
  by_cases hn : n ∈ [2, 4, 8, 16]
  · simp [misaligned, h n hn rfl]
  · simp only [List.mem_cons, List.not_mem_nil, or_false, not_or] at hn
    simp [misaligned, hn]

/-! ## One element -/

section element

variable {s : State} {die n : Nat} {who : Who} {acc : Acc} {addr : DWord}

/-- Outside every region (R133). -/
theorem State.resolve_unmapped (h : 4 ≤ addr.toNat / 2 ^ 56) (h' : addr.toNat / 2 ^ 56 < 255) :
    s.resolve die who acc addr n = .error (.cls 0x10) := by
  have region : ∀ k, k < 4 ∨ k = 255 → (addr.toNat / 2 ^ 56 == k) = false := fun k hk => by
    rw [beq_eq_false_iff_ne]
    omega
  simp only [State.resolve, region 0 (by decide), region 1 (by decide), region 2 (by decide), region 3 (by decide),
    region 255 (by decide), Bool.false_or, Bool.false_eq_true, if_false]

section paged

variable (h : addr.toNat / 2 ^ 56 = 0)
include h

theorem State.resolve_paged_misaligned (hm : misaligned addr.toNat n = true) :
    s.resolve die who acc addr n = .error (.cls 0x11) := by
  have half : addr.toNat / 2 ^ 57 = 0 := by omega
  have positive : addr.toNat.testBit 56 = false := Nat.testBit_lt_two_pow (by omega)
  unfold misaligned at hm
  simp only [State.resolve, h, half, positive, hm]
  rfl

/-- Once its page is known, the checks of an aligned element are its leaf's. -/
theorem State.resolve_paged (hm : misaligned addr.toNat n = false) {x : DWord × Nat}
    (ht : s.translate die who.ctx addr.toNat = .ok x) :
    s.resolve die who acc addr n = s.leafCheck who acc addr.toNat n x.1 x.2 := by
  have half : addr.toNat / 2 ^ 57 = 0 := by omega
  have positive : addr.toNat.testBit 56 = false := Nat.testBit_lt_two_pow (by omega)
  unfold misaligned at hm
  simp only [State.resolve, h, half, positive, hm, ht]
  rfl

end paged

section slices

variable (h : addr.toNat / 2 ^ 56 = 1)
include h

/-- Past the end of the S-window (R142). -/
theorem State.resolve_slice_beyond (hb : 2 ^ 30 ≤ addr.toNat % 2 ^ 56) : s.resolve die who acc addr n = .error (.cls 0x10) := by
  simp only [State.resolve, h, if_pos hb]
  rfl

theorem State.resolve_slice_misaligned (hb : addr.toNat % 2 ^ 56 < 2 ^ 30) (hm : misaligned addr.toNat n = true) :
    s.resolve die who acc addr n = .error (.cls 0x11) := by
  unfold misaligned at hm
  simp only [State.resolve, h, if_neg (Nat.not_le.mpr hb), hm]
  rfl

end slices

section constants

variable (h : addr.toNat / 2 ^ 56 = 2) {g : Nat} (hg : who.wg = some g)
include h hg

/-- Past the end of the parameter block (R133). -/
theorem State.resolve_const_beyond (hb : (s.gridOf (s.wgOf g).grid).paramsz < addr.toNat % 2 ^ 56 + n) :
    s.resolve die who acc addr n = .error (.cls 0x10) := by
  simp only [State.resolve, h, hg, if_pos hb]
  rfl

variable (hb : addr.toNat % 2 ^ 56 + n ≤ (s.gridOf (s.wgOf g).grid).paramsz)
include hb

theorem State.resolve_const_misaligned (hm : misaligned addr.toNat n = true) :
    s.resolve die who acc addr n = .error (.cls 0x11) := by
  unfold misaligned at hm
  simp only [State.resolve, h, hg, if_neg (Nat.not_lt.mpr hb), hm]
  rfl

/-- Constant space is read only (R133). -/
theorem State.resolve_const_write (hm : misaligned addr.toNat n = false) (hw : acc.writes = true) :
    s.resolve die who acc addr n = .error (.cls 0x17) := by
  unfold misaligned at hm
  simp only [State.resolve, h, hg, if_neg (Nat.not_lt.mpr hb), hm, hw]
  rfl

end constants

/-! ## The leaf (R135) -/

variable {va bits : Nat} {e : DWord}

theorem State.translate_cached {ctx : Nat} (hc : s.cached ctx va = some (e, bits)) : s.translate die ctx va = .ok (e, bits) := by
  simp only [State.translate, hc]

/-- A store needs W, and the code heap is the foreman's (R57, log entry 96). -/
theorem State.leafCheck_protected (hw : acc.writes = true)
    (hp : pteW e = false ∨ (s.ctxOf who.ctx).inHeap va n = true) : s.leafCheck who acc va n e bits = .error (.cls 0x15) := by
  have refused : (!pteW e || (s.ctxOf who.ctx).inHeap va n) = true := by
    rcases hp with hp | hp <;> simp [hp]
  simp only [State.leafCheck, hw, refused]
  rfl

/-- Healthy memory in service passes the checks at its home. -/
theorem State.homeCheck_ok {k : Nat} (hk : k + n ≤ s.memTop) (hp : s.home.poison = [])
    (hf : ∀ w, (s.window w).failed = false) : s.homeCheck who acc k n = .ok (.loc k) := by
  have inside : ¬s.memTop < k + n := by omega
  have healthy : ∀ d, s.windowFailed d = false := fun d => by
    unfold State.windowFailed
    cases s.windowAt s.modnum d with
    | none => rfl
    | some w => exact hf w
  have windows : (domainOf k).any s.windowFailed = false := by
    cases domainOf k with
    | none => rfl
    | some d => exact healthy d
  have clean : s.meetsPoison who k n = false := by
    rw [State.meetsPoison, hp]
    rfl
  simp only [State.homeCheck, inside, windows, clean, decide_false, Bool.and_false, Bool.false_eq_true, if_false]

/-- A leaf of device memory that admits the access: the byte of its page, sealed where another, confidential context owns the
page. -/
theorem State.leafCheck_device (hw : acc.writes = true → pteW e = true ∧ (s.ctxOf who.ctx).inHeap va n = false)
    (hx : acc = .fetch → pteX e = true) (ht : pteTarget e = 0)
    (hh : s.homeCheck who acc (pteAddr e + va % 2 ^ bits) n = .ok (.loc (pteAddr e + va % 2 ^ bits))) :
    s.leafCheck who acc va n e bits = .ok (s.sealPlace who.ctx (pteAddr e + va % 2 ^ bits)) := by
  have stores : (acc.writes && (!pteW e || (s.ctxOf who.ctx).inHeap va n)) = false := by
    cases h : acc.writes with
    | false => rfl
    | true => simp [hw h]
  have fetches : (acc == .fetch && !pteX e) = false := by
    by_cases h : acc = .fetch
    · simp [hx h]
    · rw [beq_eq_false_iff_ne.mpr h, Bool.false_and]
  simp only [State.leafCheck, stores, fetches, ht, hh]
  rfl

theorem State.sealPlace_open {ctx k : Nat} (h : ∀ o, s.confOf k = some o → o = ctx) : s.sealPlace ctx k = .loc k := by
  unfold State.sealPlace
  split
  · rfl
  · rename_i o ho
    rw [if_pos (by simpa using h o ho)]

theorem State.sealPlace_sealed {ctx k o : Nat} (h : s.confOf k = some o) (ho : o ≠ ctx) : s.sealPlace ctx k = .sealed k o := by
  simp only [State.sealPlace, h, beq_eq_false_iff_ne.mpr ho]
  rfl

end element

/-- Settles O34, region by region, and of a paged element with a cached translation leaf by leaf. -/
theorem elementChecks : Obligations.ElementChecks := by
  unfold Obligations.ElementChecks
  refine fun s die n who acc a => ⟨State.resolve_unmapped, fun h _ hn ha => State.resolve_paged_misaligned h (misaligned_of hn ha),
    State.resolve_slice_beyond, fun h hb hn ha => State.resolve_slice_misaligned h hb (misaligned_of hn ha), fun h g hg => ?_,
    fun h aligned e b hc => ?_⟩
  case _ =>
    exact ⟨State.resolve_const_beyond h hg, fun hb hn ha => State.resolve_const_misaligned h hg hb (misaligned_of hn ha),
      fun hb aligned => State.resolve_const_write h hg hb (not_misaligned_of aligned)⟩
  case _ =>
    have leaf : s.resolve die who acc a n = s.leafCheck who acc a.toNat n e b :=
      State.resolve_paged h (not_misaligned_of aligned) (x := (e, b)) (State.translate_cached hc)
    refine ⟨fun hw hp => leaf.trans (State.leafCheck_protected hw hp), fun hw hx ht hk hp hf => ?_⟩
    have device := leaf.trans (State.leafCheck_device hw hx ht (State.homeCheck_ok hk hp hf))
    exact ⟨fun ho => device.trans (congrArg _ (State.sealPlace_open ho)),
      fun o ho hne => device.trans (congrArg _ (State.sealPlace_sealed ho hne))⟩

end Sys2Proof.Machine
end

section
/-! SUPPORT. What writes at the homes can change beside memory while arrival words are watched (R147, R148, R154), and the
issue of an instruction, which changes nothing that the checks of its operands read. -/

namespace Sys2Proof.Machine

/-! ## Writes at the homes -/

/-- `t` differs from `s` at most in memory, at the homes, in the assay programs, and in strands that a watched word has
released. -/
def State.AtHomes (s t : State) : Prop :=
  ∃ mem home sched strands, t = { s with mem := mem, home := home, sched := sched, strands := strands }

theorem State.AtHomes.refl (s : State) : s.AtHomes s := ⟨_, _, _, _, rfl⟩

theorem State.AtHomes.trans {s t u : State} (h : s.AtHomes t) (k : t.AtHomes u) : s.AtHomes u := by
  obtain ⟨_, _, _, _, rfl⟩ := h
  obtain ⟨_, _, _, _, rfl⟩ := k
  exact ⟨_, _, _, _, rfl⟩

/-- Such a state agrees with the old one in whatever does not look at what it may have changed. -/
theorem State.AtHomes.keeps {α : Type} {s t : State} (h : s.AtHomes t) (π : State → α)
    (hπ : ∀ mem home sched strands,
      π { s with mem := mem, home := home, sched := sched, strands := strands } = π s := by intros; rfl) : π t = π s := by
  obtain ⟨mem, home, sched, strands, rfl⟩ := h
  exact hπ mem home sched strands

theorem State.atHomes_foldl {α : Type} {f : State → α → State} (hf : ∀ (t : State) x, t.AtHomes (f t x)) (l : List α) (s : State) :
    s.AtHomes (l.foldl f s) :=
  foldl_keeps (P := s.AtHomes) (fun t x ht => ht.trans (hf t x)) l (.refl s)

theorem State.atHomes_strands (s : State) (x : Tab Strand) : s.AtHomes { s with strands := x } := ⟨_, _, _, _, rfl⟩

theorem State.atHomes_setHome (s : State) (f : Home → Home) : s.AtHomes (s.setHome f) := ⟨_, _, _, _, rfl⟩

theorem State.atHomes_showAll (s : State) (die : Nat) : s.AtHomes (s.showAll die) := s.atHomes_setHome _

theorem State.atHomes_noteMiss (s : State) (die : Nat) (who : Who) (addr : DWord) : s.AtHomes (s.noteMiss die who addr) := by
  obtain ⟨m, hm⟩ := s.noteMiss_eq die who addr
  exact ⟨_, _, _, _, hm⟩

theorem State.atHomes_countWaiters (s : State) (k : Nat) : s.AtHomes (s.countWaiters k) := by
  unfold State.countWaiters
  dsimp only
  split
  · exact .refl s
  · exact ⟨_, _, _, _, rfl⟩

theorem State.atHomes_wakeWord (s : State) (k : Nat) : s.AtHomes (s.wakeWord k) := by
  unfold State.wakeWord
  dsimp only
  split
  · exact ⟨_, _, _, _, rfl⟩
  · exact (s.atHomes_strands _).trans ((State.atHomes_foldl State.atHomes_showAll _ _).trans (State.atHomes_countWaiters _ k))

theorem State.atHomes_homeStore (s : State) (die k : Nat) (bytes : List Byte) (covers : Bool) :
    s.AtHomes (s.homeStore die k bytes covers) := by
  unfold State.homeStore
  refine State.AtHomes.trans (t := (s.homeWrite die k bytes covers).setSched fun d => d.forget k bytes.length)
    ⟨_, _, _, _, rfl⟩ (State.atHomes_foldl (fun t w => ?_) _ _)
  split
  · exact .refl t
  · exact t.atHomes_wakeWord w

theorem State.atHomes_applyWrite (s : State) (id : Nat) : s.AtHomes (s.applyWrite id) := by
  unfold State.applyWrite
  split
  · exact .refl s
  · exact (s.atHomes_setHome _).trans (State.atHomes_homeStore ..)

theorem State.atHomes_flushDie (s : State) (die : Nat) : s.AtHomes (s.flushDie die) :=
  State.atHomes_foldl State.atHomes_applyWrite _ s

theorem State.atHomes_watchWord (s : State) (k : Nat) : s.AtHomes (s.watchWord k) := by
  unfold State.watchWord
  split
  · exact .refl s
  · exact (s.atHomes_setHome _).trans (State.atHomes_countWaiters _ k)

theorem State.atHomes_atomAt (s : State) (die k aop n b cmp : Nat) : s.AtHomes (s.atomAt die k aop n b cmp).1 :=
  State.atHomes_homeStore ..

/-! ## Issue -/

section begun

variable (s : State) (c : Issue) (st : Strand)

@[simp] theorem State.begun_who : (s.begun c).who (s.at_ st) = s.who st := rfl
@[simp] theorem State.begun_ctxNo : (s.begun c).ctxNo (s.at_ st) = s.ctxNo st := rfl
@[simp] theorem State.at_core : (s.at_ st).core = st.core := rfl
@[simp] theorem State.at_view : (s.at_ st).view = st.view := rfl
@[simp] theorem State.at_viewAt (j : Nat) : (s.at_ st).viewAt j = st.viewAt j := rfl
@[simp] theorem State.at_isRange : (s.at_ st).isRange = st.isRange := rfl
@[simp] theorem State.at_constPred (k : Nat) : (s.at_ st).constPred k = st.constPred k := rfl
@[simp] theorem State.at_laneTouches (k n : Nat) (addr : Nat → DWord) : (s.at_ st).laneTouches k n addr = st.laneTouches k n addr := rfl
@[simp] theorem State.at_rangeTouches (n : Nat) (addr : Nat → DWord) : (s.at_ st).rangeTouches n addr = st.rangeTouches n addr := rfl
@[simp] theorem State.at_stillParked : (s.at_ st).stillParked = st.stillParked := rfl
@[simp] theorem State.at_sbytes (r n : Nat) : (s.at_ st).sbytes r n = st.sbytes r n := rfl
@[simp] theorem State.begun_vaddr (r j : Nat) : (s.begun c).vaddr (s.at_ st) r j = s.pairV st r j := rfl
@[simp] theorem State.begun_vbytes (r n j : Nat) : (s.begun c).vbytes (s.at_ st) r n j = s.vbytes st r n j := rfl

theorem State.at_caps_none (h : st.caps = none) : (s.at_ st).caps = none := by
  show st.caps.map _ = none
  rw [h]
  rfl

/-- The clause's flags are the same once its first instruction has issued (R215). -/
theorem State.at_clause_map {α : Type} (f : Clause → α) (hf : ∀ k : Clause, f { k with started := true } = f k) :
    (s.at_ st).clause.map f = st.clause.map f := by
  show (st.clause.map fun k => { k with started := true }).map f = _
  rw [Option.map_map]
  exact congrArg (fun g => st.clause.map g) (funext hf)

/-- A retirement leaves what a strand's reads see. -/
@[simp] theorem State.viewByte_retired (x : State) (i : Instr) (v : View) (a : Nat) :
    (x.retire c i).ended.viewByte v a = x.viewByte v a := rfl

end begun

end Sys2Proof.Machine
end

section
/-! SUPPORT. Arrival words (R147, R148, R292, R293). -/

namespace Sys2Proof.Machine

/-- Where an arrival word lies does not change with the issue of the instruction that names it. -/
theorem State.wordAt_begun (s : State) (c : Issue) (st : Strand) (acc : Acc) (addr : DWord) :
    (s.begun c).wordAt (s.at_ st) acc addr = s.wordAt st acc addr := rfl

section issue

variable {s : State} {c : Issue} {st : Strand} {sa sb sc : BitVec 6} {k : Nat}

/-- AWINIT watches the word, lets the die's writes reach their homes, and writes TARGET and a COUNT of 0 (R292). -/
theorem exec_awinit_pass (h : s.Issues c st (.awinit sa sb) (useS sa 2 ++ useS sb))
    (hk : s.wordAt st .write (st.dreg sa.toNat) = .ok k) :
    exec (.awinit sa sb) s = .next (((((s.begun c).watchWord k).flushDie (dieOf st.core)).homeStore (dieOf st.core) k
      (leBytes 4 (st.sreg sb.toNat).toNat ++ leBytes 4 0) false).retire c (.awinit sa sb)).ended := by
  obtain ⟨hc, hs, hg⟩ := h
  rw [exec_awinit, execAwinit, issue_pass hc hs hg]
  simp only [State.wordAt_begun, State.at_dreg, State.at_sreg, State.at_core, hk]

variable (h : s.Issues c st (.await sa sb sc) (useS sc ++ useS sa 2 ++ useS sb))
  (hk : s.wordAt st .read (st.dreg sa.toNat) = .ok k) (hq : (st.async.all fun a => !a.waitOn.contains (.word k)) = true)
include h hk hq

/-- AWAIT without a fault to report watches the word, lets the die's writes reach their homes, and goes on or waits as GEN
tells (R293). -/
theorem exec_await_pass :
    let x := ((s.begun c).watchWord k).flushDie (dieOf st.core)
    exec (.await sa sb sc) s = .next (if BitVec.ofNat 32 (wordField x.mem k 2) = st.sreg sb.toNat then
        ((x.wait c (.await k (st.sreg sb.toNat)
          (if st.sreg sc.toNat = 0 then none else some (x.mod.tick.toNat + (st.sreg sc.toNat).toNat)) sc)).countWaiters k).ended
      else (((x.acquireAt (s.at_ st) 4).updStrand c.uid fun y => y.setS sc.toNat 0).retire c (.await sa sb sc)).ended) := by
  obtain ⟨hc, hs, hg⟩ := h
  have quiet : (s.at_ st).async.any (AsyncFault.onWord k) = false := by
    show st.async.any (AsyncFault.onWord k) = false
    rw [List.any_eq_not_all_not]
    exact congrArg not hq
  have zero : (st.sreg sc.toNat).toNat = 0 ↔ st.sreg sc.toNat = 0 := (BitVec.toNat_eq (y := 0)).symm
  rw [exec_await, execAwait, issue_pass hc hs hg]
  simp only [State.wordAt_begun, State.at_dreg, State.at_sreg, State.at_core, hk, quiet, Bool.false_eq_true, if_false, bne_iff_ne,
    ne_eq, ite_not, zero]
  split
  · rfl
  · rfl

end issue

/-! ## Arrivals (R148) -/

/-- A number read at an address that a write leaves alone. -/
theorem mread_mwrite_outside {m : Memory} {a k n : Nat} {bs : List Byte} (h : a + n ≤ k ∨ k + bs.length ≤ a) :
    mread (mwrite m k bs) a n = mread m a n :=
  List.map_congr_left fun i hi => mget_mwrite_outside _ _ _ _ (by
    have := List.mem_range.mp hi
    omega)

/-- Bytes written one run after the other. -/
theorem mwrite_append (bs cs : List Byte) : ∀ (m : Memory) (a : Nat), mwrite m a (bs ++ cs) = mwrite (mwrite m a bs) (a + bs.length) cs := by
  induction bs with
  | nil => intro m a; rfl
  | cons b bs ih =>
    intro m a
    rw [List.cons_append, mwrite, ih, List.length_cons, Nat.add_assoc, Nat.add_comm 1]
    rfl

section arrivals

variable {s : State} (hw : s.home.words = []) {die k b : Nat} (ht : leNat (mread s.mem k 4) ≠ 0)
include hw ht

/-- An arrival writes COUNT and GEN. -/
theorem State.arrive_mem : (s.arrive die k b).mem = mwrite s.mem (k + 4)
    (leBytes 4 ((leNat (mread s.mem (k + 4) 4) + b) % leNat (mread s.mem k 4)) ++
      leBytes 4 ((leNat (mread s.mem (k + 8) 4) + (leNat (mread s.mem (k + 4) 4) + b) / leNat (mread s.mem k 4)) % 2 ^ 32)) := by
  have target : wordField s.mem k 0 ≠ 0 := ht
  unfold State.arrive
  simp only [if_neg target, State.homeStore_mem hw]
  rfl

theorem State.arrive_target : leNat (mread (s.arrive die k b).mem k 4) = leNat (mread s.mem k 4) := by
  rw [State.arrive_mem hw ht, mread_mwrite_outside (.inl (Nat.le_refl _))]

/-- COUNT keeps what TARGET does not take. -/
theorem State.arrive_count : leNat (mread (s.arrive die k b).mem (k + 4) 4) =
    (leNat (mread s.mem (k + 4) 4) + b) % leNat (mread s.mem k 4) := by
  have small : leNat (mread s.mem k 4) < 256 ^ 4 := by
    simpa using leNat_lt (mread s.mem k 4)
  rw [State.arrive_mem hw ht, mwrite_append, mread_mwrite_outside (.inl (by rw [length_leBytes])), leNat_mread_mwrite]
  exact Nat.mod_eq_of_lt ((Nat.mod_lt _ (Nat.pos_of_ne_zero ht)).trans small)

/-- GEN advances by one for each full TARGET. -/
theorem State.arrive_gen : leNat (mread (s.arrive die k b).mem (k + 8) 4) =
    (leNat (mread s.mem (k + 8) 4) + (leNat (mread s.mem (k + 4) 4) + b) / leNat (mread s.mem k 4)) % 2 ^ 32 := by
  rw [State.arrive_mem hw ht, mwrite_append, length_leBytes, Nat.add_assoc, leNat_mread_mwrite]
  exact Nat.mod_mod ..

end arrivals

/-- Settles O36: AWINIT and AWAIT past the gate, and what an arrival leaves in each field of the word. -/
theorem arrivalWords : Obligations.ArrivalWords := by
  unfold Obligations.ArrivalWords
  refine ⟨fun sa sb s c st k h hk => exec_awinit_pass h hk, fun sa sb sc s c st k h hk hq => ?_, fun s die k b hw ht =>
    ⟨State.arrive_target hw ht, State.arrive_count hw ht, State.arrive_gen hw ht⟩⟩
  have pass := exec_await_pass h hk hq
  exact ⟨fun hne => pass.trans (congrArg _ (if_neg hne)), fun heq => pass.trans (congrArg _ (if_pos heq))⟩

end Sys2Proof.Machine
end

section
/-! SUPPORT. Accesses whose elements all lie in this module: of a strand as a whole, and of its threads (R128, R140, R281). -/

namespace Sys2Proof.Machine

/-! ## Misses of walks (R137) -/

/-- `t` differs from `s` at most in the misses that wait for walks. -/
def State.OnlyMisses (s t : State) : Prop := ∃ m, t = { s with home := { s.home with misses := m } }

theorem State.OnlyMisses.refl (s : State) : s.OnlyMisses s := ⟨_, rfl⟩

theorem State.OnlyMisses.trans {s t u : State} (h : s.OnlyMisses t) (k : t.OnlyMisses u) : s.OnlyMisses u := by
  obtain ⟨_, rfl⟩ := h
  obtain ⟨_, rfl⟩ := k
  exact ⟨_, rfl⟩

theorem State.onlyMisses_noteMiss (s : State) (die : Nat) (who : Who) (addr : DWord) : s.OnlyMisses (s.noteMiss die who addr) :=
  s.noteMiss_eq die who addr

theorem State.onlyMisses_foldl {α : Type} {f : State → α → State} (hf : ∀ (t : State) x, t.OnlyMisses (f t x)) (l : List α) (s : State) :
    s.OnlyMisses (l.foldl f s) :=
  foldl_keeps (P := s.OnlyMisses) (fun t x ht => ht.trans (hf t x)) l (.refl s)

theorem State.OnlyMisses.atHomes {s t : State} (h : s.OnlyMisses t) : s.AtHomes t := by
  obtain ⟨m, rfl⟩ := h
  exact ⟨_, _, _, _, rfl⟩

/-! ## Values read in a chunk (R203) -/

/-- Outside a chunk, and of bytes of this module, a read leaves no data beats. -/
theorem State.noteBeats_near {s : State} {v : View} {key : Nat} (data : List Byte)
    (h : s.chunkOf v.core (s.gridOf (s.wgOf v.wg).grid).ctx = none ∨ key < 2 ^ 64) :
    s.noteBeats v (.loc key) data = (s, data) := by
  unfold State.noteBeats
  rcases h with h | h
  · simp only [h]
    cases (Place.loc key).far <;> rfl
  · have near : (Place.loc key).far = false := decide_eq_false (Nat.not_le.mpr h)
    simp only [near]

/-! ## Elements of the threads of a strand -/

section lanes

variable {s : State} {c : Issue} {st : Strand} {i : Instr} {acc : Acc} {ts : List Touch}

/-- The issue of the instruction changes nothing that its checks read. -/
theorem State.checkAll_begun (die : Nat) (who : Who) (stop : Bool) : ∀ (ts : List Touch) (s : State),
    (State.checkAll die who acc stop ts (s.begun c)).2 = (State.checkAll die who acc stop ts s).2
  | [], _ => rfl
  | t :: ts, s => by
    have rest := State.checkAll_begun die who stop ts (s.noteMiss die who t.addr)
    simp only [State.checkAll, State.resolve_begun, State.noteMiss_begun]
    cases s.resolve die who acc t.addr t.n with
    | ok p => exact congrArg ((t, Except.ok p) :: ·) rest
    | error b =>
      cases stop with
      | true => rfl
      | false => exact congrArg ((t, Except.error b) :: ·) rest

theorem State.onlyMisses_checkAll (die : Nat) (who : Who) (stop : Bool) : ∀ (ts : List Touch) (s : State),
    s.OnlyMisses (State.checkAll die who acc stop ts s).1
  | [], s => .refl s
  | t :: ts, s => by
    have first := s.onlyMisses_noteMiss die who t.addr
    have rest := first.trans (State.onlyMisses_checkAll die who stop ts (s.noteMiss die who t.addr))
    simp only [State.checkAll]
    cases s.resolve die who acc t.addr t.n with
    | ok p => exact rest
    | error b =>
      cases stop with
      | true => exact first
      | false => exact rest

/-- Elements that all pass their checks in this module act at once, and the instruction is over. -/
theorem State.laneFinish_lands {key : Touch → Nat} {ask : Touch → Nat → Nat → Ask}
    {act : State → List (Touch × Place) → State} (hp : st.stillParked = []) :
    s.laneFinish c st i acc (ts.map fun t => (t, .ok (.loc (key t)))) ask act =
      ((act s (ts.map fun t => (t, .loc (key t)))).clearAnswers (.strand c.uid)).retire c i := by
  have bads : s.bads (.strand c.uid) (ts.map fun t => (t, .ok (.loc (key t)))) = [] := by
    simp [State.bads, State.faultOf]
  have goods : s.goods (.strand c.uid) (ts.map fun t => (t, .ok (.loc (key t)))) = ts.map fun t => (t, .loc (key t)) := by
    simp [State.goods, State.faultOf, List.filterMap_map]
  simp only [State.laneFinish, bads, goods, List.filterMap_map, Function.comp_def, List.filterMap_none, hp, List.isEmpty_nil, if_true]

/-- A lane access whose elements all land. -/
theorem State.laneAccess_lands {key : Nat → Nat} {ask : Touch → Nat → Nat → Ask} {act : State → List (Touch × Place) → State}
    (h : s.Lands st acc ts key) :
    (s.begun c).laneAccess c (s.at_ st) i acc ts ask act =
      ((act (State.checkAll (dieOf st.core) (s.who st) acc st.isRange ts (s.begun c)).1
        (ts.map fun t => (t, .loc (key t.j)))).clearAnswers (.strand c.uid)).retire c i := by
  obtain ⟨park, checked⟩ := h
  have parked : (s.at_ st).stillParked = [] := by
    rw [State.at_stillParked, Strand.stillParked, park, ite_self]
  have checks := (State.checkAll_begun (c := c) (dieOf st.core) (s.who st) st.isRange ts s).trans checked
  unfold State.laneAccess
  simp only [State.at_core, State.begun_who, State.at_isRange, checks]
  exact State.laneFinish_lands (key := fun t => key t.j) parked

/-- A range strand whose predicate is true of every thread acts (R112). -/
theorem State.rangePred_true {k : Nat} {x : State} (h : st.constPred k = some true) : s.rangePred c st i k x = x := by
  simp only [State.rangePred, h]

end lanes

/-! ## Old values of atomics -/

/-- A list of values by position, each with its position. -/
theorem zipIdx_map_range {α : Type} (f : Nat → α) (n : Nat) : ((List.range n).map f).zipIdx = (List.range n).map fun i => (f i, i) := by
  apply List.ext_getElem
  · simp
  · intro i h1 h2
    simp

/-- The words of the old value of an atomic, each with its place (R288). -/
theorem oldWords_zipIdx {m old : Nat} (h : old < 256 ^ (4 * m)) :
    (oldWords (4 * m) (leNat (leBytes (4 * m) old))).zipIdx =
      (List.range m).map fun q => (BitVec.ofNat 32 (old / 2 ^ (32 * q)), q) := by
  rw [leNat_leBytes, Nat.mod_eq_of_lt h, oldWords, Nat.mul_div_cancel_left m (by decide), zipIdx_map_range]

theorem State.atomAt_old_lt (s : State) (die k aop n b cmp : Nat) : (s.atomAt die k aop n b cmp).2 < 256 ^ n := by
  have h := leNat_lt (mread s.mem k n)
  rw [length_mread] at h
  exact h

end Sys2Proof.Machine
end

section
/-! SUPPORT. Uniform loads, stores and atomics outside a capsule (R281, R337, R338). -/

namespace Sys2Proof.Machine

section access

variable {s : State} {c : Issue} {st : Strand} {i : Instr} {acc : Acc} {addr : DWord} {n : Nat} {ask : Nat → Nat → Ask}
  {act : State → Place → State}

/-- A uniform access that fails a check takes the trap of its class (R140, R189). -/
theorem State.uniformAccess_fault {k : Nat} (hr : s.resolve (dieOf st.core) (s.who st) acc addr n = .error (.cls k)) :
    s.uniformAccess c st i acc addr n ask act =
      ((s.noteMiss (dieOf st.core) (s.who st) addr).clearAnswers (.strand c.uid)).takeTrap c.uid
        { cls := k, addr := addr, flags := acc.flag, pc := some c.pc, elems := [(k, 0, addr.toNat)] } := by
  simp only [State.uniformAccess, hr, State.faultOf]

/-- One place in this module takes its bytes as a write that waits. -/
theorem State.storeAll_single (s : State) (v : View) (key : Nat) (data : List Byte) :
    s.storeAll [(v, .loc key, data)] = s.addWrite v key data (coversGranule [(key, data)] key) s.home.nextWrite := rfl

theorem length_wordBytes {n : Nat} {ws : List Word} (h : n ≤ 4 * ws.length) : (wordBytes n ws).length = n := by
  have all : (ws.flatMap fun w => leBytes 4 w.toNat).length = 4 * ws.length := by
    simp [List.length_flatMap, length_leBytes, Nat.mul_comm]
  rw [wordBytes, List.length_take, all, Nat.min_eq_left h]

theorem Strand.length_sbytes (st : Strand) (r n : Nat) : (st.sbytes r n).length = n := by
  refine length_wordBytes ?_
  rw [List.length_map, List.length_range]
  omega

/-- What an operation that a strand starts leaves of the state (R218). -/
theorem State.startOp_touched {m : Tab (List (Nat × Nat))} {dstV dstS : List Nat} {res : List (Nat × Nat × Word)}
    {sres : List (Nat × Word)} {external : Bool} {ahead : Option Ahead} {x : State}
    (hx : x = { s.begun c with home := { s.home with misses := m } }) :
    s.Touched ((x.startOp c st dstV dstS res sres external ahead).retire c i).ended c i fun y => { y with
      clause := y.clause.map fun k => { k with dst := k.dst ++ (dstV.map (fun r => (1, r)) ++ dstS.map (fun r => (2, r))) } } := by
  subst hx
  exact ⟨s.retire_begun c i fun y => { y with
    clause := y.clause.map fun k => { k with dst := k.dst ++ (dstV.map (fun r => (1, r)) ++ dstS.map (fun r => (2, r))) } }, rfl, rfl⟩

end access

section instructions

variable {s : State} {c : Issue} {st : Strand} {sa : BitVec 6} {key : Nat}

/-! ## Atomics -/

section atomic

variable {sb sc cmp : BitVec 6} {aop : BitVec 5} {w nr : BitVec 1} {disp : BitVec 16}
  (h : s.Issues c st (.satom sa sb sc aop w nr cmp disp) ((if nr = 1 then [] else useS sc (if w = 1 then 2 else 1)) ++ useS sa 2 ++
    useS sb (if w = 1 then 2 else 1) ++ (if aop = 9 then useS cmp (if w = 1 then 2 else 1) else [])))
include h

omit h in
/-- The atomics that PCI Express has (R47). -/
theorem hostAtomic_toNat (aop : BitVec 5) : hostAtomic aop.toNat = (aop == 0 || aop == 8 || aop == 9) := by
  have eq : ∀ k < 32, (aop.toNat == k) = (aop == BitVec.ofNat 5 k) := fun k hk => by
    rw [Bool.eq_iff_iff, beq_iff_eq, beq_iff_eq, BitVec.toNat_eq, BitVec.toNat_ofNat, Nat.mod_eq_of_lt hk]
  rw [hostAtomic, eq 0 (by decide), eq 8 (by decide), eq 9 (by decide)]
  rfl

/-- SATOM of this module acts at the home once the die's writes are there (R158, R338). -/
theorem exec_satom_pass (near : s.chunkOf st.core (s.ctxNo st) = none ∨ key < 2 ^ 64)
    (hr : s.resolve (dieOf st.core) (s.who st) (.atomic (aop == 0 || aop == 8 || aop == 9)) (st.dreg sa.toNat + disp.signExtend 64)
      (4 * if w = 1 then 2 else 1) = .ok (.loc key)) :
    let m := if w = 1 then 2 else 1
    let r := (((s.begun c).noteMiss (dieOf st.core) (s.who st) (st.dreg sa.toNat + disp.signExtend 64)).flushDie
      (dieOf st.core)).atomAt (dieOf st.core) key aop.toNat (4 * m) (leNat (st.sbytes sb.toNat (4 * m)))
        (leNat (st.sbytes cmp.toNat (4 * m)))
    exec (.satom sa sb sc aop w nr cmp disp) s = .next ((r.1.startOp c (s.at_ st) []
      (if nr = 1 then [] else (List.range m).map (sc.toNat + ·)) []
      (if nr = 1 then [] else (List.range m).map fun q => (sc.toNat + q, BitVec.ofNat 32 (r.2 / 2 ^ (32 * q)))) false none).retire
        c (.satom sa sb sc aop w nr cmp disp)).ended := by
  obtain ⟨hc, hs, hg⟩ := h
  intro m r
  have chunk : r.1.chunkOf st.core (r.1.gridOf (r.1.wgOf st.view.wg).grid).ctx = s.chunkOf st.core (s.ctxNo st) :=
    (((State.atHomes_noteMiss ..).trans (State.atHomes_flushDie ..)).trans (State.atHomes_atomAt ..)).keeps
      fun t => t.chunkOf st.core (t.gridOf (t.wgOf st.view.wg).grid).ctx
  have beats : ∀ data, r.1.noteBeats st.view (.loc key) data = (r.1, data) := fun data =>
    State.noteBeats_near data (near.imp_left chunk.trans)
  have old : r.2 < 256 ^ (4 * m) := State.atomAt_old_lt ..
  have words : ((oldWords (4 * m) (leNat (leBytes (4 * m) r.2))).zipIdx).map (fun y => (sc.toNat + y.2, y.1)) =
      (List.range m).map fun q => (sc.toNat + q, BitVec.ofNat 32 (r.2 / 2 ^ (32 * q))) := by
    rw [oldWords_zipIdx old, List.map_map]
    rfl
  rw [exec_satom, execSatom, issue_pass hc hs (by simpa only [beq_iff_eq, noExcess] using hg)]
  simp only [hostAtomic_toNat, beq_iff_eq, State.at_dreg]
  rw [State.uniformAccess_loc (s := s.begun c) (st := s.at_ st) (key := key) hr]
  simp only [State.at_core, State.begun_who, State.at_sbytes, State.at_view]
  rw [beats, ← words]

theorem exec_satom_faults {k : Nat}
    (hr : s.resolve (dieOf st.core) (s.who st) (.atomic (aop == 0 || aop == 8 || aop == 9)) (st.dreg sa.toNat + disp.signExtend 64)
      (4 * if w = 1 then 2 else 1) = .error (.cls k)) :
    let addr := st.dreg sa.toNat + disp.signExtend 64
    exec (.satom sa sb sc aop w nr cmp disp) s = .next ((((s.begun c).noteMiss (dieOf st.core) (s.who st) addr).clearAnswers
      (.strand c.uid)).takeTrap c.uid { cls := k, addr := addr, flags := 8, pc := some c.pc, elems := [(k, 0, addr.toNat)] }).ended := by
  obtain ⟨hc, hs, hg⟩ := h
  rw [exec_satom, execSatom, issue_pass hc hs (by simpa only [beq_iff_eq, noExcess] using hg)]
  simp only [hostAtomic_toNat, beq_iff_eq, State.at_dreg]
  rw [State.uniformAccess_fault (s := s.begun c) (st := s.at_ st) hr]
  rfl

end atomic

variable (hcaps : st.caps = none)
include hcaps

/-! ## Loads -/

section load

variable {i : Instr} {sd : BitVec 6} {sz : BitVec 3} {off : BitVec 9} (h : s.Issues c st i (useS sd (szRegs sz) ++ useS sa 2))
include h

/-- The words that a load of `key` gives, by the registers that take them. -/
def State.loadedWords (s : State) (st : Strand) (sd : BitVec 6) (sz : BitVec 3) (key : Nat) : List (Nat × Word) :=
  ((extend sz (s.view st.view key (szBytes sz))).zipIdx).map fun w => (sd.toNat + w.2, w.1)

/-- A load from this module starts the operation that delivers its words (R218, R281). -/
theorem uniformLoad_pass (near : s.chunkOf st.core (s.ctxNo st) = none ∨ key < 2 ^ 64)
    (hr : s.resolve (dieOf st.core) (s.who st) .read (st.dreg sa.toNat + off.signExtend 64 * BitVec.ofNat 64 (szBytes sz))
      (szBytes sz) = .ok (.loc key)) :
    ∃ m, uniformLoad i sd sa sz off s = .next (((State.startOp { s.begun c with home := { s.home with misses := m } } c (s.at_ st) []
      ((List.range (szRegs sz)).map (sd.toNat + ·)) [] (s.loadedWords st sd sz key) false none).retire c i).ended) := by
  obtain ⟨hc, hs, hg⟩ := h
  obtain ⟨m, hm⟩ := (s.begun c).noteMiss_eq (dieOf st.core) (s.who st)
    (st.dreg sa.toNat + off.signExtend 64 * BitVec.ofNat 64 (szBytes sz))
  have chunk := (State.atHomes_noteMiss (s.begun c) (dieOf st.core) (s.who st)
    (st.dreg sa.toNat + off.signExtend 64 * BitVec.ofNat 64 (szBytes sz))).keeps
      fun t => t.chunkOf st.core (t.gridOf (t.wgOf st.view.wg).grid).ctx
  refine ⟨m, ?_⟩
  rw [uniformLoad, issue_pass hc hs hg]
  simp only [s.at_caps_none st hcaps, State.at_dreg]
  rw [State.uniformAccess_loc (s := s.begun c) (st := s.at_ st) (key := key) hr]
  simp only [State.at_core, State.begun_who, State.at_view]
  rw [State.noteBeats_near _ (near.imp_left chunk.trans), hm]
  rfl

theorem uniformLoad_faults {k : Nat}
    (hr : s.resolve (dieOf st.core) (s.who st) .read (st.dreg sa.toNat + off.signExtend 64 * BitVec.ofNat 64 (szBytes sz))
      (szBytes sz) = .error (.cls k)) :
    let addr := st.dreg sa.toNat + off.signExtend 64 * BitVec.ofNat 64 (szBytes sz)
    uniformLoad i sd sa sz off s = .next ((((s.begun c).noteMiss (dieOf st.core) (s.who st) addr).clearAnswers
      (.strand c.uid)).takeTrap c.uid { cls := k, addr := addr, flags := 0, pc := some c.pc, elems := [(k, 0, addr.toNat)] }).ended := by
  obtain ⟨hc, hs, hg⟩ := h
  rw [uniformLoad, issue_pass hc hs hg]
  simp only [s.at_caps_none st hcaps, State.at_dreg]
  rw [State.uniformAccess_fault (s := s.begun c) (st := s.at_ st) hr]
  rfl

/-- What a load from this module changes. -/
theorem uniformLoad_result (near : s.chunkOf st.core (s.ctxNo st) = none ∨ key < 2 ^ 64)
    (hr : s.resolve (dieOf st.core) (s.who st) .read (st.dreg sa.toNat + off.signExtend 64 * BitVec.ofNat 64 (szBytes sz))
      (szBytes sz) = .ok (.loc key)) : ∃ t, uniformLoad i sd sa sz off s = .next t ∧
    t.ops = tset s.ops s.next
      { flag := (st.clause.map (·.setA)).getD 15, setB := false, holders := [c.uid], wg := st.wg, warp := st.warp, dstV := []
        dstS := (List.range (szRegs sz)).map (sd.toNat + ·), res := [], sres := s.loadedWords st sd sz key, external := false
        ahead := none } ∧
    s.Touched t c i fun x => { x with clause := x.clause.map fun k =>
      { k with dst := k.dst ++ (List.range (szRegs sz)).map fun q => (2, sd.toNat + q) } } := by
  obtain ⟨m, hm⟩ := uniformLoad_pass hcaps h near hr
  have flag : (s.at_ st).clause.map (·.setA) = st.clause.map (·.setA) := s.at_clause_map st _ fun _ => rfl
  refine ⟨_, hm, ?_, ?_⟩
  · show tset s.ops s.next _ = _
    rw [flag]
    rfl
  · have touched := State.startOp_touched (s := s) (c := c) (st := s.at_ st) (i := i) (m := m) (dstV := [])
      (dstS := (List.range (szRegs sz)).map (sd.toNat + ·)) (res := []) (sres := s.loadedWords st sd sz key) (external := false)
      (ahead := none) rfl
    simpa only [List.map_nil, List.nil_append, List.map_map, Function.comp_def] using touched

end load

/-! ## Stores -/

section store

variable {ss : BitVec 6} {sz : BitVec 3} {off : BitVec 9} (h : s.Issues c st (.sst ss sa sz off) (useS sa 2 ++ useS ss (szRegs sz)))
include h

/-- A store into this module waits for its home (R154). -/
theorem exec_sst_pass
    (hr : s.resolve (dieOf st.core) (s.who st) .write (st.dreg sa.toNat + off.signExtend 64 * BitVec.ofNat 64 (szBytes sz))
      (szBytes sz) = .ok (.loc key)) :
    ∃ m covers, exec (.sst ss sa sz off) s = .next (((State.addWrite { s.begun c with home := { s.home with misses := m } }
      st.view key (st.sbytes ss.toNat (szBytes sz)) covers s.home.nextWrite).retire c (.sst ss sa sz off)).ended) := by
  obtain ⟨hc, hs, hg⟩ := h
  obtain ⟨m, hm⟩ := (s.begun c).noteMiss_eq (dieOf st.core) (s.who st)
    (st.dreg sa.toNat + off.signExtend 64 * BitVec.ofNat 64 (szBytes sz))
  refine ⟨m, coversGranule [(key, st.sbytes ss.toNat (szBytes sz))] key, ?_⟩
  rw [exec_sst, execSst, issue_pass hc hs hg]
  simp only [s.at_caps_none st hcaps, State.at_dreg]
  rw [State.uniformAccess_loc (s := s.begun c) (st := s.at_ st) (key := key) hr]
  simp only [State.at_core, State.begun_who, hm, State.storeAll_single]
  rfl

theorem exec_sst_faults {k : Nat}
    (hr : s.resolve (dieOf st.core) (s.who st) .write (st.dreg sa.toNat + off.signExtend 64 * BitVec.ofNat 64 (szBytes sz))
      (szBytes sz) = .error (.cls k)) :
    let addr := st.dreg sa.toNat + off.signExtend 64 * BitVec.ofNat 64 (szBytes sz)
    exec (.sst ss sa sz off) s = .next ((((s.begun c).noteMiss (dieOf st.core) (s.who st) addr).clearAnswers
      (.strand c.uid)).takeTrap c.uid { cls := k, addr := addr, flags := 8, pc := some c.pc, elems := [(k, 0, addr.toNat)] }).ended := by
  obtain ⟨hc, hs, hg⟩ := h
  rw [exec_sst, execSst, issue_pass hc hs hg]
  simp only [s.at_caps_none st hcaps, State.at_dreg]
  rw [State.uniformAccess_fault (s := s.begun c) (st := s.at_ st) hr]
  rfl

/-- What a store into this module changes. -/
theorem exec_sst_result
    (hr : s.resolve (dieOf st.core) (s.who st) .write (st.dreg sa.toNat + off.signExtend 64 * BitVec.ofNat 64 (szBytes sz))
      (szBytes sz) = .ok (.loc key)) : ∃ t, exec (.sst ss sa sz off) s = .next t ∧
    ((0 < st.count ∨ st.isHandler = true) → ∀ b < szBytes sz, s.waitersByte (key + b) = false →
      t.viewByte st.view (key + b) = (st.sbytes ss.toNat (szBytes sz)).getD b 0) ∧
    (∀ (v : View) (a : Nat), (a < key ∨ key + szBytes sz ≤ a) → t.viewByte v a = s.viewByte v a) ∧ t.mem = s.mem ∧
    { t with home := s.home } = s.stepped c (.sst ss sa sz off) id ∧
    { t.home with misses := s.home.misses, writes := s.home.writes, nextWrite := s.home.nextWrite } = s.home := by
  obtain ⟨m, covers, hm⟩ := exec_sst_pass hcaps h hr
  have length := st.length_sbytes ss.toNat (szBytes sz)
  refine ⟨_, hm, fun hv b hb hw => ?_, fun v a ha => ?_, rfl, s.retire_only c _, rfl⟩
  · have own := State.viewByte_addWrite_own { s.begun c with home := { s.home with misses := m } } st.view (k := key) (a := key + b)
      (bytes := st.sbytes ss.toNat (szBytes sz)) covers s.home.nextWrite (Strand.view_shares_self hv) (by omega) (by omega) hw
    rw [State.viewByte_retired, own, Nat.add_sub_cancel_left]
  · rw [State.viewByte_retired, State.viewByte_addWrite_outside _ _ _ _ _ (by omega)]
    rfl

end store

end instructions

/-- Settles O33: each instruction where its element passes and where it faults. -/
theorem uniformMemoryAccesses : Obligations.UniformMemoryAccesses := by
  unfold Obligations.UniformMemoryAccesses
  refine ⟨fun s c st key hcaps near => ⟨?_, fun ss sa sz off h hr => exec_sst_result hcaps h hr,
      fun sa sb sc aop w nr cmp disp h hr => exec_satom_pass h near hr⟩,
    fun s c st k hcaps => ⟨?_, fun ss sa sz off h hr => exec_sst_faults hcaps h hr,
      fun sa sb sc aop w nr cmp disp h hr => exec_satom_faults h hr⟩⟩
  · rintro i sd sa sz off (rfl | rfl) h n hr
    · exact uniformLoad_result hcaps h near hr
    · exact uniformLoad_result hcaps h near hr
  · rintro i sd sa sz off (rfl | rfl) h addr hr
    · exact uniformLoad_faults hcaps h hr
    · exact uniformLoad_faults hcaps h hr

end Sys2Proof.Machine
end

section
/-! SUPPORT. Lane atomics (R158, R183, R288, R289). -/

namespace Sys2Proof.Machine

/-! ## One atomic at its home -/

/-- The value that an atomic leaves in 32 bits, for each operation (R183, R288). -/
theorem atomNew_word (old b cmp : Word) :
    let f := fun aop => BitVec.ofNat 32 (atomNew aop 32 old.toNat b.toNat cmp.toNat)
    f 0 = old + b ∧
    f 1 = (if old.toInt < b.toInt then old else b) ∧ f 2 = (if old.toInt < b.toInt then b else old) ∧
    f 3 = (if old.toNat ≤ b.toNat then old else b) ∧ f 4 = (if old.toNat ≤ b.toNat then b else old) ∧
    f 5 = (old &&& b) ∧ f 6 = (old ||| b) ∧ f 7 = (old ^^^ b) ∧ f 8 = b ∧ f 9 = (if old = cmp then b else old) ∧
    f 10 = BitVec.ofNat 32 (Fmt.f32.homeAdd old.toNat b.toNat) ∧
    f 11 = BitVec.ofNat 32 (Fmt.f32.homePick false old.toNat b.toNat) ∧
    f 12 = BitVec.ofNat 32 (Fmt.f32.homePick true old.toNat b.toNat) := by
  have back : ∀ x : Word, BitVec.ofNat 32 x.toNat = x := fun x => (BitVec.ofNat_toNat 32 x).trans (BitVec.setWidth_eq x)
  have pick : ∀ (p : Prop) [Decidable p] (x y : Word), BitVec.ofNat 32 (if p then x.toNat else y.toNat) = if p then x else y := by
    intro p _ x y
    split
    · exact back x
    · exact back y
  refine ⟨?_, ?_, ?_, ?_, ?_, ?_, ?_, ?_, ?_, ?_, rfl, rfl, rfl⟩
  case refine_2 => simp only [atomNew, back, BitVec.slt_iff_toInt_lt]
  case refine_3 => simp only [atomNew, back, BitVec.slt_iff_toInt_lt]
  case refine_4 => simp only [atomNew, back, Nat.min_def, pick]
  case refine_5 => simp only [atomNew, back, Nat.max_def, pick]
  case refine_10 => simp only [atomNew, back, beq_iff_eq, ← BitVec.toNat_eq, pick]
  all_goals simp only [atomNew, back]

section home

variable {s : State} (hw : s.home.words = []) {die k aop n b cmp : Nat}
include hw

/-- Without a watched word an atomic writes its result and nothing else. -/
theorem State.atomAt_mem : (s.atomAt die k aop n b cmp).1.mem =
    mwrite s.mem k (leBytes n (atomNew aop (8 * n) (leNat (mread s.mem k n)) b cmp)) :=
  State.homeStore_mem hw ..

theorem State.atomAt_stores : leNat (mread (s.atomAt die k aop n b cmp).1.mem k n) =
    atomNew aop (8 * n) (leNat (mread s.mem k n)) b cmp % 256 ^ n := by
  rw [State.atomAt_mem hw, leNat_mread_mwrite]

theorem State.atomAt_sameBut {a : Nat} (ha : a < k ∨ k + n ≤ a) :
    mget (s.atomAt die k aop n b cmp).1.mem a = mget s.mem a := by
  rw [State.atomAt_mem hw, mget_mwrite_outside _ _ _ _ (by rwa [length_leBytes])]

end home

/-! ## Atomics one after the other -/

/-- The atomics of elements at their homes, in order: the state, and each element's old value. -/
def State.atomsAt (die aop n : Nat) (key b cmp : Nat → Nat) (ts : List Touch) (s : State) : State × List (Nat × Nat) :=
  ts.foldl (fun r t => ((r.1.atomAt die (key t.j) aop n (b t.j) (cmp t.j)).1,
    r.2 ++ [(t.j, (r.1.atomAt die (key t.j) aop n (b t.j) (cmp t.j)).2)])) (s, [])

/-- The results that old values are for the registers from `vd` on. -/
def oldResults (vd m : Nat) (o : Nat × Nat) : List (Nat × Nat × Word) :=
  (List.range m).map fun q => (o.1, vd + q, BitVec.ofNat 32 (o.2 / 2 ^ (32 * q)))

/-- A fold that keeps a result for each old value, beside the fold that keeps the old values. -/
theorem foldl_flatMap_snd {σ α β γ : Type} {P : σ → Prop} {h : β → List γ} {F : σ × List γ → α → σ × List γ}
    {G : σ × List β → α → σ × List β} : ∀ (l : List α), (∀ a ∈ l, ∀ (y : σ) (bs : List β), P y →
      F (y, bs.flatMap h) a = ((G (y, bs) a).1, (G (y, bs) a).2.flatMap h) ∧ P (G (y, bs) a).1) →
    ∀ (y : σ) (bs : List β), P y →
      l.foldl F (y, bs.flatMap h) = ((l.foldl G (y, bs)).1, (l.foldl G (y, bs)).2.flatMap h)
  | [], _, _, _, _ => rfl
  | a :: l, hstep, y, bs, hy => by
    obtain ⟨now, keeps⟩ := hstep a List.mem_cons_self y bs hy
    rw [List.foldl_cons, now]
    exact foldl_flatMap_snd l (fun x hx => hstep x (List.mem_cons_of_mem a hx)) _ _ keeps

/-- What VATOM does with the elements that pass, each at its place (R288): `b` and `cmp` are the operands of the lanes. -/
def State.vatomAct (c : Issue) (st : Strand) (vd ctx aop m : Nat) (nr : BitVec 1) (b cmp : Nat → Nat) (x : State)
    (gs : List (Touch × Place)) : State :=
  let r := gs.foldl (fun (r : State × List (Nat × Nat × Word)) g =>
    let q : State × Nat := match g.2 with
      | .loc key => r.1.atomAt (dieOf st.core) key aop (4 * m) (b g.1.j) (cmp g.1.j)
      | .sealed key o => r.1.atomSealed (dieOf st.core) ctx key o aop (4 * m) (b g.1.j) (cmp g.1.j)
      | .peer _ _ => (r.1, leNat (r.1.touchData (.strand c.uid) (st.viewAt g.1.j) g.1 g.2))
    let y := q.1.noteBeats (st.viewAt g.1.j) g.2 (leBytes (4 * m) q.2)
    (y.1, r.2 ++ ((oldWords (4 * m) (leNat y.2)).zipIdx).map fun x => (g.1.j, vd + x.2, x.1))) (x.flushDie (dieOf st.core), [])
  r.1.startOp c st (if nr = 1 then [] else (List.range m).map (vd + ·)) [] (if nr = 1 then [] else r.2) [] false none

section vatom

variable {s : State} {c : Issue} {st : Strand}

/-- Of elements in this module VATOM makes the atomics of their homes in order, once the die's writes are there. -/
theorem State.vatomAct_lands {x : State} {vd ctx aop m : Nat} {nr : BitVec 1} {b cmp key : Nat → Nat} {ts : List Touch}
    (near : x.chunkOf st.core (x.gridOf (x.wgOf st.wg).grid).ctx = none ∨ ∀ t ∈ ts, key t.j < 2 ^ 64) :
    let r := State.atomsAt (dieOf st.core) aop (4 * m) key b cmp ts (x.flushDie (dieOf st.core))
    State.vatomAct c st vd ctx aop m nr b cmp x (ts.map fun t => (t, .loc (key t.j))) =
      r.1.startOp c st (if nr = 1 then [] else (List.range m).map (vd + ·)) []
        (if nr = 1 then [] else r.2.flatMap (oldResults vd m)) [] false none := by
  intro r
  have fold := foldl_flatMap_snd (P := fun y => x.AtHomes y) (h := oldResults vd m)
    (F := fun (r : State × List (Nat × Nat × Word)) (t : Touch) =>
      let q := r.1.atomAt (dieOf st.core) (key t.j) aop (4 * m) (b t.j) (cmp t.j)
      let y := q.1.noteBeats (st.viewAt t.j) (.loc (key t.j)) (leBytes (4 * m) q.2)
      (y.1, r.2 ++ ((oldWords (4 * m) (leNat y.2)).zipIdx).map fun x => (t.j, vd + x.2, x.1)))
    (G := fun r t => ((r.1.atomAt (dieOf st.core) (key t.j) aop (4 * m) (b t.j) (cmp t.j)).1,
      r.2 ++ [(t.j, (r.1.atomAt (dieOf st.core) (key t.j) aop (4 * m) (b t.j) (cmp t.j)).2)]))
    ts (fun t ht y bs hy => ?_) (x.flushDie (dieOf st.core)) [] (x.atHomes_flushDie _)
  · unfold State.vatomAct
    simp only [List.foldl_map]
    rw [show ([] : List (Nat × Nat × Word)) = [].flatMap (oldResults vd m) from rfl, fold]
    rfl
  · have next : x.AtHomes (y.atomAt (dieOf st.core) (key t.j) aop (4 * m) (b t.j) (cmp t.j)).1 :=
      hy.trans (State.atHomes_atomAt ..)
    have chunk := next.keeps fun z => z.chunkOf st.core (z.gridOf (z.wgOf st.wg).grid).ctx
    refine ⟨?_, next⟩
    simp only []
    rw [State.noteBeats_near _ (near.imp chunk.trans fun h => h t ht), oldWords_zipIdx (State.atomAt_old_lt ..),
      List.flatMap_append, List.map_map]
    simp only [List.flatMap_singleton]
    rfl

variable {vd va vb vc : BitVec 6} {aop : BitVec 5} {w nr : BitVec 1} {disp : BitVec 16}
  (h : s.Issues c st (.vatom vd va vb aop w nr vc disp) ((if nr = 1 then [] else useV vd (if w = 1 then 2 else 1)) ++ useV va 2 ++
    useV vb (if w = 1 then 2 else 1) ++ (if aop = 9 then useV vc (if w = 1 then 2 else 1) else [])))
  (hrange : st.isRange = true → nr = 1 ∧ st.constPred c.pred.toNat = some true)
include h hrange

/-- VATOM on a lane strand, and without results on a range strand whose predicate is true of every thread, accesses the
elements of the active threads (R288, R289). -/
theorem exec_vatom_access :
    let m := if w = 1 then 2 else 1
    let addr := fun j => s.pairV st va.toNat j + disp.signExtend 64
    let num := fun (r : BitVec 6) (j : Nat) => leNat (s.vbytes st r.toNat (4 * m) j)
    ∃ ask, exec (.vatom vd va vb aop w nr vc disp) s =
      .next ((s.begun c).laneAccess c (s.at_ st) (.vatom vd va vb aop w nr vc disp) (.atomic (aop == 0 || aop == 8 || aop == 9))
        (if st.isRange then st.rangeTouches (4 * m) addr else st.laneTouches c.pred.toNat (4 * m) addr) ask
        (State.vatomAct c (s.at_ st) vd.toNat (s.ctxNo st) aop.toNat m nr (num vb) (num vc))).ended := by
  obtain ⟨hc, hs, hg⟩ := h
  intro m addr num
  refine ⟨askAtomic aop.toNat fun t => leBytes (4 * m) (num vb t.j) ++ (if aop = 9 then leBytes (4 * m) (num vc t.j) else []), ?_⟩
  rw [exec_vatom, execVatom, issue_pass hc hs (by simpa only [beq_iff_eq, noExcess] using hg)]
  simp only [hostAtomic_toNat, beq_iff_eq, State.at_kind]
  cases hk : st.kind with
  | range lo k =>
    have range : st.isRange = true := by simp [Strand.isRange, hk]
    obtain ⟨hnr, hp⟩ := hrange range
    rw [State.rangePred_true (st := s.at_ st) hp, if_pos hnr, if_pos range]
    rfl
  | lane k mask =>
    rw [show st.isRange = false by simp [Strand.isRange, hk]]
    rfl
  | handler =>
    rw [show st.isRange = false by simp [Strand.isRange, hk]]
    rfl

/-- VATOM whose elements all lie in this module makes their atomics in order (R158, R288, R289). -/
theorem exec_vatom_lands {key : Nat → Nat} :
    let m := if w = 1 then 2 else 1
    let n := 4 * m
    let addr := fun j => s.pairV st va.toNat j + disp.signExtend 64
    let ts := if st.isRange then st.rangeTouches n addr else st.laneTouches c.pred.toNat n addr
    let num := fun (r : BitVec 6) (j : Nat) => leNat (s.vbytes st r.toNat n j)
    let x := (State.checkAll (dieOf st.core) (s.who st) (.atomic (aop == 0 || aop == 8 || aop == 9)) st.isRange ts (s.begun c)).1
    let r := State.atomsAt (dieOf st.core) aop.toNat n key (num vb) (num vc) ts (x.flushDie (dieOf st.core))
    s.Lands st (.atomic (aop == 0 || aop == 8 || aop == 9)) ts key →
    (s.chunkOf st.core (s.ctxNo st) = none ∨ ∀ x ∈ ts, key x.j < 2 ^ 64) →
    exec (.vatom vd va vb aop w nr vc disp) s = .next (((r.1.startOp c (s.at_ st)
      (if nr = 1 then [] else (List.range m).map (vd.toNat + ·)) [] (if nr = 1 then [] else r.2.flatMap (oldResults vd.toNat m)) []
      false none).clearAnswers (.strand c.uid)).retire c (.vatom vd va vb aop w nr vc disp)).ended := by
  intro m n addr ts num x r lands near
  obtain ⟨ask, access⟩ := exec_vatom_access h hrange
  have chunk : x.chunkOf st.core (x.gridOf (x.wgOf st.wg).grid).ctx = s.chunkOf st.core (s.ctxNo st) :=
    (State.onlyMisses_checkAll ..).atHomes.keeps fun t => t.chunkOf st.core (t.gridOf (t.wgOf st.wg).grid).ctx
  rw [access, State.laneAccess_lands lands, State.vatomAct_lands (st := s.at_ st) (near.imp_left chunk.trans)]
  rfl

end vatom

/-- Settles O32: VATOM past the gate, one atomic at its home, and the value that each operation gives. -/
theorem laneAtomicsActAtTheHome : Obligations.LaneAtomicsActAtTheHome := by
  unfold Obligations.LaneAtomicsActAtTheHome
  refine ⟨?_, fun s die k aop n b cmp hw => ⟨rfl, State.atomAt_stores hw, fun a => State.atomAt_sameBut hw⟩, atomNew_word⟩
  intro vd va vb aop w nr vc disp s c st key m n i h _ hrange addr ts lands near
  exact exec_vatom_lands h hrange lands near

end Sys2Proof.Machine
end

section
/-! SUPPORT. Prefetch, per-thread copies and batches (R149, R285, R290, R291). -/

namespace Sys2Proof.Machine

section instructions

variable {s : State} {c : Issue} {st : Strand}

/-! ## VPREF -/

/-- VPREF asks for translations alone, and goes on (R285). -/
theorem exec_vpref_pass {hint va off : BitVec 6} {k : BitVec 3} (h : s.Issues c st (.vpref hint va k off) (useV va 2 ++ useK k.toNat))
    (hp : st.isRange = true → st.constPred k.toNat = some true) :
    ∃ x, (s.begun c).OnlyMisses x ∧ exec (.vpref hint va k off) s = .next (x.retire c (.vpref hint va k off)).ended := by
  obtain ⟨hc, hs, hg⟩ := h
  rw [exec_vpref, execVpref, issue_pass hc hs hg]
  simp only [State.at_kind]
  have near : ∀ ts : List Touch, (s.begun c).OnlyMisses (ts.foldl (fun t x =>
      match t.resolve (dieOf (s.at_ st).core) (t.who (s.at_ st)) .read x.addr x.n with
      | .ok _ => t.noteMiss (dieOf (s.at_ st).core) (t.who (s.at_ st)) x.addr
      | .error _ => t) (s.begun c)) := fun ts => by
    refine State.onlyMisses_foldl (fun t x => ?_) ts _
    split
    · exact t.onlyMisses_noteMiss ..
    · exact .refl t
  cases hk : st.kind with
  | range lo n =>
    have act := hp (by simp [Strand.isRange, hk])
    dsimp only
    rw [State.rangePred_true (st := s.at_ st) act]
    refine ⟨_, ?_, rfl⟩
    split
    · exact near _
    · exact .refl _
  | lane w m => exact ⟨_, near _, rfl⟩
  | handler => exact ⟨_, near _, rfl⟩

/-! ## VCOPY -/

/-- The copies of elements join the table under the numbers that follow. -/
theorem foldl_copies {f : State → Touch → State} {cp : Touch → VCp}
    (hf : ∀ (y : State) t, f y t = { y.fresh with copies := tset y.copies y.next (cp t) }) (base : Nat) :
    ∀ (ts : List Touch) (k : Nat) (y : State), y.next = base + k →
      ts.foldl f y = { y with
        next := base + k + ts.length
        copies := (ts.zipIdx k).foldl (fun l x => tset l (base + x.2) (cp x.1)) y.copies }
  | [], k, y, hy => by rw [List.foldl_nil, List.length_nil, Nat.add_zero, ← hy]; rfl
  | t :: ts, k, y, hy => by
    have next : ({ y.fresh with copies := tset y.copies y.next (cp t) } : State).next = base + (k + 1) := by
      show y.next + 1 = _
      omega
    rw [List.foldl_cons, hf, foldl_copies hf base ts (k + 1) _ next, List.zipIdx_cons, List.foldl_cons, List.length_cons, hy]
    simp only [Nat.add_assoc, Nat.add_comm 1]
    rfl

section vcopy

variable {vd va vb : BitVec 6} {l : BitVec 3}

/-- The copy of one element of a VCOPY (R290). -/
def State.copyOf (s : State) (c : Issue) (st : Strand) (vd va vb : BitVec 6) (size : Nat) (t : Touch) : VCp :=
  { wg := st.wg, uid := c.uid, thread := st.thread t.j, batch := none, dst := 2 ^ 40 + (s.pairV st vd.toNat t.j).toNat % 2 ^ 56
    src := s.pairV st va.toNat t.j, size := size, valid := min (s.vreg st vb.toNat t.j).toNat size, pc := c.pc, inst := s.next
    failed := none }

/-- The checks of a VCOPY's elements are those of the state at issue. -/
theorem State.copyCheck_begun (s : State) (c : Issue) (st : Strand) : (s.begun c).copyCheck (s.at_ st) = s.copyCheck st := by
  funext dst src size valid
  simp only [State.copyCheck, State.begun_who, State.at_core, State.resolve_begun]

/-- An element of a VCOPY with the checks that are made at issue (R290). -/
def State.copyChecked (s : State) (st : Strand) (vd va vb : BitVec 6) (size : Nat) (t : Touch) : Checked :=
  match s.copyCheck st (s.pairV st vd.toNat t.j) (s.pairV st va.toNat t.j) size (min (s.vreg st vb.toNat t.j).toNat size) with
  | some b => ({ t with addr := b.2.1 }, .error (.cls b.1))
  | none => (t, .ok (.loc (sKey ((s.pairV st vd.toNat t.j).toNat % 2 ^ 56))))

/-- What VCOPY does with the elements that pass: `x` is the state, `vd`, `va` and `vb` are read in `s`. -/
def State.copyAct (s : State) (c : Issue) (st : Strand) (vd va vb : BitVec 6) (size : Nat) (x : State)
    (gs : List (Touch × Place)) : State :=
  gs.foldl (fun y g => match g.2 with
    | .loc key => { y.fresh with copies := tset y.copies y.next { s.copyOf c st vd va vb size g.1 with dst := key, inst := x.next } }
    | _ => y) (x.flushDie (dieOf st.core))

variable (h : s.Issues c st (.vcopy vd va vb l) (useV vd 2 ++ useV va 2 ++ useV vb))
  (hp : st.isRange = true → st.constPred c.pred.toNat = some true)
include h hp

/-- VCOPY on a lane strand, and on a range strand whose predicate is true of every thread, acts on the elements of the
active threads (R290). -/
theorem exec_vcopy_access :
    let size := 2 ^ l.toNat
    let dst := s.pairV st vd.toNat
    let ts := if st.isRange then st.rangeTouches size dst else st.laneTouches c.pred.toNat size dst
    ∃ acc, exec (.vcopy vd va vb l) s = .next ((s.begun c).laneFinish c (s.at_ st) (.vcopy vd va vb l) acc
      (ts.map (s.copyChecked st vd va vb size)) askRead (s.copyAct c st vd va vb size)).ended := by
  obtain ⟨hc, hs, hg⟩ := h
  intro size dst ts
  rw [exec_vcopy, execVcopy, issue_pass hc hs hg]
  simp only [State.at_kind, State.copyCheck_begun]
  cases hk : st.kind with
  | range lo n =>
    have range : st.isRange = true := by simp [Strand.isRange, hk]
    have act : (s.at_ st).constPred c.pred.toNat = some true := hp range
    rw [show ts = st.rangeTouches size dst from if_pos range]
    dsimp only
    rw [State.rangePred_true act]
    exact ⟨_, rfl⟩
  | lane w m =>
    rw [show ts = st.laneTouches c.pred.toNat size dst from if_neg (by simp [Strand.isRange, hk])]
    exact ⟨_, rfl⟩
  | handler =>
    rw [show ts = st.laneTouches c.pred.toNat size dst from if_neg (by simp [Strand.isRange, hk])]
    exact ⟨_, rfl⟩

/-- VCOPY whose checks all pass: once the die's writes are at their homes, each element's copy joins the table (R149, R290). -/
theorem exec_vcopy_pass (park : st.park.elems = []) :
    let size := 2 ^ l.toNat
    let dst := s.pairV st vd.toNat
    let ts := if st.isRange then st.rangeTouches size dst else st.laneTouches c.pred.toNat size dst
    (∀ x ∈ ts, s.copyCheck st (dst x.j) (s.pairV st va.toNat x.j) size (min (s.vreg st vb.toNat x.j).toNat size) = none) →
    exec (.vcopy vd va vb l) s = .next ((({ (s.begun c).flushDie (dieOf st.core) with
      next := s.next + ts.length
      copies := (ts.zipIdx).foldl (fun l x => tset l (s.next + x.2) (s.copyOf c st vd va vb size x.1)) s.copies } : State).clearAnswers
        (.strand c.uid)).retire c (.vcopy vd va vb l)).ended := by
  intro size dst ts checks
  obtain ⟨acc, access⟩ := exec_vcopy_access h hp
  have kept := (s.begun c).atHomes_flushDie (dieOf st.core)
  have next : ((s.begun c).flushDie (dieOf st.core)).next = s.next := kept.keeps State.next
  have copies : ((s.begun c).flushDie (dieOf st.core)).copies = s.copies := kept.keeps State.copies
  have checked : ts.map (s.copyChecked st vd va vb size) = ts.map fun t => (t, .ok (.loc (sKey ((dst t.j).toNat % 2 ^ 56)))) :=
    List.map_congr_left fun t ht => by
      unfold State.copyChecked
      rw [checks t ht]
  have parked : (s.at_ st).stillParked = [] := by
    rw [State.at_stillParked, Strand.stillParked, park, ite_self]
  have fold := foldl_copies (cp := s.copyOf c st vd va vb size) (fun _ _ => rfl) s.next ts 0 ((s.begun c).flushDie (dieOf st.core)) next
  rw [access, checked, State.laneFinish_lands (key := fun t => sKey ((dst t.j).toNat % 2 ^ 56)) parked, State.copyAct,
    List.foldl_map]
  rw [copies] at fold
  exact congrArg (fun t : State => Host.Outcome.next ((t.clearAnswers (.strand c.uid)).retire c (.vcopy vd va vb l)).ended) fold

end vcopy

/-! ## Batches -/

/-- BSEAL moves the open sets of the strand's threads into the batch (R291). -/
theorem exec_bseal_pass {b : BitVec 3} (h : s.Issues c st (.bseal b) []) :
    exec (.bseal b) s = .next { s.stepped c (.bseal b) id with
      copies := tmap s.copies fun _ x =>
        if x.wg == st.wg && st.holds x.thread && x.batch.isNone then { x with batch := some b } else x } := by
  obtain ⟨hc, hs, hg⟩ := h
  rw [exec_bseal, execBseal, issue_pass hc hs hg, ← s.retire_only c (.bseal b)]
  rfl

section bwait

variable {b : BitVec 3} (h : s.Issues c st (.bwait b) [])
include h

/-- BWAIT waits while a thread of the strand has a copy in the batch (R149, R291). -/
theorem exec_bwait_busy (hb : s.batchBusy st b = true) : exec (.bwait b) s = .next ((s.begun c).wait c (.bwait b)).ended := by
  obtain ⟨hc, hs, hg⟩ := h
  rw [exec_bwait, execBwait, issue_pass hc hs hg]
  exact congrArg (fun t : State => Host.Outcome.next t.ended) (if_pos hb)

/-- With the batch empty and no fault of it to report BWAIT goes on. -/
theorem exec_bwait_idle (hb : s.batchBusy st b = false) (hq : (st.async.all fun a => !a.waitOn.contains (.batch b)) = true) :
    exec (.bwait b) s = .next (s.stepped c (.bwait b) id) := by
  obtain ⟨hc, hs, hg⟩ := h
  have quiet : st.async.any (st.inBatch b) = false := by
    rw [List.any_eq_false]
    intro a ha
    have other : a.waitOn.contains (.batch b) = false := by simpa using List.all_eq_true.mp hq a ha
    rw [Strand.inBatch, other, Bool.false_and]
    exact Bool.false_ne_true
  rw [exec_bwait, execBwait, issue_pass hc hs hg, ← s.retire_only c (.bwait b)]
  exact congrArg (fun t : State => Host.Outcome.next t.ended)
    ((if_neg (by rw [show (s.begun c).batchBusy (s.at_ st) b = false from hb]; decide)).trans
      (if_neg (by rw [show (s.at_ st).async.any ((s.at_ st).inBatch b) = false from quiet]; decide)))

end bwait

end instructions

/-- Settles O35: each instruction past the gate; VCOPY by the copies of its elements. -/
theorem copiesAndBatches : Obligations.CopiesAndBatches := by
  unfold Obligations.CopiesAndBatches
  refine ⟨fun hint va k off s c st h hp => ?vpref, fun vd va vb l s c st w m h kind park checks => ?vcopy,
    fun b s c st h => exec_bseal_pass h, fun b s c st h hq =>
      ⟨fun empty => exec_bwait_idle h ?idle hq, fun filled => exec_bwait_busy h ?busy⟩⟩
  case vpref =>
    obtain ⟨x, ⟨misses, rfl⟩, done⟩ := exec_vpref_pass h hp
    exact ⟨_, done, s.retire_only c _, rfl⟩
  case vcopy =>
    have hp : st.isRange = true → st.constPred c.pred.toNat = some true := fun range => by
      rcases kind with hk | ⟨_, _, -, hp⟩
      · simp [Strand.isRange, hk] at range
      · exact hp
    obtain ⟨_, _, _, _, flushed⟩ := (s.begun c).atHomes_flushDie (dieOf st.core)
    refine ⟨_, exec_vcopy_pass h hp park checks, rfl, ?_, ?_⟩
    · rw [flushed]
      rfl
    · rw [flushed]
      rfl
  case idle =>
    rw [State.batchBusy, List.any_eq_false]
    intro x hx
    simpa using empty x hx
  case busy =>
    obtain ⟨x, hx, wg, holds, batch⟩ := filled
    exact List.any_eq_true.mpr ⟨x, hx, by simp [wg, holds, batch]⟩

end Sys2Proof.Machine
end

section
/-! SUPPORT. The issue of engine commands (R160, R294 to R301). -/

namespace Sys2Proof.Machine

/-! ## An engine command at issue -/

section issue

variable {s : State} {c : Issue} {st : Strand} {i : Instr} {uses : Strand → List Use}
  {body : State → Issue → Strand → Except (Nat × DWord) (EngKind × Nat × Option Nat)}

/-- A command whose checks pass is with the stream unit (R160, R294). -/
theorem engineOp_ok (h : s.Issues c st i (uses st)) {k : EngKind} {total : Nat} {arr : Option Nat}
    (hb : body (s.begun c) c (s.at_ st) = .ok (k, total, arr)) :
    engineOp i uses body s = .next (s.commanded c st i k total arr) := by
  obtain ⟨hc, hs, hg⟩ := h
  have watched := State.atHomes_foldl State.atHomes_watchWord (k.words ++ arr.toList) ((s.begun c).flushDie (dieOf st.core))
  have next : ((k.words ++ arr.toList).foldl State.watchWord ((s.begun c).flushDie (dieOf st.core))).next =
      ((s.begun c).flushDie (dieOf st.core)).next := watched.keeps State.next
  have flag : (s.at_ st).clause.map (·.setB) = st.clause.map (·.setB) := s.at_clause_map st _ fun _ => rfl
  rw [engineOp, issue_pass hc hs hg]
  simp only [hb, State.at_core, flag, State.commanded, next]
  rfl

/-- A command whose source lies outside every region traps, and nothing starts (R294). -/
theorem engineOp_outside (h : s.Issues c st i (uses st)) {a : DWord} (hb : body (s.begun c) c (s.at_ st) = .error (0x10, a)) :
    engineOp i uses body s = .next (s.trapped c { cls := 0x10, addr := a, pc := some c.pc }) := by
  obtain ⟨hc, hs, hg⟩ := h
  rw [engineOp, issue_pass hc hs hg]
  simp only [hb]
  rfl

end issue

/-! ## The checks of operands at issue -/

section begun

variable (s : State) (c : Issue) (st : Strand)

theorem State.badRegion_begun : (s.begun c).badRegion (s.at_ st) = s.badRegion st := rfl
theorem State.sCheck_begun : (s.begun c).sCheck = s.sCheck := rfl
theorem State.obRec_begun : (s.begun c).obRec = s.obRec := rfl
theorem State.inMember_begun : (s.begun c).inMember = s.inMember := rfl
theorem State.offAlloc_begun : (s.begun c).offAlloc (s.at_ st) = s.offAlloc st := rfl
theorem State.tileDst_begun : (s.begun c).tileDst (s.at_ st) = s.tileDst st := rfl
theorem State.arrivalReg_begun : (s.begun c).arrivalReg (s.at_ st) = s.arrivalReg st := rfl

theorem State.mcopyDst_begun : (s.begun c).mcopyDst (s.at_ st) = s.mcopyDst st := by
  funext w0 cores n
  unfold State.mcopyDst
  simp only [State.obRec_begun, State.inMember_begun, State.sCheck_begun, State.begun_who, State.begun_wgOf, State.at_core]
  rfl

theorem State.mcopyArr_begun : (s.begun c).mcopyArr (s.at_ st) = s.mcopyArr st := by
  funext w cores
  unfold State.mcopyArr
  rw [State.arrivalReg_begun]

theorem State.tileCopy_begun : (s.begun c).tileCopy (s.at_ st) = s.tileCopy st := by
  funext src w0 w1 w2 ds3 e0 e1 e2 e3 ss1 ss2 ss3 aw
  unfold State.tileCopy
  rw [State.badRegion_begun, State.tileDst_begun, State.arrivalReg_begun]

end begun

/-! ## Fields of registers -/

theorem bitsOf_low (w : Word) : bitsOf w 0 16 = w.toNat % 65536 := by
  rw [bitsOf, Nat.pow_zero, Nat.div_one]
  rfl

theorem bitsOf_high (w : Word) : bitsOf w 16 16 = w.toNat / 65536 := by
  have := w.isLt
  rw [bitsOf]
  omega

theorem bitsOf_top (w : Word) : bitsOf w 28 4 = w.toNat / 2 ^ 28 := by
  have := w.isLt
  rw [bitsOf]
  omega

section commands

variable {s : State} {c : Issue} {st : Strand}

/-! ## TCOPY and TCOPYX -/

/-- The bytes that a tile covers from its destination on (R295). -/
def tileSpan (ds1 ds2 ds3 e0 e1 e2 e3 : Nat) : Nat :=
  if e1 * e2 * e3 = 0 ∨ e0 = 0 then 0 else 16 * (ds1 * (e1 - 1) + ds2 * (e2 - 1) + ds3 * (e3 - 1)) + e0

section tile

variable {src : DWord} {w0 w1 w2 aw : Word} {ds3 e0 e1 e2 e3 : Nat} {ss1 ss2 ss3 : Int}

theorem State.tileCopy_outside (h : s.badRegion st src = true) :
    s.tileCopy st src w0 w1 w2 ds3 e0 e1 e2 e3 ss1 ss2 ss3 aw = .error (0x10, src) := by
  simp only [State.tileCopy, h, if_true]

/-- The command of a tile whose fields keep their rules (R295, R296). -/
theorem State.tileCopy_ok {segs : List (Nat × Nat × Nat)} {base : Nat} {arr : Option Nat} (hb : s.badRegion st src = false)
    (hsrc : src.toNat % 16 = 0) (he0 : e0 % 16 = 0) (h1 : ss1 % 16 = 0) (h2 : ss2 % 16 = 0) (h3 : ss3 % 16 = 0)
    (hm : w2.toNat / 2 ^ 28 ≤ 5) (hrow : e0 % (16 * 2 ^ (w2.toNat / 2 ^ 28)) = 0) (hz : w2.toNat / 65536 % 4096 = 0)
    (hd : s.tileDst st w0 (tileSpan (w1.toNat % 65536) (w1.toNat / 65536) ds3 e0 e1 e2 e3) = .ok (segs, base))
    (ha : s.arrivalReg st aw = .ok arr) :
    s.tileCopy st src w0 w1 w2 ds3 e0 e1 e2 e3 ss1 ss2 ss3 aw =
      .ok (.tcopy src segs base e0 e1 e2 e3 (w1.toNat % 65536) (w1.toNat / 65536) ds3 ss1 ss2 ss3 (w2.toNat / 2 ^ 28),
        if e0 = 0 then 0 else e1 * e2 * e3, arr) := by
  have zero : bitsOf w2 16 12 = 0 := hz
  have mode : ¬5 < w2.toNat / 2 ^ 28 := Nat.not_lt.mpr hm
  unfold tileSpan at hd
  simp only [State.tileCopy, hb, bitsOf_low, bitsOf_high, bitsOf_top, zero, hsrc, he0, h1, h2, h3, hrow, mode, bne_self_eq_false,
    decide_false, Bool.or_false, Bool.false_eq_true, if_false, Bool.or_eq_true, decide_eq_true_eq, hd, ha]

variable {i : Instr} {uses : Strand → List Use}
  {body : State → Issue → Strand → Except (Nat × DWord) (EngKind × Nat × Option Nat)} (h : s.Issues c st i (uses st))
  (hx : exec i s = engineOp i uses body s)
  (hbody : body (s.begun c) c (s.at_ st) = s.tileCopy st src w0 w1 w2 ds3 e0 e1 e2 e3 ss1 ss2 ss3 aw)
include h hx hbody

/-- TCOPY and TCOPYX: a source outside every region traps; fields that keep their rules give the stream unit their tile. -/
theorem exec_tile : (s.badRegion st src = true → exec i s = .next (s.trapped c { cls := 0x10, addr := src, pc := some c.pc })) ∧
    ∀ (segs : List (Nat × Nat × Nat)) (base : Nat) (arr : Option Nat), s.badRegion st src = false → src.toNat % 16 = 0 →
      e0 % 16 = 0 → ss1 % 16 = 0 → ss2 % 16 = 0 → ss3 % 16 = 0 → w2.toNat / 2 ^ 28 ≤ 5 →
      e0 % (16 * 2 ^ (w2.toNat / 2 ^ 28)) = 0 → w2.toNat / 65536 % 4096 = 0 →
      s.tileDst st w0 (tileSpan (w1.toNat % 65536) (w1.toNat / 65536) ds3 e0 e1 e2 e3) = .ok (segs, base) →
      s.arrivalReg st aw = .ok arr →
      exec i s = .next (s.commanded c st i (.tcopy src segs base e0 e1 e2 e3 (w1.toNat % 65536) (w1.toNat / 65536) ds3 ss1 ss2 ss3
        (w2.toNat / 2 ^ 28)) (if e0 = 0 then 0 else e1 * e2 * e3) arr) :=
  ⟨fun hb => hx.trans (engineOp_outside h (hbody.trans (State.tileCopy_outside hb))),
    fun _ _ _ hb hsrc he0 h1 h2 h3 hm hrow hz hd ha =>
      hx.trans (engineOp_ok h (hbody.trans (State.tileCopy_ok hb hsrc he0 h1 h2 h3 hm hrow hz hd ha)))⟩

end tile

/-- A field of TCOPYX is its inline value, or the low half of the register that a marker puts in its place (R297). -/
theorem Strand.substituted_eq (st : Strand) (ms : List (BitVec 10)) (field : Nat) (v : BitVec 16) :
    st.substituted ms field v =
      match ms.find? fun m => m.getLsbD 9 && (m.extractLsb' 6 3).toNat == field with
      | some m => (st.sreg (m.extractLsb' 0 6).toNat).toNat % 65536
      | none => v.toNat := by
  unfold Strand.substituted
  cases ms.find? fun m => m.getLsbD 9 && (m.extractLsb' 6 3).toNat == field with
  | some m => exact bitsOf_low _
  | none => rfl

/-! ## MCOPY -/

theorem mcopyCores_eq (core : Nat) (m : Word) :
    mcopyCores core m = ((List.range 16).filter fun k => m.getLsbD k).map (core / 16 * 16 + ·) := by
  rw [mcopyCores, clusterOf, Nat.mul_comm]

section mcopy

variable {sa sb sc : BitVec 6} (h : s.Issues c st (.mcopy sa sb sc) (useS sb ++ useS sa 2 ++ useS sc 3))
include h

theorem exec_mcopy_outside (hb : s.badRegion st (st.dreg sa.toNat) = true) :
    exec (.mcopy sa sb sc) s = .next (s.trapped c { cls := 0x10, addr := st.dreg sa.toNat, pc := some c.pc }) := by
  rw [exec_mcopy, execMcopy]
  exact engineOp_outside (uses := fun _ => _) h (if_pos hb)

/-- MCOPY whose fields keep their rules gives the stream unit its targets (R298). -/
theorem exec_mcopy_ok {ks : List (List (Nat × Nat × Nat))} {base : Nat} {as : List (Option Nat)}
    (hb : s.badRegion st (st.dreg sa.toNat) = false) (hsrc : (st.dreg sa.toNat).toNat % 16 = 0)
    (hn : (st.sreg sc.toNat).toNat % 16 = 0) (hmax : (st.sreg sc.toNat).toNat ≤ 262144)
    (hmask : (st.sreg (sc.toNat + 1)).toNat < 65536)
    (hd : s.mcopyDst st (st.sreg sb.toNat) (mcopyCores st.core (st.sreg (sc.toNat + 1))) (st.sreg sc.toNat).toNat = .ok (ks, base))
    (ha : s.mcopyArr st (st.sreg (sc.toNat + 2)) (mcopyCores st.core (st.sreg (sc.toNat + 1))) = .ok as) :
    exec (.mcopy sa sb sc) s = .next (s.commanded c st (.mcopy sa sb sc)
      (.mcopy (st.dreg sa.toNat) (st.sreg sc.toNat).toNat (ks.zip as) base none)
      (mcopyCores st.core (st.sreg (sc.toNat + 1))).length none) := by
  have mask : (st.sreg (sc.toNat + 1)).toNat / 65536 = 0 := Nat.div_eq_of_lt hmask
  have size : ¬262144 < (st.sreg sc.toNat).toNat := Nat.not_lt.mpr hmax
  rw [exec_mcopy, execMcopy]
  refine engineOp_ok (uses := fun _ => _) h ?_
  simp only [State.badRegion_begun, State.mcopyDst_begun, State.mcopyArr_begun, State.at_dreg, State.at_sreg, State.at_core, hb, hsrc,
    hn, size, bitsOf_high, mask, bne_self_eq_false, decide_false, Bool.or_false, Bool.false_eq_true, if_false, hd, ha]

end mcopy

/-! ## BCOPY -/

section bcopy

variable {sa sb sc creg nreg : BitVec 6} {nkey rowb : BitVec 16} (h : s.Issues c st (.bcopy sa sb sc nkey rowb creg nreg)
  (useS sc 2 ++ useS sa 2 ++ useS sb 2 ++ useS nreg ++ useS creg 2))
include h

theorem exec_bcopy_outside (hb : s.badRegion st (st.dreg sa.toNat) = true) :
    exec (.bcopy sa sb sc nkey rowb creg nreg) s =
      .next (s.trapped c { cls := 0x10, addr := st.dreg sa.toNat, pc := some c.pc }) := by
  rw [exec_bcopy, execBcopy]
  refine engineOp_outside (uses := fun _ => _) h ?_
  simp only [State.badRegion_begun, State.at_dreg, List.find?_cons, hb]

/-- BCOPY whose addresses and sizes pass gives the stream unit its rows, keys and counts (R299). -/
theorem exec_bcopy_ok
    (has : ∀ a ∈ [st.dreg sa.toNat, st.dreg sb.toNat, st.dreg sc.toNat, st.dreg creg.toNat],
      s.badRegion st a = false ∧ a.toNat % 4 = 0)
    (hrows : s.offAlloc st (st.dreg sc.toNat) (if (st.sreg nreg.toNat).toNat = 0 ∨ nkey = 0 then 0 else rowb.toNat) = false)
    (hcounts : s.offAlloc st (st.dreg creg.toNat) (4 * (nkey.toNat + 1)) = false) :
    exec (.bcopy sa sb sc nkey rowb creg nreg) s = .next (s.commanded c st (.bcopy sa sb sc nkey rowb creg nreg)
      (.bcopy (st.dreg sa.toNat) (st.dreg sb.toNat) (st.dreg sc.toNat) (st.dreg creg.toNat) (st.sreg nreg.toNat).toNat rowb.toNat
        nkey.toNat) 1 none) := by
  have regions : [st.dreg sa.toNat, st.dreg sb.toNat, st.dreg sc.toNat, st.dreg creg.toNat].find? (s.badRegion st ·) = none := by
    rw [List.find?_eq_none]
    intro a ha
    rw [(has a ha).1]
    exact Bool.false_ne_true
  have aligned : [st.dreg sa.toNat, st.dreg sb.toNat, st.dreg sc.toNat, st.dreg creg.toNat].find? (fun a => a.toNat % 4 != 0) = none := by
    rw [List.find?_eq_none]
    intro a ha
    rw [(has a ha).2]
    exact Bool.false_ne_true
  have rows : s.offAlloc st (st.dreg sc.toNat)
      (if (decide (((s.at_ st).sreg nreg.toNat).toNat = 0) || nkey == 0) = true then 0 else rowb.toNat) = false := by
    simp only [Bool.or_eq_true, decide_eq_true_eq, beq_iff_eq]
    exact hrows
  rw [exec_bcopy, execBcopy]
  refine engineOp_ok (uses := fun _ => _) h ?_
  simp only [State.badRegion_begun, State.offAlloc_begun, State.at_dreg, regions, aligned, List.getD_cons_zero, List.getD_cons_succ,
    List.find?_cons, List.find?_nil, rows, hcounts]
  rfl

end bcopy

/-! ## CHAIN -/

section chain

variable {sa sb sc kb : BitVec 6} {ops : BitVec 32} {ot it : BitVec 2}

/-- Operation code `k` of a CHAIN (R300). -/
def chainCode (ops : BitVec 32) (k : Nat) : Nat := (ops.extractLsb' (4 * k) 4).toNat

/-- The places of the operations that a CHAIN has. -/
def chainSteps (ops : BitVec 32) : List Nat := (List.range 8).filter fun k => chainCode ops k ≠ 0

/-- The operations of a CHAIN, each with its place. -/
theorem chainSteps_zipIdx (ops : BitVec 32) :
    ((((List.range 8).map fun j => (ops.extractLsb' (4 * j) 4).toNat).zipIdx).filter fun x => x.1 != 0) =
      (chainSteps ops).map fun k => (chainCode ops k, k) := by
  rw [zipIdx_map_range, List.filter_map]
  refine congrArg _ (List.filter_congr fun k _ => ?_)
  exact (decide_not (p := chainCode ops k = 0)).symm

/-- The registers that the constants of a CHAIN name. -/
theorem chainReads (kb : Nat) (ops : BitVec 32) :
    ((((((List.range 8).map fun j => (ops.extractLsb' (4 * j) 4).toNat).zipIdx).filter fun x => x.1 != 0).filter
      fun x => 1 ≤ x.1 && x.1 ≤ 4).map fun x => (2, kb + x.2)) =
      ((chainSteps ops).filter fun k => 1 ≤ chainCode ops k ∧ chainCode ops k ≤ 4).map fun k => (2, kb + k) := by
  rw [chainSteps_zipIdx, List.filter_map, List.map_map]
  simp only [Function.comp_def, Bool.decide_and]

variable (h : s.Issues c st (.chain sa sb sc ops kb ot it) (useS sb 2 ++ useS sa 2 ++ useS sc 2 ++
  ((chainSteps ops).filter fun k => 1 ≤ chainCode ops k ∧ chainCode ops k ≤ 4).map fun k => (2, kb.toNat + k)))
include h

theorem exec_chain_outside (hb : s.badRegion st (st.dreg sa.toNat) = true) :
    exec (.chain sa sb sc ops kb ot it) s = .next (s.trapped c { cls := 0x10, addr := st.dreg sa.toNat, pc := some c.pc }) := by
  rw [exec_chain, execChain]
  exact engineOp_outside (uses := fun _ => _) (by rw [chainReads]; exact h) (if_pos hb)

/-- CHAIN whose addresses pass gives the stream unit its rows and operations (R300). -/
theorem exec_chain_ok (hb : s.badRegion st (st.dreg sa.toNat) = false) (hd : s.badRegion st (st.dreg sb.toNat) = false)
    (hsrc : (st.dreg sa.toNat).toNat % chainSize it.toNat = 0) (hdst : (st.dreg sb.toNat).toNat % chainSize ot.toNat = 0)
    (ho : s.offAlloc st (st.dreg sb.toNat)
      (chainSize ot.toNat * (st.sreg sc.toNat).toNat * (st.sreg (sc.toNat + 1)).toNat) = false) :
    exec (.chain sa sb sc ops kb ot it) s = .next (s.commanded c st (.chain sa sb sc ops kb ot it)
      (.chain (st.dreg sa.toNat) (st.dreg sb.toNat) (st.sreg sc.toNat).toNat it.toNat ot.toNat
        ((chainSteps ops).map fun k =>
          (chainCode ops k, if 1 ≤ chainCode ops k ∧ chainCode ops k ≤ 4 then st.sreg (kb.toNat + k) else 0))
        (s.env st).rnd (s.env st).ftz) (st.sreg (sc.toNat + 1)).toNat none) := by
  rw [exec_chain, execChain]
  refine engineOp_ok (uses := fun _ => _) (by rw [chainReads]; exact h) ?_
  simp only [chainSteps_zipIdx, List.map_map, Function.comp_def, State.badRegion_begun, State.offAlloc_begun, State.at_dreg,
    State.at_sreg, State.begun_env, State.at_env, hb, hd, hsrc, hdst, ho, bne_self_eq_false, Bool.false_eq_true, if_false,
    Bool.and_eq_true, decide_eq_true_eq]

end chain

/-! ## REDW -/

section redw

variable {sa sb sc : BitVec 6} {ty : BitVec 4} {op : BitVec 3} {x : BitVec 1} (h : s.Issues c st (.redw sa sb sc ty op x)
  (useS sa 2 ++ useS sb (if ty = 4 then 2 else 1) ++ (if x = 1 then useS sc else [])))
include h

theorem exec_redw_outside (hb : s.badRegion st (st.dreg sa.toNat) = true) :
    exec (.redw sa sb sc ty op x) s = .next (s.trapped c { cls := 0x10, addr := st.dreg sa.toNat, pc := some c.pc }) := by
  rw [exec_redw, execRedw]
  exact engineOp_outside (uses := fun _ => _) (by simpa only [beq_iff_eq] using h) (if_pos hb)

/-- REDW whose address passes gives the stream unit its contribution (R301). -/
theorem exec_redw_ok (hb : s.badRegion st (st.dreg sa.toNat) = false)
    (hsrc : (st.dreg sa.toNat).toNat % redBytes ty.toNat = 0)
    (ho : s.offAlloc st (st.dreg sa.toNat) (redBytes ty.toNat) = false)
    (hp : s.resolve (dieOf st.core) (s.who st) (.atomic true) (st.dreg sa.toNat) (redBytes ty.toNat) ≠ .error (.cls 0x1A)) :
    exec (.redw sa sb sc ty op x) s = .next (s.commanded c st (.redw sa sb sc ty op x)
      (.redw (st.dreg sa.toNat) (st.sbytes sb.toNat (redBytes ty.toNat)) ty.toNat op.toNat (x == 1)
        (if x = 1 then (st.sreg sc.toNat).toNat % 2 ^ 20 else 0)) 1 none) := by
  have healthy : (s.resolve (dieOf st.core) (s.who st) (.atomic true) (st.dreg sa.toNat) (redBytes ty.toNat) ==
    .error (.cls 0x1A)) = false := beq_eq_false_iff_ne.mpr hp
  have index : bitsOf (st.sreg sc.toNat) 0 20 = (st.sreg sc.toNat).toNat % 2 ^ 20 := by
    rw [bitsOf, Nat.pow_zero, Nat.div_one]
  rw [exec_redw, execRedw]
  refine engineOp_ok (uses := fun _ => _) (by simpa only [beq_iff_eq] using h) ?_
  simp only [State.badRegion_begun, State.offAlloc_begun, State.resolve_begun, State.begun_who, State.at_dreg, State.at_sreg,
    State.at_core, State.at_sbytes, hb, hsrc, ho, healthy, index, bne_self_eq_false, Bool.false_eq_true, if_false, beq_iff_eq]

end redw

end commands

end Sys2Proof.Machine
end

section
/-! SUPPORT. The movements of engine commands, and how a command ends (R161, R190, R294, R296). -/

namespace Sys2Proof.Machine

/-! ## Writes at the homes while no arrival word is watched -/

/-- `t` differs from `s` at most in memory, at the homes and in the assay programs, and watches no arrival word. -/
def State.QuietHomes (s t : State) : Prop :=
  t.home.words = [] ∧ ∃ mem home sched, t = { s with mem := mem, home := home, sched := sched }

theorem State.QuietHomes.refl {s : State} (h : s.home.words = []) : s.QuietHomes s := ⟨h, _, _, _, rfl⟩

theorem State.QuietHomes.trans {s t u : State} (h : s.QuietHomes t) (k : t.QuietHomes u) : s.QuietHomes u := by
  obtain ⟨-, _, _, _, rfl⟩ := h
  obtain ⟨hw, _, _, _, rfl⟩ := k
  exact ⟨hw, _, _, _, rfl⟩

theorem State.OnlyHomes.quiet {s t : State} (h : s.OnlyHomes t) : s.QuietHomes t := ⟨h.1, h.2.2⟩

theorem State.quietHomes_foldl {α : Type} {f : State → α → State} (hf : ∀ (t : State) x, t.home.words = [] → t.QuietHomes (f t x))
    (l : List α) {s : State} (h : s.home.words = []) : s.QuietHomes (l.foldl f s) :=
  foldl_keeps (P := s.QuietHomes) (fun t x ht => ht.trans (hf t x ht.1)) l (.refl h)

theorem State.quietHomes_applyWrite {s : State} (h : s.home.words = []) (id : Nat) : s.QuietHomes (s.applyWrite id) := by
  unfold State.applyWrite
  split
  · exact .refl h
  · refine State.QuietHomes.trans (t := s.setHome fun h => { h with writes := tdel h.writes id }) ⟨h, _, _, _, rfl⟩ ?_
    exact (State.onlyHomes_homeStore (s := s.setHome fun h => { h with writes := tdel h.writes id }) h ..).quiet

theorem State.quietHomes_applyAll {s : State} (h : s.home.words = []) (p : PWrite → Bool) : s.QuietHomes (s.applyAll p) :=
  State.quietHomes_foldl (fun _ _ ht => State.quietHomes_applyWrite ht _) _ h

theorem State.quietHomes_showAll {s : State} (h : s.home.words = []) (die : Nat) : s.QuietHomes (s.showAll die) :=
  ⟨h, _, _, _, rfl⟩

theorem State.OnlyMisses.quiet {s t : State} (h : s.home.words = []) (k : s.OnlyMisses t) : s.QuietHomes t := by
  obtain ⟨m, rfl⟩ := k
  exact ⟨h, _, _, _, rfl⟩

/-! ## What a movement leaves of the state -/

/-- `t` is `s` in the course of a movement of command `id`, without a watched arrival word: strands and operations are the
same, and the command differs at most in the granules that it has read. -/
structure State.Moving (id : Nat) (s t : State) : Prop where
  words : t.home.words = []
  strands : t.strands = s.strands
  ops : t.ops = s.ops
  command : ∀ e, tfind s.engines id = some e → ∃ seen, tfind t.engines id = some { e with seen := seen }

theorem State.Moving.trans {id : Nat} {s t u : State} (h : s.Moving id t) (k : t.Moving id u) : s.Moving id u := by
  refine ⟨k.words, k.strands.trans h.strands, k.ops.trans h.ops, fun e he => ?_⟩
  obtain ⟨_, ht⟩ := h.command e he
  obtain ⟨seen, hu⟩ := k.command _ ht
  exact ⟨seen, hu⟩

theorem State.QuietHomes.moving {id : Nat} {s t : State} (h : s.QuietHomes t) : s.Moving id t := by
  obtain ⟨hw, _, _, _, rfl⟩ := h
  exact ⟨hw, rfl, rfl, fun e he => ⟨e.seen, he⟩⟩

/-- The granules that a command has read change. -/
theorem State.moving_seen {id : Nat} {s : State} (h : s.home.words = []) (f : Engine → Tab (List Byte)) :
    s.Moving id { s with engines := tmod s.engines id fun x => { x with seen := f x } } := by
  refine ⟨h, rfl, rfl, fun e he => ⟨f e, ?_⟩⟩
  rw [tfind_tmod_same, he]
  rfl

/-- Whatever waits for its home in what a command is about to read is applied first (R161). -/
theorem State.moving_engSees {s : State} (h : s.home.words = []) (id : Nat) (e : Engine) (addrs : List (DWord × Nat)) :
    s.Moving id (s.engSees id e addrs) := by
  unfold State.engSees
  dsimp only
  split
  · exact (State.QuietHomes.refl h).moving
  · have shown := fun p die => (State.quietHomes_applyAll h p).trans
      (State.quietHomes_showAll (State.quietHomes_applyAll h p).1 die)
    exact (shown _ _).moving.trans (State.moving_seen (shown _ _).1 _)

theorem State.moving_engWrote {s : State} (h : s.home.words = []) (id : Nat) (ws : List (Nat × List Byte)) :
    s.Moving id (s.engWrote id ws) := State.moving_seen h _

/-! ## The units of a row at their places -/

/-- Units at their places in order: each written at the home of its key. -/
def State.storeUnits (die n : Nat) (key : Nat → Nat) (data : Nat → List Byte) (covers : Nat → Bool) (s : State) : State :=
  (List.range n).foldl (fun t u => t.homeStore die (key u) (data u) (covers u)) s

section units

variable {s : State} (hw : s.home.words = []) {die : Nat} {key : Nat → Nat} {data : Nat → List Byte} {covers : Nat → Bool}

theorem State.storeUnits_succ (n : Nat) : s.storeUnits die (n + 1) key data covers =
    (s.storeUnits die n key data covers).homeStore die (key n) (data n) (covers n) := by
  rw [State.storeUnits, List.range_succ, List.foldl_append]
  rfl

include hw

theorem State.quietHomes_storeUnits (n : Nat) : s.QuietHomes (s.storeUnits die n key data covers) :=
  State.quietHomes_foldl (fun _ _ ht => (State.onlyHomes_homeStore ht ..).quiet) _ hw

/-- Each unit of 16 bytes lies at its place where no two overlap. -/
theorem State.storeUnits_bytes : ∀ n, (∀ u < n, (data u).length = 16) →
    (∀ u < n, ∀ v < n, u ≠ v → key u + 16 ≤ key v ∨ key v + 16 ≤ key u) →
    ∀ u < n, ∀ b < 16, mget (s.storeUnits die n key data covers).mem (key u + b) = (data u).getD b 0
  | 0, _, _, u, hu, _, _ => absurd hu (Nat.not_lt_zero u)
  | n + 1, hl, hd, u, hu, b, hb => by
    have length := hl n (Nat.lt_succ_self n)
    rw [State.storeUnits_succ, State.homeStore_mem (State.quietHomes_storeUnits hw n).1]
    by_cases last : u = n
    · subst last
      rw [mget_mwrite, if_pos (by omega), Nat.add_sub_cancel_left]
    · have apart := hd u hu n (Nat.lt_succ_self n) last
      rw [mget_mwrite_outside _ _ _ _ (by omega)]
      exact State.storeUnits_bytes n (fun v hv => hl v (by omega)) (fun v hv v' hv' => hd v (by omega) v' (by omega)) u (by omega) b hb

/-- No other byte changes. -/
theorem State.storeUnits_sameBut : ∀ n, (∀ u < n, (data u).length = 16) →
    s.SameBut (s.storeUnits die n key data covers) ((List.range n).map fun u => (key u, 16))
  | 0, _ => fun _ _ => rfl
  | n + 1, hl => fun a ha => by
    have outside : ∀ u < n + 1, a < key u ∨ key u + 16 ≤ a := fun u hu =>
      ha (key u, 16) (List.mem_map.mpr ⟨u, List.mem_range.mpr hu, rfl⟩)
    rw [State.storeUnits_succ, State.homeStore_mem (State.quietHomes_storeUnits hw n).1,
      mget_mwrite_outside _ _ _ _ (by rw [hl n (Nat.lt_succ_self n)]; exact outside n (Nat.lt_succ_self n))]
    refine State.storeUnits_sameBut n (fun u hu => hl u (by omega)) a fun r hr => ?_
    obtain ⟨u, hu, rfl⟩ := List.mem_map.mp hr
    exact outside u (Nat.lt_succ_of_lt (List.mem_range.mp hu))

end units

/-! ## One movement of an engine (R294) -/

/-- Where nothing parks and nothing is asked for, the movement goes on. -/
theorem State.engHold_none {s : State} {id : Nat} {e : Engine} {gs : List (EngGot × DWord)} {write : Bool}
    (h : ∀ g ∈ gs, (∃ b p, g.1 = .data b p) ∨ ∃ p, g.1 = .place p) : s.engHold id e gs write = none := by
  refine (if_neg ?_).trans (if_neg ?_)
  · rw [Bool.not_eq_true, Bool.not_eq_false', List.isEmpty_iff, List.filterMap_eq_nil_iff]
    intro g hg
    rcases h g hg with ⟨b, p, e⟩ | ⟨p, e⟩ <;> rw [e]
  · rw [Bool.not_eq_true, List.any_eq_false]
    intro g hg
    rcases h g hg with ⟨b, p, e⟩ | ⟨p, e⟩ <;> rw [e] <;> exact Bool.false_ne_true

/-- An address of a slice is translated by no walk. -/
theorem State.noteMiss_slice {s : State} {die : Nat} {who : Who} {addr : DWord} (h : addr.toNat / 2 ^ 56 = 1) :
    s.noteMiss die who addr = s := by
  have unpaged : s.pagedVa who addr = none := by
    simp only [State.pagedVa, h]
    rfl
  simp only [State.noteMiss, unpaged]

/-- Where a key of the slices lies in the address space. -/
theorem EngDst.at_key_region {k : Nat} (h : k < 2 ^ 41) : (EngDst.at_ (.key k)).toNat / 2 ^ 56 = 1 := by
  have low : k - 2 ^ 40 < 2 ^ 56 := by omega
  unfold EngDst.at_
  generalize k - 2 ^ 40 = j at low
  rw [BitVec.toNat_ofNat]
  omega

section movement

variable {s x : State} {id n : Nat} {e : Engine} {addr : Nat → DWord} {data : Nat → List Byte} {key : Nat → Nat}
  {mk : List Unit16 → List (EngDst × List Byte × Bool)} {fin : State → List Unit16 → Bool → State}

/-- A movement whose units are all read, clean, and whose destinations all lie in slices of this module writes each unit at its
place, and is complete (R294). -/
theorem State.engMove_clean
    (hx : (((List.range n).map fun u => (addr u, 16)).map (·.1)).foldl (fun t a => t.noteMiss (dieOf e.core) (t.engWho e) a)
      (s.engSees id e ((List.range n).map fun u => (addr u, 16))) = x)
    (hget : ∀ u < n, x.engGet id e u (addr u) 16 = .data (data u) false)
    (hmk : mk ((List.range n).map fun u => some (data u, false)) = (List.range n).map fun u => (.key (key u), data u, false))
    (hkey : ∀ u < n, key u < 2 ^ 41)
    (hput : ∀ u < n, x.engPut id e (n + u) (.key (key u)) (data u) = .place (.loc (key u))) :
    s.engMove id e 0 ((List.range n).map fun u => (addr u, 16)) mk fin =
      fin ((x.storeUnits (dieOf e.core) n key data fun u =>
        coversGranule ((List.range n).map fun u => (key u, data u)) (key u)).engWrote id ((List.range n).map fun u => (key u, data u)))
        ((List.range n).map fun u => some (data u, false)) true := by
  have got : (((List.range n).map fun u => (addr u, 16)).zipIdx).map
      (fun r => (x.engGet id e (0 + r.2) r.1.1 r.1.2, r.1.1)) = (List.range n).map fun u => (.data (data u) false, addr u) := by
    rw [zipIdx_map_range, List.map_map]
    refine List.map_congr_left fun u hu => ?_
    simp only [Function.comp_apply, Nat.zero_add, hget u (List.mem_range.mp hu)]
  have put : (((List.range n).map fun u => (EngDst.key (key u), data u, false)).zipIdx).map
      (fun w => (x.engPut id e (0 + ((List.range n).map fun u => (addr u, 16)).length + w.2) w.1.1 w.1.2.1, w.1)) =
      (List.range n).map fun u => (.place (.loc (key u)), .key (key u), data u, false) := by
    rw [zipIdx_map_range, List.map_map]
    refine List.map_congr_left fun u hu => ?_
    simp only [Function.comp_apply, List.length_map, List.length_range, Nat.zero_add, hput u (List.mem_range.mp hu)]
  have unpaged : (((List.range n).map fun u => (EngDst.key (key u), data u, false)).map (·.1.at_)).foldl
      (fun t a => t.noteMiss (dieOf e.core) (t.engWho e) a) x = x := by
    refine List.foldlRecOn _ _ (motive := (· = x)) rfl fun t ht a ha => ?_
    obtain ⟨w, hw, rfl⟩ := List.mem_map.mp ha
    obtain ⟨u, hu, rfl⟩ := List.mem_map.mp hw
    exact (State.noteMiss_slice (EngDst.at_key_region (hkey u (List.mem_range.mp hu)))).trans ht
  have held : x.engHold id e ((List.range n).map fun u => (.data (data u) false, addr u)) false = none := by
    refine State.engHold_none fun g hg => .inl ?_
    obtain ⟨u, -, rfl⟩ := List.mem_map.mp hg
    exact ⟨_, _, rfl⟩
  have placed : x.engHold id e (((List.range n).map fun u =>
      (EngGot.place (.loc (key u)), EngDst.key (key u), data u, false)).map fun p => (p.1, p.2.1.at_)) true = none := by
    refine State.engHold_none fun g hg => .inr ?_
    rw [List.map_map] at hg
    obtain ⟨u, -, rfl⟩ := List.mem_map.mp hg
    exact ⟨_, rfl⟩
  have spread : ∀ f : EngGot × DWord → Unit16, ((List.range n).map fun u => (EngGot.data (data u) false, addr u)).map f =
      (List.range n).map fun u => f (.data (data u) false, addr u) := fun f => List.map_map ..
  unfold State.engMove
  dsimp only
  rw [hx, got, held]
  dsimp only
  rw [spread]
  dsimp only
  rw [hmk, unpaged, put, placed]
  dsimp only
  simp only [List.foldl_map, List.filterMap_map, List.any_map, Function.comp_def, Bool.false_eq_true, if_false, List.foldl_fixed]
  have plain : (List.range n).filterMap (fun u => some (key u, data u)) = (List.range n).map fun u => (key u, data u) :=
    congrFun List.filterMap_eq_map _
  have clean : ((List.range n).any fun _ => false) = false := List.any_eq_false.mpr fun _ _ => Bool.false_ne_true
  rw [plain, clean]
  rfl

end movement

end Sys2Proof.Machine
end

section
/-! SUPPORT. A row of a tile copy, and how a command ends (R190, R294, R296). -/

namespace Sys2Proof.Machine

/-! ## The end of a command (R190, R294) -/

/-- The state without command `id` and its operation `op`: its flag is idle, and nothing that it asked for or was parked on is left. -/
def State.engOver (s : State) (id op : Nat) : State :=
  ((({ s with engines := tdel s.engines id, ops := tdel s.ops op }).clearAnswers (.engine id)).forgetHolds (.engine id)).touchOut

theorem State.engOver_engine (s : State) (id op : Nat) : tfind (s.engOver id op).engines id = none :=
  (tfind_tdel s.engines id id).trans (if_pos rfl)

theorem State.engOver_op (s : State) (id op : Nat) : tfind (s.engOver id op).ops op = none :=
  (tfind_tdel s.ops op op).trans (if_pos rfl)

theorem State.engDone_clean {s : State} {id : Nat} {e : Engine} (h : tfind s.engines id = some e) (hf : e.failed = none) :
    s.engDone id = s.engOver id e.op := by
  simp only [State.engDone, h, hf]
  rfl

/-- The record of what command `id` met, where it names no arrival word. -/
def Engine.fault (e : Engine) (id cls : Nat) (addr : DWord) (w : Bool) : AsyncFault :=
  { waitOn := [.flag e.flag], id := id, by_ := e.uid, quiet := false, cls := BitVec.ofNat 8 cls, pc := e.pc, addr := addr
    first := e.names.1, sufn := e.names.2, write := w }

theorem State.engDone_failed {s : State} {id cls : Nat} {e : Engine} {addr : DWord} {w : Bool} {o : Op}
    (h : tfind s.engines id = some e) (hf : e.failed = some (cls, addr, w)) (ha : e.arr = none)
    (hk : ∀ a b d f g, e.kind ≠ .mcopy a b d f g) (ho : tfind s.ops e.op = some o) :
    s.engDone id = o.holders.foldl (fun t u => t.postAsync u (e.fault id cls addr w)) (s.engOver id e.op) := by
  simp only [State.engDone, h, hf, ha, ho]
  cases kind : e.kind
  case mcopy a b d f g => exact absurd kind (hk a b d f g)
  all_goals rfl

/-! ## A fault for every holder (R190) -/

/-- A fault posted to strands leaves what does not speak of strands. -/
theorem State.postAll_keeps {α : Type} (f : State → α) (hf : ∀ (t : State) strands, f { t with strands := strands } = f t)
    (s : State) (a : AsyncFault) (l : List Nat) : f (l.foldl (fun t u => t.postAsync u a) s) = f s :=
  foldl_keeps (P := fun t => f t = f s) (fun t _ h => (hf t _).trans h) l rfl

theorem State.postAsync_unblocked {s : State} {u : Nat} {st : Strand} (h : tfind s.strands u = some st) (hb : st.block = .none)
    (v : Nat) (a : AsyncFault) :
    tfind (s.postAsync v a).strands u = some (if u = v then { st with async := st.async ++ [a] } else st) := by
  rw [State.postAsync, State.updStrand_strands, tfind_tmod, h]
  by_cases same : u = v
  · simp only [same, if_true, Option.map_some, hb]
  · simp only [same, if_false]

theorem State.postAll_unblocked {a : AsyncFault} {u : Nat} : ∀ {l : List Nat}, l.Nodup → ∀ {s : State} {st : Strand},
    tfind s.strands u = some st → st.block = .none →
    tfind (l.foldl (fun t v => t.postAsync v a) s).strands u = some (if u ∈ l then { st with async := st.async ++ [a] } else st)
  | [], _, _, _, h, _ => by simpa using h
  | v :: l, hl, s, st, h, hb => by
    obtain ⟨fresh, rest⟩ := List.nodup_cons.mp hl
    have step := State.postAsync_unblocked h hb v a
    rw [List.foldl_cons]
    by_cases same : u = v
    · subst same
      rw [if_pos rfl] at step
      rw [State.postAll_unblocked rest step hb, if_neg fresh, if_pos List.mem_cons_self]
    · rw [if_neg same] at step
      rw [State.postAll_unblocked rest step hb]
      simp only [List.mem_cons, same, false_or]

/-! ## The next row -/

theorem State.engNext_engine {s : State} {id : Nat} {e : Engine} (h : tfind s.engines id = some e) :
    tfind (s.engNext id).engines id = some { e with next := e.next + 1 } := by
  refine (tfind_tmod_same s.engines id fun e => { e with next := e.next + 1 }).trans ?_
  rw [h]
  rfl

/-! ## The completion of a row -/

theorem exec_copyRow_absent {s : State} (h : tfind s.engines s.arg.a = none) : exec .copyRowCompletion s = .next s := by
  rw [exec_copyRowCompletion, execCopyRowCompletion, h]

theorem exec_copyRow_over {s : State} {e : Engine} (h : tfind s.engines s.arg.a = some e) (he : e.total ≤ e.next) :
    exec .copyRowCompletion s = .next (s.engDone s.arg.a) := by
  simp only [exec_copyRowCompletion, execCopyRowCompletion, h, he, decide_true, Bool.true_or, if_true]

/-- A row of a tile copy that is due and meets nothing: the command goes on, or is over after its last row. -/
theorem exec_copyRow_tile {s m : State} {e : Engine} {src : DWord} {segs : List (Nat × Nat × Nat)} {granules : Tab (List Byte)}
    {base e0 e1 e2 e3 ds1 ds2 ds3 mode : Nat} {ss1 ss2 ss3 : Int} (h : tfind s.engines s.arg.a = some e)
    (hk : e.kind = .tcopy src segs base e0 e1 e2 e3 ds1 ds2 ds3 ss1 ss2 ss3 mode) (left : e.next < e.total)
    (hf : e.failed = none) (due : e.after ≤ s.mod.tick.toNat)
    (free : s.overflowHeld (.engine s.arg.a) (dieOf e.core) = false)
    (row : s.tcopyRow s.arg.a e src segs base e0 e1 e2 ds1 ds2 ds3 ss1 ss2 ss3 mode = m.engNext s.arg.a)
    (command : tfind m.engines s.arg.a = some { e with seen := granules }) :
    ∃ t, exec .copyRowCompletion s = .next t ∧ t.mem = m.mem ∧ t.strands = m.strands ∧
      (e.next + 1 < e.total →
        (∃ seen, tfind t.engines s.arg.a = some { e with next := e.next + 1, seen := seen }) ∧ t.ops = m.ops) ∧
      (e.next + 1 = e.total → tfind t.engines s.arg.a = none ∧ tfind t.ops e.op = none) := by
  have next := State.engNext_engine command
  have done : exec .copyRowCompletion s =
      .next (if e.total ≤ e.next + 1 then (m.engNext s.arg.a).engDone s.arg.a else m.engNext s.arg.a) := by
    simp only [exec_copyRowCompletion, execCopyRowCompletion, h, hk, row, next, decide_eq_false (Nat.not_le.mpr left),
      decide_eq_false (Nat.not_lt.mpr due), free, Bool.or_false, Bool.false_eq_true, if_false]
  by_cases last : e.total ≤ e.next + 1
  · rw [if_pos last, State.engDone_clean next hf] at done
    exact ⟨_, done, rfl, rfl, fun more => absurd more (Nat.not_lt.mpr last),
      fun _ => ⟨State.engOver_engine .., State.engOver_op ..⟩⟩
  · rw [if_neg last] at done
    exact ⟨_, done, rfl, rfl, fun _ => ⟨⟨granules, next⟩, rfl⟩, fun no => absurd no.ge last⟩

/-! ## A row of a tile copy (R296) -/

section row

variable {s x : State} {id : Nat} {e : Engine} {src : DWord} {segs : List (Nat × Nat × Nat)}
  {base e0 e1 e2 ds1 ds2 ds3 mode : Nat} {ss1 ss2 ss3 : Int} {data : Nat → List Byte} {key : Nat → Nat}

/-- Where the source of the command's row lies. -/
def Engine.rowFrom (e : Engine) (src : DWord) (e1 e2 : Nat) (ss1 ss2 ss3 : Int) : DWord :=
  src + BitVec.ofInt 64 (ss1 * (e.next % e1 : Nat) + ss2 * (e.next / e1 % e2 : Nat) + ss3 * (e.next / e1 / e2 : Nat))

/-- Where unit `u` of the command's row goes, with the swizzle of MODE. -/
def Engine.rowTo (e : Engine) (base e1 e2 ds1 ds2 ds3 mode u : Nat) : Nat :=
  base + 16 * (ds1 * (e.next % e1) + ds2 * (e.next / e1 % e2) + ds3 * (e.next / e1 / e2)) + 16 * (u ^^^ (e.next % e1 % 2 ^ mode))

/-- A row whose units are all read, clean, and go to slices of this module is written unit by unit. -/
theorem State.tcopyRow_clean (ha : e.arr = none)
    (hx : (((List.range (e0 / 16)).map fun u => (e.rowFrom src e1 e2 ss1 ss2 ss3 + 16 * BitVec.ofNat 64 u, 16)).map (·.1)).foldl
      (fun t a => t.noteMiss (dieOf e.core) (t.engWho e) a)
      (s.engSees id e ((List.range (e0 / 16)).map fun u => (e.rowFrom src e1 e2 ss1 ss2 ss3 + 16 * BitVec.ofNat 64 u, 16))) = x)
    (hget : ∀ u < e0 / 16, x.engGet id e u (e.rowFrom src e1 e2 ss1 ss2 ss3 + 16 * BitVec.ofNat 64 u) 16 = .data (data u) false)
    (hseg : ∀ u < e0 / 16, segKey segs (e.rowTo base e1 e2 ds1 ds2 ds3 mode u) = some (key u))
    (hkey : ∀ u < e0 / 16, key u < 2 ^ 41)
    (hput : ∀ u < e0 / 16, x.engPut id e (e0 / 16 + u) (.key (key u)) (data u) = .place (.loc (key u))) :
    s.tcopyRow id e src segs base e0 e1 e2 ds1 ds2 ds3 ss1 ss2 ss3 mode =
      (((x.storeUnits (dieOf e.core) (e0 / 16) key data fun u =>
        coversGranule ((List.range (e0 / 16)).map fun u => (key u, data u)) (key u)).engWrote id
          ((List.range (e0 / 16)).map fun u => (key u, data u))).engNext id) := by
  unfold State.tcopyRow
  dsimp only
  refine (State.engMove_clean hx hget ?_ hkey hput).trans (by rw [ha])
  rw [zipIdx_map_range, List.filterMap_map]
  refine (List.filterMap_congr (g := some ∘ fun u => (.key (key u), data u, false)) fun u hu => ?_).trans
    (congrFun (List.filterMap_eq_map) _)
  have at_ := hseg u (List.mem_range.mp hu)
  simp only [Engine.rowTo] at at_
  simp only [Function.comp_apply, at_]

end row

end Sys2Proof.Machine
end

section
/-! Stream-unit commands at issue, in their rows and at their end (R190, R294 to R301): O44. -/

namespace Sys2Proof.Machine

/-! ## Every clean row of a tile copy -/

section row

variable {s x : State} {e : Engine} {src : DWord} {segs : List (Nat × Nat × Nat)}
  {base e0 e1 e2 e3 ds1 ds2 ds3 mode : Nat} {ss1 ss2 ss3 : Int} {data : Nat → List Byte} {key : Nat → Nat}

/-- A row whose units are all read and lie in slices of this module: its units are at their places, nothing else of memory
changed, and the command goes on or is over. -/
theorem exec_copyRow_clean (h : tfind s.engines s.arg.a = some e)
    (hk : e.kind = .tcopy src segs base e0 e1 e2 e3 ds1 ds2 ds3 ss1 ss2 ss3 mode) (left : e.next < e.total) (ha : e.arr = none)
    (hf : e.failed = none) (due : e.after ≤ s.mod.tick.toNat)
    (free : s.overflowHeld (.engine s.arg.a) (dieOf e.core) = false) (hw : s.home.words = [])
    (hx : (((List.range (e0 / 16)).map fun u => (e.rowFrom src e1 e2 ss1 ss2 ss3 + 16 * BitVec.ofNat 64 u, 16)).map (·.1)).foldl
      (fun t a => t.noteMiss (dieOf e.core) (t.engWho e) a) (s.engSees s.arg.a e
        ((List.range (e0 / 16)).map fun u => (e.rowFrom src e1 e2 ss1 ss2 ss3 + 16 * BitVec.ofNat 64 u, 16))) = x)
    (hget : ∀ u < e0 / 16, x.engGet s.arg.a e u (e.rowFrom src e1 e2 ss1 ss2 ss3 + 16 * BitVec.ofNat 64 u) 16 = .data (data u) false)
    (hlen : ∀ u < e0 / 16, (data u).length = 16)
    (hseg : ∀ u < e0 / 16, segKey segs (e.rowTo base e1 e2 ds1 ds2 ds3 mode u) = some (key u))
    (hkey : ∀ u < e0 / 16, key u < 2 ^ 41)
    (hput : ∀ u < e0 / 16, x.engPut s.arg.a e (e0 / 16 + u) (.key (key u)) (data u) = .place (.loc (key u)))
    (apart : ∀ u < e0 / 16, ∀ v < e0 / 16, u ≠ v → key u + 16 ≤ key v ∨ key v + 16 ≤ key u) :
    ∃ t, exec .copyRowCompletion s = .next t ∧ (∀ u < e0 / 16, ∀ b < 16, mget t.mem (key u + b) = (data u).getD b 0) ∧
      x.SameBut t ((List.range (e0 / 16)).map fun u => (key u, 16)) ∧ t.strands = s.strands ∧
      (e.next + 1 < e.total →
        (∃ seen, tfind t.engines s.arg.a = some { e with next := e.next + 1, seen := seen }) ∧ t.ops = s.ops) ∧
      (e.next + 1 = e.total → tfind t.engines s.arg.a = none ∧ tfind t.ops e.op = none) := by
  have seen := State.moving_engSees hw s.arg.a e
    ((List.range (e0 / 16)).map fun u => (e.rowFrom src e1 e2 ss1 ss2 ss3 + 16 * BitVec.ofNat 64 u, 16))
  have missed : s.Moving s.arg.a x := by
    rw [← hx]
    exact seen.trans (State.quietHomes_foldl (fun t _ ht => (State.onlyMisses_noteMiss ..).quiet ht) _ seen.words).moving
  have row := State.tcopyRow_clean ha hx hget hseg hkey hput
  have stored := State.quietHomes_storeUnits missed.words (die := dieOf e.core) (key := key) (data := data)
    (covers := fun u => coversGranule ((List.range (e0 / 16)).map fun u => (key u, data u)) (key u)) (e0 / 16)
  have bytes := State.storeUnits_bytes missed.words (die := dieOf e.core)
    (covers := fun u => coversGranule ((List.range (e0 / 16)).map fun u => (key u, data u)) (key u)) (e0 / 16) hlen apart
  have rest := State.storeUnits_sameBut missed.words (die := dieOf e.core) (key := key)
    (covers := fun u => coversGranule ((List.range (e0 / 16)).map fun u => (key u, data u)) (key u)) (e0 / 16) hlen
  have moved := (missed.trans stored.moving).trans
    (State.moving_engWrote stored.1 s.arg.a ((List.range (e0 / 16)).map fun u => (key u, data u)))
  obtain ⟨granules, command⟩ := moved.command e h
  obtain ⟨t, done, mem, strands, goes_on, ends⟩ := exec_copyRow_tile h hk left hf due free row command
  refine ⟨t, done, ?_, ?_, strands.trans moved.strands, fun more => ⟨(goes_on more).1, (goes_on more).2.trans moved.ops⟩, ends⟩
  · rw [mem]
    exact bytes
  · unfold State.SameBut
    rw [mem]
    exact rest

end row

/-- Settles O44: at issue by the checks of each command; a row by its movement; the end by the command's record. -/
theorem engineCommands : Obligations.EngineCommands := by
  unfold Obligations.EngineCommands
  refine ⟨fun s c st sa sb sc => ?issue, ?row, ?ended, fun s h => exec_copyRow_absent h⟩
  case issue =>
    refine ⟨fun h => ?tcopy, fun e1 e0 ss1 e2 row0 ss2 m2 m1 m0 => ?tcopyx, fun h => ?mcopy, fun nkey rowb creg nreg h => ?bcopy,
      fun ops kb ot it h => ?chain, fun ty op x h => ?redw⟩
    case tcopy =>
      refine exec_tile (uses := fun _ => _) h (exec_tcopy ..) ?_
      simp only [State.tileCopy_begun, State.at_dreg, State.at_sreg, bitsOf_low, bitsOf_high]
      rfl
    case tcopyx =>
      intro i v h
      have hv : v = st.substituted [m0, m1, m2] := by
        funext field x
        exact (st.substituted_eq ..).symm
      rw [hv]
      refine exec_tile (uses := fun _ => _) h (exec_tcopyx ..) ?_
      simp only [State.tileCopy_begun, State.at_dreg, State.at_sreg]
      rfl
    case mcopy =>
      simp only [← mcopyCores_eq]
      exact ⟨exec_mcopy_outside h, fun _ _ _ => exec_mcopy_ok h⟩
    case bcopy => exact ⟨exec_bcopy_outside h, exec_bcopy_ok h⟩
    case chain => exact ⟨exec_chain_outside h, exec_chain_ok h⟩
    case redw => exact ⟨exec_redw_outside h, exec_redw_ok h⟩
  case row =>
    intro s e src segs base e0 e1 e2 e3 ds1 ds2 ds3 mode ss1 ss2 ss3 data key h hk left ha hf due free hw i1 i2 i3 from_ at_ n
      units x units_ok apart
    exact exec_copyRow_clean h hk left ha hf due free hw rfl (fun u hu => (units_ok u hu).1) (fun u hu => (units_ok u hu).2.1)
      (fun u hu => (units_ok u hu).2.2.1) (fun u hu => (units_ok u hu).2.2.2.2.1) (fun u hu => (units_ok u hu).2.2.2.2.2) apart
  case ended =>
    intro s e h none_left
    have done := exec_copyRow_over h none_left
    refine ⟨fun hf => ?_, fun cls addr w o hf ha hk ho hn => ?_⟩
    · rw [State.engDone_clean h hf] at done
      exact ⟨_, done, State.engOver_engine .., State.engOver_op .., rfl, rfl⟩
    · rw [State.engDone_failed h hf ha hk ho] at done
      have engines := State.postAll_keeps State.engines (fun _ _ => rfl) (s.engOver s.arg.a e.op) (e.fault s.arg.a cls addr w) o.holders
      have ops := State.postAll_keeps State.ops (fun _ _ => rfl) (s.engOver s.arg.a e.op) (e.fault s.arg.a cls addr w) o.holders
      have mem := State.postAll_keeps State.mem (fun _ _ => rfl) (s.engOver s.arg.a e.op) (e.fault s.arg.a cls addr w) o.holders
      exact ⟨_, done, engines ▸ s.engOver_engine s.arg.a e.op, ops ▸ s.engOver_op s.arg.a e.op, mem,
        fun u st hst hb => State.postAll_unblocked hn hst hb⟩

end Sys2Proof.Machine
end
